-- ==== Sys2Proof/Word.lean ====
section
/-! DEFINITION. Words, bit fields of 32-bit registers, and the sparse maps every memory and register bank is held in.
Bit numbering is R5's: bit 0 is the least significant bit, a range hi:lo includes both ends. -/

namespace Sys2Proof

/-- A register or memory word (R4, R119). -/
abbrev W32 := BitVec 32
/-- A 64-bit quantity: an instruction, an atomic operand, a timebase value. -/
abbrev W64 := BitVec 64
/-- One byte of memory. -/
abbrev Byte := BitVec 8

/-- Bits hi:lo of a word, as a number (R5). -/
def bitsOf {n : Nat} (w : BitVec n) (hi lo : Nat) : Nat := (w.toNat / 2 ^ lo) % 2 ^ (hi + 1 - lo)

/-- Bits hi:lo of a number (R5). -/
def bitsN (w hi lo : Nat) : Nat := (w / 2 ^ lo) % 2 ^ (hi + 1 - lo)

/-- The word whose bits hi:lo are the low bits of v and whose other bits are those of w. -/
def withBits (w : W32) (hi lo v : Nat) : W32 :=
  let m : W32 := BitVec.ofNat 32 ((2 ^ (hi + 1 - lo) - 1) * 2 ^ lo)
  (w &&& ~~~m) ||| ((BitVec.ofNat 32 (v * 2 ^ lo)) &&& m)

/-- Bit i of a number. -/
def bitN (w i : Nat) : Bool := w.testBit i

/-- The number whose only possible bit is bit i. -/
def bitVal (b : Bool) (i : Nat) : Nat := if b then 2 ^ i else 0

/-- The signed value of the low n bits of v. -/
def signedN (n v : Nat) : Int :=
  let u := v % 2 ^ n
  if u < 2 ^ (n - 1) then (u : Int) else (u : Int) - (2 ^ n : Nat)

/-- The low n bits of an integer. -/
def wrapN (n : Nat) (v : Int) : Nat := (v % ((2 ^ n : Nat) : Int)).toNat

/-- v limited to at most m (a saturating counter). -/
def satN (m v : Nat) : Nat := if m < v then m else v

/-! ### Sparse maps

A sparse map lists (key, value) pairs with strictly rising keys and lists no value equal to what an
unlisted key reads as, so that equal maps are equal data. -/

/-- A sparse map: keys strictly rising, no default value listed. -/
abbrev Sparse (α : Type) := List (Nat × α)

/-- The value listed for a key, if any. -/
def Sparse.find {α : Type} : Sparse α → Nat → Option α
  | [], _ => none
  | (k, v) :: t, a => if k = a then some v else Sparse.find t a

/-- The value at a key: the listed one, else what d gives an unlisted key. -/
def Sparse.get {α : Type} (d : Nat → α) (m : Sparse α) (a : Nat) : α := (Sparse.find m a).getD (d a)

/-- The map without an entry for a key. -/
def Sparse.erase {α : Type} : Sparse α → Nat → Sparse α
  | [], _ => []
  | (k, v) :: t, a => if k = a then Sparse.erase t a else (k, v) :: Sparse.erase t a

/-- The map with one key's entry written in its place. -/
def Sparse.insert {α : Type} : Sparse α → Nat → α → Sparse α
  | [], a, x => [(a, x)]
  | (k, v) :: t, a, x =>
    if k = a then (a, x) :: t else if a < k then (a, x) :: (k, v) :: t else (k, v) :: Sparse.insert t a x

/-- Write one key, keeping the canonical form: a value equal to the unlisted one removes the entry. -/
def Sparse.put {α : Type} [DecidableEq α] (d : Nat → α) (m : Sparse α) (a : Nat) (x : α) : Sparse α :=
  if x = d a then Sparse.erase m a else Sparse.insert m a x

/-- Keys strictly rising above a bound. -/
def Sparse.sortedFrom {α : Type} : Nat → Sparse α → Bool
  | _, [] => true
  | b, (k, _) :: t => (b ≤ k) && Sparse.sortedFrom (k + 1) t

/-- No listed value equals what its key reads as when unlisted. -/
def Sparse.noDefault {α : Type} [DecidableEq α] (d : Nat → α) : Sparse α → Bool
  | [] => true
  | (k, v) :: t => (v ≠ d k) && Sparse.noDefault d t

/-- The canonical form. -/
def Sparse.wf {α : Type} [DecidableEq α] (d : Nat → α) (m : Sparse α) : Bool :=
  Sparse.sortedFrom 0 m && Sparse.noDefault d m

/-- A map with no entry whose key p accepts. -/
def Sparse.drop {α : Type} (p : Nat → Bool) (m : Sparse α) : Sparse α := m.filter (fun e => ! p e.1)

/-- Change the element at one position of a list; a position past the end changes nothing. -/
def setAt {α : Type} : List α → Nat → α → List α
  | [], _, _ => []
  | _ :: t, 0, x => x :: t
  | h :: t, n + 1, x => h :: setAt t n x

/-- The n numbers from a on. -/
def numsFrom (a : Nat) : Nat → List Nat
  | 0 => []
  | n + 1 => a :: numsFrom (a + 1) n

/-- Write each pair of a list into a sparse map, in order. -/
def Sparse.putAll {α : Type} [DecidableEq α] (d : Nat → α) (m : Sparse α) : List (Nat × α) → Sparse α
  | [] => m
  | (a, x) :: t => Sparse.putAll d (Sparse.put d m a x) t

end Sys2Proof
end

