-- ==== Sys2Proof/Syntax.lean ====
section
/-! DEFINITION. The commands of the block: one constructor per row of spec/opcode_table.json, with the operands that
the row's event brings from outside (what the board, the host, the flash, the memory, a panel, a peer or the clock
supplies). The row's mnemonic stands in LAWS.json. -/

namespace Sys2Proof

/-- The rails reported by the rail-good inputs (Table 2-4). -/
inductive Rail
  | io | aon | ana | sram | core | serdes
deriving DecidableEq, Repr

/-- What was lost in a clock loss that stops every MCLK branch (Table 2-8). -/
inductive ClockLoss
  | refclk | mainPll | serdesPll | dramPhyPll
deriving DecidableEq, Repr

/-- How DRAM training ends (R231): trained with the installed size in GiB, failed with the lowest failing channel, or
a density that differs from TOTAL_GIB. -/
inductive TrainResult
  | trained (gib : BitVec 8)
  | failed (channel : BitVec 4)
  | mismatch
deriving DecidableEq, Repr

/-- What the flash returns for one journal slot (R108): the bytes from the slot base on, as many as the record
needs, and the word at slot offset 0xFFFC. -/
structure SlotImage where
  body : List Byte
  commit : W32
deriving DecidableEq, Repr

/-- How a flash operation of a store ends (R117): done, failed by status polling, or done with a read-back that differs. -/
inductive FlashResult
  | good | failed | differs
deriving DecidableEq, Repr

/-- What the error code of the data read says (R234): clean, corrected, uncorrectable. -/
inductive Ecc
  | clean | corrected | uncorrectable
deriving DecidableEq, Repr

/-- Kinds of access in a fault record (Table 6-8). -/
inductive Access
  | read | write | atomic | fetch | ray | peerRead | peerWrite | queue
deriving DecidableEq, Repr

/-- A ply's place: spindle, flyer, slot (R174). -/
structure PlyId where
  spindle : Fin 64
  flyer : Fin 4
  slot : Fin 16
deriving DecidableEq, Repr

/-- The units that hold a translation cache (Table 6-11). -/
inductive TlbUnit
  | flyer (s : Fin 64) (f : Fin 4)
  | spindle (s : Fin 64)
  | raster | reel | queue | peer
deriving DecidableEq, Repr

/-- The arbitrated resources of R148. -/
inductive Resource
  | plySlots | rasterFrontEnd | bobbins (s : Fin 64) | reelChannel | hankSlots
deriving DecidableEq, Repr

/-- The units with a CNT_CLR bit: a spindle, the raster front end, a peer port, the reel engines (Tables 8-2, 14-6, 18-6, 19-3). -/
inductive CounterUnit
  | spindle (s : Fin 64) | raster | peer (n : Fin 4) | reel
deriving DecidableEq, Repr

/-- How a training step of a peer link ends (R412): done, failed on some lanes, two initiators, or no answer to Detect. -/
inductive TrainStep
  | ok | failed (lanes : BitVec 8) | roleConflict
deriving DecidableEq, Repr

/-- What a read of the log ring meets (R454): nothing wrong, an entry that cannot be corrected (its place in the page), or a
parity error in READ_SEQ, WRITE_SEQ or LOST_COUNT. -/
inductive LogDamage
  | clean | entry (i : BitVec 8) | pointers
deriving DecidableEq, Repr

/-- The estimated energy of a window in the five domains of Table 23-2, in microjoules (R489). -/
structure EnergyStep where
  device : W32
  twist : W32
  flyers : W32
  skein : W32
  pins : W32
deriving DecidableEq, Repr

/-- The terms that a hardware error leaves in the counters of a ledger (R437). -/
structure LedgerTerms where
  index : Fin 710
  cap : BitVec 16
  free : BitVec 16
  held : BitVec 16
  transit : BitVec 16
deriving DecidableEq, Repr

/-- The commands: those with operands first, then those without (Lean can run only constructors with operands whose number is below
245), each part in the order of spec/opcode_table.json. -/
inductive Instr
  | freezePinRise (held : Bool)   -- FREEZE_PIN_RISE (R456)
  | railGoodFall (r : Rail)   -- RAIL_GOOD_FALL (R50)
  | prsntChange (port : Fin 4) (present : Bool)   -- PRSNT_CHANGE (R53)
  | rmreqAccepted (asserted : Bool)   -- RMREQ_ACCEPTED (R103)
  | refclkLoss (what : ClockLoss)   -- REFCLK_LOSS (R54)
  | pclkLockLost (pipe : Fin 4)   -- PCLK_LOCK_LOST (R337)
  | headerReadDone (header : List Byte)   -- HEADER_READ_DONE (R93)
  | trimPhaseDone (slot0 slot1 : SlotImage)   -- TRIM_PHASE_DONE (R110)
  | dramPhaseDone (r : TrainResult)   -- DRAM_PHASE_DONE (R98)
  | qspiRelease (on : Bool)   -- QSPI_RELEASE (R97)
  | hostWrite (slot : Fin 64) (v : W32)   -- HOST_WRITE (R60)
  | hostStrobeAbort (write : Bool) (slot : Fin 64) (v : W32)   -- HOST_STROBE_ABORT (R87)
  | registerWrite (reg : BitVec 25) (v : W32)   -- REGISTER_WRITE (R8)
  | syncModeSwitch (sync : Bool)   -- SYNC_MODE_SWITCH (R58)
  | counterLoRead (off : BitVec 24)   -- COUNTER_LO_READ (R176)
  | winDataRead (win : Fin 2) (e : Ecc)   -- WIN_DATA_READ (R79)
  | winDataWrite (win : Fin 2) (v : W32)   -- WIN_DATA_WRITE (R79)
  | win0DataIncWrite (v : W32)   -- WIN0_DATA_INC_WRITE (R61)
  | win0DataIncRead (e : Ecc)   -- WIN0_DATA_INC_READ (R66)
  | winAddrWrite (win : Fin 2) (high : Bool) (v : W32)   -- WIN_ADDR_WRITE (R66)
  | winTimeout (win : Fin 2) (write : Bool)   -- WIN_TIMEOUT (R79)
  | logDataRead (damage : LogDamage)   -- LOG_DATA_READ (R64)
  | intStatusClear (v : W32)   -- INT_STATUS_CLEAR (R70)
  | intForce (v : W32)   -- INT_FORCE (R77)
  | hostDoorbell (c : Fin 16) (index : BitVec 20)   -- HOST_DOORBELL (R80)
  | peerDoorbell (port : Fin 4) (c : Fin 16) (index : BitVec 20)   -- PEER_DOORBELL (R144)
  | ctxEnableSet (c : Fin 16)   -- CTX_ENABLE_SET (R155)
  | ctxEnableClear (c : Fin 16)   -- CTX_ENABLE_CLEAR (R157)
  | contextStopDone (c : Fin 16)   -- CONTEXT_STOP_DONE (R157)
  | preemptRequest (c : Fin 16)   -- PREEMPT_REQUEST (R150)
  | faultHeadWrite (head : BitVec 9)   -- FAULT_HEAD_WRITE (R81)
  | faultRetry (record : BitVec 8)   -- FAULT_RETRY (R132)
  | faultAbortWork (record : BitVec 8)   -- FAULT_ABORT_WORK (R132)
  | faultAbortContext (record : BitVec 8)   -- FAULT_ABORT_CONTEXT (R132)
  | doffStart (chain : BitVec 8)   -- DOFF_START (R464)
  | storeFlashOpDone (r : FlashResult)   -- STORE_FLASH_OP_DONE (R111)
  | watchdogConfig (period : BitVec 8) (action : BitVec 2) (lock : Bool)   -- WATCHDOG_CONFIG (R84)
  | resetPipe (pipe : Fin 4)   -- RESET_PIPE (R338)
  | resetPeer (port : Fin 4)   -- RESET_PEER (R419)
  | rmAck (on : Bool)   -- RM_ACK (R103)
  | walkDone (u : TlbUnit) (c : Fin 16) (va : BitVec 48) (a : Access)   -- WALK_DONE (R120)
  | invalRange (c : Fin 16) (va : BitVec 48) (count : BitVec 20)   -- INVAL_RANGE (R128)
  | invalContext (c : Fin 16)   -- INVAL_CONTEXT (R128)
  | packetFetch (c : Fin 16)   -- PACKET_FETCH (R143)
  | pktNop (c : Fin 16)   -- PKT_NOP (R146)
  | pktDispatch (c : Fin 16)   -- PKT_DISPATCH (R160)
  | pktTraceBatch (c : Fin 16)   -- PKT_TRACE_BATCH (R263)
  | pktRenderPass (c : Fin 16)   -- PKT_RENDER_PASS (R301)
  | pktWeftProgram (c : Fin 16)   -- PKT_WEFT_PROGRAM (R249)
  | pktDma (c : Fin 16)   -- PKT_DMA (R422)
  | pktFence (c : Fin 16)   -- PKT_FENCE (R146)
  | pktWait (c : Fin 16)   -- PKT_WAIT (R146)
  | waitConditionMet (c : Fin 16)   -- WAIT_CONDITION_MET (R146)
  | waitTimeout (c : Fin 16)   -- WAIT_TIMEOUT (R146)
  | pktTimestamp (c : Fin 16)   -- PKT_TIMESTAMP (R146)
  | pktInterrupt (c : Fin 16)   -- PKT_INTERRUPT (R146)
  | packetComplete (c : Fin 16) (index : BitVec 20)   -- PACKET_COMPLETE (R147)
  | resourceGrant (r : Resource)   -- RESOURCE_GRANT (R148)
  | graceExpiry (c : Fin 16) (r : Resource)   -- GRACE_EXPIRY (R149)
  | preemptionSaved (c : Fin 16)   -- PREEMPTION_SAVED (R153)
  | restoreStart (c : Fin 16)   -- RESTORE_START (R293)
  | restoreDone (c : Fin 16) (e : Ecc)   -- RESTORE_DONE (R153)
  | queueSkip (c : Fin 16)   -- QUEUE_SKIP (R139)
  | queueResume (c : Fin 16)   -- QUEUE_RESUME (R139)
  | groupPlace (c : Fin 16) (index : BitVec 20)   -- GROUP_PLACE (R161)
  | plyEnd (p : PlyId)   -- PLY_END (R162)
  | threadAgeOverride (p : PlyId)   -- THREAD_AGE_OVERRIDE (R164)
  | plyAgeOverride (p : PlyId)   -- PLY_AGE_OVERRIDE (R167)
  | activeSetMove (p : PlyId)   -- ACTIVE_SET_MOVE (R166)
  | demandFetch (p : PlyId) (e : Ecc)   -- DEMAND_FETCH (R171)
  | speculativeFetch (p : PlyId) (va : BitVec 48) (e : Ecc)   -- SPECULATIVE_FETCH (R172)
  | memoryResponse (p : PlyId) (e : Ecc)   -- MEMORY_RESPONSE (R170)
  | icInval (sp : Fin 64)   -- IC_INVAL (R173)
  | cntClr (u : CounterUnit)   -- CNT_CLR (R175)
  | add (p : PlyId) (w : W64)   -- ADD (R188)
  | sub (p : PlyId) (w : W64)   -- SUB (R188)
  | mul (p : PlyId) (w : W64)   -- MUL (R188)
  | mulhi (p : PlyId) (w : W64)   -- MULHI (R188)
  | mad (p : PlyId) (w : W64)   -- MAD (R188)
  | min (p : PlyId) (w : W64)   -- MIN (R188)
  | max (p : PlyId) (w : W64)   -- MAX (R188)
  | and (p : PlyId) (w : W64)   -- AND (R188)
  | or (p : PlyId) (w : W64)   -- OR (R188)
  | xor (p : PlyId) (w : W64)   -- XOR (R188)
  | shl (p : PlyId) (w : W64)   -- SHL (R188)
  | shr (p : PlyId) (w : W64)   -- SHR (R188)
  | bfe (p : PlyId) (w : W64)   -- BFE (R188)
  | popc (p : PlyId) (w : W64)   -- POPC (R188)
  | clz (p : PlyId) (w : W64)   -- CLZ (R188)
  | brev (p : PlyId) (w : W64)   -- BREV (R188)
  | sel (p : PlyId) (w : W64)   -- SEL (R187)
  | mov (p : PlyId) (w : W64)   -- MOV (R187)
  | fadd (p : PlyId) (w : W64)   -- FADD (R189)
  | fmul (p : PlyId) (w : W64)   -- FMUL (R189)
  | ffma (p : PlyId) (w : W64)   -- FFMA (R189)
  | fmin (p : PlyId) (w : W64)   -- FMIN (R190)
  | fmax (p : PlyId) (w : W64)   -- FMAX (R190)
  | fdiv (p : PlyId) (w : W64)   -- FDIV (R189)
  | fsqrt (p : PlyId) (w : W64)   -- FSQRT (R189)
  | rcp (p : PlyId) (w : W64)   -- RCP (R191)
  | rsq (p : PlyId) (w : W64)   -- RSQ (R191)
  | exp2 (p : PlyId) (w : W64)   -- EXP2 (R191)
  | log2 (p : PlyId) (w : W64)   -- LOG2 (R191)
  | sin (p : PlyId) (w : W64)   -- SIN (R191)
  | cos (p : PlyId) (w : W64)   -- COS (R191)
  | cvt (p : PlyId) (w : W64)   -- CVT (R190)
  | cvtf8Pack (p : PlyId) (w : W64)   -- CVTF8_PACK (R190)
  | cvtf8Unpack (p : PlyId) (w : W64)   -- CVTF8_UNPACK (R239)
  | cvtbfPack (p : PlyId) (w : W64)   -- CVTBF_PACK (R190)
  | cvtbfUnpack (p : PlyId) (w : W64)   -- CVTBF_UNPACK (R239)
  | isetp (p : PlyId) (w : W64)   -- ISETP (R187)
  | fsetp (p : PlyId) (w : W64)   -- FSETP (R187)
  | plop (p : PlyId) (w : W64)   -- PLOP (R187)
  | voteAll (p : PlyId) (w : W64)   -- VOTE_ALL (R187)
  | voteAny (p : PlyId) (w : W64)   -- VOTE_ANY (R187)
  | voteBallot (p : PlyId) (w : W64)   -- VOTE_BALLOT (R187)
  | shfl (p : PlyId) (w : W64)   -- SHFL (R193)
  | movsr (p : PlyId) (w : W64)   -- MOVSR (R202)
  | bra (p : PlyId) (w : W64)   -- BRA (R194)
  | jmp (p : PlyId) (w : W64)   -- JMP (R194)
  | call (p : PlyId) (w : W64)   -- CALL (R194)
  | callr (p : PlyId) (w : W64)   -- CALLR (R194)
  | exit (p : PlyId) (w : W64)   -- EXIT (R162)
  | nop (p : PlyId) (w : W64)   -- NOP (R187)
  | ld (p : PlyId) (w : W64)   -- LD (R195)
  | st (p : PlyId) (w : W64)   -- ST (R195)
  | atomAdd (p : PlyId) (w : W64)   -- ATOM_ADD (R225)
  | atomMin (p : PlyId) (w : W64)   -- ATOM_MIN (R225)
  | atomMax (p : PlyId) (w : W64)   -- ATOM_MAX (R225)
  | atomAnd (p : PlyId) (w : W64)   -- ATOM_AND (R225)
  | atomOr (p : PlyId) (w : W64)   -- ATOM_OR (R225)
  | atomXor (p : PlyId) (w : W64)   -- ATOM_XOR (R225)
  | exch (p : PlyId) (w : W64)   -- EXCH (R226)
  | cas (p : PlyId) (w : W64)   -- CAS (R226)
  | bar (p : PlyId) (w : W64)   -- BAR (R198)
  | barRelease (p : PlyId)   -- BAR_RELEASE (R198)
  | fence (p : PlyId) (w : W64)   -- FENCE (R221)
  | twait (p : PlyId) (w : W64)   -- TWAIT (R197)
  | twaitRelease (p : PlyId)   -- TWAIT_RELEASE (R197)
  | trace (p : PlyId) (w : W64)   -- TRACE (R199)
  | weft (p : PlyId) (w : W64)   -- WEFT (R200)
  | bkpt (p : PlyId) (w : W64)   -- BKPT (R201)
  | trap (p : PlyId) (w : W64)   -- TRAP (R201)
  | logev (p : PlyId) (w : W64)   -- LOGEV (R201)
  | mergeLineDrain (sp : Fin 64) (line : BitVec 42)   -- MERGE_LINE_DRAIN (R212)
  | patrolScrub (port : Fin 8) (e : Ecc)   -- PATROL_SCRUB (R231)
  | dramTrainDone (r : TrainResult)   -- DRAM_TRAIN_DONE (R231)
  | weftOpStart (sp : Fin 64)   -- WEFT_OP_START (R248)
  | weftRowEnd (sp : Fin 64) (parity : Option (Fin 64))   -- WEFT_ROW_END (R238)
  | weftOpEnd (sp : Fin 64)   -- WEFT_OP_END (R251)
  | rayAdmit (trace : Nat)   -- RAY_ADMIT (R280)
  | rayMove (ray : Nat)   -- RAY_MOVE (R281)
  | stayAndFetch (ray : Nat)   -- STAY_AND_FETCH (R281)
  | hankAgeClose (hank : Nat)   -- HANK_AGE_CLOSE (R283)
  | hankIdleClose (hank : Nat)   -- HANK_IDLE_CLOSE (R283)
  | whorlTakeHank (sp : Fin 64)   -- WHORL_TAKE_HANK (R284)
  | blockFetchReturn (ray : Nat) (e : Ecc)   -- BLOCK_FETCH_RETURN (R256)
  | rayDeliver (ray : Nat)   -- RAY_DELIVER (R285)
  | spoolFlushAge (sp : Fin 64) (n : Fin 32)   -- SPOOL_FLUSH_AGE (R286)
  | spoolPlyForm (sp : Fin 64)   -- SPOOL_PLY_FORM (R287)
  | primitiveBin (pages : Fin 9)   -- PRIMITIVE_BIN (R297)
  | tileStoreDone (sp : Fin 64) (buffer : Fin 2)   -- TILE_STORE_DONE (R297)
  | vblankStart (pipe : Fin 4) (te : Bool)   -- VBLANK_START (R321)
  | flipCommit (pipe : Fin 4) (seq : BitVec 16)   -- FLIP_COMMIT (R322)
  | apply (pipe : Fin 4)   -- APPLY (R330)
  | pipeEnable (pipe : Fin 4)   -- PIPE_ENABLE (R329)
  | pipeDisable (pipe : Fin 4)   -- PIPE_DISABLE (R329)
  | relockDone (pipe : Fin 4)   -- RELOCK_DONE (R337)
  | prefetchArrive (pipe : Fin 4) (plane : Fin 3) (line : BitVec 12) (e : Ecc)   -- PREFETCH_ARRIVE (R325)
  | underrun (pipe : Fin 4) (line : BitVec 12)   -- UNDERRUN (R326)
  | portEnable (port : Fin 4)   -- PORT_ENABLE (R333)
  | portTrainDone (port : Fin 4) (ok : Bool) (detail : BitVec 48)   -- PORT_TRAIN_DONE (R333)
  | portDisable (port : Fin 4)   -- PORT_DISABLE (R338)
  | auxGo (port : Fin 4) (v : W32)   -- AUX_GO (R332)
  | auxReply (port : Fin 4) (result : BitVec 2) (data : List Byte)   -- AUX_REPLY (R332)
  | dsiCmd (port : Fin 4) (v : W32)   -- DSI_CMD (R334)
  | hpdChange (port : Fin 4) (level irq : Bool)   -- HPD_CHANGE (R338)
  | touchScanEnd (counts : List (BitVec 16))   -- TOUCH_SCAN_END (R344)
  | stuckRecal (sensor : Fin 32)   -- STUCK_RECAL (R347)
  | cameraEnable (cam : Fin 2)   -- CAMERA_ENABLE (R367)
  | frameStart (cam : Fin 2) (vc : BitVec 2) (number : BitVec 16)   -- FRAME_START (R369)
  | linePacket (cam : Fin 2) (vc : BitVec 2) (dt : BitVec 6) (payload : List Byte) (crcOk full : Bool) (lost : Option (BitVec 8))   -- LINE_PACKET (R370)
  | frameEnd (cam : Fin 2) (vc : BitVec 2)   -- FRAME_END (R371)
  | frameTimeout (cam : Fin 2)   -- FRAME_TIMEOUT (R372)
  | camRelease (cam : Fin 2) (index : BitVec 4)   -- CAM_RELEASE (R369)
  | fsyncPulse (cam : Fin 2)   -- FSYNC_PULSE (R373)
  | strobeRequest (ill : Fin 2) (rested : Bool)   -- STROBE_REQUEST (R374)
  | strobeEnd (ill : Fin 2)   -- STROBE_END (R375)
  | illFault (ill : Fin 2) (low : Bool)   -- ILL_FAULT (R376)
  | audioFrame (adc : List (BitVec 24)) (tdm : List W32) (full : Bool)   -- AUDIO_FRAME (R379)
  | playLimitSet (hi : W32)   -- PLAY_LIMIT_SET (R380)
  | flitReceive (port : Fin 4) (flit : List Byte)   -- FLIT_RECEIVE (R395)
  | nakReceived (port : Fin 4)   -- NAK_RECEIVED (R397)
  | replayTimeout (port : Fin 4)   -- REPLAY_TIMEOUT (R397)
  | linkSilence (port : Fin 4)   -- LINK_SILENCE (R398)
  | peerRead (port : Fin 4) (e : Ecc)   -- PEER_READ (R407)
  | peerWrite (port : Fin 4)   -- PEER_WRITE (R407)
  | peerAtomic (port : Fin 4) (e : Ecc)   -- PEER_ATOMIC (R410)
  | peerIssueDeadline (port : Fin 4)   -- PEER_ISSUE_DEADLINE (R408)
  | completion (port : Fin 4)   -- COMPLETION (R402)
  | peerRequestReissue (port : Fin 4) (tag : BitVec 12)   -- PEER_REQUEST_REISSUE (R406)
  | peerRequestTimeout (port : Fin 4) (tag : BitVec 12)   -- PEER_REQUEST_TIMEOUT (R406)
  | msg (port : Fin 4)   -- MSG (R411)
  | creditAdvert (port : Fin 4)   -- CREDIT_ADVERT (R412)
  | ping (port : Fin 4)   -- PING (R403)
  | pong (port : Fin 4)   -- PONG (R416)
  | quiesce (port : Fin 4)   -- QUIESCE (R415)
  | resume (port : Fin 4)   -- RESUME (R415)
  | detach (port : Fin 4)   -- DETACH (R414)
  | linkEnable (port : Fin 4)   -- LINK_ENABLE (R412)
  | linkDisable (port : Fin 4)   -- LINK_DISABLE (R415)
  | trainStepDone (port : Fin 4) (r : TrainStep) (learned : List W32)   -- TRAIN_STEP_DONE (R412)
  | noLead (port : Fin 4)   -- NO_LEAD (R412)
  | autoRetrainStart (port : Fin 4)   -- AUTO_RETRAIN_START (R414)
  | msgSend (port : Fin 4)   -- MSG_SEND (R411)
  | pingSend (port : Fin 4)   -- PING_SEND (R416)
  | linkErrWindow (port : Fin 4)   -- LINK_ERR_WINDOW (R420)
  | reelDescriptorRead (channel : Fin 16) (e : Ecc)   -- REEL_DESCRIPTOR_READ (R423)
  | segmentIssue (channel : Fin 16) (e : Ecc)   -- SEGMENT_ISSUE (R424)
  | segmentComplete (channel : Fin 16) (k : Fin 32)   -- SEGMENT_COMPLETE (R425)
  | reel15Go (count : BitVec 15)   -- REEL15_GO (R432)
  | auditCheck (hw : Option LedgerTerms)   -- AUDIT_CHECK (R441)
  | samplePreload (pins load : List Bool)   -- SAMPLE_PRELOAD (R469)
  | extest (pins load : List Bool)   -- EXTEST (R469)
  | freezeReq (v : BitVec 2)   -- FREEZE_REQ (R468)
  | doffSelect (v : BitVec 9)   -- DOFF_SELECT (R468)
  | doffRead (shifts : BitVec 8)   -- DOFF_READ (R468)
  | ctrlAccess (v : W64)   -- CTRL_ACCESS (R470)
  | haltComplete (p : PlyId)   -- HALT_COMPLETE (R472)
  | breakpointHit (p : PlyId)   -- BREAKPOINT_HIT (R476)
  | dbgDataWrite (high : Bool) (v : W32)   -- DBG_DATA_WRITE (R473)
  | powerCapWindow (est : BitVec 12) (uj : EnergyStep)   -- POWER_CAP_WINDOW (R488)
  | thermalSample (raw : List (Option (BitVec 12)))   -- THERMAL_SAMPLE (R490)
  | bootTableReadDone (table : List Byte)   -- BOOT_TABLE_READ_DONE (R94)
  | reapplyDone (slot0 slot1 : SlotImage)   -- REAPPLY_DONE (R112)
  | tagHoldExpiry (port : Fin 4) (tag : BitVec 12)   -- TAG_HOLD_EXPIRY (R406)
  | tileLoadDone (sp : Fin 64) (buffer : Fin 2)   -- TILE_LOAD_DONE (R297)
  | porstAssert   -- PORST_ASSERT (R51)
  | porstRelease   -- PORST_RELEASE (R89)
  | wrstAssert   -- WRST_ASSERT (R99)
  | railGoodMatch   -- RAIL_GOOD_MATCH (R52)
  | clockLossWarmReset   -- CLOCK_LOSS_WARM_RESET (R55)
  | audclkLoss   -- AUDCLK_LOSS (R54)
  | audclkResume   -- AUDCLK_RESUME (R390)
  | pllLocked   -- PLL_LOCKED (R43)
  | sramInitDone   -- SRAM_INIT_DONE (R89)
  | releasePhaseDone   -- RELEASE_PHASE_DONE (R96)
  | bootWrite   -- BOOT_WRITE (R94)
  | bootRmw   -- BOOT_RMW (R94)
  | bootPoll   -- BOOT_POLL (R95)
  | bootPollTimeout   -- BOOT_POLL_TIMEOUT (R95)
  | bootDelay   -- BOOT_DELAY (R94)
  | bootEnd   -- BOOT_END (R94)
  | bootTableTimeout   -- BOOT_TABLE_TIMEOUT (R95)
  | bootResume   -- BOOT_RESUME (R106)
  | timebaseLoRead   -- TIMEBASE_LO_READ (R78)
  | rewind   -- REWIND (R64)
  | clrLost   -- CLR_LOST (R64)
  | doffDataRead   -- DOFF_DATA_READ (R65)
  | powerTargetIdle   -- POWER_TARGET_IDLE (R482)
  | idleEntry   -- IDLE_ENTRY (R482)
  | powerTargetRun   -- POWER_TARGET_RUN (R485)
  | powerTargetDoze   -- POWER_TARGET_DOZE (R483)
  | powerTargetOff   -- POWER_TARGET_OFF (R483)
  | powerEntryProceed   -- POWER_ENTRY_PROCEED (R483)
  | quiesceForce   -- QUIESCE_FORCE (R483)
  | wakeTimerExpiry   -- WAKE_TIMER_EXPIRY (R485)
  | timebaseCarry   -- TIMEBASE_CARRY (R486)
  | freezeRequest   -- FREEZE_REQUEST (R456)
  | thaw   -- THAW (R458)
  | doffAbandon   -- DOFF_ABANDON (R464)
  | trimStore   -- TRIM_STORE (R111)
  | storeTimeout   -- STORE_TIMEOUT (R114)
  | trimReapply   -- TRIM_REAPPLY (R112)
  | trimDefaults   -- TRIM_DEFAULTS (R112)
  | watchdogKick   -- WATCHDOG_KICK (R84)
  | watchdogHalf   -- WATCHDOG_HALF (R84)
  | watchdogExpiry   -- WATCHDOG_EXPIRY (R84)
  | warm   -- WARM (R99)
  | powerCycle   -- POWER_CYCLE (R483)
  | resetRay   -- RESET_RAY (R275)
  | resetRaster   -- RESET_RASTER (R318)
  | resetTouch   -- RESET_TOUCH (R362)
  | resetCamera   -- RESET_CAMERA (R390)
  | resetAudio   -- RESET_AUDIO (R390)
  | resetReel   -- RESET_REEL (R434)
  | functionResetDone   -- FUNCTION_RESET_DONE (R76)
  | quiesceSet   -- QUIESCE_SET (R103)
  | quiesceComplete   -- QUIESCE_COMPLETE (R103)
  | quiesceClear   -- QUIESCE_CLEAR (R415)
  | faultRecordWrite   -- FAULT_RECORD_WRITE (R130)
  | invalAll   -- INVAL_ALL (R128)
  | invalidationDone   -- INVALIDATION_DONE (R128)
  | icInvalAll   -- IC_INVAL_ALL (R173)
  | roleApply   -- ROLE_APPLY (R211)
  | roleApplyComplete   -- ROLE_APPLY_COMPLETE (R211)
  | train   -- TRAIN (R231)
  | clrCnt   -- CLR_CNT (R231)
  | nodeInval   -- NODE_INVAL (R271)
  | tileAssign   -- TILE_ASSIGN (R297)
  | immediatePrimitive   -- IMMEDIATE_PRIMITIVE (R299)
  | touchEnable   -- TOUCH_ENABLE (R356)
  | touchDisable   -- TOUCH_DISABLE (R341)
  | touchRecal   -- TOUCH_RECAL (R349)
  | touchScanStart   -- TOUCH_SCAN_START (R342)
  | touchScanOverrun   -- TOUCH_SCAN_OVERRUN (R342)
  | touchRateStep   -- TOUCH_RATE_STEP (R352)
  | audioEnable   -- AUDIO_ENABLE (R392)
  | snap   -- SNAP (R440)
  | logEntryWrite   -- LOG_ENTRY_WRITE (R448)
  | ceWindow   -- CE_WINDOW (R449)
  | errClr   -- ERR_CLR (R449)
  | tapReset   -- TAP_RESET (R466)
  | bypass   -- BYPASS (R468)
  | idcode   -- IDCODE (R467)
  | highz   -- HIGHZ (R469)
  | clamp   -- CLAMP (R469)
  | halt   -- HALT (R472)
  | dbgResume   -- DBG_RESUME (R477)
  | step   -- STEP (R474)
  | stopWorld   -- STOP_WORLD (R475)
  | runWorld   -- RUN_WORLD (R475)
  | clrAll   -- CLR_ALL (R478)
  | icInvalDone   -- IC_INVAL_DONE (R175)
  | nodeInvalDone   -- NODE_INVAL_DONE (R273)
  | snapDone   -- SNAP_DONE (R440)
deriving DecidableEq, Repr

end Sys2Proof
end

