-- ==== Sys2Proof/WellFormed.lean ====
section
/-! DEFINITION. Well-formed commands: a word handed to a flyer as an instruction carries that instruction's opcode (Tables 9-4 to 9-9),
and byte strings have the length that what they stand for has. The meanings do not rely on it: what the spec says of a reserved opcode or
of a record that is too short is their business. -/

namespace Sys2Proof

/-- OP of an instruction word: bits 63:56 (Table 9-2); an instruction with an I-form also takes the odd opcode. -/
def opIs (w : W64) (op : Nat) (iform : Bool) : Bool := bitsOf w 63 56 = op || (iform && bitsOf w 63 56 = op + 1)

/-- SUB of an R-form word: the low three bits of MOD (Table 9-2). -/
def mSubOf (w : W64) : Nat := bitsOf w 6 4

/-- The command is well formed. -/
def Instr.wf : Instr → Bool
  | .porstAssert | .porstRelease | .wrstAssert | .freezePinRise _ | .railGoodFall _ | .railGoodMatch | .prsntChange _ _
  | .rmreqAccepted _ | .refclkLoss _ | .clockLossWarmReset | .pclkLockLost _ | .audclkLoss | .audclkResume | .pllLocked
  | .sramInitDone => true
  | .headerReadDone header => header.length = 32
  | .trimPhaseDone slot0 slot1 => slot0.body.length ≤ 0xFFFC && slot1.body.length ≤ 0xFFFC
  | .dramPhaseDone _ | .releasePhaseDone | .bootWrite | .bootRmw | .bootPoll | .bootPollTimeout | .bootDelay | .bootEnd
  | .bootTableTimeout | .bootResume | .qspiRelease _ | .hostWrite _ _ | .hostStrobeAbort _ _ _ => true
  | .registerWrite reg _ => reg.toNat % 4 = 0
  | .syncModeSwitch _ | .timebaseLoRead => true
  | .counterLoRead off => off.toNat % 8 = 0
  | .winDataRead _ _ | .winDataWrite _ _ | .win0DataIncWrite _ | .win0DataIncRead _ | .winAddrWrite _ _ _
  | .winTimeout _ _ | .logDataRead _ | .rewind | .clrLost | .doffDataRead | .intStatusClear _ | .intForce _
  | .hostDoorbell _ _ | .peerDoorbell _ _ _ | .ctxEnableSet _ | .ctxEnableClear _ | .contextStopDone _
  | .preemptRequest _ | .faultHeadWrite _ | .faultRetry _ | .faultAbortWork _ | .faultAbortContext _ | .powerTargetIdle
  | .idleEntry | .powerTargetRun | .powerTargetDoze | .powerTargetOff | .powerEntryProceed | .quiesceForce
  | .wakeTimerExpiry | .timebaseCarry | .freezeRequest | .thaw | .doffStart _ | .doffAbandon | .trimStore
  | .storeFlashOpDone _ | .storeTimeout | .trimReapply | .trimDefaults | .watchdogKick | .watchdogConfig _ _ _
  | .watchdogHalf | .watchdogExpiry | .warm | .powerCycle | .resetRay | .resetRaster | .resetPipe _ | .resetTouch
  | .resetCamera | .resetAudio | .resetPeer _ | .resetReel | .functionResetDone | .quiesceSet | .quiesceComplete
  | .quiesceClear | .rmAck _ | .walkDone _ _ _ _ | .faultRecordWrite | .invalRange _ _ _ | .invalContext _ | .invalAll
  | .invalidationDone | .packetFetch _ | .pktNop _ | .pktDispatch _ | .pktTraceBatch _ | .pktRenderPass _
  | .pktWeftProgram _ | .pktDma _ | .pktFence _ | .pktWait _ | .waitConditionMet _ | .waitTimeout _ | .pktTimestamp _
  | .pktInterrupt _ | .packetComplete _ _ | .resourceGrant _ | .graceExpiry _ _ | .preemptionSaved _ | .restoreStart _
  | .restoreDone _ _ | .queueSkip _ | .queueResume _ | .groupPlace _ _ | .plyEnd _ | .threadAgeOverride _
  | .plyAgeOverride _ | .activeSetMove _ | .demandFetch _ _ | .speculativeFetch _ _ _ | .memoryResponse _ _
  | .icInval _ | .icInvalAll | .cntClr _ => true
  | .add _ w => opIs w 0x0 true
  | .sub _ w => opIs w 0x2 true
  | .mul _ w => opIs w 0x4 true
  | .mulhi _ w => opIs w 0x6 true
  | .mad _ w => opIs w 0x8 false
  | .min _ w => opIs w 0xa true
  | .max _ w => opIs w 0xc true
  | .and _ w => opIs w 0xe true
  | .or _ w => opIs w 0x10 true
  | .xor _ w => opIs w 0x12 true
  | .shl _ w => opIs w 0x14 true
  | .shr _ w => opIs w 0x16 true
  | .bfe _ w => opIs w 0x18 true
  | .popc _ w => opIs w 0x1a false && mSubOf w = 0
  | .clz _ w => opIs w 0x1a false && mSubOf w = 1
  | .brev _ w => opIs w 0x1a false && mSubOf w = 2
  | .sel _ w => opIs w 0x1c false
  | .mov _ w => opIs w 0x1e true
  | .fadd _ w => opIs w 0x20 true
  | .fmul _ w => opIs w 0x22 true
  | .ffma _ w => opIs w 0x24 false
  | .fmin _ w => opIs w 0x26 true
  | .fmax _ w => opIs w 0x28 true
  | .fdiv _ w => opIs w 0x2a false
  | .fsqrt _ w => opIs w 0x2c false
  | .rcp _ w => opIs w 0x2e false && mSubOf w = 0
  | .rsq _ w => opIs w 0x2e false && mSubOf w = 1
  | .exp2 _ w => opIs w 0x2e false && mSubOf w = 2
  | .log2 _ w => opIs w 0x2e false && mSubOf w = 3
  | .sin _ w => opIs w 0x2e false && mSubOf w = 4
  | .cos _ w => opIs w 0x2e false && mSubOf w = 5
  | .cvt _ w => opIs w 0x40 false
  | .cvtf8Pack _ w => opIs w 0x42 false && [0, 1].contains (mSubOf w)
  | .cvtf8Unpack _ w => opIs w 0x42 false && [2, 3].contains (mSubOf w)
  | .cvtbfPack _ w => opIs w 0x44 false && mSubOf w = 0
  | .cvtbfUnpack _ w => opIs w 0x44 false && mSubOf w = 1
  | .isetp _ w => opIs w 0x50 false
  | .fsetp _ w => opIs w 0x52 false
  | .plop _ w => opIs w 0x54 false
  | .voteAll _ w => opIs w 0x56 false && mSubOf w = 0
  | .voteAny _ w => opIs w 0x56 false && mSubOf w = 1
  | .voteBallot _ w => opIs w 0x56 false && mSubOf w = 2
  | .shfl _ w => opIs w 0x58 false
  | .movsr _ w => opIs w 0x5a false
  | .bra _ w => opIs w 0x60 false
  | .jmp _ w => opIs w 0x62 false
  | .call _ w => opIs w 0x64 false
  | .callr _ w => opIs w 0x66 false
  | .exit _ w => opIs w 0x68 false
  | .nop _ w => opIs w 0x6a false
  | .ld _ w => opIs w 0x70 false
  | .st _ w => opIs w 0x72 false
  | .atomAdd _ w => opIs w 0x80 false && mSubOf w = 0
  | .atomMin _ w => opIs w 0x80 false && mSubOf w = 1
  | .atomMax _ w => opIs w 0x80 false && mSubOf w = 2
  | .atomAnd _ w => opIs w 0x80 false && mSubOf w = 3
  | .atomOr _ w => opIs w 0x80 false && mSubOf w = 4
  | .atomXor _ w => opIs w 0x80 false && mSubOf w = 5
  | .exch _ w => opIs w 0x80 false && mSubOf w = 6
  | .cas _ w => opIs w 0x80 false && mSubOf w = 7
  | .bar _ w => opIs w 0x90 false
  | .barRelease _ => true
  | .fence _ w => opIs w 0x92 false
  | .twait _ w => opIs w 0x94 false
  | .twaitRelease _ => true
  | .trace _ w => opIs w 0xa0 false
  | .weft _ w => opIs w 0xb0 false
  | .bkpt _ w => opIs w 0xf0 false
  | .trap _ w => opIs w 0xf2 false
  | .logev _ w => opIs w 0xf4 false
  | .roleApply | .roleApplyComplete | .mergeLineDrain _ _ | .patrolScrub _ _ | .train | .dramTrainDone _ | .clrCnt
  | .weftOpStart _ | .weftRowEnd _ _ | .weftOpEnd _ | .rayAdmit _ | .rayMove _ | .stayAndFetch _ | .hankAgeClose _
  | .hankIdleClose _ | .whorlTakeHank _ | .blockFetchReturn _ _ | .rayDeliver _ | .spoolFlushAge _ _ | .spoolPlyForm _
  | .nodeInval | .primitiveBin _ | .tileAssign | .tileStoreDone _ _ | .immediatePrimitive | .vblankStart _ _
  | .flipCommit _ _ | .apply _ | .pipeEnable _ | .pipeDisable _ | .relockDone _ | .prefetchArrive _ _ _ _
  | .underrun _ _ | .portEnable _ | .portTrainDone _ _ _ | .portDisable _ | .auxGo _ _ => true
  | .auxReply _ _ data => data.length ≤ 16
  | .dsiCmd _ _ | .hpdChange _ _ _ | .touchEnable | .touchDisable | .touchRecal | .touchScanStart | .touchScanOverrun
  | .touchScanEnd _ | .stuckRecal _ | .touchRateStep | .cameraEnable _ | .frameStart _ _ _ => true
  | .linePacket _ _ _ payload _ _ _ => payload.length < 65536
  | .frameEnd _ _ | .frameTimeout _ | .camRelease _ _ | .fsyncPulse _ | .strobeRequest _ _ | .strobeEnd _
  | .illFault _ _ | .audioEnable | .audioFrame _ _ _ | .playLimitSet _ => true
  | .flitReceive _ flit => flit.length = 256
  | .nakReceived _ | .replayTimeout _ | .linkSilence _ | .peerRead _ _ | .peerWrite _ | .peerAtomic _ _
  | .peerIssueDeadline _ | .completion _ | .peerRequestReissue _ _ | .peerRequestTimeout _ _ | .msg _ | .creditAdvert _
  | .ping _ | .pong _ | .quiesce _ | .resume _ | .detach _ | .linkEnable _ | .linkDisable _ => true
  | .trainStepDone _ _ learned => learned.length = 0 || learned.length = 16
  | .noLead _ | .autoRetrainStart _ | .msgSend _ | .pingSend _ | .linkErrWindow _ | .reelDescriptorRead _ _
  | .segmentIssue _ _ | .segmentComplete _ _ | .reel15Go _ | .snap | .auditCheck _ | .logEntryWrite | .ceWindow
  | .errClr | .tapReset | .bypass | .idcode => true
  | .samplePreload pins load => pins.length = load.length
  | .extest pins load => pins.length = load.length
  | .highz | .clamp | .freezeReq _ | .doffSelect _ | .doffRead _ | .ctrlAccess _ | .halt | .haltComplete _ | .dbgResume
  | .step | .stopWorld | .runWorld | .breakpointHit _ | .dbgDataWrite _ _ | .clrAll | .powerCapWindow _ _ => true
  | .thermalSample raw => raw.length = 64
  | .bootTableReadDone table => table.length % 16 = 0
  | .reapplyDone slot0 slot1 => slot0.body.length ≤ 0xFFFC && slot1.body.length ≤ 0xFFFC
  | .tagHoldExpiry _ _ | .icInvalDone | .nodeInvalDone | .snapDone | .tileLoadDone _ _ => true

end Sys2Proof
end

