-- ==== Sys2Proof/Config.lean ====
section
/-! DEFINITION. What the manual leaves open: constants with no body, so that nothing can evaluate them or prove a
value of them. Each is named in the assumption log. -/

namespace Sys2Proof.Config

open Sys2Proof

/-- The fused factory default of the live trim word of an item and instance (R107: every unit carries one, the
manual gives no value). -/
opaque fusedTrim : Nat → Nat → W32

/-- The n-th free value: a number nothing constrains. A meaning reads State.free and advances it. -/
opaque freeNat : Nat → Nat

/-- The bit pattern FTRANS gives for a sub-operation and an input whose result R191 bounds but does not fix; the same
input always gives the same result. -/
opaque ftransBits : Nat → W32 → W32

/-- The eight SECDED check bits stored for a data granule (R462): the code itself is not given. -/
opaque secded : W64 → Byte

/-- A byte of DRAM after its content was lost (R98: undefined): what names the loss, and the address. -/
opaque lostByte : Nat → Nat → Byte

/-- One 32-bit word of a logic chain (R463): the doff map of this stepping is issued apart from the manual. Chain,
word index, and what names the freeze whose flip-flops are read. -/
opaque logicWord : Nat → Nat → Nat → W32

/-- The data pages of a chain whose page count only the directory gives (R460, R461). -/
opaque chainPages : Nat → Nat

/-- The MAP_ID of a logic chain (R461, R463). -/
opaque mapId : Nat → Nat

/-- A result that the manual leaves undefined or does not state, named by what it is, for the operands it depends on: the
same operands give the same value, and nothing constrains it. -/
opaque unstated (what : String) (args : List Nat) : Nat

/-- Which of the two directions of a triangle edge owns the rays that cross it exactly (R268 gives them to exactly one of two
triangles that share the edge): the edge's two vertices in a fixed order. -/
opaque edgeSide : List Nat → List Nat → Bool

/-- Whether a box test lets in a ray whose exact path misses the box (R268 only forbids rejecting one that enters). -/
opaque boxLoose : List Nat → Bool

/-- The linear value, in binary32, of an 8-bit sRGB channel (R307 names the encoding and gives no formula). -/
opaque srgbDecode : Nat → W32

/-- The 8-bit sRGB channel of a linear binary32 value in [0, 1] (R307). -/
opaque srgbEncode : W32 → Byte

/-- Texel (x, y) of a block of a block-compressed format, as four 16-bit channel values of R, G, B, A in the format's own
decode (R309: the blocks are decoded to a specification outside the manual). -/
opaque texBlock (format : Nat) (block : List Byte) (x y : Nat) : Nat

end Sys2Proof.Config
end

