-- ==== Sys2Proof/Machine/RegTab.lean ====
section
/-! DEFINITION. The register tables of the host register block and of the internal control space: every row's
fields with their access codes (Table 0-2, R8), reset values (R10) and listed encodings (R11). A register is named by a
number: a host register by its offset (Table 3-3), a control-space register by ctlBase + its offset (Table 6-3). -/

namespace Sys2Proof.Machine

/-- Control-space register numbers start here (the 16 MiB of R119 fit below 2 * ctlBase). -/
abbrev ctlBase : Nat := 0x1000000

/-- The number of the control-space register at an offset. -/
abbrev C (off : Nat) : Nat := ctlBase + off

/-- The access codes of Table 0-2. Bits no field lists are RSV (R9). -/
inductive Acc
  | ro | rw | w1c | wo | rws
deriving DecidableEq, Repr

/-- One field of a register: bits, access code, reset value, and the ranges of listed encodings ([]: all are listed). -/
structure Fd where
  hi : Nat
  lo : Nat
  acc : Acc
  rst : Nat
  ok : List (Nat × Nat)
deriving DecidableEq, Repr

/-- One row of a register table: count registers, stride bytes apart, all with the same fields. -/
structure RegRow where
  name : String
  base : Nat
  count : Nat
  stride : Nat
  flds : List Fd
deriving DecidableEq, Repr

/-- A read-only field. -/
abbrev ro (hi lo : Nat) (rst : Nat := 0) : Fd := ⟨hi, lo, .ro, rst, []⟩
/-- A read-write field all of whose encodings are listed. -/
abbrev rw (hi lo : Nat) (rst : Nat := 0) : Fd := ⟨hi, lo, .rw, rst, []⟩
/-- A read-write field with only some encodings listed. -/
abbrev rwOk (hi lo rst : Nat) (ok : List (Nat × Nat)) : Fd := ⟨hi, lo, .rw, rst, ok⟩
/-- A write-one-to-clear field. -/
abbrev w1c (hi lo : Nat) : Fd := ⟨hi, lo, .w1c, 0, []⟩
/-- A write-only field: the write performs an action, a read gives zero. -/
abbrev wo (hi lo : Nat) : Fd := ⟨hi, lo, .wo, 0, []⟩
/-- A read-write field that only power-on reset clears. -/
abbrev rws (hi lo : Nat) : Fd := ⟨hi, lo, .rws, 0, []⟩

/-- One register. -/
abbrev one (name : String) (base : Nat) (flds : List Fd) : RegRow := ⟨name, base, 1, 4, flds⟩
/-- A bank of registers. -/
abbrev bank (name : String) (base count stride : Nat) (flds : List Fd) : RegRow := ⟨name, base, count, stride, flds⟩

/-- The host register block (Tables 3-3 to 3-22). WINx_DATA, WIN0_DATA_INC, LOG_DATA and DOFF_DATA hold nothing: their
reads and writes are operations. -/
def hostTab : List RegRow :=
  [ one "DEV_ID" 0x00 [ro 31 16 0x1040, ro 15 8 0xB0, ro 7 4 1]
  , one "DEV_CAPS" 0x04 [ro 31 24, ro 23 16 0x40, ro 15 12 0xF, ro 11 8 4, ro 7 4 4, ro 3 0 2]
  , one "DEV_STATUS" 0x08 [ro 31 28, ro 27 27, ro 26 26, ro 25 25, ro 24 24, ro 23 23, ro 22 22, ro 21 21, ro 20 20]
  , one "DEV_CONTROL" 0x0C [rw 1 1, rw 0 0]
  , one "RESET_CTRL" 0x10 [wo 31 24, wo 18 18, wo 16 16, wo 13 13, wo 12 9, wo 8 8, wo 7 7, wo 6 6, wo 5 2, wo 1 1, wo 0 0]
  , one "RESET_STATUS" 0x14 [ro 31 28, ro 27 23, ro 13 0]
  , one "INT_STATUS" 0x18 [w1c 21 0]
  , one "INT_ENABLE" 0x1C [rw 21 0]
  , one "INT_FORCE" 0x20 [wo 21 0]
  , one "TIMEBASE_LO" 0x24 [ro 31 0]
  , one "TIMEBASE_HI" 0x28 [ro 31 0]
  , one "WIN0_ADDR_LO" 0x2C [rw 31 2]
  , one "WIN0_ADDR_HI" 0x30 [ro 31 29, rw 15 0]
  , one "WIN0_DATA" 0x34 []
  , one "WIN0_DATA_INC" 0x38 []
  , one "WIN1_ADDR_LO" 0x3C [rw 31 2]
  , one "WIN1_ADDR_HI" 0x40 [ro 31 29, rw 15 0]
  , one "WIN1_DATA" 0x44 []
  , one "DOORBELL" 0x48 [wo 31 28, wo 19 0]
  , one "CTX_ENABLE" 0x4C [rw 15 1, ro 0 0 1]
  , one "CTX_STATUS" 0x50 [ro 31 0 1]
  , one "PREEMPT_CTRL" 0x54 [ro 31 31, rw 19 16, wo 0 0]
  , one "FAULT_HEAD" 0x58 [rw 8 0]
  , one "FAULT_TAIL" 0x5C [ro 8 0]
  , one "FAULT_CTRL" 0x60 [rw 23 16, wo 1 0]
  , one "LOG_READ_PTR" 0x64 [ro 25 16, ro 15 0]
  , one "LOG_WRITE_PTR" 0x68 [ro 31 16, ro 15 0]
  , one "LOG_DATA" 0x6C []
  , one "LOG_CTRL" 0x70 [ro 23 15, ro 14 14, rw 11 3 0x100, wo 2 2, wo 1 1]
  , one "POWER_STATE" 0x74 [ro 31 31, ro 5 4, rw 1 0]
  , one "POWER_CAP" 0x78 [rw 31 31, rw 11 0 0x44C]
  , one "THERMAL_STATUS" 0x7C [ro 31 24, ro 23 18, ro 17 16]
  , one "WAKE_CTRL" 0x80 [rw 31 8, rw 2 2, rw 1 1, rw 0 0]
  , one "WAKE_STATUS" 0x84 [ro 7 4, w1c 3 3, w1c 2 2, w1c 1 1, w1c 0 0]
  , one "FREEZE_CTRL" 0x88 [wo 31 24, ro 2 2, wo 1 1, wo 0 0]
  , one "DOFF_CTRL" 0x8C [ro 31 31, ro 30 30, ro 29 16, rw 15 8, wo 1 1, wo 0 0]
  , one "DOFF_DATA" 0x90 []
  , one "CAL_CTRL" 0x94 [wo 31 24, wo 3 0]
  , one "CAL_STATUS" 0x98 [ro 31 31, ro 30 28, ro 27 27, ro 26 26, ro 23 0]
  , one "LINK_STATUS" 0x9C [ro 31 31, ro 30 28, ro 27 27, ro 26 26, ro 25 25, ro 23 23, ro 22 20, ro 19 19, ro 18 18,
      ro 17 17, ro 15 15, ro 14 12, ro 11 11, ro 10 10, ro 9 9, ro 7 7, ro 6 4, ro 3 3, ro 2 2, ro 1 1]
  , one "LINK_CTRL" 0xA0 [rw 31 28, rw 23 20, rw 15 12, rw 7 4]
  , one "DISPLAY_STATUS" 0xA4 [ro 31 0]
  , one "TOUCH_STATUS" 0xA8 [ro 31 24, ro 23 16, ro 15 15, ro 14 14, ro 13 13, ro 12 12, ro 11 10]
  , one "SCRATCH" 0xAC [rws 31 0]
  , one "WATCHDOG" 0xB0 [ro 31 20, rw 19 12, rw 11 10, rw 9 9, wo 7 0]
  , one "HOST_BUS_CFG" 0xB4 [ro 7 7, rw 5 5, rw 1 1] ]

/-- The global block (Tables 4-7 and 4-8). -/
def globalTab : List RegRow :=
  [ one "BOOT_STATUS" (C 0x100) [ro 31 28, ro 27 24, ro 23 12, ro 11 8, ro 0 0]
  , one "BOOT_CTRL" (C 0x104) [wo 31 24, rw 1 1, wo 0 0] ]

/-- The MMU block (Tables 6-6 and 6-7). -/
def mmuTab : List RegRow :=
  [ bank "CTX_ROOT_LO" (C 0x10000) 16 0x40 [rw 31 12]
  , bank "CTX_ROOT_HI" (C 0x10004) 16 0x40 [rw 15 0]
  , one "CTX_CFG0" (C 0x10008) [rw 2 2 0, rw 0 0]
  , bank "CTX_CFG" (C 0x10048) 15 0x40 [rw 2 2 1, rw 0 0]
  , bank "CTX_FAULTS" (C 0x1000C) 16 0x40 [ro 31 16, ro 15 0]
  , one "INVAL_ADDR_LO" (C 0x10800) [rw 31 12]
  , one "INVAL_ADDR_HI" (C 0x10804) [rw 15 0]
  , one "INVAL_CTRL" (C 0x10808) [ro 31 31, rw 27 24, rwOk 23 22 0 [(0, 2)], rw 20 1, wo 0 0]
  , one "PEER_RETRY_LIMIT" (C 0x10810) [rw 15 0 0x400] ]

/-- The power and thermal block (Table 23-2). -/
def powerTab : List RegRow :=
  [ one "THERM_CFG" (C 0xB0000) [rw 23 20 0xE, rw 19 16 8, rw 15 8 0x70, rw 7 0 0x69]
  , one "PWR_EST" (C 0xB0004) [ro 31 31, ro 11 0]
  , bank "SPIN_THROT" (C 0xB0100) 64 4 [rw 19 16, ro 3 0]
  , bank "ENERGY" (C 0xB0200) 10 4 [ro 31 0]
  , bank "SENSOR" (C 0xB0400) 64 4 [ro 31 31, ro 7 0] ]

/-- The event log and ledgers audit block (Tables 20-2, 20-3 and 21-4). -/
def logTab : List RegRow :=
  [ one "ERR_CTRL" (C 0xC0000) [rw 31 31 1, wo 30 30, rw 15 0]
  , bank "ERR_COUNTERS" (C 0xC0004) 4 4 [ro 31 0]
  , one "AUDIT_CTRL" (C 0xC0800) [rw 1 1 1, wo 0 0]
  , one "AUDIT_STATUS" (C 0xC0804) [ro 31 31, w1c 30 30, ro 25 16, ro 15 0]
  , bank "AUDIT_TIME" (C 0xC0808) 2 4 [ro 31 0]
  , bank "AUDIT_ENTRY" (C 0xC1000) 2840 4 [ro 31 0] ]

/-- The debug block (Tables 22-4 and 22-5). -/
def debugTab : List RegRow :=
  [ one "DBG_SEL" (C 0xD0000) [rw 15 12, rw 9 8, rw 5 0]
  , one "DBG_CMD" (C 0xD0004) [wo 31 24, wo 3 0]
  , one "DBG_STAT" (C 0xD0008) [ro 31 31, ro 30 30, ro 29 29, ro 27 24, ro 23 20, ro 19 16]
  , one "DBG_ACC" (C 0xD000C) [rwOk 31 28 0 [(0, 6)], rw 15 8, rw 4 0]
  , one "DBG_DATA_LO" (C 0xD0010) [rw 31 0]
  , one "DBG_DATA_HI" (C 0xD0014) [rw 15 0]
  , bank "DBG_HALTED" (C 0xD0020) 8 4 [ro 31 0]
  , one "DBG_CNT" (C 0xD0040) [wo 1 1, rw 0 0]
  , bank "FLY_DBG_CFG" (C 0xD4000) 256 0x80 [rw 2 2, rw 1 1, rw 0 0] ]
  ++ (numsFrom 0 8).flatMap (fun b =>
    [ bank "BP_LO" (C (0xD4010 + 8 * b)) 256 0x80 [rw 31 3, rw 0 0]
    , bank "BP_HI" (C (0xD4014 + 8 * b)) 256 0x80 [rw 20 20, rw 19 16, rw 15 0] ])
  ++ (numsFrom 0 4).flatMap (fun w =>
    [ bank "WP_LO" (C (0xD4050 + 8 * w)) 256 0x80 [rw 31 2]
    , bank "WP_HI" (C (0xD4054 + 8 * w)) 256 0x80
        [rw 31 31, rwOk 30 29 0 [(1, 3)], rwOk 28 24 2 [(2, 12)], rw 20 20, rw 19 16, rw 15 0] ])

/-- The trim journal block (Table 5-4); the live words of R107 are held apart, since their reset is "trim". -/
def trimTab : List RegRow :=
  [ bank "JOURNAL_GEN" (C 0xF0000) 2 4 [ro 31 0]
  , one "STORE_STEP" (C 0xF0008) [ro 2 0] ]

/-- The queue engine block (Tables 7-1; R141, R144, R146). -/
def queueTab : List RegRow :=
  [ bank "RING_BASE_LO" (C 0x20000) 16 0x40 [rw 31 12]
  , bank "RING_BASE_HI" (C 0x20004) 16 0x40 [rw 15 0]
  , bank "RING_CFG" (C 0x20008) 16 0x40 [rw 31 31, rw 23 16, rw 11 8, rwOk 3 0 6 [(6, 15)]]
  , bank "RING_READ" (C 0x2000C) 16 0x40 [ro 19 0]
  , bank "RING_WRITE" (C 0x20010) 16 0x40 [ro 19 0]
  , bank "SAVE_BASE_LO" (C 0x20014) 16 0x40 [rw 31 16]
  , bank "SAVE_BASE_HI" (C 0x20018) 16 0x40 [rw 15 0]
  , bank "SAVE_CFG" (C 0x2001C) 16 0x40 [rwOk 6 0 0 [(1, 64)]]
  , one "QSTAT0" (C 0x20020) [ro 31 16, ro 15 12, ro 11 8, ro 7 7, ro 6 6, ro 2 0 1]
  , bank "QSTAT" (C 0x20060) 15 0x40 [ro 31 16, ro 15 12, ro 11 8, ro 7 7, ro 6 6, ro 2 0]
  , bank "QUEUE_CTRL" (C 0x20024) 16 0x40 [wo 1 1, wo 0 0]
  , bank "RESIDENT" (C 0x20028) 16 0x40 [ro 15 0]
  , one "PEER_DOORBELL" (C 0x20400) [wo 31 28, wo 19 0]
  , one "QINT_STATUS" (C 0x20404) [w1c 15 0]
  , one "QERR_STATUS" (C 0x20408) [w1c 15 0] ]

/-- Lea roles and the all-spindle invalidation, in the global block (Tables 8-2 and 10-2). -/
def roleTab : List RegRow :=
  [ one "IC_INVAL_ALL" (C 0x200) [ro 31 31, wo 0 0]
  , bank "LEA_ROLE" (C 0x400) 32 4 [rw 31 0]
  , one "ROLE_CTRL" (C 0x480) [wo 31 24, wo 0 0]
  , one "ROLE_STATUS" (C 0x484) [ro 31 31, ro 30 30, ro 29 28, ro 24 16]
  , one "ROLE_COUNT_A" (C 0x488) [ro 25 16 512, ro 9 0]
  , one "ROLE_COUNT_B" (C 0x48C) [ro 25 16, ro 9 0] ]

/-- The DRAM controller block (Table 10-5). -/
def dramTab : List RegRow :=
  [ one "DRAM_CTRL" (C 0xE0000) [rwOk 23 16 0 [(4, 4), (8, 8), (16, 16), (32, 32)], rw 12 12, rwOk 11 8 0 [(0, 2)],
      wo 2 2, rw 1 1 1, wo 0 0]
  , one "DRAM_STATUS" (C 0xE0004) [ro 31 31, ro 30 28, ro 27 24]
  , one "DRAM_ERR_CNT" (C 0xE0008) [ro 31 16, ro 15 0]
  , one "DRAM_ERR_ADDR_LO" (C 0xE0010) [ro 31 6]
  , one "DRAM_ERR_ADDR_HI" (C 0xE0014) [ro 15 0]
  , one "DRAM_SCRUB_CNT" (C 0xE0018) [ro 31 16, ro 15 0] ]

/-- The flyer and skein-slice registers of the per-spindle blocks (Tables 8-2, 8-3 and 10-6). -/
def flyerTab : List RegRow :=
  [ bank "FLY_CFG" (C 0x100000) 64 0x1000 [rw 15 12 4, wo 2 2, rw 1 1 1, rw 0 0 1]
  , bank "IC_INVAL" (C 0x100004) 64 0x1000 [ro 31 31, wo 0 0] ]
  ++ (numsFrom 0 4).map (fun f =>
    bank "FLY_STAT" (C (0x100010 + 4 * f)) 64 0x1000 [ro 31 27, ro 26 24, ro 23 20, ro 19 13 64])
  ++ (numsFrom 0 8).map (fun i => bank "SPINDLE_CNT" (C (0x100040 + 4 * i)) 64 0x1000 [ro 31 0])
  ++ (numsFrom 0 4).flatMap (fun f => (numsFrom 0 16).map (fun i =>
    bank "FLYER_CNT" (C (0x100100 + 0x40 * f + 4 * i)) 64 0x1000 [ro 31 0]))
  ++ (numsFrom 0 16).map (fun i => bank "SLICE_CNT" (C (0x100200 + 4 * i)) 64 0x1000 [ro 31 0])

/-- The carding block (Tables 12-10 and 13-3). -/
def cardTab : List RegRow :=
  [ one "CARD_CFG" (C 0x30000) [rwOk 31 24 0x20 [(1, 255)], rwOk 23 16 0x10 [(1, 255)], rwOk 15 8 0x20 [(0, 128)],
      rw 7 4 4, rw 1 1 1]
  , bank "CARD_HOME_MASK" (C 0x30008) 2 4 [rw 31 0 0xFFFFFFFF]
  , one "SPOOL_CFG" (C 0x30010) [rwOk 23 16 0x40 [(1, 255)]]
  , bank "SPOOL_MASK" (C 0x30018) 2 4 [rw 31 0 0xFFFFFFFF]
  , one "NODE_INVAL" (C 0x30F00) [ro 31 31, wo 0 0] ]

/-- The raster front end block (Table 14-6). -/
def rasterTab : List RegRow :=
  [ one "RAS_STAT" (C 0x40000) [ro 31 31, ro 30 28, ro 27 24, ro 9 0 512]
  , one "RAS_CFG" (C 0x40004) [wo 1 1, rw 0 0 1]
  , bank "RAS_CNT" (C 0x40100) 22 4 [ro 31 0] ]

/-- The display block: pipes and ports (Tables 15-1 to 15-3). -/
def displayTab : List RegRow :=
  [ bank "PIPE_CTRL" (C 0x50000) 4 0x4000 [rw 31 31, wo 30 30, rw 29 28, rwOk 27 26 1 [(0, 2)], rw 25 25]
  , bank "HTIMING0" (C 0x50010) 4 0x4000 [rw 31 0]
  , bank "HTIMING1" (C 0x50014) 4 0x4000 [rw 31 0]
  , bank "VTIMING0" (C 0x50018) 4 0x4000 [rw 31 0]
  , bank "VTIMING1" (C 0x5001C) 4 0x4000 [rw 31 0]
  , bank "SYNC_CFG" (C 0x50020) 4 0x4000 [rw 1 0]
  , bank "PCLK_CFG0" (C 0x50024) 4 0x4000 [rw 30 0]
  , bank "PCLK_CFG1" (C 0x50028) 4 0x4000 [rw 7 0]
  , bank "FLIP_COMMIT" (C 0x50100) 4 0x4000 [wo 15 0]
  , bank "FLIP_COMMIT_HI" (C 0x50104) 4 0x4000 [wo 31 0]
  , bank "FLIP_STATUS" (C 0x50108) 4 0x4000 [ro 31 31, ro 15 0]
  , bank "BG_COLOUR" (C 0x5010C) 4 0x4000 [rw 29 0]
  , bank "HOLD_COLOUR" (C 0x50110) 4 0x4000 [rw 29 0]
  , bank "QUIET_CFG" (C 0x50114) 4 0x4000 [rw 7 0 0x10]
  , bank "PIPE_STAT" (C 0x50118) 4 0x4000 [ro 31 31, ro 30 30, ro 29 29, ro 28 28, ro 23 12]
  , bank "UNDERRUN_LINES" (C 0x5011C) 4 0x4000 [ro 31 0]
  , bank "FRAME_COUNT" (C 0x50120) 4 0x4000 [ro 31 0]
  , bank "REPEATS" (C 0x50124) 4 0x4000 [ro 31 0]
  , bank "DROPPED_COMMITS" (C 0x50128) 4 0x4000 [ro 31 0]
  , bank "PIPE_INT_STATUS" (C 0x5012C) 4 0x4000 [w1c 7 0]
  , bank "PIPE_INT_EN" (C 0x50130) 4 0x4000 [rw 7 0]
  , bank "PORT_CTRL" (C 0x53000) 4 0x4000 [rw 31 31, rwOk 27 24 4 [(1, 2), (4, 4)], rwOk 23 20 0 [(0, 7)],
      rwOk 19 8 0 [(0, 0), (8, 250)], rw 2 2 1, rw 1 1 1]
  , bank "PORT_STAT" (C 0x53004) 4 0x4000 [ro 31 31, ro 30 30, ro 29 29, ro 27 27]
  , bank "AUX_CTRL" (C 0x53010) 4 0x4000 [wo 31 31, ro 30 30, ro 29 28, rwOk 27 24 0 [(0, 1), (4, 5), (8, 9)], rw 23 20, rw 19 0]
  , bank "DSI_CMD" (C 0x53030) 4 0x4000 [wo 31 31, ro 30 30,
      rwOk 29 24 0 [(0x03, 0x03), (0x05, 0x05), (0x13, 0x13), (0x15, 0x15), (0x23, 0x23), (0x29, 0x29), (0x39, 0x39)],
      rwOk 23 16 0 [(0, 64)], rw 15 0] ]
  ++ (numsFrom 0 4).flatMap (fun p =>
    [ bank "AUX_DATA" (C (0x53020 + p * 0x4000)) 4 4 [rw 31 0]
    , bank "DSI_PAYLOAD" (C (0x53040 + p * 0x4000)) 16 4 [rw 31 0]
    , bank "DEGAMMA" (C (0x51000 + p * 0x4000)) 1024 4 [rw 15 0]
    , bank "GAMMA" (C (0x52000 + p * 0x4000)) 1024 4 [rw 29 0]
    , bank "PL_CTRL" (C (0x50040 + p * 0x4000)) 3 0x40 [rw 31 31, rwOk 30 29 0 [(0, 2)], rw 28 28, rw 23 16, rw 7 0]
    , bank "PL_BASE_LO" (C (0x50044 + p * 0x4000)) 3 0x40 [rw 31 0]
    , bank "PL_BASE_HI" (C (0x50048 + p * 0x4000)) 3 0x40 [rw 15 0]
    , bank "PL_HDR_LO" (C (0x5004C + p * 0x4000)) 3 0x40 [rw 31 0]
    , bank "PL_HDR_HI" (C (0x50050 + p * 0x4000)) 3 0x40 [rw 15 0]
    , bank "PL_PITCH" (C (0x50054 + p * 0x4000)) 3 0x40 [rw 15 0]
    , bank "PL_POS" (C (0x50058 + p * 0x4000)) 3 0x40 [rw 31 0]
    , bank "PL_SIZE" (C (0x5005C + p * 0x4000)) 3 0x40 [rw 31 0]
    , bank "PL_SRC" (C (0x50060 + p * 0x4000)) 3 0x40 [rw 31 0]
    , bank "PL_CLEAR" (C (0x50064 + p * 0x4000)) 3 0x40 [rw 31 0]
    , bank "PL_BUF" (C (0x50068 + p * 0x4000)) 3 0x40 [rw 3 0] ])

/-- The touch block (Table 16-1). -/
def touchTab : List RegRow :=
  [ one "TCH_CTRL" (C 0x60000) [rw 31 31, rw 30 30, rw 29 28, rw 27 27, wo 26 26]
  , one "TCH_TIMING" (C 0x60004) [rw 31 24 0x0F, rw 23 16 0x1E, rw 15 8 0x02]
  , one "TCH_PROC" (C 0x60008) [rwOk 15 12 2 [(1, 15)], rwOk 11 8 6 [(1, 15)], rwOk 7 4 2 [(1, 15)]]
  , one "TCH_STAT" (C 0x6000C) [ro 31 31, ro 28 24]
  , bank "GROUP_CFG" (C 0x60010) 8 4 [rwOk 25 16 0x40 [(16, 1023)], rw 15 8, rw 1 0]
  , bank "WATER_MIN" (C 0x60030) 8 4 [rw 15 0 0x20]
  , bank "SENS_CFG" (C 0x60100) 32 16 [rw 31 30, rw 26 24]
  , bank "SENS_CH_LO" (C 0x60104) 32 16 [rw 31 0]
  , bank "SENS_CH_HI" (C 0x60108) 32 16 [rw 31 0]
  , bank "WAKE_PAT_A" (C 0x60300) 4 8 [rw 31 31, rw 30 30, rw 28 24, rw 15 0]
  , bank "WAKE_PAT_B" (C 0x60304) 4 8 [rw 25 16, rw 9 0]
  , one "SENSOR_STATE" (C 0x60340) [ro 31 0]
  , one "SCAN_COUNT" (C 0x60344) [ro 31 0]
  , one "DROP_COUNT" (C 0x60348) [ro 31 0]
  , one "SYNC_SHORT" (C 0x6034C) [ro 31 0]
  , one "DUMP_BASE_LO" (C 0x60350) [rw 31 9]
  , one "DUMP_BASE_HI" (C 0x60354) [rw 15 0]
  , one "DUMP_CFG" (C 0x60358) [rw 15 0]
  , one "DUMP_INDEX" (C 0x6035C) [ro 15 0]
  , bank "CH_DATA" (C 0x62000) 192 4 [ro 31 16, ro 15 0] ]

/-- The cameras block (Table 17-1). -/
def cameraTab : List RegRow :=
  [ bank "CAM_CTRL" (C 0x70000) 2 0x100 [rw 31 31, rwOk 27 24 4 [(1, 2), (4, 4)], rw 21 20, rw 16 16, rw 8 8 1]
  , bank "CAM_SIZE" (C 0x70004) 2 0x100 [rwOk 28 16 0 [(1, 4096)], rwOk 12 0 0 [(1, 4096)]]
  , bank "CAM_BUF_LO" (C 0x70008) 2 0x100 [rw 31 12]
  , bank "CAM_BUF_HI" (C 0x7000C) 2 0x100 [rw 15 0]
  , bank "CAM_STRIDE" (C 0x70010) 2 0x100 [rw 31 12]
  , bank "CAM_PITCH" (C 0x70014) 2 0x100 [rw 11 0]
  , bank "CAM_BUF_CFG" (C 0x70018) 2 0x100 [rwOk 3 0 0 [(1, 15)]]
  , bank "CAM_REC_LO" (C 0x7001C) 2 0x100 [rw 31 5]
  , bank "CAM_REC_HI" (C 0x70020) 2 0x100 [rw 15 0]
  , bank "CAM_SEQ_LO" (C 0x70024) 2 0x100 [rw 31 3]
  , bank "CAM_SEQ_HI" (C 0x70028) 2 0x100 [rw 15 0]
  , bank "CAM_RELEASE" (C 0x7002C) 2 0x100 [wo 3 0]
  , bank "CAM_STAT" (C 0x70030) 2 0x100 [ro 31 31, ro 30 30, ro 19 16, ro 15 0]
  , bank "CAM_FSYNC_OFFSET" (C 0x70034) 2 0x100 [rw 19 0]
  , bank "CAM_FRAMES" (C 0x70040) 2 0x100 [ro 31 0]
  , bank "CAM_DROPPED" (C 0x70044) 2 0x100 [ro 31 0]
  , bank "CAM_CRC_ERR" (C 0x70048) 2 0x100 [ro 31 0]
  , bank "CAM_BAD_FRAMES" (C 0x7004C) 2 0x100 [ro 31 0]
  , one "FSYNC_CTRL" (C 0x70200) [rw 31 31, rw 30 30, rwOk 7 0 0x0A [(1, 255)]]
  , one "FSYNC_PERIOD" (C 0x70204) [rwOk 19 0 0 [(1000, 1000000)]]
  , bank "ILL_CTRL" (C 0x70300) 2 0x10 [rwOk 31 30 0 [(0, 2)]]
  , bank "ILL_TIMING" (C 0x70304) 2 0x10 [rw 31 0]
  , bank "ILL_STAT" (C 0x70308) 2 0x10 [w1c 31 31, ro 30 30, ro 15 0] ]

/-- The audio block (Table 17-3). -/
def audioTab : List RegRow :=
  [ one "AUD_CTRL" (C 0x80000) [rw 31 31, rw 30 30, rw 29 29, rw 28 28 1, rw 27 27]
  , one "ADC_EN" (C 0x80004) [rw 7 0]
  , one "ADC_PGA" (C 0x80008) ((numsFrom 0 8).map (fun k => rwOk (4 * k + 3) (4 * k) 0 [(0, 14)]))
  , one "DAC_CFG" (C 0x8000C) [rw 7 4, rw 3 0]
  , one "REF_CFG" (C 0x80010) ((numsFrom 0 4).flatMap (fun k => [rw (8 * k + 7) (8 * k + 7), rwOk (8 * k + 4) (8 * k) 0 [(0, 3), (16, 31)]]))
  , one "TDM_SLOTS" (C 0x80014) [rw 31 0]
  , one "CAP_BASE_LO" (C 0x80020) [rw 31 6]
  , one "CAP_BASE_HI" (C 0x80024) [rw 15 0]
  , one "CAP_CFG" (C 0x80028) [rwOk 21 16 0 [(2, 63)], rwOk 12 0 0 [(16, 4096)]]
  , one "CAP_POS_LO" (C 0x8002C) [rw 31 4]
  , one "CAP_POS_HI" (C 0x80030) [rw 15 0]
  , one "PLAY_BASE_LO" (C 0x80040) [rw 31 6]
  , one "PLAY_BASE_HI" (C 0x80044) [rw 15 0]
  , one "PLAY_CFG" (C 0x80048) [rwOk 21 16 0 [(2, 63)], rwOk 12 0 0 [(16, 4096)]]
  , one "PLAY_POS_LO" (C 0x8004C) [rw 31 4]
  , one "PLAY_POS_HI" (C 0x80050) [rw 15 0]
  , bank "PLAY_LIMIT" (C 0x80054) 2 4 [rw 31 0]
  , one "AUD_STAT" (C 0x80060) [ro 31 31, ro 30 30, ro 29 29, w1c 15 8, w1c 1 1, w1c 0 0]
  , one "UNDERRUN_FRAMES" (C 0x80064) [ro 31 0]
  , one "LOST_FRAMES" (C 0x80068) [ro 31 0] ]

/-- The peer ports (Table 18-6). -/
def peerTab : List RegRow :=
  [ bank "PORT_CFG" (C 0x90000) 4 0x4000 [rw 31 24 0x10, rwOk 23 16 2 [(1, 255)], rw 15 4 0x10, wo 1 1, rw 0 0 1]
  , bank "PORT_ACCEPT" (C 0x90004) 4 0x4000 [rw 31 31, rw 30 30, rw 15 0]
  , bank "PORT_STAT" (C 0x90008) 4 0x4000 [ro 31 28, ro 27 20, ro 19 19, ro 18 18, ro 12 0]
  , bank "MSG_SEND_LO" (C 0x90040) 4 0x4000 [rw 31 0]
  , bank "MSG_SEND_HI" (C 0x90044) 4 0x4000 [rw 31 0]
  , bank "MSG_SEND_CTRL" (C 0x90048) 4 0x4000 [wo 0 0]
  , bank "MSG_FWD" (C 0x9004C) 4 0x4000 [rw 15 0]
  , bank "MSG_RING_LO" (C 0x90050) 4 0x4000 [rw 31 4]
  , bank "MSG_RING_HI" (C 0x90054) 4 0x4000 [rw 15 0]
  , bank "MSG_RING_CFG" (C 0x90058) 4 0x4000 [rw 15 0]
  , bank "MSG_POS_LO" (C 0x9005C) 4 0x4000 [rw 31 3]
  , bank "MSG_POS_HI" (C 0x90060) 4 0x4000 [rw 15 0]
  , bank "PING_CTRL" (C 0x90064) 4 0x4000 [wo 31 31]
  , bank "PING_RTT" (C 0x90068) 4 0x4000 [ro 31 0] ]
  ++ (numsFrom 0 4).flatMap (fun p =>
    [ bank "OUTMAP" (C (0x90010 + p * 0x4000)) 4 4 [rw 31 31, rw 30 30, rw 27 24, rw 7 0]
    , bank "CREDIT" (C (0x90070 + p * 0x4000)) 4 4 [ro 15 0]
    , bank "PORT_CNT" (C (0x90100 + p * 0x4000)) 16 4 [ro 31 0] ])
/-- The reel engines (Tables 19-2 and 19-3). -/
def reelTab : List RegRow :=
  [ bank "REEL_STAT" (C 0xA0000) 16 0x40 [ro 31 31, ro 30 28, ro 27 24, ro 23 23, ro 15 0]
  , bank "REEL_CUR_ZY" (C 0xA0004) 16 0x40 [ro 31 0]
  , bank "REEL_CUR_X" (C 0xA0008) 16 0x40 [ro 31 0]
  , bank "REEL_DONE_MASK" (C 0xA000C) 16 0x40 [ro 31 0]
  , one "REEL_CFG" (C 0xA0800) [wo 1 1, rw 0 0 1]
  , one "REEL15_DESC_LO" (C 0xA0810) [rw 31 6]
  , one "REEL15_DESC_HI" (C 0xA0814) [rw 15 0]
  , one "REEL15_CTRL" (C 0xA0818) [wo 31 24, wo 15 1, wo 0 0]
  , one "REEL15_STATUS" (C 0xA081C) [ro 31 31, ro 15 0] ]
  ++ (numsFrom 0 6).map (fun i => bank "REEL_CNT" (C (0xA0010 + 4 * i)) 16 0x40 [ro 31 0])

/-- The weft, whorl and carding registers of the per-spindle blocks (Tables 11-6, 12-10 and 13-4). -/
def rayTab : List RegRow :=
  [ bank "WEFT_STAT" (C 0x100300) 64 0x1000 [ro 31 31, ro 30 27, ro 26 23, ro 22 19, ro 15 0]
  , bank "WEFT_GRANT0" (C 0x100310) 64 0x1000 [rw 31 0 0xFF]
  , bank "WEFT_GRANT1" (C 0x100314) 64 0x1000 [rw 31 0]
  , bank "WEFT_GRANT2" (C 0x100318) 64 0x1000 [rw 31 0]
  , bank "WEFT_GRANT3" (C 0x10031C) 64 0x1000 [rw 31 0]
  , bank "CARD_STAT" (C 0x1004C0) 64 0x1000 [ro 31 21 1024, ro 20 13, ro 12 7] ]
  ++ (numsFrom 0 8).map (fun i => bank "WEFT_CNT" (C (0x100340 + 4 * i)) 64 0x1000 [ro 31 0])
  ++ (numsFrom 0 16).map (fun i => bank "WHORL_CNT" (C (0x100400 + 4 * i)) 64 0x1000 [ro 31 0])
  ++ (numsFrom 0 16).map (fun i => bank "CARD_CNT" (C (0x100500 + 4 * i)) 64 0x1000 [ro 31 0])

def spindleTab : List RegRow := flyerTab ++ rayTab

/-- The table that may hold a register. -/
def tabFor (r : Nat) : List RegRow :=
  if r < ctlBase then hostTab
  else
    let o := r - ctlBase
    if 0x100000 ≤ o then spindleTab
    else match o / 0x10000 with
      | 0 => globalTab ++ roleTab
      | 1 => mmuTab
      | 2 => queueTab
      | 3 => cardTab
      | 4 => rasterTab
      | 5 => displayTab
      | 6 => touchTab
      | 7 => cameraTab
      | 8 => audioTab
      | 9 => peerTab
      | 10 => reelTab
      | 11 => powerTab
      | 12 => logTab
      | 13 => debugTab
      | 14 => dramTab
      | 15 => trimTab
      | _ => []

/-- Row r names register number a. -/
def RegRow.has (r : RegRow) (a : Nat) : Bool :=
  r.base ≤ a && (a - r.base) % r.stride = 0 && (a - r.base) / r.stride < r.count

/-- The row of a register, if the manual lists one. -/
def regRow (a : Nat) : Option RegRow := (tabFor a).find? (fun r => r.has a)

/-- Build a register value from its fields' reset values. -/
def resetOf (fs : List Fd) : W32 := fs.foldl (fun w f => withBits w f.hi f.lo f.rst) 0#32

/-- The value of a register after power-on reset (R10). -/
def regReset (a : Nat) : W32 := ((regRow a).map (fun r => resetOf r.flds)).getD 0#32

/-- A field value is listed (R11); the field's reset value always is, since the table gives it. -/
def Fd.listed (f : Fd) (v : Nat) : Bool := f.ok.isEmpty || v = f.rst || f.ok.any (fun p => p.1 ≤ v && v ≤ p.2)

/-- Every RW field of the written word holds a listed encoding (R11). -/
def fieldsListed (fs : List Fd) (v : W32) : Bool :=
  fs.all (fun f => match f.acc with
    | .rw | .rws => f.listed (bitsOf v f.hi f.lo)
    | _ => true)

/-- The word after a write of v over w, field by field (Table 0-2). -/
def writeFields (fs : List Fd) (w v : W32) : W32 :=
  fs.foldl (fun a f => match f.acc with
    | .rw | .rws => withBits a f.hi f.lo (bitsOf v f.hi f.lo)
    | .w1c => withBits a f.hi f.lo (bitsOf (w &&& ~~~v) f.hi f.lo)
    | .ro | .wo => a) w

/-- The word a read returns: the listed fields, WO and RSV bits as zero (Table 0-2, R9). -/
def readFields (fs : List Fd) (w : W32) : W32 :=
  fs.foldl (fun a f => match f.acc with
    | .wo => a
    | _ => withBits a f.hi f.lo (bitsOf w f.hi f.lo)) 0#32

end Sys2Proof.Machine
end

