-- ==== Sys2Proof/Machine/State.lean ====
section
/-! DEFINITION. The state of the block as plain data: every register of the host block and of the control space in one
bank (State.regs, a sparse map over the reset values of Machine/RegTab.lean), and beside it, one structure per unit,
what the manual gives the unit and no register shows. -/

namespace Sys2Proof.Machine

open Sys2Proof

/-- Why the machine stops. No rule of the manual stops this block for good, and no meaning stops: there is no fault. -/
inductive Fault
deriving DecidableEq, Repr

/-- Why a command has no meaning. -/
inductive Refusal
  /-- Raised by an arm of exec that is not modelled yet. Safe: nothing is claimed of it. -/
  | notModelled (mnemonic : String)
deriving DecidableEq, Repr

/-- The rail-good inputs (R38). -/
structure Rails where
  io : Bool
  aon : Bool
  ana : Bool
  sram : Bool
  core : Bool
  serdes : Bool
deriving DecidableEq, Repr

/-- Pins, clocks, rails and the always-on domain (chapters 2, 4 and 23). -/
structure CoreSt where
  /-- PORST# is low (R51). -/
  porstLow : Bool
  /-- The level of the FREEZE pin (R456). -/
  freezePin : Bool
  rails : Rails
  /-- PWRREQ1:0; none while high-impedance (R39, R56). -/
  pwrreq : Option (BitVec 2)
  /-- The device waits for the rail-good inputs to match PWRREQ (R52). -/
  railWait : Bool
  /-- The main PLL is locked and MCLK runs (R43). -/
  mclk : Bool
  /-- A clock-loss stop is in force, and what was lost (R54, R55). -/
  clockLost : Option ClockLoss
  /-- The critical-zone stop is in force (R491). -/
  critical : Bool
  /-- TTRIP# is asserted (R491). -/
  ttrip : Bool
  /-- RMACK# is driven low (R103). -/
  rmack : Bool
  /-- The accepted levels of PRSNT0#-PRSNT3#, true where a peer is present (R53). -/
  prsnt : List Bool
  /-- AUDCLK is absent (R54). -/
  audclkLost : Bool
  /-- The 64-bit count of MCLK cycles (R78). -/
  timebase : W64
  /-- The high word latched by the last TIMEBASE_LO read (R78). -/
  tbShadow : W32
  /-- The carried count and accumulator of DOZE (R486). -/
  carryC : W64
  carryA : Nat
  /-- The quiesce that a DOZE, OFF or power-cycle entry runs by itself is in progress (R483). -/
  entryQuiesce : Bool
  /-- The PWRREQ code the entry in progress will drive: 01 DOZE, 00 OFF, 10 power cycle (R483). -/
  entryCode : Option (BitVec 2)
  /-- A wake event held while a DOZE entry runs (Table 23-5). -/
  wakeHeld : Bool
deriving DecidableEq, Repr

/-- The held log page: sequence number of its first entry, valid entries, and its words (R62, R64). -/
structure LogPage where
  first : Nat
  n : Nat
  words : List W32
deriving DecidableEq, Repr

/-- The host bus (chapter 3). -/
structure HostSt where
  /-- The posted-write buffer, oldest first: host register offset and value (R60). -/
  posted : List (Nat × W32)
  /-- The word last driven on HD31-HD0 for a read. -/
  hd : W32
  /-- WAIT# holds an access: a write found the buffer full, or MCLK does not run (R59, R60). -/
  wait : Bool
  /-- The words left of the held WIN0 page (R66). -/
  win0 : Option (List W32)
  /-- The words left of the held log page (R64). -/
  logPage : Option LogPage
  /-- Words of drain-region records in the held WIN0 page that are not yet delivered (R67). -/
  drainTaken : Nat
  /-- Per-counter latches of high words, by control-space offset (R176). -/
  latches : Sparse W32
deriving DecidableEq, Repr

/-- The fields of a valid boot header (Table 4-3). -/
structure BootHdr where
  mode : Nat
  dummy : Nat
  div : Nat
  dramCfg : Nat
  tableOffset : Nat
  tableLength : Nat
  tableCrc : Nat
deriving DecidableEq, Repr

/-- One boot table entry (Table 4-5). -/
structure BootEntry where
  addr : Nat
  op : Nat
  value : W32
  mask : W32
deriving DecidableEq, Repr

/-- The start-up sequencer (chapter 4). -/
structure BootSt where
  /-- This start-up runs as after a warm reset: no TRIM phase, log kept. -/
  warm : Bool
  /-- This start-up ends a DOZE (R485). -/
  wake : Bool
  /-- Phase DRAM of this start-up trains in full (R100, Table 4-10). -/
  fullTrain : Bool
  hdr : Option BootHdr
  /-- The boot table as read and checked. -/
  table : List BootEntry
  tableRead : Bool
  /-- The entry to run next. -/
  idx : Nat
  /-- Phase RELEASE has released the functions (R96). -/
  released : Bool
  /-- Doorbells held until READY: source (0 host, 1 + port), context, index (Table 4-10). -/
  doorbells : List (Nat × Nat × Nat)
  /-- A POWER_STATE.TARGET written before READY (Table 4-10). -/
  target : Option Nat
deriving DecidableEq, Repr

/-- A store in progress: its copy of the live set, its target slot and its generation (R111). -/
structure StoreSt where
  copy : List (Nat × Nat × W32)
  target : Nat
  gen : Nat
deriving DecidableEq, Repr

/-- The trim journal (chapter 5). -/
structure TrimSt where
  /-- Live words written since the fused defaults were loaded, by offset / 4 in the live array, keys rising; a word not
  listed holds its fused default (R107). -/
  live : List (Nat × W32)
  store : Option StoreSt
  /-- CAL_CTRL CMD 0x2 is running (R112). -/
  reapply : Bool
deriving DecidableEq, Repr

/-- One event log entry (Table 21-2). -/
structure LogEntry where
  cls : Nat
  ctx : Nat
  code : Nat
  src : Nat
  time : Nat
  arg : Nat
deriving DecidableEq, Repr

/-- The event log (chapter 21). Pointers and counts are in the registers. -/
structure LogSt where
  /-- The ring, by sequence number modulo 4,096. -/
  ring : List (Nat × LogEntry)
  /-- Entries in the ring, at most 4,096. -/
  count : Nat
  /-- Events queued by the units and not yet written: unit and entry, oldest first (R448). -/
  queued : List (Nat × LogEntry)
  /-- The unit whose event was written last (R448, round-robin). -/
  lastUnit : Nat
  /-- CLASS 1 entries written per unit in this millisecond window (R449). -/
  ceSpent : Sparse Nat
  /-- Events seen during a freeze or DOZE, to be logged at the thaw or at exit (R453). -/
  later : List (Nat × LogEntry)
  /-- Ledgers whose failure has been logged since MISMATCH was last cleared (R441). -/
  failed : List Nat
  /-- Ledgers of a snapshot whose entries are still being written: index and the four terms with BAL (R440). -/
  snap : List (Nat × Nat × Nat × Nat × Nat × Bool)
deriving DecidableEq, Repr

/-- One cached page translation (R127). -/
structure TlbEnt where
  u : TlbUnit
  ctx : Nat
  va : Nat
  size : Nat
  pa : Nat
  w : Bool
  x : Bool
  p : Bool
  uncached : Bool
  dirty : Bool
deriving DecidableEq, Repr

/-- One cached upper-level entry: the table a virtual prefix leads to at a level (R127). -/
structure WalkEnt where
  ctx : Nat
  level : Nat
  prefixVa : Nat
  table : Nat
deriving DecidableEq, Repr

/-- Who waits on a fault record (Table 6-12). -/
inductive Waiter
  /-- A memory instruction, or another instruction's own read, of the ply with a uid. -/
  | ply (id : Nat)
  /-- A demand fetch of the ply with a uid. -/
  | plyFetch (id : Nat)
  | ray (id : Nat)
  | reel (channel : Nat)
  | tile (sp : Nat)
  | frontEnd
  | queue (ctx : Nat)
deriving DecidableEq, Repr

/-- A fault record and what it keeps beside its 32 bytes (Table 6-8, R129, R131). -/
structure FaultRec where
  ctx : Nat
  va : Nat
  cause : Nat
  access : Nat
  level : Nat
  source : Nat
  sourceId : Nat
  time : Nat
  joins : Nat
  seq : Nat
  needAnswer : Bool
  mode : Nat
  answered : Bool
  /-- In use (R129). -/
  inUse : Bool
  /-- Busy answers given to peer requests joined to it (R136). -/
  busy : Nat
  waiters : List Waiter
deriving DecidableEq, Repr

/-- The MMU (chapter 6). -/
structure MmuSt where
  tlb : List TlbEnt
  walkCache : List WalkEnt
  /-- Records written, by slot. -/
  recs : List (Nat × FaultRec)
  /-- Records held waiting for a slot, oldest first (R130). -/
  held : List FaultRec
  /-- The invalidation in progress: scope, context, first address, pages (R128). -/
  inval : Option (Nat × Nat × Nat × Nat)
deriving DecidableEq, Repr

/-- A packet of a ring between its read and its completion (R143, R145). -/
structure Packet where
  index : Nat
  op : Nat
  bytes : List Byte
  /-- Work units started so far: the next group, descriptor or ray. -/
  cursor : Nat
  /-- The spindle that took its last group (R161). -/
  lastSp : Nat
  /-- All its work has ended; PACKET_COMPLETE is due. -/
  ended : Bool
  /-- Timebase when it was read (R146). -/
  readAt : Nat
  /-- Status so far (Table 7-7): the lowest nonzero code. -/
  status : Nat
deriving DecidableEq, Repr

/-- A completion token (R197): busy, and its status once done. -/
structure Token where
  busy : Bool
  status : Nat
deriving DecidableEq, Repr

/-- One lane's access of a memory instruction that is not complete yet. -/
structure LaneAcc where
  lane : Nat
  va : Nat
  /-- The physical address and whether the page is uncached, once translated. -/
  pa : Option (Nat × Bool)
  /-- What the operand collector read at issue (R169): a store's bytes, an atomic's B and C. -/
  data : List Byte
  b : Nat
  c : Nat
deriving DecidableEq, Repr

/-- A memory instruction that has issued and not retired (R170). -/
structure MemOp where
  w : W64
  /-- The lowest lane of the op, whose result a scalar destination takes (R184). -/
  first : Nat
  pc : Nat
  size : Nat
  todo : List LaneAcc
  /-- The op waits on a fault record (R135). -/
  faulted : Bool
  /-- The watchpoint a lane of it matched (R476). -/
  watch : Option Nat
  /-- It is the one instruction of a STEP (R474). -/
  step : Bool
  /-- Registers whose pending scoreboard state the debugger cleared (R473). -/
  cleared : List Nat
deriving DecidableEq, Repr

/-- What a ply belongs to: a packet of a context, a render pass, or a spool group. -/
structure PlyOwner where
  ctx : Nat
  /-- 0 dispatch, 1 raster shading, 2 return spool (Table 9-10). -/
  source : Nat
  packet : Nat
  group : Nat
deriving DecidableEq, Repr

/-- A resident ply (chapters 8 and 9). Lists over lanes have 32 entries, lane 0 first. -/
structure Ply where
  owner : PlyOwner
  /-- Names this ply for its tokens, whatever place it is restored to. -/
  uid : Nat
  vregs : Nat
  /-- SCHED bit 0: true for two-level (R166). -/
  twoLevel : Bool
  active : Bool
  /-- Admission order on the flyer (R166). -/
  age : Nat
  /-- Issue cycles since last chosen (R167). -/
  unchosen : Nat
  pcs : List Nat
  present : BitVec 32
  exited : BitVec 32
  skip : List Nat
  /-- Lane registers, by register * 32 + lane; an unlisted one reads zero. -/
  v : Sparse W32
  /-- Scalar registers s0-s31; an unlisted one reads zero. -/
  sc : Sparse W32
  /-- Predicates p0-p7, one bit per lane; an unlisted one reads zero. -/
  pr : Sparse (BitVec 32)
  fpflags : BitVec 5
  tokens : List Token
  tbLatch : W32
  /-- Threads stopped at a BAR (R198). -/
  atBar : BitVec 32
  /-- TWAITs in progress: threads, token mask, destination specifier (R197). -/
  twaits : List (BitVec 32 × Nat × Nat)
  mem : List MemOp
  /-- The ply waits on a faulted demand fetch (R135). -/
  fetchFault : Bool
  /-- Its WEFT waits for a queue entry and has not retired (R200). -/
  stalled : Bool
  halted : Bool
  /-- REASON and INDEX of DBG_STAT. -/
  haltReason : Nat
  haltIndex : Nat
  /-- A HALT was requested and outstanding accesses remain (R472). -/
  halting : Bool
  /-- The TRACE that has not retired because its rays are not all admitted (R280): its trace. -/
  tracing : Option Nat
  /-- Callback plies: lane, ray and number of its candidate (R270). -/
  cbs : List (Nat × Nat × Nat)
  /-- Allotted slots of hit and miss plies: lane, slice, and whether a ray of the thread is in flight (R288). -/
  allot : List (Nat × Nat × Bool)
  /-- Raster shading: 1 vertex ply, 2 fragment ply, 0 neither; its draw; lane and vertex or fragment number (R304, R306). -/
  shadeKind : Nat
  shadeDraw : Nat
  shade : List (Nat × Nat)
  /-- Admitted beyond its context's budget (R151). -/
  extra : Bool
  /-- Exactly one issue is allowed to the halted ply (R474). -/
  stepping : Bool
  /-- The PC at which the next issue takes no breakpoint, and the one at which BKPT retires as a NOP (R477). -/
  passBp : Option Nat
  passBkpt : Option Nat
  /-- All threads have exited or it ended by exception; its slot frees when its tokens are done (R197). -/
  ended : Bool
  /-- Status its packet gets from it (Table 7-7), 0 if none. -/
  status : Nat
deriving DecidableEq, Repr

/-- What a preempted context keeps apart (Table 7-8). Ray and pass records stay in their own units' lists. -/
structure SavedWork where
  plies : List (Nat × Ply)
  packets : List Packet
  plyBytes : Nat
  rayBytes : Nat
deriving DecidableEq, Repr

/-- The queue engine's own state of one context (chapter 7). QSTAT and the ring registers are in the registers. -/
structure CtxQ where
  /-- Read from the ring and not started. -/
  fetched : Option Packet
  flight : List Packet
  /-- Physical addresses of the save area's pages, kept by the pinning check (R155). -/
  savePages : List Nat
  saved : Option SavedWork
  /-- A host request asks that the context be HELD when SAVED (R150, Table 7-11). -/
  hold : Bool
  /-- A ring access waits on a fault (R158). -/
  faulted : Bool
  /-- Completion records not yet written because their write faulted: packet index. -/
  doneWaiting : List Nat
  /-- Packets the ring is halted at, first one first: ring index and ERROR code (Table 7-2). -/
  halted : List (Nat × Nat)
  /-- Timebase at the last restore (R149). -/
  restored : Option Nat
deriving DecidableEq, Repr

/-- The queue engine. -/
structure QueueSt where
  ctxs : Sparse CtxQ
  /-- Context of the preemption or restore in progress: one at a time (R149). -/
  busy : Option Nat
  /-- GRACE triggers that wait for it to end: victim context. -/
  triggers : List Nat
  /-- Who took each resource last, most recent first (R148). -/
  grants : List (Resource × Nat)
deriving DecidableEq, Repr

/-- One line of an instruction cache (R171). -/
structure IcLine where
  sp : Nat
  pa : Nat
  words : List W64
deriving DecidableEq, Repr

/-- The flyers (chapter 8). -/
structure FlySt where
  /-- Resident plies by (spindle * 4 + flyer) * 16 + slot. -/
  plies : List (Nat × Ply)
  nextAge : Nat
  ic : List IcLine
  /-- Spindles whose instruction cache invalidation is in progress (R173). -/
  icBusy : List Nat
  /-- Per flyer, the packets, passes and batches under way whose plies it has admitted: context, and source with index (R216). -/
  seen : List (Nat × Nat × Nat)
deriving DecidableEq, Repr

/-- A merge-buffer line: spindle, line address / 64, and the bytes written (R212). -/
structure MergeLine where
  sp : Nat
  line : Nat
  bytes : List (Nat × Byte)
deriving DecidableEq, Repr

/-- One line of a flyer's L1 (R215). -/
structure L1Line where
  fly : Nat
  line : Nat
  bytes : List Byte
deriving DecidableEq, Repr

/-- Skein, near caches and DRAM (chapter 10). -/
structure MemSt where
  /-- The model's own: what names the loss of DRAM's content (R98), 0 for none yet; a byte not written since then is free. -/
  lost : Nat
  /-- DRAM bytes by physical address. -/
  dram : Sparse Byte
  /-- Skein bytes by offset in the aperture. -/
  skein : Sparse Byte
  /-- Active roles by lea; an unlisted lea is SCRATCH. -/
  roles : Sparse Nat
  /-- Merge buffers, most recently written line first. -/
  merge : List MergeLine
  /-- Lines held by CACHE leas, most recently used first: lea, line address / 64 (R212). -/
  cache : List (Nat × Nat)
  /-- L1 lines, most recently filled first. -/
  l1 : List L1Line
  /-- DRAM lines (address / 64) whose code reads as uncorrectable (R230). -/
  dramUe : List Nat
  /-- Skein granules (offset / 8) whose code reads as uncorrectable (R234). -/
  skeinUe : List Nat
  /-- The roles a running apply will make active (R211). -/
  applying : Option (Sparse Nat)
  /-- Patrol scrub cursors, by port: the next line / 64 (R231). -/
  scrub : Sparse Nat
deriving DecidableEq, Repr

/-- A doff readout (R464). The state read does not change while frozen (R65), so the words of a page need no buffer of their own. -/
structure Doff where
  chain : Nat
  /-- The word delivered next, counted from the chain's first. -/
  word : Nat
  /-- Pages of the chain. -/
  pages : Nat
deriving DecidableEq, Repr

/-- Freeze, doff scan, TAP and debugger (chapter 22). -/
structure DbgSt where
  doff : Option Doff
  /-- The JTAG instruction register (R468). -/
  ir : Nat
  /-- The boundary register (R469): what it drives where an instruction lets it, and what it last captured, cell by cell. -/
  boundary : List Bool
  captured : List Bool
  /-- CTRL_ACCESS: data of the last read, and status (R470). -/
  ctrlData : W32
  ctrlStatus : Nat
  /-- The word last shifted out of TDO. -/
  tdo : W64
  /-- The model's own: the free-value counter at the stopping cycle, which names the flip-flops' values of this freeze (R463). -/
  freezeSeed : Nat
deriving DecidableEq, Repr

/-- Power and thermal (chapter 23). -/
structure PwrSt where
  /-- Cap levels by spindle (R488). -/
  caps : Sparse Nat
  /-- Spindles that issued in the present window (R488). -/
  issued : List Nat
  /-- Sensors whose failure has been logged (R495). -/
  badLogged : List Nat
deriving DecidableEq, Repr

/-- What waits for a piece of work: a ply's completion token, or a packet of a ring (R197, R147). -/
inductive WorkOwner
  | token (ply : Nat) (t : Nat)
  | packet (ctx index : Nat)
deriving DecidableEq, Repr

/-- A weft op (R242, R247): its descriptor, and the next column block once it runs. -/
structure WeftOp where
  ctx : Nat
  owner : WorkOwner
  addr : Nat
  desc : List Byte
  block : Nat
  /-- It passed its check and started (a restored op starts again at its block). -/
  started : Bool
  /-- It ends after its current row: its context stops. -/
  stop : Bool
  /-- The row that met a parity or uncorrectable error was its last: token status 0b10 (R254). -/
  bad : Bool
deriving DecidableEq, Repr

/-- The weft queues (chapter 11). -/
structure WeftSt where
  /-- Waiting entries with their spindle, oldest first. -/
  queue : List (Nat × WeftOp)
  /-- Running ops by spindle. -/
  running : Sparse WeftOp
  /-- Ops of preempted contexts with their spindle (R253). -/
  saved : List (Nat × WeftOp)
  /-- MACs of a spindle beyond the last 256 that its counter 2 has counted (Table 11-6). -/
  macs : Sparse Nat
deriving DecidableEq, Repr

/-- A candidate of a ray (R264-R267, R270); T, U, V and the vectors are binary32 patterns. -/
structure Cand where
  t : Nat
  u : Nat
  v : Nat
  prim : Nat
  inst : Nat
  shader : Nat
  back : Bool
  proc : Bool
  /-- Object-space origin and direction. -/
  obj : List Nat
  /-- Corners of a procedural box. -/
  box : List Nat
  /-- 2 any-hit callback, 3 intersection callback, 0 none. -/
  cb : Nat
deriving DecidableEq, Repr

/-- The instance a ray is in: transformed origin and direction, and what later steps need of the record (R264). -/
structure RayInst where
  o : List Nat
  d : List Nat
  flags : Nat
  sbt : Nat
  index : Nat
deriving DecidableEq, Repr

/-- A block a ray has still to visit. kind: 0 treelet header, 1 box node, 2 leaf block or instance record. -/
structure RayTodo where
  kind : Nat
  va : Nat
  hdr : Nat
  level : Nat
  size : Nat
  base : Nat
  /-- Box nodes on the path so far in this tree. -/
  depth : Nat
  /-- Entry distance of the box it was reached through, as a fraction. -/
  entry : Option (Int × Nat)
  inst : Option RayInst
deriving DecidableEq, Repr

/-- Where a ray in flight is. -/
inductive RayPlace
  /-- It waits to move to the home of the treelet it must enter. -/
  | toMove
  /-- In its slot with no hank header free (R282). -/
  | unfiled
  | filed (hank : Nat)
  /-- It waits on callbacks (R270). -/
  | callback
  /-- It waits on a fault (R135): 0 of traversal, 1 of its hit record's write, 2 of its shader table entry's read. -/
  | parked (why : Nat)
  /-- It has ended and is to be delivered. -/
  | ended
  /-- Handed to a return spool. -/
  | spool
deriving DecidableEq, Repr

/-- A ray in flight (R278-R288): one slot's working record. -/
structure Ray where
  id : Nat
  ctx : Nat
  trace : Nat
  /-- Its lane, or its position in the batch. -/
  pos : Nat
  /-- Spindle of the slice that holds it. -/
  sp : Nat
  /-- Its 64-byte record. -/
  bytes : List Byte
  /-- Address of its hit record, if it has one. -/
  hit : Option Nat
  todo : List RayTodo
  best : Option Cand
  tmax : Nat
  visits : Nat
  status : Nat
  place : RayPlace
  /-- Candidates out to callbacks, by number; none once answered. -/
  cbs : List (Option Cand)
  /-- Ply and lane of the thread whose allotment it was admitted under (R288). -/
  thread : Option (Nat × Nat)
  /-- It sits in that allotted slot. -/
  inAllot : Bool
  /-- Header of the treelet it was last filed for. -/
  cur : Nat
  /-- Spilled by a preemption (R293): it holds no slot. -/
  saved : Bool
  /-- Its hit record has been written or lost. -/
  recDone : Bool
  /-- It takes no shader: the read of its MISS_INDEX entry was aborted (R275). -/
  noShade : Bool
deriving DecidableEq, Repr

/-- A TRACE instruction or a TRACE_BATCH packet under way. -/
structure Trace where
  id : Nat
  ctx : Nat
  owner : WorkOwner
  /-- The packet its plies count for (R285). -/
  packet : Nat
  tag : Nat
  /-- Admission slice of a TRACE: the ply's spindle. -/
  sp : Nat
  mode : Nat
  root : Nat
  /-- Shader table address; 0: none. -/
  table : Nat
  ret : Bool
  /-- Rays read and not admitted: position, record, hit record address, and the thread. -/
  todo : List (Nat × List Byte × Option Nat × Option (Nat × Nat))
  /-- Rays of a batch whose records are still to be read: the next one, and RAY_COUNT. -/
  next : Nat
  count : Nat
  rayAddr : Nat
  hitAddr : Nat
  /-- Threads and PC of a TRACE that has not retired. -/
  mask : BitVec 32
  pc : Nat
  /-- Some ray ended UNCORRECTABLE; some ended FAULT_ABORTED or a record was lost; cut short. -/
  ue : Bool
  aborted : Bool
  cut : Bool
  /-- BAD_TREE and TOO_DEEP were logged (R276). -/
  logged : List Nat
  /-- Its token is done. -/
  told : Bool
deriving DecidableEq, Repr

/-- A hank header in use (R282): phase 0 open, 1 closed, 2 taken by the whorl. -/
structure Hank where
  id : Nat
  sp : Nat
  ctx : Nat
  hdr : Nat
  phase : Nat
  /-- Rays filed into it so far. -/
  filed : Nat
  /-- Order of closing. -/
  closedAt : Nat
deriving DecidableEq, Repr

/-- The key of a spool group (R286). kind: 0 hit, 1 miss, 2 any-hit, 3 intersection. -/
structure SpoolKey where
  sp : Nat
  ctx : Nat
  packet : Nat
  table : Nat
  entry : Nat
  kind : Nat
deriving DecidableEq, Repr

/-- A spool group (R286): its rays in arrival order, each with the number of its candidate. -/
structure SpoolGroup where
  key : SpoolKey
  /-- Code address and VREGS field of its shader table entry. -/
  code : Nat
  vregs : Nat
  rays : List (Nat × Nat)
  flushed : Bool
deriving DecidableEq, Repr

/-- The ray engine (chapters 12 and 13). -/
structure RaySt where
  rays : List Ray
  traces : List Trace
  hanks : List Hank
  groups : List SpoolGroup
  /-- Rays that found no group: key, code, VREGS field, ray, candidate (R286). -/
  overflow : List (SpoolKey × Nat × Nat × Nat × Nat)
  /-- Rays of preempted contexts that were linked in groups or on the list: key, code, VREGS field, ray, candidate (R293). -/
  spooled : List (SpoolKey × Nat × Nat × Nat × Nat)
  /-- Node cache blocks: spindle, context, virtual address, content (R271). -/
  nodes : List (Nat × Nat × Nat × List Byte)
  /-- Home cache entries: spindle, context, header address, home (R279). -/
  homes : List (Nat × Nat × Nat × Nat)
  next : Nat
deriving DecidableEq, Repr

/-- A shaded vertex: clip-space position and varyings, binary32 patterns (R304). -/
structure RVert where
  pos : List Nat
  vars : List Nat
deriving DecidableEq, Repr

/-- An assembled primitive: its draw, its place in the draw, its vertices. -/
structure Prim where
  draw : Nat
  number : Nat
  vs : List RVert
deriving DecidableEq, Repr

/-- A covered pixel whose fragment is being shaded (R306), in submission order. -/
structure Frag where
  id : Nat
  draw : Nat
  x : Nat
  y : Nat
  /-- Samples covered, and those of them that passed the tests. -/
  cover : Nat
  pass : Nat
  /-- Depth and stencil word each sample gets if the fragment is kept, with the sample's number. -/
  writes : List (Nat × Nat)
  /-- Colour as four binary32 patterns, and whether the code discarded it. -/
  out : Option (List Nat × Bool)
deriving DecidableEq, Repr

/-- A quad still to be shaded: primitive, left top pixel, and the covered samples of its four pixels. -/
structure Quad where
  prim : Prim
  x : Nat
  y : Nat
  cover : List Nat
deriving DecidableEq, Repr

/-- A tile buffer in use, or (immediate passes) the work of one backend. phase: 0 loading, 1 shading. -/
structure TileBuf where
  sp : Nat
  slot : Nat
  tx : Nat
  ty : Nat
  phase : Nat
  /-- Colour words and depth-stencil words by pixel * SAMPLES + sample. -/
  col : Sparse Nat
  dep : Sparse Nat
  todo : List Prim
  quads : List Quad
  frags : List Frag
deriving DecidableEq, Repr

/-- A render pass under way or suspended (chapter 14). phase: 1 binning, 2 rendering, 3 partial render, 5 immediate. -/
structure Pass where
  ctx : Nat
  index : Nat
  hdr : List Byte
  draws : List (List Byte)
  target : List Byte
  resolve : Option (List Byte)
  /-- SPILL leas held (R315). -/
  reserve : List Nat
  phase : Nat
  /-- The draw and vertex placed next. -/
  vDraw : Nat
  vNext : Nat
  /-- Shaded vertices: draw, position. -/
  verts : List (Nat × Nat × RVert)
  /-- The primitive assembled next. -/
  pDraw : Nat
  pNext : Nat
  /-- Binned primitives in order, with their tiles. -/
  bins : List (Prim × List (Nat × Nat))
  pages : Nat
  /-- Tiles of this render still to be given to a backend. -/
  tiles : List (Nat × Nat)
  /-- The spindle that took the last tile, and the last vertex ply. -/
  lastTile : Option Nat
  lastVert : Option Nat
  bufs : List TileBuf
  /-- Tiles flushed by a suspension with work left (R318). -/
  parked : List TileBuf
  /-- Tiles flushed (and spilled). -/
  flushed : List (Nat × Nat)
  /-- Spill units stored compressed, by offset in the reserve (R314). -/
  compressed : List Nat
  /-- Immediate passes: target blocks cached, by backend, with their words. -/
  blocks : List (Nat × Nat × Nat × List Nat)
  suspended : Bool
  /-- A malformed block has been logged. -/
  malformed : Nat
  nextFrag : Nat
deriving DecidableEq, Repr

/-- The raster front end and tile backends. -/
structure RasSt where
  passes : List Pass
deriving DecidableEq, Repr

/-- Scan-out data held by a prefetch buffer (R325): one 64-byte line of a row of a linear plane, or one block of a UMZ plane. -/
structure Piece where
  row : Nat
  col : Nat
  /-- Bytes it holds of the plane's units. -/
  size : Nat
  px : List Nat
  /-- Read with an uncorrectable error (R339). -/
  bad : Bool
deriving DecidableEq, Repr

/-- A plane of the set in use: the eleven latched words of Table 15-2, whether it is shown (R331), the next piece to fetch and
the pieces held. -/
structure PlaneAct where
  words : List Nat
  ok : Bool
  row : Nat
  col : Nat
  pieces : List Piece
deriving DecidableEq, Repr

/-- A display pipe (chapter 15): what its registers do not show. -/
structure PipeSt where
  /-- ENABLE was cleared: output stops at the next vertical blank start (R329). -/
  stopping : Bool
  /-- HTIMING0 to PCLK_CFG1 as in use. -/
  timing : List Nat
  degamma : Sparse W32
  gamma : Sparse W32
  planes : List PlaneAct
  /-- SEQ of the pending commit. -/
  seq : Nat
  /-- Complete frames of the timing in use, up to 2 (R327). -/
  frames : Nat
  /-- The next active line to be formed. -/
  next : Nat
  /-- First affected line and affected lines of an underrun in this frame (R326). -/
  under : Option (Nat × Nat)
  /-- An uncorrectable read was logged in this frame (R339). -/
  ueLogged : Bool
  /-- The components of the line last given to the port, 10 bits a component field. -/
  out : List Nat
deriving DecidableEq, Repr

/-- A display port (Table 15-3). -/
structure PortSt where
  /-- Link training runs (R333). -/
  training : Bool
  /-- DSI packets waiting: data type, length, parameter, payload (R334). -/
  dsi : List (Nat × Nat × Nat × List Byte)
  /-- The packet sent last. -/
  sent : Option (Nat × Nat × Nat × List Byte)
deriving DecidableEq, Repr

/-- The display block. -/
structure DisplaySt where
  pipes : List PipeSt
  ports : List PortSt
deriving DecidableEq, Repr

/-- A touch sensor in use (chapter 16); its touched bit is in SENSOR_STATE. -/
structure SensSt where
  id : Nat
  /-- Scans in a row that count toward touch, toward release and toward the water state. -/
  onCnt : Nat
  offCnt : Nat
  waterCnt : Nat
  water : Bool
  /-- Per segment: scans in a row with DELTA at or below -ANTI (R348). -/
  anti : List Nat
  /-- The recalibration in progress: cause, scans taken, sums of the segments' SIGNAL values (R349). -/
  recal : Option (Nat × Nat × List Nat)
  pos : Nat
  delta : Int
deriving DecidableEq, Repr

/-- The progress of a wake pattern (R353): time of the first touched scan or of the START position, and the last position. -/
structure WakeSt where
  a : Nat
  b : Nat
  since : Option Nat
  last : Nat
deriving DecidableEq, Repr

/-- The touch front end (chapter 16). Baselines and signals are in CH_DATA. -/
structure TouchSt where
  /-- Scans of the initial capture still to come, and the sums so far by channel (R345). -/
  initLeft : Nat
  initSums : Sparse Nat
  sens : List SensSt
  scanning : Bool
  /-- The scan in progress ran free at some time (R342). -/
  free : Bool
  /-- TCH_TIMING, TCH_PROC and WATER_MIN0-7 as taken at scan start (R356). -/
  cfg : List Nat
  /-- GAIN, THRESH and ANTI words of the 64 pins as taken at scan start (R357). -/
  gain : List Nat
  thresh : List Nat
  antiTrim : List Nat
  fifo : List (List Byte)
  seq : Nat
  wakes : List WakeSt
  /-- Sensors scanned in this DOZE. -/
  dozed : List Nat
deriving DecidableEq, Repr

/-- A camera frame in progress (R369-R372). buf: none for a frame dropped whole. -/
structure CamFrame where
  buf : Option Nat
  number : Nat
  fsync : Nat
  sof : Nat
  line : Nat
  /-- The rest of the frame is discarded. -/
  cut : Bool
  /-- STATUS bits so far (Table 17-2). -/
  status : Nat
deriving DecidableEq, Repr

/-- A camera receiver. -/
structure CamSt where
  frame : Option CamFrame
  /-- Frames delivered since ENABLE (R371). -/
  delivered : Nat
  /-- A run of packets outside a frame has been counted (R372). -/
  stray : Bool
  /-- Timebase at the last FSYNC rise (Table 17-2). -/
  rise : Nat
  /-- A strobe for a frame not yet started was cut or suppressed; an illuminator fault came before it. -/
  limited : Bool
deriving DecidableEq, Repr

/-- An illuminator and its limiter (R374-R376). -/
structure IllSt where
  /-- ILL_DRV is high. -/
  high : Bool
  /-- WIDTH and WIDTH_LIMIT taken by the strobe in progress, in microseconds. -/
  width : Nat
  limit : Nat
  /-- The pin has been high before. -/
  used : Bool
deriving DecidableEq, Repr

/-- The cameras block. -/
structure CameraSt where
  cams : List CamSt
  ills : List IllSt
  /-- Timebase of the FSYNC epoch (R373). -/
  epoch : Nat
deriving DecidableEq, Repr

/-- The audio converters and the TDM port (chapter 17). -/
structure AudioSt where
  /-- FRAMES of the capture and of the playback ring, and TIME of the current block's first frame (R379). -/
  cap : Nat
  capTime : Nat
  play : Nat
  playTime : Nat
  /-- The limit in force (R380). -/
  limit : Nat
  /-- Frames left of each DAC's ramp, and its mute bit when the ramp began. -/
  ramp : List Nat
  muted : Nat
  /-- Codes at the DAC outputs and words sent in the TDM slots, of the last 41 frames, newest first (R381, R382). -/
  dacs : List (List Nat)
  tdms : List (List Nat)
deriving DecidableEq, Repr

/-- A packet received and not yet acted on: its slots' bytes, header first (R399). -/
structure InPkt where
  bytes : List Byte
deriving DecidableEq, Repr

/-- An outgoing request under a tag (R405, R406). -/
structure PeerTag where
  tag : Nat
  /-- Who asked: [0, ply, pc, lane], [1, channel, segment, part], [3, context, packet], or [2]: nobody waits. -/
  owner : List Nat
  /-- The packet as issued. -/
  packet : List Byte
  retry : Nat
  /-- RETRY_DELAY runs before its next issue. -/
  delayed : Bool
deriving DecidableEq, Repr

/-- How a request ended: owner, status (Table 18-4a), data. -/
structure PeerDone where
  owner : List Nat
  status : Nat
  data : List Byte
deriving DecidableEq, Repr

/-- A flit kept until it is acknowledged: SEQ, its slots, and how often it has been replayed (R397). -/
structure Replay where
  seq : Nat
  slots : List Byte
  times : Nat
deriving DecidableEq, Repr

/-- A peer port (chapter 18): what its registers do not show. -/
structure PeerPort where
  /-- 0 not training, 1 Detect, 2 Equalise, 3 Align, 4 Credit (R412). -/
  step : Nat
  /-- The link went down and AUTO_RETRAIN may start it again (R414). -/
  downWait : Bool
  /-- DEV_CONTROL.QUIESCE runs on this port (R415). -/
  quiescing : Bool
  /-- Packets that wait for credit: virtual channel and bytes, oldest first (R400). -/
  waiting : List (Nat × List Byte)
  /-- Bytes of slots ready for the next PAYLOAD flits. -/
  ready : List Byte
  replay : List Replay
  /-- The SEQ the replay under way sends next. -/
  resend : Option Nat
  /-- SEQ of the last PAYLOAD flit sent, and of the last one received good and in order (R396). -/
  seq : Nat
  ack : Nat
  /-- A run of flits is being discarded, and its NAK is due (R397). -/
  skipping : Bool
  nakDue : Bool
  /-- A NAK arrived whose replay has not started. -/
  nakGot : Bool
  /-- Slots freed at this receiver per virtual channel, as CR_REQ to CR_MGT count them. -/
  freed : List Nat
  /-- Slots the peer advertised. -/
  advert : List Nat
  /-- The peer's counts last seen. -/
  seen : List Nat
  /-- Slots received that do not make a whole packet yet. -/
  part : List Byte
  inbox : List InPkt
  tags : List PeerTag
  /-- Tags held after a TIMEOUT, with the PTYPE of their request (R406). -/
  heldTags : List (Nat × Nat)
  /-- Requests that ended and whose engine has not taken the result. -/
  ended : List PeerDone
  /-- Timebase at which the PING was sent. -/
  pingAt : Nat
  /-- Messages received since ENABLE (R411). -/
  msgs : Nat
  /-- Bad flits in this millisecond (R420). -/
  bad : Nat
  /-- The flit on the lanes; none in electrical idle. -/
  tx : Option (List Byte)
deriving DecidableEq, Repr

/-- The peer ports. -/
structure PeerSt where
  ports : List PeerPort
deriving DecidableEq, Repr

/-- A segment issued and not complete (R424, R425). -/
structure SegFly where
  /-- Its number within the descriptor, its row (UMZ_COPY: its block) and its place there. -/
  n : Nat
  row : Nat
  seg : Nat
  /-- The source bytes by part (the source lines it spans); none while a peer has not answered. -/
  parts : List (Option (List Byte))
  /-- Its write was sent through a peer window and waits for the answer. -/
  sent : Bool
deriving DecidableEq, Repr

/-- The chain a reel channel holds (chapter 19). -/
structure Chain where
  ctx : Nat
  /-- The packet's ring index; none for a chain the host started. -/
  index : Option Nat
  addr : Nat
  count : Nat
  cur : Nat
  /-- The running descriptor. -/
  desc : Option (List Byte)
  /-- The cursor: segment number, row (block) and place; and the completion mask above it. -/
  cursor : Nat
  curRow : Nat
  curSeg : Nat
  mask : Nat
  /-- The segment issued next. -/
  next : Nat
  nextRow : Nat
  nextSeg : Nat
  flight : List SegFly
  /-- UMZ_COPY: headers of blocks whose copy is under way, by block; malformed headers of this descriptor. -/
  hdrs : Sparse Nat
  malformed : Nat
  /-- No new segment is issued: 0 goes on, 1 waits on a fault, 2 stops for a preemption, 3 ends with status, 4 halted at a
  rejected descriptor. -/
  stop : Nat
  status : Nat
deriving DecidableEq, Repr

/-- The reel engines. -/
structure ReelSt where
  /-- The chain each channel holds, by channel. -/
  chains : Sparse Chain
  /-- Chains saved by a preemption: context and chain. -/
  saved : List (Nat × Chain)
  /-- The host-started chain that waits for channel 15: first descriptor and count (R432). -/
  host : Option (Nat × Nat)
  /-- Channel 15 runs the host-started chain. -/
  direct : Bool
deriving DecidableEq, Repr

/-- The whole state of the block. -/
structure State where
  /-- Commands waiting, first in, first out. -/
  pending : List Instr
  /-- The model's own counter of free values used: not the manual's. -/
  free : Nat
  /-- Every register of the host block and of the control space, by register number; an unlisted one holds its reset value. -/
  regs : Sparse W32
  core : CoreSt
  host : HostSt
  boot : BootSt
  trim : TrimSt
  log : LogSt
  mmu : MmuSt
  q : QueueSt
  fly : FlySt
  mem : MemSt
  weft : WeftSt
  ray : RaySt
  ras : RasSt
  disp : DisplaySt
  touch : TouchSt
  cam : CameraSt
  aud : AudioSt
  peer : PeerSt
  reel : ReelSt
  dbg : DbgSt
  pwr : PwrSt
deriving DecidableEq, Repr

/-- A context's queue state with nothing in it. -/
def CtxQ.empty : CtxQ :=
  { fetched := none, flight := [], savePages := [], saved := none, hold := false, faulted := false, doneWaiting := []
    halted := [], restored := none }

/-- Every rail good. -/
def Rails.allGood : Rails := ⟨true, true, true, true, true, true⟩

/-- A pipe with nothing to show. -/
def PipeSt.empty : PipeSt :=
  { stopping := false, timing := [0, 0, 0, 0, 0, 0, 0], degamma := [], gamma := [], planes := [], seq := 0, frames := 0, next := 0
    under := none, ueLogged := false, out := [] }

/-- A port powered down. -/
def PortSt.empty : PortSt := { training := false, dsi := [], sent := none }

/-- The touch front end stopped (Table 16-7). -/
def TouchSt.empty : TouchSt :=
  { initLeft := 0, initSums := [], sens := [], scanning := false, free := false, cfg := [], gain := [], thresh := []
    antiTrim := [], fifo := [], seq := 0, wakes := [], dozed := [] }

/-- A receiver that is disabled. -/
def CamSt.empty : CamSt := { frame := none, delivered := 0, stray := false, rise := 0, limited := false }

/-- An illuminator at rest. -/
def IllSt.empty : IllSt := { high := false, width := 0, limit := 0, used := false }

/-- The cameras block after reset (Table 17-6). -/
def CameraSt.empty : CameraSt := { cams := [.empty, .empty], ills := [.empty, .empty], epoch := 0 }

/-- The audio block after reset (Table 17-6). -/
def AudioSt.empty : AudioSt :=
  { cap := 0, capTime := 0, play := 0, playTime := 0, limit := 0, ramp := [0, 0, 0, 0], muted := 0, dacs := [], tdms := [] }

/-- A port whose link is down (Table 18-9). -/
def PeerPort.empty : PeerPort :=
  { step := 0, downWait := false, quiescing := false, waiting := [], ready := [], replay := [], resend := none, seq := 4095
    ack := 4095, skipping := false, nakDue := false, nakGot := false, freed := [0, 0, 0, 0], advert := [0, 0, 0, 0], seen := [0, 0, 0, 0], part := []
    inbox := [], tags := [], heldTags := [], ended := [], pingAt := 0, msgs := 0, bad := 0, tx := none }

/-- No chain (Table 19-7). -/
def ReelSt.empty : ReelSt := { chains := [], saved := [], host := none, direct := false }

/-- The block right after PORST# is released (R89, Table 2-9): phase CLOCK, MCLK not running, every register at its
reset value, all memory zero. -/
def State.reset : State :=
  { pending := []
    free := 0
    regs := []
    core :=
      { porstLow := false, freezePin := false, rails := .allGood, pwrreq := some 3#2, railWait := false, mclk := false
        clockLost := none, critical := false, ttrip := false, rmack := false, prsnt := [false, false, false, false]
        audclkLost := false, timebase := 0#64, tbShadow := 0#32, carryC := 0#64, carryA := 0, entryQuiesce := false
        entryCode := none, wakeHeld := false }
    host := { posted := [], hd := 0#32, wait := false, win0 := none, logPage := none, drainTaken := 0, latches := [] }
    boot :=
      { warm := false, wake := false, fullTrain := true, hdr := none, table := [], tableRead := false, idx := 0
        released := false, doorbells := [], target := none }
    trim := { live := [], store := none, reapply := false }
    log := { ring := [], count := 0, queued := [], lastUnit := 0, ceSpent := [], later := [], failed := [], snap := [] }
    mmu := { tlb := [], walkCache := [], recs := [], held := [], inval := none }
    q := { ctxs := [], busy := none, triggers := [], grants := [] }
    fly := { plies := [], nextAge := 0, ic := [], icBusy := [], seen := [] }
    mem :=
      { lost := 0, dram := [], skein := [], roles := [], merge := [], cache := [], l1 := [], dramUe := [], skeinUe := []
        applying := none, scrub := [] }
    weft := { queue := [], running := [], saved := [], macs := [] }
    ray := { rays := [], traces := [], hanks := [], groups := [], overflow := [], spooled := [], nodes := [], homes := [], next := 0 }
    ras := { passes := [] }
    disp := { pipes := [.empty, .empty, .empty, .empty], ports := [.empty, .empty, .empty, .empty] }
    touch := .empty
    cam := .empty
    aud := .empty
    peer := { ports := [.empty, .empty, .empty, .empty] }
    reel := .empty
    dbg := { doff := none, ir := 0x01, boundary := [], captured := [], ctrlData := 0#32, ctrlStatus := 3, tdo := 0#64, freezeSeed := 0 }
    pwr := { caps := [], issued := [], badLogged := [] } }

end Sys2Proof.Machine
end

