-- ==== Sys2Proof/Machine/Ops.lean ====
section
/-! DEFINITION. The named operations every meaning is built from: registers and their fields, interrupts, the event
log, counters, fault-queue arithmetic, and the conditions under which the interior runs. -/

namespace Sys2Proof.Machine

open Sys2Proof

/-- The outcome of a meaning. -/
abbrev Res := Host.Outcome State Fault Refusal

/-! ### Registers -/

/-- The stored value of a register. -/
def State.reg (s : State) (r : Nat) : W32 := Sparse.get regReset s.regs r

/-- Store a register. -/
def State.setReg (s : State) (r : Nat) (v : W32) : State := { s with regs := Sparse.put regReset s.regs r v }

/-- A field: register number and bits. -/
structure Fld where
  reg : Nat
  hi : Nat
  lo : Nat
deriving DecidableEq, Repr

/-- The value of a field. -/
def State.fld (s : State) (f : Fld) : Nat := bitsOf (s.reg f.reg) f.hi f.lo

/-- A one-bit field as a truth value. -/
def State.flag (s : State) (f : Fld) : Bool := s.fld f ≠ 0

/-- Set a field. -/
def State.setFld (s : State) (f : Fld) (v : Nat) : State := s.setReg f.reg (withBits (s.reg f.reg) f.hi f.lo v)

/-- Set a one-bit field. -/
def State.setFlag (s : State) (f : Fld) (b : Bool) : State := s.setFld f (if b then 1 else 0)

/-- Set several fields in order. -/
def State.setFlds (s : State) : List (Fld × Nat) → State
  | [] => s
  | (f, v) :: t => (s.setFld f v).setFlds t

/-- Add to a field that saturates at its largest value. -/
def State.addSat (s : State) (f : Fld) (n : Nat) : State :=
  s.setFld f (satN (2 ^ (f.hi + 1 - f.lo) - 1) (s.fld f + n))

/-! The fields that rules name. -/

def fPhase : Fld := ⟨0x08, 31, 28⟩
def fReady : Fld := ⟨0x08, 27, 27⟩
def fDramReady : Fld := ⟨0x08, 26, 26⟩
def fTrimDefaults : Fld := ⟨0x08, 25, 25⟩
def fQuiesced : Fld := ⟨0x08, 24, 24⟩
def fRmreq : Fld := ⟨0x08, 23, 23⟩
def fFrozen : Fld := ⟨0x08, 22, 22⟩
def fHardFrozen : Fld := ⟨0x08, 21, 21⟩
def fAonOnly : Fld := ⟨0x08, 20, 20⟩
def fDramGib : Fld := ⟨0x04, 31, 24⟩
def fRmAck : Fld := ⟨0x0C, 1, 1⟩
def fQuiesce : Fld := ⟨0x0C, 0, 0⟩
def fCause : Fld := ⟨0x14, 31, 28⟩
def fPgFell : Fld := ⟨0x14, 27, 23⟩
def fFuncBusy : Fld := ⟨0x14, 13, 0⟩
def fWinErr (w : Nat) : Fld := ⟨if w = 0 then 0x30 else 0x40, 31, 29⟩
def fCtxState (c : Nat) : Fld := ⟨0x50, 2 * c + 1, 2 * c⟩
def fCtxEn (c : Nat) : Fld := ⟨0x4C, c, c⟩
def fPreBusy : Fld := ⟨0x54, 31, 31⟩
def fPreCtx : Fld := ⟨0x54, 19, 16⟩
def fHead : Fld := ⟨0x58, 8, 0⟩
def fTail : Fld := ⟨0x5C, 8, 0⟩
def fRecord : Fld := ⟨0x60, 23, 16⟩
def fWordIndex : Fld := ⟨0x64, 25, 16⟩
def fReadSeq : Fld := ⟨0x64, 15, 0⟩
def fLost : Fld := ⟨0x68, 31, 16⟩
def fWriteSeq : Fld := ⟨0x68, 15, 0⟩
def fPageCount : Fld := ⟨0x70, 23, 15⟩
def fPageHeld : Fld := ⟨0x70, 14, 14⟩
def fThresh : Fld := ⟨0x70, 11, 3⟩
def fPwrBusy : Fld := ⟨0x74, 31, 31⟩
def fCurrent : Fld := ⟨0x74, 5, 4⟩
def fTarget : Fld := ⟨0x74, 1, 0⟩
def fHottest : Fld := ⟨0x7C, 31, 24⟩
def fSensorIx : Fld := ⟨0x7C, 23, 18⟩
def fZone : Fld := ⟨0x7C, 17, 16⟩
def fSourcePin : Fld := ⟨0x88, 2, 2⟩
def fDoffActive : Fld := ⟨0x8C, 31, 31⟩
def fJtagOwns : Fld := ⟨0x8C, 30, 30⟩
def fDoffPage : Fld := ⟨0x8C, 29, 16⟩
def fDoffChain : Fld := ⟨0x8C, 15, 8⟩
def fCalBusy : Fld := ⟨0x98, 31, 31⟩
def fCalResult : Fld := ⟨0x98, 30, 28⟩
def fCalDefaults : Fld := ⟨0x98, 27, 27⟩
def fCalSlot : Fld := ⟨0x98, 26, 26⟩
def fCalGen : Fld := ⟨0x98, 23, 0⟩
def fWdRemain : Fld := ⟨0xB0, 31, 20⟩
def fWdPeriod : Fld := ⟨0xB0, 19, 12⟩
def fWdAction : Fld := ⟨0xB0, 11, 10⟩
def fWdLock : Fld := ⟨0xB0, 9, 9⟩
def fSync : Fld := ⟨0xB4, 1, 1⟩
def fQspiRelease : Fld := ⟨C 0x104, 1, 1⟩
def fResumed : Fld := ⟨C 0x100, 0, 0⟩
def fStoreStep : Fld := ⟨C 0xF0008, 2, 0⟩

/-- Interrupt bits of INT_STATUS (Table 3-9). -/
def iQueue : Nat := 0
def iFault : Nat := 1
def iLog : Nat := 2
def iLogLost : Nat := 3
def iErrCorr : Nat := 4
def iErrUncorr : Nat := 5
def iThermal : Nat := 6
def iPower : Nat := 7
def iWake : Nat := 8
def iLink : Nat := 9
def iDisplay : Nat := 10
def iTouch : Nat := 11
def iPreempt : Nat := 12
def iWdogWarn : Nat := 13
def iWinErr : Nat := 14
def iRmreq : Nat := 15
def iCal : Nat := 16
def iFrozen : Nat := 17
def iResetDone : Nat := 18
def iStartDone : Nat := 19
def iDoorbellReject : Nat := 20
def iQueueError : Nat := 21

/-- Set an INT_STATUS bit: its event occurred (R70). -/
def raiseInt (bit : Nat) (s : State) : State := s.setFld ⟨0x18, bit, bit⟩ 1

/-- Undelivered log entries A (R64). -/
def undelivered (s : State) : Nat := (s.fld fWriteSeq + 65536 - s.fld fReadSeq) % 65536

/-- Some pipe has an enabled PIPE_INT_STATUS bit set (Table 3-9). PIPE_INT_STATUS and PIPE_INT_EN of pipe n are in its
block at 0x4000 n. -/
def displayCondition (s : State) : Bool :=
  (numsFrom 0 4).any (fun n =>
    (s.reg (C (0x50000 + 0x4000 * n + 0x12C)) &&& s.reg (C (0x50000 + 0x4000 * n + 0x130))) ≠ 0#32)

/-- The condition sources that hold now, as an INT_STATUS mask (R70). -/
def conditions (s : State) : W32 :=
  BitVec.ofNat 32
    (bitVal (s.fld fHead ≠ s.fld fTail) iFault
      + bitVal (s.fld fThresh ≠ 0 && s.fld fThresh ≤ undelivered s) iLog
      + bitVal (s.fld ⟨0xA8, 31, 24⟩ ≠ 0) iTouch
      + bitVal (displayCondition s) iDisplay
      + bitVal (s.reg (C 0x20408) ≠ 0#32) iQueueError)

/-- Set the INT_STATUS bit of every condition source that holds (R70). -/
def refresh (s : State) : State := s.setReg 0x18 (s.reg 0x18 ||| conditions s)

/-- INT# is asserted: some bit is set in INT_STATUS AND INT_ENABLE (R69). -/
def intPin (s : State) : Bool := (s.reg 0x18 &&& s.reg 0x1C) ≠ 0#32

/-- The next state, with the condition sources' interrupt bits brought up to date. -/
def done (s : State) : Res := .next (refresh s)

/-- Apply f where b holds, else change nothing: the event b describes does not occur. -/
def onlyIf (b : Bool) (f : State → State) (s : State) : State := if b then f s else s

/-- A free value below n (n > 0), and the state that has used it. -/
def takeFree (n : Nat) (s : State) : Nat × State := (Config.freeNat s.free % n, { s with free := s.free + 1 })

/-! ### When the interior runs -/

/-- The MCLK branches of the interior run: PLL locked, no freeze, no clock-loss or critical stop, not in DOZE, not held in
reset (R457, R54, R481, R491). -/
def interior (s : State) : Bool :=
  s.core.mclk && !s.core.porstLow && !s.flag fFrozen && s.core.clockLost.isNone && !s.core.critical

/-- Phase READY has been reached. -/
def ready (s : State) : Bool := s.flag fReady

/-- The always-on domain alone runs (R484): AON_ONLY is set and MCLK has not started again for a wake. -/
def inDoze (s : State) : Bool := s.flag fAonOnly && !s.core.mclk

/-- The functions have been released and the interior runs (R96). -/
def running (s : State) : Bool := interior s && s.boot.released

/-! ### Event log -/

/-- Table 21-3: the unit that owns a code. -/
def codeUnit (code : Nat) : Nat := code / 0x20

/-- Put an event in its unit's queue of 8, or drop and count it (R448). -/
def queueEvent (e : LogEntry) (s : State) : State :=
  let u := codeUnit e.code
  if 8 ≤ (s.log.queued.filter (fun q => q.1 = u)).length then
    raiseInt iLogLost (s.addSat ⟨C 0xC000C, 31, 0⟩ 1)
  else { s with log := { s.log with queued := s.log.queued ++ [(u, e)] } }

/-- An event of a running device (R445-R449): CLASS 1 is limited per unit and window and sets ERR_CORR whether or not it is
written; CLASS 2 and 3 count in ERR_UE_TOTAL. -/
def reportEvent (e : LogEntry) (s : State) : State :=
  if e.cls = 1 then
    let s := raiseInt iErrCorr (s.addSat ⟨C 0xC0004, 31, 0⟩ 1)
    let lim := s.fld ⟨C 0xC0000, 15, 0⟩
    let spent := Sparse.get (fun _ => 0) s.log.ceSpent (codeUnit e.code)
    if lim ≠ 0 && lim ≤ spent then s.addSat ⟨C 0xC0010, 31, 0⟩ 1
    else
      queueEvent e { s with log := { s.log with ceSpent := Sparse.put (fun _ => 0) s.log.ceSpent (codeUnit e.code) (spent + 1) } }
  else
    queueEvent e (if e.cls = 2 || e.cls = 3 then s.addSat ⟨C 0xC0008, 31, 0⟩ 1 else s)

/-- Log an event with the time it has; events of a freeze or of DOZE wait for its end (R453). -/
def logEvent (cls code ctx src arg : Nat) (s : State) : State :=
  let now := if inDoze s then s.core.carryC else s.core.timebase
  let e : LogEntry :=
    { cls := cls, ctx := ctx % 16, code := code, src := src % 65536, time := now.toNat % 2 ^ 48, arg := arg % 2 ^ 48 }
  if s.flag fFrozen || inDoze s then
    { s with log := { s.log with later := s.log.later ++ [(codeUnit code, e)] } }
  else reportEvent e s

/-- The generic event OTHER of a unit, with the physical address concerned (R447). -/
def logOther (unit arg : Nat) (s : State) : State := logEvent 4 (unit * 0x20 + 0x1D) 0 0 arg s

/-- The physical address of a register: control space at 0x1100_0000_0000; a host register has its bus offset. -/
def regPa (r : Nat) : Nat := if r < ctlBase then r else 0x110000000000 + (r - ctlBase)

/-- WRITE_IGNORED (R11). -/
def logIgnored (r : Nat) (s : State) : State := logEvent 4 0x041 0 0 (regPa r) s

/-- A write to a register none of whose fields does more than its access code: ignored whole where a field gets an unlisted
encoding (R8, R9, R11); a reserved host offset takes a write and ignores it (R88). -/
def plainWrite (r : Nat) (v : W32) (s : State) : State :=
  match regRow r with
  | none => s
  | some row => if fieldsListed row.flds v then s.setReg r (writeFields row.flds (s.reg r) v) else logIgnored r s

/-- A wake event: its WAKE_STATUS bit and INT_STATUS.WAKE; in DOZE the rails are requested again, during a DOZE entry the event
is held (R485, Table 23-5). -/
def wakeEvent (bit : Nat) (s : State) : State :=
  let s := raiseInt iWake (s.setFld ⟨0x84, bit, bit⟩ 1)
  if inDoze s then
    if s.boot.wake then s
    else
      { (s.setFld fPwrBusy 1) with
        core := { s.core with pwrreq := some 3#2, railWait := true }, boot := { s.boot with wake := true } }
  else if s.core.entryCode = some 1#2 then { s with core := { s.core with wakeHeld := true } }
  else s

/-- POWER_STATE.CURRENT changes: INT_STATUS.POWER and a POWER entry (R482). -/
def powerState (code : Nat) (s : State) : State :=
  let old := s.fld fCurrent
  if old = code then s else raiseInt iPower (logEvent 7 0x002 0 0 (old + 4 * code) (s.setFld fCurrent code))

/-- What ends IDLE: TARGET and CURRENT are set to RUN (R482). -/
def leaveIdle (s : State) : State := if s.fld fCurrent = 1 then powerState 0 (s.setFld fTarget 0) else s

/-- The two 32-bit words and the two 16-bit ends of an entry, as four words (Table 21-2). -/
def LogEntry.words (e : LogEntry) : List W32 :=
  let n := e.src % 65536 + (e.code % 512) * 2 ^ 16 + (e.ctx % 16) * 2 ^ 25 + (e.cls % 8) * 2 ^ 29
    + (e.time % 2 ^ 48) * 2 ^ 32 + (e.arg % 2 ^ 48) * 2 ^ 80
  (numsFrom 0 4).map (fun i => BitVec.ofNat 32 (n / 2 ^ (32 * i)))

/-- An entry enters the ring, overwriting the oldest undelivered one when 4,096 are undelivered (R64). -/
def ringWrite (e : LogEntry) (s : State) : State :=
  let w := s.fld fWriteSeq
  let full := 4096 ≤ undelivered s
  let s := { s with log := { s.log with
    ring := Sparse.insert s.log.ring (w % 4096) e
    count := satN 4096 (s.log.count + 1) } }
  let s := s.setFld fWriteSeq ((w + 1) % 65536)
  let s := if full then raiseInt iLogLost ((s.setFld fReadSeq ((s.fld fReadSeq + 1) % 65536)).addSat fLost 1) else s
  if e.cls = 2 || e.cls = 3 then raiseInt iErrUncorr s else s

/-- The sequence number of the oldest entry still in the ring. -/
def oldestSeq (s : State) : Nat := (s.fld fWriteSeq + 65536 - s.log.count) % 65536

/-- LOG_CTRL.REWIND: discard the held page and deliver its surviving entries again (R64). -/
def rewindLog (s : State) : State :=
  match s.host.logPage with
  | none => s
  | some p =>
    let old := oldestSeq s
    let behind := (old + 65536 - p.first) % 65536
    let ahead : Bool := behind < 61440
    let gone := if ahead then satN p.n behind else 0
    let start := if ahead then old else p.first
    let s := { s with host := { s.host with logPage := none } }
    let s := s.setFlds [(fReadSeq, start), (fWordIndex, 0), (fPageCount, 0), (fPageHeld, 0)]
    if gone = 0 then s else raiseInt iLogLost (s.addSat fLost gone)

/-! ### Counters (R176, R478) -/

/-- The 64-bit counter at a control-space offset. -/
def counter (s : State) (off : Nat) : Nat := (s.reg (C off)).toNat + (s.reg (C (off + 4))).toNat * 2 ^ 32

/-- Set a 64-bit counter. -/
def setCounter (off v : Nat) (s : State) : State :=
  (s.setReg (C off) (BitVec.ofNat 32 v)).setReg (C (off + 4)) (BitVec.ofNat 32 (v / 2 ^ 32))

/-- The fields of AUDIT_STATUS. -/
def fAuditBusy : Fld := ⟨C 0xC0804, 31, 31⟩
def fMismatch : Fld := ⟨C 0xC0804, 30, 30⟩
def fFirst : Fld := ⟨C 0xC0804, 25, 16⟩
def fSnaps : Fld := ⟨C 0xC0804, 15, 0⟩

/-- A ledger failure (R441): MISMATCH, FIRST if MISMATCH was 0, ERR_UNCORR, and one event per ledger with the four terms until
MISMATCH is cleared. -/
def ledgerFailure (i cap free held transit : Nat) (s : State) : State :=
  let s := if s.flag fMismatch then s else s.setFld fFirst i
  let s := raiseInt iErrUncorr (s.setFld fMismatch 1)
  if s.log.failed.contains i then s
  else
    logEvent 3 0x1E1 0 i (satN 4095 cap + satN 4095 free * 2 ^ 12 + satN 4095 held * 2 ^ 24 + satN 4095 transit * 2 ^ 36)
      { s with log := { s.log with failed := i :: s.log.failed } }

/-- Add to a counter of Table 22-6 that counts when its own enable holds and DBG_CNT.HOLD_ALL = 0; it wraps. -/
def bump (enabled : Bool) (off n : Nat) (s : State) : State :=
  if enabled && !s.flag ⟨C 0xD0040, 0, 0⟩ && n ≠ 0 then setCounter off ((counter s off + n) % 2 ^ 64) s else s

/-- Add to a counter of spindle sp's block, which FLY_CFG.CNT_EN enables (Table 8-2). -/
def bumpSp (sp off n : Nat) (s : State) : State :=
  bump (s.flag ⟨C (0x100000 + sp * 0x1000), 1, 1⟩) (0x100000 + sp * 0x1000 + off) n s

/-- Registers from r on, n words, return to their reset values. -/
def resetRange (r n : Nat) (s : State) : State :=
  { s with regs := Sparse.drop (fun k => r ≤ k && k < r + n) s.regs }

/-- Return registers of a list to their reset values. -/
def resetRegs (rs : List Nat) (s : State) : State := { s with regs := Sparse.drop (fun k => rs.contains k) s.regs }

/-! ### The device physical map (Table 6-2) -/

/-- Where a physical address leads. -/
inductive Tgt
  | dram (a : Nat)
  | skein (off : Nat)
  | ctl (off : Nat)
  | peer (port off : Nat)
  | unmapped
deriving DecidableEq, Repr

/-- Installed DRAM in bytes; zero while DRAM_READY = 0 (R118). -/
def dramBytes (s : State) : Nat := if s.flag fDramReady then s.fld fDramGib * 2 ^ 30 else 0

/-- The role of a lea (Table 10-1). -/
def roleOf (s : State) (lea : Nat) : Nat := Sparse.get (fun _ => 0) s.mem.roles lea

/-- A peer window offset leads to the peer: its OUTMAP is enabled and the link is up (R404). -/
def peerOpen (s : State) (port off : Nat) : Bool :=
  s.fld ⟨0x9C, 8 * port + 6, 8 * port + 4⟩ = 2 && s.flag ⟨C (0x90010 + 0x4000 * port + 4 * (off / 2 ^ 40 % 4)), 31, 31⟩

/-- The target of a physical address: DRAM below the check store (R118, R230), SCRATCH and PINNED leas of the aperture
(R209), control space, peer windows. -/
def target (s : State) (pa : Nat) : Tgt :=
  if pa < 0x800000000 then
    if pa < dramBytes s / 32 * 31 then .dram pa else .unmapped
  else if 0x100000000000 ≤ pa && pa < 0x100002000000 then
    let o := pa - 0x100000000000
    let r := roleOf s (o / 65536)
    if r = 0 || r = 3 then .skein o else .unmapped
  else if 0x110000000000 ≤ pa && pa < 0x110001000000 then .ctl (pa - 0x110000000000)
  else if 0x200000000000 ≤ pa && pa < 0x300000000000 then
    let port := (pa - 0x200000000000) / 2 ^ 42
    let off := (pa - 0x200000000000) % 2 ^ 42
    if peerOpen s port off then .peer port off else .unmapped
  else .unmapped

/-! ### Function groups -/

/-- FUNC_BUSY of one function bit (Table 3-8). -/
def funcBusy (s : State) (bit : Nat) : Bool := bitN (s.fld fFuncBusy) bit

/-- The word of bytes, little-endian (R4). -/
def leNat : List Byte → Nat
  | [] => 0
  | b :: t => b.toNat + 256 * leNat t

/-- The n low bytes of a number, little-endian (R4). -/
def leBytes : Nat → Nat → List Byte
  | 0, _ => []
  | n + 1, v => BitVec.ofNat 8 v :: leBytes n (v / 256)

/-- n bytes of a list from an offset, as a number; a byte past the end reads zero. -/
def fieldAt (bs : List Byte) (off n : Nat) : Nat := leNat ((bs.drop off).take n)

/-- CRC-32C over one byte (R93): polynomial 0x1EDC_6F41 reflected. -/
def crcByte (crc : Nat) (b : Byte) : Nat :=
  (numsFrom 0 8).foldl (fun c _ => if c % 2 = 1 then (c / 2) ^^^ 0x82F63B78 else c / 2) (crc ^^^ b.toNat)

/-- CRC-32C with initial value and final XOR 0xFFFF_FFFF (Table 4-3). -/
def crc32c (bs : List Byte) : Nat := (bs.foldl crcByte 0xFFFFFFFF) ^^^ 0xFFFFFFFF

end Sys2Proof.Machine
end

