-- ==== Sys2Proof/Machine/Flags.lean ====
section
/-! DEFINITION. Floating point with its sticky flags (R189-R192): exact values, one rounding, and the flags that the
rounding and the special cases raise. Integer instructions raise no flag (R188). -/

namespace Sys2Proof.Machine

open Sys2Proof

/-- A binary format: precision with the hidden bit, least normal exponent, and the largest finite magnitude as mant * 2^exp. -/
structure Fmt where
  prec : Nat
  emin : Int
  maxM : Nat
  maxE : Int
  /-- Width of the exponent field. -/
  ebits : Nat
  /-- The format has infinities (E4M3 has none). -/
  hasInf : Bool
deriving DecidableEq, Repr

def fmt32 : Fmt := ⟨24, -126, 2 ^ 24 - 1, 104, 8, true⟩
def fmt16 : Fmt := ⟨11, -14, 2 ^ 11 - 1, 5, 5, true⟩
def fmtBf : Fmt := ⟨8, -126, 2 ^ 8 - 1, 120, 8, true⟩
def fmtE5M2 : Fmt := ⟨3, -14, 7, 13, 5, true⟩
def fmtE4M3 : Fmt := ⟨4, -6, 14, 5, 4, false⟩

/-- A floating-point value: NaN (signalling or not), infinity, or (-1)^neg * m * 2^e. -/
inductive FV
  | nan (sig : Bool)
  | inf (neg : Bool)
  | fin (neg : Bool) (m : Nat) (e : Int)
deriving DecidableEq, Repr

/-- The sticky flags (R192): invalid, divide-by-zero, overflow, underflow, inexact. -/
abbrev Fl := Nat
def flNV : Fl := 1
def flDZ : Fl := 2
def flOF : Fl := 4
def flUF : Fl := 8
def flNX : Fl := 16

/-- Rounding modes of RND (Table 9-4). -/
inductive Rnd
  | ne | zero | up | down
deriving DecidableEq, Repr

def rndOf (n : Nat) : Rnd := if n = 0 then .ne else if n = 1 then .zero else if n = 2 then .up else .down

/-- The value a bit pattern holds. -/
def fdecode (f : Fmt) (bits : Nat) : FV :=
  let mb := f.prec - 1
  let neg := bitN bits (mb + f.ebits)
  let ex := bitsN bits (mb + f.ebits - 1) mb
  let fr := bits % 2 ^ mb
  let top := 2 ^ f.ebits - 1
  if f.hasInf && ex = top then (if fr = 0 then .inf neg else .nan (! bitN fr (mb - 1)))
  else if !f.hasInf && ex = top && fr = 2 ^ mb - 1 then .nan false
  else if ex = 0 then .fin neg fr (f.emin - mb)
  else .fin neg (fr + 2 ^ mb) (f.emin - mb + (ex - 1 : Nat))

/-- The canonical quiet NaN of a format (R190). -/
def fnan (f : Fmt) : Nat :=
  if f.hasInf then (2 ^ f.ebits - 1) * 2 ^ (f.prec - 1) + 2 ^ (f.prec - 2)
  else 2 ^ (f.ebits + f.prec - 1) - 1

/-- The sign bit of a pattern. -/
def fsign (f : Fmt) (neg : Bool) : Nat := bitVal neg (f.prec - 1 + f.ebits)

/-- Infinity of a format that has one. -/
def finf (f : Fmt) (neg : Bool) : Nat := fsign f neg + (2 ^ f.ebits - 1) * 2 ^ (f.prec - 1)

/-- The pattern of a representable magnitude m * 2^e with m < 2^prec and e at least the subnormal exponent. -/
def fpack (f : Fmt) (neg : Bool) (m : Nat) (e : Int) : Nat :=
  let mb := f.prec - 1
  if m < 2 ^ mb then fsign f neg + m
  else fsign f neg + (e - (f.emin - mb) + 1).toNat * 2 ^ mb + (m - 2 ^ mb)

/-- The largest finite pattern. -/
def fmax (f : Fmt) (neg : Bool) : Nat := fpack f neg f.maxM f.maxE

/-- Bit length of a number. -/
def bitLen (m : Nat) : Nat := if m = 0 then 0 else m.log2 + 1

/-- Round m * 2^e (plus something below the last bit when sticky) to a multiple of 2^q: the multiple and whether it is inexact. -/
def roundAt (r : Rnd) (neg : Bool) (m : Nat) (e q : Int) (sticky : Bool) : Nat × Bool :=
  if q ≤ e then (m * 2 ^ (e - q).toNat, sticky)
  else
    let sh := (q - e).toNat
    let keep := m / 2 ^ sh
    let rem := m % 2 ^ sh
    let half := 2 ^ (sh - 1)
    let inexact := rem ≠ 0 || sticky
    let up := match r with
      | .ne => half < rem || (rem = half && (sticky || keep % 2 = 1))
      | .zero => false
      | .up => inexact && !neg
      | .down => inexact && neg
    (if up then keep + 1 else keep, inexact)

/-- m * 2^e is larger than n * 2^d. -/
def magGt (m : Nat) (e : Int) (n : Nat) (d : Int) : Bool :=
  if d ≤ e then n < m * 2 ^ (e - d).toNat else n * 2 ^ (d - e).toNat < m

/-- The overflowed result of a rounding mode (IEEE 754; R190). sat gives the largest finite value. -/
def foverflow (f : Fmt) (r : Rnd) (neg sat : Bool) : Nat :=
  let toInf := match r with
    | .ne => true | .zero => false | .up => !neg | .down => neg
  if sat || !toInf then fmax f neg else if f.hasInf then finf f neg else fnan f

/-- Round an exact magnitude into a format once, with its flags: overflow by the rounded magnitude, underflow when tiny after
rounding and inexact, subnormal results flushed under FTZ (R189, R190, R192). -/
def fround (f : Fmt) (r : Rnd) (ftz satOv neg : Bool) (m : Nat) (e : Int) (sticky : Bool) : Nat × Fl :=
  if m = 0 && !sticky then (fsign f neg, 0)
  else
    let qn := e + bitLen m - f.prec
    let q := if qn < f.emin - (f.prec - 1 : Nat) then f.emin - (f.prec - 1 : Nat) else qn
    let (k, ix) := roundAt r neg m e q sticky
    let (ku, _) := roundAt r neg m e qn sticky
    let tiny := magGt 1 f.emin ku qn
    let (k, q) := if 2 ^ f.prec ≤ k then (k / 2, q + 1) else (k, q)
    if magGt k q f.maxM f.maxE then (foverflow f r neg satOv, flOF + flNX)
    else if ftz && k ≠ 0 && magGt 1 f.emin k q then (fsign f neg, flUF + flNX)
    else (fpack f neg k q, (if ix then flNX else 0) + (if tiny && ix then flUF else 0))

/-- The value with FTZ's reading of subnormal inputs (R190). -/
def fread (f : Fmt) (ftz : Bool) (bits : Nat) : FV :=
  match fdecode f bits with
  | .fin n m e => if ftz && m < 2 ^ (f.prec - 1) then .fin n 0 e else .fin n m e
  | v => v

/-- Invalid for a signalling NaN among the inputs (R190). -/
def sigFl (vs : List FV) : Fl := if vs.contains (.nan true) then flNV else 0

def FV.isNan : FV → Bool
  | .nan _ => true
  | _ => false

/-- The value with its sign replaced by f of it. -/
def FV.mapSign (g : Bool → Bool) : FV → FV
  | .nan s => .nan s
  | .inf n => .inf (g n)
  | .fin n m e => .fin (g n) m e

/-- Round an exact finite sum given as a signed integer times 2^e; an exact zero is +0, or -0 toward minus infinity, unless
zneg says both addends were zeros of that sign. -/
def fsum (f : Fmt) (r : Rnd) (ftz : Bool) (v : Int) (e : Int) (zneg : Option Bool) : Nat × Fl :=
  if v = 0 then (fsign f (zneg.getD (r = .down)), 0)
  else fround f r ftz false (v < 0) v.natAbs e false

/-- The signed integer of a magnitude. -/
def sgn (neg : Bool) (m : Nat) : Int := if neg then -(m : Int) else (m : Int)

/-- Exact addition of two finite values at a common exponent. -/
def addExact (n1 : Bool) (m1 : Nat) (e1 : Int) (n2 : Bool) (m2 : Nat) (e2 : Int) : Int × Int :=
  if e1 ≤ e2 then (sgn n1 m1 + sgn n2 (m2 * 2 ^ (e2 - e1).toNat), e1)
  else (sgn n1 (m1 * 2 ^ (e1 - e2).toNat) + sgn n2 m2, e2)

/-- A + B (R189). -/
def fadd (f : Fmt) (r : Rnd) (ftz : Bool) (a b : FV) : Nat × Fl :=
  match a, b with
  | .nan _, _ | _, .nan _ => (fnan f, sigFl [a, b])
  | .inf x, .inf y => if x = y then (finf f x, 0) else (fnan f, flNV)
  | .inf x, _ => (finf f x, 0)
  | _, .inf y => (finf f y, 0)
  | .fin n1 m1 e1, .fin n2 m2 e2 =>
    let (v, e) := addExact n1 m1 e1 n2 m2 e2
    fsum f r ftz v e (if m1 = 0 && m2 = 0 && n1 = n2 then some n1 else none)

/-- A * B (R189). -/
def fmul (f : Fmt) (r : Rnd) (ftz : Bool) (a b : FV) : Nat × Fl :=
  match a, b with
  | .nan _, _ | _, .nan _ => (fnan f, sigFl [a, b])
  | .inf x, .inf y => (finf f (x != y), 0)
  | .inf x, .fin n m _ => if m = 0 then (fnan f, flNV) else (finf f (x != n), 0)
  | .fin n m _, .inf y => if m = 0 then (fnan f, flNV) else (finf f (n != y), 0)
  | .fin n1 m1 e1, .fin n2 m2 e2 => fround f r ftz false (n1 != n2) (m1 * m2) (e1 + e2) false

/-- A * B + C with a single rounding; 0 times infinity raises invalid even beside a quiet NaN (R189, R190). -/
def ffma (f : Fmt) (r : Rnd) (ftz : Bool) (a b c : FV) : Nat × Fl :=
  let zinf : Bool := match a, b with
    | .inf _, .fin _ m _ => m = 0
    | .fin _ m _, .inf _ => m = 0
    | _, _ => false
  if zinf then (fnan f, flNV)
  else
    match a, b, c with
    | .nan _, _, _ | _, .nan _, _ | _, _, .nan _ => (fnan f, sigFl [a, b, c])
    | .fin n1 m1 e1, .fin n2 m2 e2, .fin n3 m3 e3 =>
      let pn := n1 != n2
      let (v, e) := addExact pn (m1 * m2) (e1 + e2) n3 m3 e3
      fsum f r ftz v e (if (m1 = 0 || m2 = 0) && m3 = 0 && pn = n3 then some pn else none)
    | .fin _ _ _, .fin _ _ _, .inf z => (finf f z, 0)
    | a, b, c =>
      let neg := fun v => match v with
        | FV.inf n => n
        | FV.fin n _ _ => n
        | FV.nan _ => false
      let pn := neg a != neg b
      match c with
      | .inf z => if z = pn then (finf f pn, 0) else (fnan f, flNV)
      | _ => (finf f pn, 0)

/-- A / B (R189). -/
def fdiv (f : Fmt) (r : Rnd) (ftz : Bool) (a b : FV) : Nat × Fl :=
  match a, b with
  | .nan _, _ | _, .nan _ => (fnan f, sigFl [a, b])
  | .inf _, .inf _ => (fnan f, flNV)
  | .inf x, .fin n _ _ => (finf f (x != n), 0)
  | .fin n _ _, .inf y => (fsign f (n != y), 0)
  | .fin n1 m1 e1, .fin n2 m2 e2 =>
    if m2 = 0 then (if m1 = 0 then (fnan f, flNV) else (finf f (n1 != n2), flDZ))
    else if m1 = 0 then (fsign f (n1 != n2), 0)
    else
      let k := f.prec + 3 + bitLen m2
      fround f r ftz false (n1 != n2) (m1 * 2 ^ k / m2) (e1 - e2 - k) (m1 * 2 ^ k % m2 ≠ 0)

/-- The integer square root, bit by bit from bit n - 1 down. -/
def isqrt (v : Nat) : Nat → Nat → Nat
  | 0, acc => acc
  | n + 1, acc => let t := acc + 2 ^ n; isqrt v n (if t * t ≤ v then t else acc)

/-- The square root of A (R189). -/
def fsqrt (f : Fmt) (r : Rnd) (ftz : Bool) (a : FV) : Nat × Fl :=
  match a with
  | .nan _ => (fnan f, sigFl [a])
  | .inf n => if n then (fnan f, flNV) else (finf f false, 0)
  | .fin n m e =>
    if m = 0 then (fsign f n, 0)
    else if n then (fnan f, flNV)
    else
      let k0 := 2 * f.prec + 6
      let k := if (e - k0) % 2 = 0 then k0 else k0 + 1
      let v := m * 2 ^ k
      let q := isqrt v (bitLen v / 2 + 1) 0
      fround f r ftz false false q ((e - k) / 2) (q * q ≠ v)

/-- a is below b among non-NaN values; -0 is below +0 (R190). -/
def flt (a b : FV) : Bool :=
  match a, b with
  | .inf x, .inf y => x && !y
  | .inf x, .fin _ _ _ => x
  | .fin _ _ _, .inf y => !y
  | .fin n1 m1 e1, .fin n2 m2 e2 =>
    let (d, _) := addExact n1 m1 e1 (!n2) m2 e2
    d < 0 || (d = 0 && m1 = 0 && m2 = 0 && n1 && !n2)
  | _, _ => false

/-- Exact re-encoding of a value that came from the format. -/
def fencode (f : Fmt) (v : FV) : Nat :=
  match v with
  | .nan _ => fnan f
  | .inf n => finf f n
  | .fin n m e => (fround f .ne false false n m e false).1

/-- minimumNumber (lo) or maximumNumber of A and B (R190). -/
def fminmax (f : Fmt) (lo : Bool) (a b : FV) : Nat × Fl :=
  let fl := sigFl [a, b]
  match a.isNan, b.isNan with
  | true, true => (fnan f, fl)
  | true, false => (fencode f b, fl)
  | false, true => (fencode f a, fl)
  | false, false => (fencode f (if flt a b then (if lo then a else b) else (if lo then b else a)), fl)

/-- SAT on an arithmetic result: clamp to [+0, +1]; NaN and -0 become +0 (R190). -/
def fsat (f : Fmt) (sat : Bool) (bits : Nat) : Nat :=
  if ! sat then bits
  else
    match fdecode f bits with
    | .nan _ => 0
    | .inf n => if n then 0 else fpack f false (2 ^ (f.prec - 1)) (1 - (f.prec : Int))
    | .fin n m e =>
      if n || m = 0 then 0
      else if magGt m e 1 0 then fpack f false (2 ^ (f.prec - 1)) (1 - (f.prec : Int))
      else bits

/-- Equality of non-NaN values; both zeros are equal. -/
def feq (a b : FV) : Bool :=
  match a, b with
  | .inf x, .inf y => x = y
  | .fin n1 m1 e1, .fin n2 m2 e2 => (addExact n1 m1 e1 (!n2) m2 e2).1 = 0
  | _, _ => false

/-- Numeric below, with -0 equal to +0 (comparisons of Table 9-8). -/
def fbelow (a b : FV) : Bool := flt a b && !feq a b

/-- An integer into a format (R189). -/
def fofInt (f : Fmt) (r : Rnd) (ftz : Bool) (v : Int) : Nat × Fl :=
  if v = 0 then (0, 0) else fround f r ftz false (v < 0) v.natAbs 0 false

/-- Conversion to an integer range lo..hi (R190). -/
def ftoInt (r : Rnd) (lo hi : Int) (a : FV) : Int × Fl :=
  match a with
  | .nan _ => (0, flNV)
  | .inf n => (if n then lo else hi, flNV)
  | .fin n m e =>
    let (k, ix) := roundAt r n m e 0 false
    let v := sgn n k
    if v < lo then (lo, flNV) else if hi < v then (hi, flNV) else (v, if ix then flNX else 0)

/-- A value into another format by rounding, as CVT does between binary32 and binary16 (R189). -/
def fcvt (f : Fmt) (r : Rnd) (ftz : Bool) (a : FV) : Nat × Fl :=
  match a with
  | .nan _ => (fnan f, sigFl [a])
  | .inf n => (finf f n, 0)
  | .fin n m e => fround f r ftz false n m e false

/-- A value into FP8 or BF16: SAT has its own meaning (R190). -/
def fpackTo (f : Fmt) (r : Rnd) (ftz sat : Bool) (a : FV) : Nat × Fl :=
  match a with
  | .nan _ => (fnan f, sigFl [a])
  | .inf n =>
    if f.hasInf then (if sat then fmax f n else finf f n, 0)
    else (if sat then fmax f n else fnan f, flNV)
  | .fin n m e => fround f r ftz sat n m e false

/-- The magnitude pattern k steps away from a positive finite pattern, kept within [0, infinity]. -/
def ulpStep (bits : Nat) (k : Int) : Nat :=
  let v := (bits : Int) + k
  if v < 0 then 0 else if (finf fmt32 false : Int) < v then finf fmt32 false else v.toNat

/-- RCP: within one ulp of 1/A, which of the values is a free choice fixed by the input (R191). -/
def frcp (bits : Nat) : Nat × Fl :=
  match fread fmt32 true bits with
  | .nan s => (fnan fmt32, sigFl [.nan s])
  | .inf n => (fsign fmt32 n, 0)
  | .fin n m e =>
    if m = 0 then (finf fmt32 n, flDZ)
    else
      let c := (Config.ftransBits 0 (BitVec.ofNat 32 bits)).toNat
      let (d, fl) := fdiv fmt32 .zero false (.fin false 1 0) (.fin false m e)
      let k : Int := if bitN fl 4 then (c % 2 : Nat) else (c % 3 : Nat) - 1
      (fsign fmt32 n + ulpStep d k, (c / 4 % 8) * 4)

/-- RSQ: within two ulp of one over the root of A (R191). -/
def frsq (bits : Nat) : Nat × Fl :=
  match fread fmt32 true bits with
  | .nan s => (fnan fmt32, sigFl [.nan s])
  | .inf n => if n then (fnan fmt32, flNV) else (0, 0)
  | .fin n m e =>
    if m = 0 then (finf fmt32 n, flDZ)
    else if n then (fnan fmt32, flNV)
    else
      let c := (Config.ftransBits 1 (BitVec.ofNat 32 bits)).toNat
      let e2 : Int := if e % 2 = 0 then e else e - 1
      let m2 := if e % 2 = 0 then m else 2 * m
      let v := 2 ^ 120 / m2
      let q := isqrt v 62 0
      let d := (fround fmt32 .zero false false false q (-60 - e2 / 2) (q * q * m2 ≠ 2 ^ 120)).1
      (ulpStep d ((c % 4 : Nat) - 1), (c / 8 % 8) * 4)

/-- The other FTRANS functions: the special inputs give the exact function's result; for the rest the bits are free, and
SIN and COS give a finite value in [-1, 1] (R191, Table 9-7). -/
def ftrans (sub bits : Nat) : Nat × Fl :=
  let c := Config.ftransBits sub (BitVec.ofNat 32 bits)
  let free := (c.toNat, bitsN (Config.ftransBits (8 + sub) (BitVec.ofNat 32 bits)).toNat 4 2 * 4)
  let unit := match fdecode fmt32 c.toNat with
    | .fin n m e => if magGt m e 1 0 then (fsign fmt32 n + 0x3F800000, free.2) else free
    | _ => (0x3F800000, free.2)
  match sub with
  | 0 => frcp bits
  | 1 => frsq bits
  | 2 => match fread fmt32 true bits with
    | .nan s => (fnan fmt32, sigFl [.nan s])
    | .inf n => (if n then 0 else finf fmt32 false, 0)
    | .fin _ m _ => if m = 0 then (0x3F800000, 0) else free
  | 3 => match fread fmt32 true bits with
    | .nan s => (fnan fmt32, sigFl [.nan s])
    | .inf n => if n then (fnan fmt32, flNV) else (finf fmt32 false, 0)
    | .fin n m _ => if m = 0 then (finf fmt32 true, flDZ) else if n then (fnan fmt32, flNV) else free
  | 4 => match fread fmt32 true bits with
    | .nan s => (fnan fmt32, sigFl [.nan s])
    | .inf _ => (fnan fmt32, flNV)
    | .fin n m _ => if m = 0 then (fsign fmt32 n, 0) else unit
  | _ => match fread fmt32 true bits with
    | .nan s => (fnan fmt32, sigFl [.nan s])
    | .inf _ => (fnan fmt32, flNV)
    | .fin _ m _ => if m = 0 then (0x3F800000, 0) else unit

end Sys2Proof.Machine
end

