-- ==== Sys2Proof/Machine/Mem.lean ====
section
/-! DEFINITION. Memory: DRAM, skein, merge buffers, homes and CACHE leas, the L1s, and the reads and writes every engine
makes at a point of coherence (chapter 10). Control-space and peer-window addresses are not memory: their accesses are in
Machine/RegWrite.lean and Machine/Peer.lean. -/

namespace Sys2Proof.Machine

open Sys2Proof

/-- A skein byte nothing has written reads zero: SRAM_INIT zeroes every SRAM (R89). -/
def noByte : Nat → Byte := fun _ => 0#8

/-- What a DRAM byte not written since the content was last lost reads as: a free value (R98 leaves it undefined). In the reset
state, where no content has been lost yet, the model chooses zero. -/
def dramByte (m : MemSt) : Nat → Byte := fun a => if m.lost = 0 then 0#8 else Config.lostByte m.lost a

/-- The memory's sparse maps are in canonical form. -/
def memWf (m : MemSt) : Bool := Sparse.wf (dramByte m) m.dram && Sparse.wf noByte m.skein

/-- Write consecutive bytes into a map whose unlisted bytes d gives. -/
def putBytes (d : Nat → Byte) (m : Sparse Byte) (a : Nat) : List Byte → Sparse Byte
  | [] => m
  | b :: t => putBytes d (Sparse.put d m a b) (a + 1) t

/-- Read n consecutive bytes. -/
def getBytes (d : Nat → Byte) (m : Sparse Byte) (a : Nat) : Nat → List Byte
  | 0 => []
  | n + 1 => Sparse.get d m a :: getBytes d m (a + 1) n

/-- The active CACHE leas in ascending order (R212). -/
def cacheLeas (s : State) : List Nat := (s.mem.roles.filter (fun e => e.2 = 1)).map (fun e => e.1)

/-- The home of a DRAM address: the CACHE lea that holds its line, if any lea has that role (R212). -/
def homeLea (s : State) (pa : Nat) : Option Nat :=
  let ls := cacheLeas s
  if ls.isEmpty then none else ls[(pa / 256) % ls.length]?

/-- The set of a line within its home (R212). -/
def homeSet (s : State) (pa : Nat) : Nat :=
  let k := (cacheLeas s).length
  ((pa / 256 / k) % 16) * 4 + (pa / 64) % 4

/-- The DRAM port that serves an address (R24). -/
def dramPort (pa : Nat) : Nat := (pa / 256) % 8

/-- The bobbin of a byte of a lea (R208). -/
def bobbinOf (lea o : Nat) : Nat := (lea % 8) * 8 + (o / 8192) % 8

/-- The merge-buffer line that covers a DRAM address, if any. -/
def mergeOf (s : State) (line : Nat) : Option MergeLine := s.mem.merge.find? (fun l => l.line = line)

/-- A DRAM byte as a coherent reader sees it: a merge-buffer line covers what DRAM holds (R212). -/
def cohByte (s : State) (a : Nat) : Byte :=
  match mergeOf s (a / 64) with
  | some l => (Sparse.find l.bytes a).getD (Sparse.get (dramByte s.mem) s.mem.dram a)
  | none => Sparse.get (dramByte s.mem) s.mem.dram a

/-- n coherent DRAM bytes. -/
def cohBytes (s : State) (a : Nat) : Nat → List Byte
  | 0 => []
  | n + 1 => cohByte s a :: cohBytes s (a + 1) n

/-- A DRAM line is written whole: its data and its code are replaced (R230). -/
def clearUe (line : Nat) (s : State) : State :=
  { s with mem := { s.mem with dramUe := s.mem.dramUe.filter (fun l => l ≠ line) } }

/-- A reader or a partial write met an uncorrectable DRAM line: counted, its address kept, logged (R230, R234). -/
def noteDramUe (pa : Nat) (s : State) : State :=
  let s := s.addSat ⟨C 0xE0008, 31, 16⟩ 1
  let s := s.setFlds [(⟨C 0xE0010, 31, 6⟩, pa / 64), (⟨C 0xE0014, 15, 0⟩, pa / 2 ^ 32)]
  raiseInt iErrUncorr (logEvent 2 0x0C2 0 (dramPort pa) pa s)

/-- A reader met an uncorrectable skein granule: the memory unit's generic uncorrectable event (R234, R447). -/
def noteSkeinUe (pa : Nat) (s : State) : State :=
  raiseInt iErrUncorr (logEvent 2 0x0DE 0 ((pa - 0x100000000000) / 0x80000 * 1024) pa s)

/-- What a write to part or all of a DRAM line does to its error (R230): a whole-line write clears it; a partial one keeps it, and
the detection is reported. -/
def settleUe (line : Nat) (whole : Bool) (s : State) : State :=
  if whole then clearUe line s else if s.mem.dramUe.contains line then noteDramUe (line * 64) s else s

/-- Write bytes inside a DRAM line at its port (R230). -/
def dramWrite (a : Nat) (bs : List Byte) (s : State) : State :=
  settleUe (a / 64) (a % 64 = 0 && bs.length = 64) { s with mem := { s.mem with dram := putBytes (dramByte s.mem) s.mem.dram a bs } }

/-- Write a merge-buffer line to DRAM and free it (R212). -/
def drainLine (line : Nat) (s : State) : State :=
  match mergeOf s line with
  | none => s
  | some l =>
    let dram := Sparse.putAll (dramByte s.mem) s.mem.dram l.bytes
    let s := { s with mem := { s.mem with dram := dram, merge := s.mem.merge.filter (fun x => x.line ≠ line) } }
    bumpSp l.sp 0x210 1 (settleUe line (l.bytes.length = 64) s)

/-- Drain every merge buffer to DRAM (R211, R322, R483). -/
def drainAll (s : State) : State := (s.mem.merge.reverse).foldl (fun s l => drainLine l.line s) s

/-- Drop the line from its home CACHE lea (R214). -/
def dropHome (line : Nat) (s : State) : State :=
  { s with mem := { s.mem with cache := s.mem.cache.filter (fun e => e.2 ≠ line) } }

/-- A coherent access looks its line up in the home: a hit makes it most recent; a load miss allocates it, replacing the
least recently used of its 15 ways (R212). The slice counters 0 and 1 count (Table 10-6). -/
def homeLookup (load : Bool) (pa : Nat) (s : State) : State :=
  match homeLea s pa with
  | none => s
  | some lea =>
    let line := pa / 64
    let e := (lea, line)
    if s.mem.cache.contains e then
      bumpSp (lea / 8) 0x200 1 { s with mem := { s.mem with cache := e :: s.mem.cache.filter (fun x => x ≠ e) } }
    else
      let s := bumpSp (lea / 8) 0x208 1 s
      if load then
        let same := s.mem.cache.filter (fun x => x.1 = lea && homeSet s (x.2 * 64) = homeSet s pa)
        let kept :=
          if 15 ≤ same.length then
            match same.getLast? with
            | some v => s.mem.cache.filter (fun x => x ≠ v)
            | none => s.mem.cache
          else s.mem.cache
        { s with mem := { s.mem with cache := e :: kept } }
      else s

/-- Bytes of one line enter the merge buffer of the home's spindle; with all 16 lines in use the least recently written
is written to DRAM first (R212). -/
def mergeWrite (sp a : Nat) (bs : List Byte) (s : State) : State :=
  let line := a / 64
  let new := (numsFrom a bs.length).zip bs
  match mergeOf s line with
  | some l =>
    let l' := { l with bytes := new.foldl (fun m e => Sparse.insert m e.1 e.2) l.bytes }
    { s with mem := { s.mem with merge := l' :: s.mem.merge.filter (fun x => x.line ≠ line) } }
  | none =>
    let mine := s.mem.merge.filter (fun x => x.sp = sp)
    let s :=
      if 16 ≤ mine.length then
        match mine.getLast? with
        | some v => drainLine v.line s
        | none => s
      else s
    { s with mem := { s.mem with merge := { sp := sp, line := line, bytes := new } :: s.mem.merge } }

/-- Split a byte run at 64-byte line ends: (address, bytes) of each line. -/
def splitLines : Nat → Nat → List Byte → List (Nat × List Byte)
  | 0, _, _ => []
  | n + 1, a, bs =>
    if bs.isEmpty then []
    else
      let k := 64 - a % 64
      (a, bs.take k) :: splitLines n (a + k) (bs.drop k)

/-- One coherent write inside a line, after its home has been looked up: through the home's merge buffer, or at the port when no lea
is CACHE (R212, R214). -/
def cohWriteLine (a : Nat) (bs : List Byte) (s : State) : State :=
  match homeLea s a with
  | none => dramWrite a bs s
  | some lea => mergeWrite (lea / 8) a bs s

/-- An uncached write: any merge copy of the line drains first (R213). -/
def uncachedWrite (a : Nat) (bs : List Byte) (s : State) : State := dramWrite a bs (drainLine (a / 64) s)

/-- A skein write; a write of a whole 8-byte granule clears that granule's error, a partial one keeps it and reports it (R234). -/
def skeinWrite (off : Nat) (bs : List Byte) (s : State) : State :=
  let whole : Nat → Bool := fun g => off ≤ g * 8 && g * 8 + 8 ≤ off + bs.length
  let part := s.mem.skeinUe.filter (fun g => !whole g && g * 8 < off + bs.length && off < g * 8 + 8)
  let s := { s with mem := { s.mem with
    skein := putBytes noByte s.mem.skein off bs
    skeinUe := s.mem.skeinUe.filter (fun g => !whole g) } }
  part.foldl (fun s g => noteSkeinUe (0x100000000000 + g * 8) s) s

/-- Count a line request at its point of coherence: the home's lookup, or a request to a SCRATCH or PINNED lea (R212, Table 10-6). -/
def lookup (load uncached : Bool) (pa : Nat) (s : State) : State :=
  match target s pa with
  | .dram a => if uncached then s else homeLookup load a s
  | .skein off => bumpSp (off / 0x80000) 0x218 1 s
  | _ => s

/-- The lines a run of bytes touches. -/
def linesOf (a n : Nat) : List Nat := (numsFrom (a / 64) ((a + n + 63) / 64 - a / 64)).map (fun l => l * 64)

/-- Write bytes of one line or more whose lookups are done, at a physical address that is memory; other targets are left alone. -/
def memPut (uncached : Bool) (pa : Nat) (bs : List Byte) (s : State) : State :=
  match target s pa with
  | .dram a =>
    (splitLines (bs.length + 1) a bs).foldl
      (fun s e => if uncached then uncachedWrite e.1 e.2 s else cohWriteLine e.1 e.2 s) s
  | .skein off => skeinWrite off bs s
  | _ => s

/-- Write bytes at a physical address that is memory (DRAM or a reachable lea), a line request for each line; other targets are left
alone. -/
def memWrite (uncached : Bool) (pa : Nat) (bs : List Byte) (s : State) : State :=
  memPut uncached pa bs ((linesOf pa bs.length).foldl (fun s a => lookup false uncached a s) s)

/-- Bytes of a target that is no memory, for a reader of memory: free values. -/
def noMemory (pa n : Nat) : List Byte :=
  (numsFrom 0 n).map (fun i => BitVec.ofNat 8 (Config.unstated "no memory" [pa + i]))

/-- Read n bytes at a physical address as coherent memory; what a target that is no memory gives a
reader of memory is not stated. -/
def memRead (s : State) (pa n : Nat) : List Byte :=
  match target s pa with
  | .dram a => cohBytes s a n
  | .skein off => getBytes noByte s.mem.skein off n
  | _ => noMemory pa n

/-- Read n bytes as a direct engine does: DRAM alone, past every merge buffer (R214). -/
def directRead (s : State) (pa n : Nat) : List Byte :=
  match target s pa with
  | .dram a => getBytes (dramByte s.mem) s.mem.dram a n
  | .skein off => getBytes noByte s.mem.skein off n
  | _ => noMemory pa n

/-- A direct engine's write: DRAM itself, with the line dropped from its home (R214). -/
def directWrite (pa : Nat) (bs : List Byte) (s : State) : State :=
  match target s pa with
  | .dram a =>
    (splitLines (bs.length + 1) a bs).foldl (fun s e => dropHome (e.1 / 64) (dramWrite e.1 e.2 s)) s
  | .skein off => skeinWrite off bs s
  | _ => s

/-- Some byte of a run lies in a line or granule whose code reads as uncorrectable (R230, R234). -/
def poisoned (s : State) (pa n : Nat) : Bool :=
  match target s pa with
  | .dram a => s.mem.dramUe.any (fun l => l * 64 < a + n && a < l * 64 + 64)
  | .skein off => s.mem.skeinUe.any (fun g => g * 8 < off + n && off < g * 8 + 8)
  | _ => false

/-- The data read at an address proved uncorrectable: its line, or granule, stays so until it is written whole (R230, R234). -/
def markUe (pa : Nat) (s : State) : State :=
  match target s pa with
  | .dram a => if s.mem.dramUe.contains (a / 64) then s else { s with mem := { s.mem with dramUe := s.mem.dramUe ++ [a / 64] } }
  | .skein off =>
    if s.mem.skeinUe.contains (off / 8) then s else { s with mem := { s.mem with skeinUe := s.mem.skeinUe ++ [off / 8] } }
  | _ => s

/-- Report an uncorrectable read at a physical address (R234). -/
def noteUe (pa : Nat) (s : State) : State :=
  match target s pa with
  | .dram _ => noteDramUe pa s
  | _ => noteSkeinUe pa s

/-- A corrected error found by a reader at a physical address (R234, R445): DRAM_ERR_CNT or the slice counter. -/
def noteCe (pa : Nat) (s : State) : State :=
  match target s pa with
  | .dram _ => logEvent 1 0x0DF 0 (dramPort pa) pa (s.addSat ⟨C 0xE0008, 15, 0⟩ 1)
  | .skein off => logEvent 1 0x0DF 0 (off / 0x80000 * 1024) pa (bumpSp (off / 0x80000) 0x230 1 s)
  | _ => s

/-! ### L1 data caches (R215, R216) -/

/-- The L1 copy of a line, if the flyer holds one. -/
def l1Find (s : State) (fly line : Nat) : Option L1Line := s.mem.l1.find? (fun l => l.fly = fly && l.line = line)

/-- Invalidate the whole L1 of a flyer (R216). -/
def l1Invalidate (fly : Nat) (s : State) : State :=
  { s with mem := { s.mem with l1 := s.mem.l1.filter (fun l => l.fly ≠ fly) } }

/-- Invalidate one line of a flyer's L1 (R215). -/
def l1Drop (fly line : Nat) (s : State) : State :=
  { s with mem := { s.mem with l1 := s.mem.l1.filter (fun l => ! (l.fly = fly && l.line = line)) } }

/-- Fill a line of a flyer's L1: 64 sets of 4 ways (Table 10-7); which line of a full set goes is a free value, since no
rule names a replacement. -/
def l1Fill (fly line : Nat) (bytes : List Byte) (s : State) : State :=
  let s := l1Drop fly line s
  let same := s.mem.l1.filter (fun l => l.fly = fly && l.line % 64 = line % 64)
  let new : L1Line := { fly := fly, line := line, bytes := bytes }
  if same.length < 4 then { s with mem := { s.mem with l1 := new :: s.mem.l1 } }
  else
    let (k, s) := takeFree 4 s
    match same[k]? with
    | some v => { s with mem := { s.mem with l1 := new :: s.mem.l1.filter (fun l => l ≠ v) } }
    | none => { s with mem := { s.mem with l1 := new :: s.mem.l1 } }

/-- A store that hits updates the L1 bytes it writes (R215). -/
def l1Store (fly pa : Nat) (bs : List Byte) (s : State) : State :=
  match l1Find s fly (pa / 64) with
  | none => s
  | some l =>
    let o := pa % 64
    let l' : L1Line := { l with bytes := l.bytes.take o ++ bs ++ l.bytes.drop (o + bs.length) }
    { s with mem := { s.mem with l1 := s.mem.l1.map (fun x => if x = l then l' else x) } }

/-! ### Lea roles (R209-R211) -/

/-- The role of a lea in a role map. -/
def roleIn (m : Sparse Nat) (lea : Nat) : Nat := Sparse.get (fun _ => 0) m lea

/-- The staged roles (Table 10-2). -/
def stagedRoles (s : State) : Sparse Nat :=
  (numsFrom 0 512).foldl (fun m l =>
    Sparse.put (fun _ => 0) m l (bitsOf (s.reg (C (0x400 + 4 * (l / 16)))) (2 * (l % 16) + 1) (2 * (l % 16)))) []

def fRoleBusy : Fld := ⟨C 0x484, 31, 31⟩
def fRolePending : Fld := ⟨C 0x484, 30, 30⟩
def fRoleResult : Fld := ⟨C 0x484, 29, 28⟩
def fRoleBlocker : Fld := ⟨C 0x484, 24, 16⟩

/-- PENDING tells whether staged roles differ from active ones. -/
def syncPending (s : State) : State := s.setFlag fRolePending (stagedRoles s ≠ s.mem.roles)

/-- Leas of a role in a role map. -/
def leasIn (m : Sparse Nat) (role : Nat) : List Nat := (numsFrom 0 512).filter (fun l => roleIn m l = role)

/-- Steps 2 to 4 of an apply: where the CACHE set changes, merge buffers drain and CACHE leas empty; leas that enter SCRATCH or PINNED
are zeroed; the roles are active, and the counts and RESULT show it (R211). -/
def roleFinish (new : Sparse Nat) (s : State) : State :=
  let old := s.mem.roles
  let s :=
    if leasIn old 1 = leasIn new 1 then s
    else let s := drainAll s; { s with mem := { s.mem with cache := [] } }
  let zero : Nat → Bool := fun l => roleIn old l ≠ roleIn new l && (roleIn new l = 0 || roleIn new l = 3)
  let s := { s with mem := { s.mem with
    skein := Sparse.drop (fun o => zero (o / 65536)) s.mem.skein
    skeinUe := s.mem.skeinUe.filter (fun g => !zero (g / 8192))
    roles := new, applying := none } }
  syncPending (s.setFlds
    [ (⟨C 0x488, 25, 16⟩, (leasIn new 0).length), (⟨C 0x488, 9, 0⟩, (leasIn new 1).length)
    , (⟨C 0x48C, 25, 16⟩, (leasIn new 2).length), (⟨C 0x48C, 9, 0⟩, (leasIn new 3).length)
    , (fRoleBusy, 0), (fRoleResult, 0) ])

/-- An access that meets an apply in progress waits for its end, and resolves under the new roles (R211, Table 10-8). -/
def settleApply (s : State) : State :=
  match s.mem.applying with
  | none => s
  | some new => roleFinish new s

end Sys2Proof.Machine
end

