-- ==== Sys2Proof/Machine/Mmu.lean ====
section
/-! DEFINITION. Translation, the page walk, accessed and dirty bits, fault records and the fault queue (chapter 6). -/

namespace Sys2Proof.Machine

open Sys2Proof

/-! ### Page table entries (Table 6-5) -/

def pteV (e : Nat) : Bool := bitN e 0
def ptePage (e : Nat) : Bool := bitN e 1
def pteC64 (e : Nat) : Bool := bitN e 2
def pteW (e : Nat) : Bool := bitN e 3
def pteX (e : Nat) : Bool := bitN e 4
def pteP (e : Nat) : Bool := bitN e 5
def pteA (e : Nat) : Bool := bitN e 6
def pteD (e : Nat) : Bool := bitN e 7
def pteUncached (e : Nat) : Bool := bitsN e 9 8 ≠ 0
def ptePin (e : Nat) : Bool := bitN e 10
/-- The table or page address, bits 47:12. -/
def pteAddr (e : Nat) : Nat := bitsN e 47 12 * 4096

/-- The access writes (Table 6-5, W). -/
def accWrites : Access → Bool
  | .write | .atomic | .peerWrite => true
  | _ => false

/-- The access comes from a peer (Table 6-5, P). -/
def accFromPeer : Access → Bool
  | .peerRead | .peerWrite => true
  | _ => false

/-- The code of an access in a fault record (Table 6-8). -/
def accCode : Access → Nat
  | .read => 0 | .write => 1 | .atomic => 2 | .fetch => 3 | .ray => 4 | .peerRead => 5 | .peerWrite => 6 | .queue => 7

/-- The permission that an access lacks: the CAUSE, or 0 (Table 6-9). write tells whether a queue-engine access writes. -/
def permCause (w x p write : Bool) (a : Access) : Nat :=
  if (accWrites a || write) && !w then 0x02
  else if a = .fetch && !x then 0x03
  else if accFromPeer a && !p then 0x04
  else 0

/-- How a translation ends: a physical address with its memory type, or a cause at a level. -/
inductive Trans
  | ok (pa : Nat) (uncached : Bool)
  | fault (cause level : Nat)
deriving DecidableEq, Repr

/-- A table lies where the device may read entries: DRAM, or a SCRATCH or PINNED lea (CAUSE 0x06). -/
def tableOk (s : State) (pa : Nat) : Bool :=
  match target s pa with
  | .dram _ | .skein _ => true
  | _ => false

/-- The physical address is mapped (R118). -/
def mapped (s : State) (pa : Nat) : Bool := target s pa ≠ .unmapped

/-- Context registers (Table 6-6). -/
def ctxRoot (s : State) (c : Nat) : Nat :=
  bitsOf (s.reg (C (0x10000 + c * 0x40))) 31 12 * 4096 + bitsOf (s.reg (C (0x10004 + c * 0x40))) 15 0 * 2 ^ 32
def fXlate (c : Nat) : Fld := ⟨C (0x10008 + c * 0x40), 2, 2⟩
def fFaultMode (c : Nat) : Fld := ⟨C (0x10008 + c * 0x40), 0, 0⟩
def fAborted (c : Nat) : Fld := ⟨C (0x1000C + c * 0x40), 31, 16⟩
def fRaised (c : Nat) : Fld := ⟨C (0x1000C + c * 0x40), 15, 0⟩

/-- The index of a virtual address at a level (Table 6-4). -/
def vaIndex (va level : Nat) : Nat := (va / 2 ^ (12 + 9 * (level - 1))) % 512

/-- Translation caches an access of unit u looks in: a flyer's own and its spindle's (Table 6-11). -/
def tlbSees (u e : TlbUnit) : Bool :=
  u = e || (match u, e with
    | .flyer s _, .spindle s' => s = s'
    | _, _ => false)

/-- The capacity of a unit's translation cache (Table 6-11). -/
def tlbCap : TlbUnit → Nat
  | .flyer _ _ => 32
  | .spindle _ => 1024
  | _ => 512

/-- The cached translation that covers a virtual address for a unit. -/
def tlbFind (s : State) (u : TlbUnit) (c va : Nat) : Option TlbEnt :=
  s.mmu.tlb.find? (fun e => tlbSees u e.u && e.ctx = c && va / 2 ^ e.size = e.va / 2 ^ e.size)

/-- Put an entry into its unit's cache; which entry of a full cache goes is a free value. -/
def tlbPut (e : TlbEnt) (s : State) : State :=
  let same := s.mmu.tlb.filter (fun x => x.u = e.u)
  let old := s.mmu.tlb.filter (fun x => ! (x.u = e.u && x.ctx = e.ctx && x.va / 2 ^ x.size = e.va / 2 ^ x.size))
  if same.length < tlbCap e.u then { s with mmu := { s.mmu with tlb := e :: old } }
  else
    let (k, s) := takeFree (tlbCap e.u) s
    match same[k]? with
    | some v => { s with mmu := { s.mmu with tlb := e :: old.filter (fun x => x ≠ v) } }
    | none => { s with mmu := { s.mmu with tlb := e :: old } }

/-- Install a translation in the unit's cache, and for a flyer in its spindle's too. -/
def tlbInstall (e : TlbEnt) (s : State) : State :=
  match e.u with
  | .flyer sp _ => tlbPut e (tlbPut { e with u := .spindle sp } s)
  | _ => tlbPut e s

/-- Keep an upper-level entry, at most 256 (Table 6-11). -/
def walkCachePut (e : WalkEnt) (s : State) : State :=
  if s.mmu.walkCache.contains e then s
  else { s with mmu := { s.mmu with walkCache := (e :: s.mmu.walkCache).take 256 } }

/-- What a walk finds: a page entry with its address and level, or a cause at a level (R120, R121, Table 6-9). -/
inductive WalkRes
  | page (entryPa entry level : Nat)
  | fault (cause level : Nat) (entryPa : Nat)
deriving DecidableEq, Repr

/-- Walk from a table at a level downward; fuel is the level. -/
def walkFrom (s : State) (va : Nat) : Nat → Nat → WalkRes
  | 0, table => .fault 0x05 0 table
  | level + 1, table =>
    let lv := level + 1
    if ! tableOk s table then .fault 0x06 lv table
    else
      let ea := table + vaIndex va lv * 8
      if poisoned s ea 8 then .fault 0x07 lv ea
      else
        let e := leNat (memRead s ea 8)
        if ! pteV e then .fault 0x01 lv ea
        else if lv = 1 then (if ptePage e then .page ea e 1 else .fault 0x05 1 ea)
        else if lv = 2 && ptePage e then .page ea e 2
        else if ptePage e then .fault 0x05 lv ea
        else walkFrom s va level (pteAddr e)

/-- Where a walk starts: the deepest cached table of the address, or CTX_ROOT at level 4 (R127). -/
def walkStart (s : State) (c va : Nat) : Nat × Nat :=
  let hit := fun lv => (s.mmu.walkCache.find? (fun e => e.ctx = c && e.level = lv && e.prefixVa = va / 2 ^ (12 + 9 * lv))).map
    (fun e => (lv, e.table))
  ((hit 1).orElse (fun _ => (hit 2).orElse (fun _ => hit 3))).getD (4, ctxRoot s c)

/-- The upper-level entries a walk passes on the way to the level where it stopped are cached (R127). -/
def walkCacheFill (c va stop : Nat) : Nat → Nat → State → State
  | 0, _, s => s
  | level + 1, table, s =>
    let lv := level + 1
    if lv ≤ stop then s
    else
      let e := leNat (memRead s (table + vaIndex va lv * 8) 8)
      walkCacheFill c va stop level (pteAddr e)
        (walkCachePut { ctx := c, level := level, prefixVa := va / 2 ^ (12 + 9 * level), table := pteAddr e } s)

/-- Page size in address bits, and the page base, of a page entry at a level (Table 6-5). -/
def pageBits (e level : Nat) : Nat := if level = 2 then 21 else if pteC64 e then 16 else 12

/-- The physical address a page entry gives a virtual address. -/
def pagePa (e level va : Nat) : Nat :=
  let n := pageBits e level
  pteAddr e / 2 ^ n * 2 ^ n + va % 2 ^ n

/-- Walk for an access and, where it is permitted and mapped, set A and D and install the translation (R120-R127).
write tells whether the access writes, for kinds that may do either. -/
def walk (u : TlbUnit) (c va : Nat) (a : Access) (write : Bool) (s : State) : Trans × State :=
  let (lv, table) := walkStart s c va
  match walkFrom s va lv table with
  | .fault cause level ea =>
    if cause = 0x07 then
      (.fault cause level, raiseInt iErrUncorr (logEvent 2 0x07E c 0 ea (noteWalkUe ea s)))
    else (.fault cause level, s)
  | .page ea e level =>
    let cause := permCause (pteW e) (pteX e) (pteP e) write a
    let pa := pagePa e level va
    if cause ≠ 0 then (.fault cause level, s)
    else if ! mapped s pa then (.fault 0x08 level, s)
    else
      let wr := accWrites a || write
      let e' := (e ||| 0x40) ||| (if wr then 0x80 else 0)
      let s := if e' = e then s else memWrite false ea (leBytes 8 e') s
      let s := walkCacheFill c va level lv table s
      let n := pageBits e level
      (.ok pa (pteUncached e), tlbInstall
        { u := u, ctx := c, va := va / 2 ^ n * 2 ^ n, size := n, pa := pagePa e level va / 2 ^ n * 2 ^ n, w := pteW e
          x := pteX e, p := pteP e, uncached := pteUncached e, dirty := pteD e' } s)
where
  /-- The memory unit's counters still count an uncorrectable entry read (R138). -/
  noteWalkUe (ea : Nat) (s : State) : State :=
    match target s ea with
    | .dram _ =>
      (s.addSat ⟨C 0xE0008, 31, 16⟩ 1).setFlds [(⟨C 0xE0010, 31, 6⟩, ea / 64), (⟨C 0xE0014, 15, 0⟩, ea / 2 ^ 32)]
    | _ => s

/-- Translate an access: untranslated contexts use the address itself; a cached translation is used when it permits the
access (and D is set already for a write); otherwise a walk decides (R124, R127). A role apply in progress ends first (R211). -/
def translate (u : TlbUnit) (c va : Nat) (a : Access) (write : Bool) (s : State) : Trans × State :=
  let s := settleApply s
  if ! s.flag (fXlate c) then
    (if mapped s va then (.ok va false, s) else (.fault 0x08 0, s))
  else
    match tlbFind s u c va with
    | some e =>
      let wr := accWrites a || write
      if permCause e.w e.x e.p write a = 0 && (!wr || e.dirty) && mapped s (e.pa + va % 2 ^ e.size) then
        (.ok (e.pa + va % 2 ^ e.size) e.uncached, s)
      else walk u c va a write s
    | none => walk u c va a write s

/-! ### The fault queue (R129-R132) -/

/-- The index of a record lies outside what the host has still to take: FAULT_HEAD has advanced past it. -/
def passed (s : State) (seq : Nat) : Bool :=
  (s.fld fTail + 512 - s.fld fHead) % 512 ≤ (seq + 512 - s.fld fHead) % 512

/-- Bring every record's in-use mark up to date (R129). -/
def settleSlots (s : State) : State :=
  { s with mmu := { s.mmu with recs := s.mmu.recs.map (fun e =>
    (e.1, { e.2 with inUse := e.2.inUse && ! (passed s e.2.seq && (e.2.answered || !e.2.needAnswer)) })) } }

/-- Slots in use. -/
def slotsInUse (s : State) : Nat := (s.mmu.recs.filter (fun e => e.2.inUse)).length

/-- Slots in use by contexts 1-15. -/
def slotsInUseUser (s : State) : Nat := (s.mmu.recs.filter (fun e => e.2.inUse && e.2.ctx ≠ 0)).length

/-- The slot holds a record in use. -/
def slotBusy (s : State) (slot : Nat) : Bool := s.mmu.recs.any (fun e => e.1 = slot && e.2.inUse)

/-- The next index from FAULT_TAIL on whose slot is free, never more than 256 past FAULT_HEAD (R129). -/
def nextIndex (s : State) : Nat → Nat → Option Nat
  | 0, _ => none
  | n + 1, i =>
    if 256 ≤ (i + 512 - s.fld fHead) % 512 then none
    else if slotBusy s (i % 256) then nextIndex s n ((i + 1) % 512)
    else some i

/-- A record of context c may take a slot now (R130). -/
def mayRecord (s : State) (c : Nat) : Option Nat :=
  if (c ≠ 0 && 240 ≤ slotsInUse s) || 256 ≤ slotsInUse s then none
  else nextIndex s 256 (s.fld fTail)

/-- Write a record at an index: the slot's new content, TIME, SEQ, FAULT_TAIL past it, RAISED counted (R129, Table 6-6). -/
def writeRecord (i : Nat) (r : FaultRec) (s : State) : State :=
  let r := { r with seq := i, time := s.core.timebase.toNat, inUse := true }
  let s := { s with mmu := { s.mmu with recs := Sparse.insert s.mmu.recs (i % 256) r } }
  (s.setFld fTail ((i + 1) % 512)).addSat (fRaised r.ctx) 1

/-- Write a record now if a slot can be taken, else hold it (R130). -/
def recordFault (r : FaultRec) (s : State) : State :=
  let s := settleSlots s
  match mayRecord s r.ctx with
  | some i => writeRecord i r s
  | none => { s with mmu := { s.mmu with held := s.mmu.held ++ [r] } }

/-- An access joins a record (R131). -/
def FaultRec.join (r : FaultRec) (w : List Waiter) : FaultRec :=
  { r with joins := satN 0xFFFF (r.joins + 1), waiters := r.waiters ++ w }

/-- A record an access of context c to the page of va may join: unanswered, NEED_ANSWER = 1 (R131). -/
def FaultRec.joinable (r : FaultRec) (c va : Nat) : Bool :=
  r.needAnswer && !r.answered && r.ctx = c && r.va / 4096 = va / 4096

/-- Mark the first joinable record as joined; tells whether there was one. -/
def joinFault (c va : Nat) (w : List Waiter) (s : State) : Option State :=
  if s.mmu.recs.any (fun e => e.2.inUse && e.2.joinable c va) then
    some { s with mmu := { s.mmu with recs := s.mmu.recs.map (fun e =>
      if e.2.inUse && e.2.joinable c va then (e.1, e.2.join w) else e) } }
  else if s.mmu.held.any (fun r => r.joinable c va) then
    some { s with mmu := { s.mmu with held := s.mmu.held.map (fun r => if r.joinable c va then r.join w else r) } }
  else none

/-- The state of a context in CTX_STATUS and QSTAT (R142): STATE code st, and whether its work waits on a fault. -/
def waitsOnFault (s : State) (c : Nat) : Bool :=
  s.mmu.recs.any (fun e => e.2.inUse && e.2.ctx = c && e.2.needAnswer && !e.2.answered && !e.2.waiters.isEmpty)
    || s.mmu.held.any (fun r => r.ctx = c && r.needAnswer && !r.waiters.isEmpty)

/-- QSTAT fields of a context (Table 7-1). -/
def fQState (c : Nat) : Fld := ⟨C (0x20020 + c * 0x40), 2, 0⟩
def fQHeld (c : Nat) : Fld := ⟨C (0x20020 + c * 0x40), 6, 6⟩
def fQReject (c : Nat) : Fld := ⟨C (0x20020 + c * 0x40), 7, 7⟩
def fQError (c : Nat) : Fld := ⟨C (0x20020 + c * 0x40), 11, 8⟩
def fQFlight (c : Nat) : Fld := ⟨C (0x20020 + c * 0x40), 15, 12⟩
def fQPreempts (c : Nat) : Fld := ⟨C (0x20020 + c * 0x40), 31, 16⟩

/-- The context's work runs: it is IDLE, RUNNING or HALTED; engines have stopped or are stopping it in every other state (R152,
R157). -/
def ctxRuns (s : State) (c : Nat) : Bool := s.fld (fQState c) = 1 || s.fld (fQState c) = 2 || s.fld (fQState c) = 6

/-- CTX_STATUS shows the context's STATE (R142). -/
def syncCtx (c : Nat) (s : State) : State :=
  let st := s.fld (fQState c)
  s.setFld (fCtxState c) (if st = 0 then 0 else if st = 1 then 1 else if waitsOnFault s c then 3 else 2)

/-- Raise a fault of an access in its context's mode (R130-R132, Table 6-12): in WAIT mode it joins or raises a record and
waits (true); in ABORT mode it raises a record for information and is aborted (false). -/
def raiseFault (c va cause level : Nat) (a : Access) (source sourceId : Nat) (w : Waiter) (s : State) : Bool × State :=
  let blank : FaultRec :=
    { ctx := c, va := va % 2 ^ 48, cause := cause, access := accCode a, level := level, source := source
      sourceId := sourceId, time := 0, joins := 0, seq := 0, needAnswer := true, mode := 0, answered := false
      inUse := false, busy := 0, waiters := [w] }
  if s.flag (fFaultMode c) then
    (false, syncCtx c (recordFault { blank with needAnswer := false, mode := 1, waiters := [] } (s.addSat (fAborted c) 1)))
  else
    match joinFault c va [w] s with
    | some s => (true, syncCtx c s)
    | none => (true, syncCtx c (recordFault blank s))

/-- A record written for information only, without any waiting work (R136). -/
def infoFault (c va cause level : Nat) (a : Access) (source sourceId : Nat) (s : State) : State :=
  recordFault
    { ctx := c, va := va % 2 ^ 48, cause := cause, access := accCode a, level := level, source := source
      sourceId := sourceId, time := 0, joins := 0, seq := 0, needAnswer := false
      mode := s.fld (fFaultMode c), answered := false, inUse := false, busy := 0, waiters := [] } s

/-- The 32 bytes of a record (Table 6-8). -/
def FaultRec.toBytes (r : FaultRec) : List Byte :=
  leBytes 8 (r.va % 2 ^ 48) ++ leBytes 8 r.time
    ++ leBytes 1 (r.ctx % 16 + 16 * r.mode + bitVal r.needAnswer 5) ++ leBytes 1 r.cause
    ++ leBytes 1 (r.access * 16 + r.level) ++ leBytes 1 r.source ++ leBytes 2 r.sourceId ++ leBytes 2 r.joins
    ++ leBytes 2 (r.seq % 512) ++ leBytes 6 0

/-- The word of the fault queue memory at a byte offset from its base. -/
def faultWord (s : State) (o : Nat) : W32 :=
  match Sparse.find s.mmu.recs (o / 32) with
  | some r => BitVec.ofNat 32 (fieldAt r.toBytes (o % 32) 4)
  | none => 0#32

/-- A context stops: its CTX_ENABLE bit clears, STATE is STOPPING, its written records count as answered and its held ones are
dropped, and each access that waited counts once as aborted (R157, Table 6-13). -/
def ctxStop (c : Nat) (s : State) : State :=
  let s := s.setFld (fCtxEn c) 0
  if s.fld (fQState c) = 0 || s.fld (fQState c) = 7 then s
  else
    let mine := fun (r : FaultRec) => r.ctx = c && r.needAnswer && !r.answered
    let n := (s.mmu.recs.filter (fun e => mine e.2)).foldl (fun a e => a + e.2.waiters.length) 0
      + (s.mmu.held.filter (fun r => r.ctx = c)).foldl (fun a r => a + r.waiters.length) 0
    let s := { s with mmu := { s.mmu with
      recs := s.mmu.recs.map (fun (e : Nat × FaultRec) => if e.2.ctx = c then (e.1, { e.2 with answered := true, waiters := [] }) else e)
      held := s.mmu.held.filter (fun r => r.ctx ≠ c) } }
    syncCtx c (settleSlots ((s.addSat (fAborted c) n).setFld (fQState c) 7))

/-! ### Reads and writes of engines through translation -/

/-- How a read by virtual address ends: the bytes, a translation fault, or uncorrectable data. -/
inductive VRead
  | ok (bs : List Byte)
  | fault (cause level : Nat)
  | ue
deriving DecidableEq, Repr

/-- Read n bytes, all of one page, as a coherent reader; bad tells that the code of the data read as uncorrectable. -/
def vread (u : TlbUnit) (c va n : Nat) (a : Access) (bad : Bool) (s : State) : VRead × State :=
  match translate u c va a false s with
  | (.fault cause lv, s) => (.fault cause lv, s)
  | (.ok pa un, s) =>
    if poisoned s pa n then (.ue, noteUe pa s)
    else if bad then (.ue, noteUe pa (markUe pa s))
    else
      let bs := memRead s pa n
      (.ok bs, (linesOf pa n).foldl (fun s a => lookup true un a s) s)

/-- Write bytes, all of one page; the fault if there is one. -/
def vwrite (u : TlbUnit) (c va : Nat) (bs : List Byte) (a : Access) (s : State) : Option (Nat × Nat) × State :=
  match translate u c va a true s with
  | (.fault cause lv, s) => (some (cause, lv), s)
  | (.ok pa un, s) => (none, memWrite un pa bs s)

/-! ### Meanings -/

/-- Where a fault of a unit's own walk comes from: SOURCE and SOURCE_ID (Table 6-8). -/
def unitSource : TlbUnit → Nat × Nat
  | .flyer sp f => (0, sp.val * 1024 + f.val * 256)
  | .spindle sp => (1, sp.val * 1024)
  | .raster => (3, 0)
  | .reel => (4, 0)
  | .queue => (6, 0)
  | .peer => (5, 0)

/-- WALK_DONE: the walk of a unit's access completes; it installs a translation, with A and D set, or raises a fault
(R120, R124, R127, R131). A flyer's or whorl's access waits as its own work's record says; here no work is named, so the
record has no waiter of its own. A context without translation walks nothing. -/
def execWalkDone (u : TlbUnit) (c : Fin 16) (va : BitVec 48) (a : Access) (s : State) : Res :=
  done (onlyIf (running s && s.flag (fXlate c)) (fun s =>
    match walk u c va.toNat a false s with
    | (.ok _ _, s) => s
    | (.fault cause level, s) =>
      let (src, sid) := unitSource u
      if s.flag (fFaultMode c) then
        recordFault
          { ctx := c, va := va.toNat, cause := cause, access := accCode a, level := level, source := src, sourceId := sid
            time := 0, joins := 0, seq := 0, needAnswer := false, mode := 1, answered := false, inUse := false
            busy := 0, waiters := [] } (s.addSat (fAborted c) 1)
      else
        match joinFault c va.toNat [] s with
        | some s => s
        | none =>
          recordFault
            { ctx := c, va := va.toNat, cause := cause, access := accCode a, level := level, source := src, sourceId := sid
              time := 0, joins := 0, seq := 0, needAnswer := true, mode := 0, answered := false, inUse := false
              busy := 0, waiters := [] } s) s)

/-- FAULT_RECORD_WRITE: the oldest held record whose context may take a slot is written (R130). -/
def execFaultRecordWrite (s : State) : Res :=
  done (onlyIf (running s) (fun s =>
    let s := settleSlots s
    match s.mmu.held.find? (fun r => (mayRecord s r.ctx).isSome) with
    | none => s
    | some r =>
      match mayRecord s r.ctx with
      | none => s
      | some i => writeRecord i r { s with mmu := { s.mmu with held := s.mmu.held.erase r } }) s)

/-- FAULT_HEAD_WRITE: the host's index advances unless more than 256 records would be outstanding (R81). -/
def faultHeadWrite (h : Nat) (s : State) : State :=
  if 256 < (s.fld fTail + 512 - h % 512) % 512 then s else settleSlots (s.setFld fHead h)

/-- The scope of an invalidation covers a context and address (Table 6-7). -/
def inScope (scope c va count ctx : Nat) (lo size : Nat) : Bool :=
  match scope with
  | 0 => ctx = c && lo < va / 4096 * 4096 + count * 4096 && va / 4096 * 4096 < lo + size
  | 1 => ctx = c
  | _ => true

/-- INVAL_CTRL.GO: an invalidation starts unless one is running (R128). -/
def invalStart (scope c va count : Nat) (s : State) : State :=
  if s.mmu.inval.isSome then s
  else { (s.setFld ⟨C 0x10808, 31, 31⟩ 1) with mmu := { s.mmu with inval := some (scope, c, va, count) } }

/-- INVAL_CTRL with its fields as written, then GO. -/
def invalWrite (scope c va count : Nat) (s : State) : State :=
  invalStart scope c va count
    (s.setFlds [(⟨C 0x10808, 27, 24⟩, c), (⟨C 0x10808, 23, 22⟩, scope), (⟨C 0x10808, 20, 1⟩, count)])

/-- INVAL_RANGE: COUNT pages of one context from VA; COUNT 0 is an unlisted encoding and the write is ignored (R11, R128). -/
def execInvalRange (c : Fin 16) (va : BitVec 48) (count : BitVec 20) (s : State) : Res :=
  done (onlyIf (running s) (fun s =>
    if count = 0#20 then logIgnored (C 0x10808) s
    else
      let s := s.setFlds [(⟨C 0x10800, 31, 12⟩, va.toNat / 4096), (⟨C 0x10804, 15, 0⟩, va.toNat / 2 ^ 32)]
      invalWrite 0 c va.toNat count.toNat s) s)

/-- INVAL_CONTEXT: one whole context (R128). -/
def execInvalContext (c : Fin 16) (s : State) : Res :=
  done (onlyIf (running s) (fun s => invalWrite 1 c 0 (s.fld ⟨C 0x10808, 20, 1⟩) s) s)

/-- INVAL_ALL: every context (R128). -/
def execInvalAll (s : State) : Res :=
  done (onlyIf (running s)
    (fun s => invalWrite 2 (s.fld ⟨C 0x10808, 27, 24⟩) 0 (s.fld ⟨C 0x10808, 20, 1⟩) s) s)

/-- INVALIDATION_DONE: the entries of the scope are gone from every translation cache, with every upper-level entry of the
contexts concerned, and BUSY returns to 0 (R128). -/
def execInvalidationDone (s : State) : Res :=
  done (onlyIf (running s) (fun s =>
    match s.mmu.inval with
    | none => s
    | some (scope, c, va, count) =>
      let tlb := s.mmu.tlb.filter (fun e => ! inScope scope c va count e.ctx e.va (2 ^ e.size))
      let wc := s.mmu.walkCache.filter (fun e => ! (scope = 2 || e.ctx = c))
      { (s.setFld ⟨C 0x10808, 31, 31⟩ 0) with mmu := { s.mmu with tlb := tlb, walkCache := wc, inval := none } }) s)

/-- FAULT_HEAD_WRITE (R81). -/
def execFaultHeadWrite (head : BitVec 9) (s : State) : Res :=
  done (onlyIf (interior s) (faultHeadWrite head.toNat) s)

end Sys2Proof.Machine
end

