-- ==== Sys2Proof/Machine/Operands.lean ====
section
/-! DEFINITION. The instruction word, register specifiers and ply registers (R180-R186), and what issuing an instruction does
whatever it computes: which threads issue, the exceptions, the PCs, the ageing counters (R163-R167, R205, R206). -/

namespace Sys2Proof.Machine

open Sys2Proof

/-! ### Instruction fields (Table 9-1) -/

def wOp (w : W64) : Nat := bitsOf w 63 56
def wGen (w : W64) : Bool := bitN w.toNat 55
def wGneg (w : W64) : Bool := bitN w.toNat 54
def wGpred (w : W64) : Nat := bitsOf w 53 51
def wType (w : W64) : Nat := bitsOf w 50 48
def wD (w : W64) : Nat := bitsOf w 47 40
def wA (w : W64) : Nat := bitsOf w 39 32
def wB (w : W64) : Nat := bitsOf w 31 24
def wC (w : W64) : Nat := bitsOf w 23 16
def wMod (w : W64) : Nat := bitsOf w 15 0
def wImm (w : W64) : Nat := bitsOf w 31 0
def wOff (w : W64) : Int := signedN 24 (bitsOf w 23 0)
/-- The I-form: an odd opcode below 0x40 (R187). -/
def wIform (w : W64) : Bool := wOp w < 0x40 && wOp w % 2 = 1
/-- MOD, which an I-form has not: it executes with zero (R187). -/
def wMod' (w : W64) : Nat := if wIform w then 0 else wMod w
def mRnd (m : Nat) : Rnd := rndOf (bitsN m 15 14)
def mFtz (m : Nat) : Bool := bitN m 13
def mSat (m : Nat) : Bool := bitN m 12
def mNegA (m : Nat) : Bool := bitN m 11
def mAbsA (m : Nat) : Bool := bitN m 10
def mNegB (m : Nat) : Bool := bitN m 9
def mAbsB (m : Nat) : Bool := bitN m 8
def mNegC (m : Nat) : Bool := bitN m 7
def mSub (m : Nat) : Nat := bitsN m 6 4
def mHalf (m : Nat) : Nat := bitsN m 3 3
def mCmp (m : Nat) : Nat := m % 8
def mOrder (m : Nat) : Nat := bitsN m 15 14
def mScope (m : Nat) : Nat := bitsN m 13 12

/-- Types of Table 9-3 that are 64 bits wide. -/
def is64 (t : Nat) : Bool := t = 4 || t = 5
/-- Signed integer types. -/
def isSigned (t : Nat) : Bool := t = 1 || t = 5
/-- Width of an integer type. -/
def typeBits (t : Nat) : Nat := if is64 t then 64 else 32

/-! ### Specifiers (Table 9-2, R183) -/

def spV (n : Nat) : Bool := n < 0x80
def spS (n : Nat) : Bool := 0x80 ≤ n && n < 0xA0
def spP (n : Nat) : Bool := 0xA0 ≤ n && n < 0xA8
def spZero (n : Nat) : Bool := n = 0xC0
def spLane (n : Nat) : Bool := n = 0xC1

/-- A specifier that may be read where a 32-bit value stands. -/
def src32 (vregs n : Nat) : Bool := (spV n && n < vregs) || spS n || spP n || spZero n || spLane n
/-- A specifier that names a 64-bit pair. -/
def pair64 (vregs n : Nat) : Bool :=
  (spV n && n % 2 = 0 && n + 1 < vregs) || (spS n && n % 2 = 0) || spZero n
/-- A specifier that may receive a 32-bit result. -/
def dst32 (vregs n : Nat) : Bool := (spV n && n < vregs) || spS n || spZero n
/-- A source of a type. -/
def srcOk (vregs t n : Nat) : Bool := if is64 t then pair64 vregs n else src32 vregs n
/-- A destination of a type. -/
def dstOk (vregs t n : Nat) : Bool := if is64 t then pair64 vregs n else dst32 vregs n

/-! ### Registers of a ply -/

def Ply.vget (y : Ply) (r lane : Nat) : Nat := (Sparse.get (fun _ => 0#32) y.v (r * 32 + lane)).toNat
def Ply.sget (y : Ply) (r : Nat) : Nat := (Sparse.get (fun _ => 0#32) y.sc r).toNat
def Ply.pget (y : Ply) (r : Nat) : BitVec 32 := Sparse.get (fun _ => 0#32) y.pr r
def Ply.vset (y : Ply) (r lane v : Nat) : Ply :=
  { y with v := Sparse.put (fun _ => 0#32) y.v (r * 32 + lane) (BitVec.ofNat 32 v) }
def Ply.sset (y : Ply) (r v : Nat) : Ply := { y with sc := Sparse.put (fun _ => 0#32) y.sc r (BitVec.ofNat 32 v) }
def Ply.pset (y : Ply) (r : Nat) (m : BitVec 32) : Ply := { y with pr := Sparse.put (fun _ => 0#32) y.pr r m }

/-- The 32-bit value a specifier reads in a lane; ZERO reads 0, a predicate 1 or 0 (R183). -/
def Ply.rd (y : Ply) (n lane : Nat) : Nat :=
  if spV n then y.vget n lane
  else if spS n then y.sget (n - 0x80)
  else if spP n then (if (y.pget (n - 0xA0)).getLsbD lane then 1 else 0)
  else if spLane n then lane
  else 0

/-- The 64-bit value of a pair in a lane: low word in N, high word in N + 1; ZERO reads 0 (R183). -/
def Ply.rd64 (y : Ply) (n lane : Nat) : Nat :=
  if spZero n then 0 else y.rd n lane + y.rd (n + 1) lane * 2 ^ 32

/-- The value of a type. -/
def Ply.rdT (y : Ply) (t n lane : Nat) : Nat := if is64 t then y.rd64 n lane else y.rd n lane

/-- Write a 32-bit value in one lane of a lane register, or a scalar; ZERO discards it. -/
def Ply.wr (y : Ply) (n lane v : Nat) : Ply :=
  if spV n then y.vset n lane v else if spS n then y.sset (n - 0x80) v else y

/-- Write a value of a type. -/
def Ply.wrT (y : Ply) (t n lane v : Nat) : Ply :=
  if is64 t then (if spZero n then y else (y.wr n lane (v % 2 ^ 32)).wr (n + 1) lane (v / 2 ^ 32)) else y.wr n lane v

/-- The lanes of a mask, ascending. -/
def lanesOf (m : BitVec 32) : List Nat := (numsFrom 0 32).filter (fun i => m.getLsbD i)

/-- A mask from a test of the lane. -/
def maskOf (f : Nat → Bool) : BitVec 32 := BitVec.ofNat 32 ((numsFrom 0 32).foldl (fun a i => a + bitVal (f i) i) 0)

/-- Write one result per lane of a mask; a scalar destination takes the lowest lane's (R184). -/
def Ply.wrLanes (y : Ply) (t d : Nat) (m : BitVec 32) (f : Nat → Nat) : Ply :=
  if spS d then (match (lanesOf m).head? with
    | some l => y.wrT t d l (f l)
    | none => y)
  else (lanesOf m).foldl (fun y l => y.wrT t d l (f l)) y

/-- OR flags into FPFLAGS (R192). -/
def Ply.orFlags (y : Ply) (fl : Fl) : Ply := { y with fpflags := y.fpflags ||| BitVec.ofNat 5 fl }

/-! ### Finding and storing a ply -/

/-- The number of a ply's place: (spindle * 4 + flyer) * 16 + slot. -/
def plyKey (p : PlyId) : Nat := (p.spindle.val * 4 + p.flyer.val) * 16 + p.slot.val

/-- SOURCE_ID of a ply (Table 6-8). -/
def plySrc (k : Nat) : Nat := k / 64 * 1024 + (k / 16 % 4) * 256 + (k % 16) * 16

/-- The flyer of a place. -/
def flyOf (k : Nat) : Nat := k / 16
/-- The spindle of a place. -/
def spOf (k : Nat) : Nat := k / 64

/-- The ply at a place. -/
def plyAt (s : State) (k : Nat) : Option Ply := Sparse.find s.fly.plies k

/-- Store a ply at its place. -/
def putPly (k : Nat) (y : Ply) (s : State) : State := { s with fly := { s.fly with plies := Sparse.insert s.fly.plies k y } }

/-- The per-flyer debug register at an offset (Table 22-5). -/
def flyDbg (k off : Nat) : Nat := C (0xD4000 + flyOf k * 0x80 + off)

/-- Stop-world is in force (R475). -/
def worldStopped (s : State) : Bool := s.flag ⟨C 0xD0008, 29, 29⟩

/-- Threads stopped in a TWAIT. -/
def Ply.inTwait (y : Ply) : BitVec 32 := y.twaits.foldl (fun m t => m ||| t.1) 0#32

/-- The ply waits on a fault: no thread of it is ready (R135, Table 8-5). -/
def Ply.faulted (y : Ply) : Bool := y.fetchFault || y.mem.any (fun o => o.faulted)

/-- Threads that are neither exited nor stopped (R163). The scoreboard is asked apart, for the instruction at hand. -/
def Ply.readyMask (y : Ply) : BitVec 32 :=
  if y.faulted || y.ended then 0#32 else y.present &&& ~~~y.exited &&& ~~~y.atBar &&& ~~~y.inTwait

/-- SKIP of a lane. -/
def Ply.skipOf (y : Ply) (l : Nat) : Nat := (y.skip[l]?).getD 0
/-- PC of a lane. -/
def Ply.pcOf (y : Ply) (l : Nat) : Nat := (y.pcs[l]?).getD 0

/-- The least of a list of numbers. -/
def leastOf : List Nat → Option Nat
  | [] => none
  | a :: t => match leastOf t with
    | none => some a
    | some b => some (if a ≤ b then a else b)

/-- The PC chosen at an issue: the lowest PC of the ready threads, or that of the lowest lane whose SKIP is 64 (R164). -/
def Ply.choose (y : Ply) : Option Nat :=
  let ls := lanesOf y.readyMask
  match ls.find? (fun l => y.skipOf l = 64) with
  | some l => some (y.pcOf l)
  | none => leastOf (ls.map y.pcOf)

/-- The threads that issue at a PC. -/
def Ply.issuers (y : Ply) (pc : Nat) : BitVec 32 := y.readyMask &&& maskOf (fun l => y.pcOf l = pc)

/-- The guard of each issuing thread (R182). -/
def Ply.guardMask (y : Ply) (w : W64) (m : BitVec 32) : BitVec 32 :=
  if wGen w then m &&& (if wGneg w then ~~~(y.pget (wGpred w)) else y.pget (wGpred w)) else m

/-- What an instruction works on: its place, the ply, the word, the PC, the issuing threads, those with a true guard. -/
structure Iss where
  k : Nat
  y : Ply
  w : W64
  pc : Nat
  mask : BitVec 32
  g : BitVec 32
deriving DecidableEq, Repr

/-- Registers an outstanding load or atomic will write: D of its word and the registers after it, but for those whose pending state a
debugger's write has cleared (R163, R169, R473). -/
def MemOp.regs (o : MemOp) : List Nat :=
  let d := wD o.w
  let all :=
    if wOp o.w = 0x70 then
      let n := 2 ^ bitsOf o.w 31 30 * (if wType o.w = 4 then 2 else 1)
      if spZero d then [] else numsFrom d n
    else if wOp o.w = 0x80 then (if spZero d then [] else if is64 (wType o.w) then [d, d + 1] else [d])
    else []
  all.filter (fun r => !o.cleared.contains r)

/-- Every register of an instruction's D, A, B and C, with the second half of a pair (for the scoreboard). uses names the
fields the opcode uses. -/
def fieldRegs (w : W64) (uses : List Nat) : List Nat :=
  let two := fun n => if is64 (wType w) || 0x60 ≤ wOp w then [n, n + 1] else [n]
  uses.flatMap two

/-- The ply may issue now: it is resident, not halted (or stepping), in the active set if two-level, and stop-world is not
in force (or it is stepping), its context is not being preempted or stopped (R152, R163, R166, R280, R472-R475). -/
def Ply.mayIssue (s : State) (y : Ply) : Bool :=
  ctxRuns s y.owner.ctx && !y.ended && !y.halting && y.tracing.isNone && (!y.twoLevel || y.active || y.stepping) &&
    (y.stepping || (!y.halted && !worldStopped s))

/-! ### Halting (R472, R476) -/

/-- DBG_HALTED shows each flyer that has a halted ply (Table 22-4). -/
def syncHalted (s : State) : State :=
  (numsFrom 0 8).foldl (fun s w =>
    s.setReg (C (0xD0020 + 4 * w)) (BitVec.ofNat 32 ((numsFrom 0 32).foldl (fun a b =>
      a + bitVal (s.fly.plies.any (fun e => flyOf e.1 = 32 * w + b && e.2.halted)) b) 0))) s

/-- DBG_STAT shows the selected slot (Table 22-4). -/
def syncSel (s : State) : State :=
  let sel := s.reg (C 0xD0000)
  let k := (bitsOf sel 5 0 * 4 + bitsOf sel 9 8) * 16 + bitsOf sel 15 12
  match plyAt s k with
  | none => s.setFlds [(⟨C 0xD0008, 31, 30⟩, 0), (⟨C 0xD0008, 27, 16⟩, 0)]
  | some y =>
    s.setFlds [(⟨C 0xD0008, 31, 31⟩, if y.halted then 1 else 0), (⟨C 0xD0008, 30, 30⟩, 1),
      (⟨C 0xD0008, 27, 24⟩, y.haltReason), (⟨C 0xD0008, 23, 20⟩, y.haltIndex), (⟨C 0xD0008, 19, 16⟩, y.owner.ctx)]

/-- Bring both views up to date. -/
def syncDbg (s : State) : State := syncSel (syncHalted s)

/-- A two-level ply leaves the active set for the pending set, and flyer counter 7 counts it (R166, Table 8-3). -/
def toPending (k : Nat) (s : State) : State :=
  match plyAt s k with
  | some y =>
    if y.twoLevel && y.active then
      bumpSp (spOf k) (0x100 + 0x40 * (flyOf k % 4) + 0x38) 1 (putPly k { y with active := false } s)
    else s
  | none => s

/-- A ply halts with a reason (Table 22-4); two-level plies move to the pending set (R472). -/
def haltPly (k reason index : Nat) (s : State) : State :=
  match plyAt s k with
  | none => s
  | some y =>
    let s := putPly k { y with halted := true, halting := false, stepping := false, haltReason := reason, haltIndex := index } s
    let s := toPending k s
    let s := if (reason = 2 || reason = 3) && s.flag ⟨flyDbg k 0, 2, 2⟩ then s.setFld ⟨C 0xD0008, 29, 29⟩ 1 else s
    syncDbg s

/-- The lowest breakpoint of the ply's flyer that matches a PC (R476). -/
def bpMatch (s : State) (k pc ctx : Nat) : Option Nat :=
  (numsFrom 0 8).find? (fun b =>
    let lo := s.reg (flyDbg k (0x10 + 8 * b))
    let hi := s.reg (flyDbg k (0x14 + 8 * b))
    bitsOf lo 0 0 = 1 && bitsOf lo 31 3 * 8 + bitsOf hi 15 0 * 2 ^ 32 = pc
      && (bitsOf hi 20 20 = 1 || bitsOf hi 19 16 = ctx))

/-- The lowest watchpoint of the ply's flyer that an access of a byte range matches (R476). -/
def wpMatch (s : State) (k ctx va n : Nat) (read write : Bool) : Option Nat :=
  (numsFrom 0 4).find? (fun i =>
    let lo := s.reg (flyDbg k (0x50 + 8 * i))
    let hi := s.reg (flyDbg k (0x54 + 8 * i))
    let sz := 2 ^ bitsOf hi 28 24
    let base := (bitsOf lo 31 2 * 4 + bitsOf hi 15 0 * 2 ^ 32) / sz * sz
    let kind := bitsOf hi 30 29
    bitsOf hi 31 31 = 1 && (bitsOf hi 20 20 = 1 || bitsOf hi 19 16 = ctx)
      && ((read && (kind = 1 || kind = 3)) || (write && (kind = 2 || kind = 3)))
      && base < va + n && va < base + sz)

/-! ### Ending -/

/-- Merge a status into one so far: the lowest nonzero code stands (Table 7-7). -/
def mergeStatus (a b : Nat) : Nat := if a = 0 then b else if b = 0 then a else if b < a then b else a

/-- Allotments of threads that exit: each slot frees, or stays with the ray that sits in it (R288). -/
def dropAllot (uid : Nat) (gone : Nat → Bool) (s : State) : State :=
  { s with ray := { s.ray with rays := s.ray.rays.map (fun r => match r.thread with
    | some (u, l) => if u = uid && gone l then { r with thread := none, inAllot := false } else r
    | none => r) } }

/-- What an ended ply still has outstanding: the accesses that have an address; those that waited on a fault are gone. -/
def Ply.issued (y : Ply) : List MemOp :=
  (y.mem.map (fun o => { o with todo := o.todo.filter (fun a => a.pa.isSome), faulted := false })).filter (fun o => !o.todo.isEmpty)

/-- All threads of a ply exit at once, and its packet gets a status (R206, R179, Table 6-12). -/
def endPly (k status : Nat) (s : State) : State :=
  match plyAt s k with
  | none => s
  | some y =>
    putPly k { y with exited := y.present, ended := true, mem := y.issued, twaits := [], atBar := 0#32, fetchFault := false
                      stalled := false, allot := [], status := mergeStatus y.status status }
      (dropAllot y.uid (fun _ => true) s)

/-- An instruction exception (R205, R206): with exception catching the ply halts before the instruction, else it ends, and
the code-exception event is logged. trap carries TRAP's code. -/
def raiseException (i : Iss) (code trap : Nat) (s : State) : State :=
  if s.flag ⟨flyDbg i.k 0, 1, 1⟩ then haltPly i.k 5 code s
  else
    let arg := if code = 6 then trap * 2 ^ 32 + i.pc % 2 ^ 32 else i.pc
    endPly i.k 1 (logEvent 6 (0x0A0 + code) i.y.owner.ctx (plySrc i.k) arg s)

/-! ### Issuing -/

/-- The bookkeeping of one issue: SKIP cleared where issued and counted up where ready, the other plies' ages, the flyer
counters 0 and 1, the spindle's issue mark (R164, R167, Table 8-3, R488). -/
def noteIssue (i : Iss) (s : State) : State :=
  match plyAt s i.k with
  | none => s
  | some y =>
    let rdy := i.y.readyMask
    let skip := (numsFrom 0 32).map (fun l =>
      if i.mask.getLsbD l then 0 else if rdy.getLsbD l then satN 64 (i.y.skipOf l + 1) else i.y.skipOf l)
    let plies := s.fly.plies.map (fun e =>
      if flyOf e.1 = flyOf i.k && e.1 ≠ i.k then (e.1, { e.2 with unchosen := e.2.unchosen + 1 }) else e)
    let s := { s with fly := { s.fly with plies := plies } }
    let s := putPly i.k { y with skip := skip, unchosen := 0, passBp := none, passBkpt := none } s
    let base := 0x100 + 0x40 * (flyOf i.k % 4)
    let s := bumpSp (spOf i.k) base 1 s
    let s := bumpSp (spOf i.k) (base + 8) (lanesOf i.mask).length s
    if s.pwr.issued.contains (spOf i.k) then s
    else { s with pwr := { s.pwr with issued := s.pwr.issued ++ [spOf i.k] } }

/-- Set the PC of every issuing thread by f of the lane. -/
def setPcs (k : Nat) (m : BitVec 32) (f : Nat → Nat) (s : State) : State :=
  match plyAt s k with
  | none => s
  | some y => putPly k { y with pcs := (numsFrom 0 32).map (fun l => if m.getLsbD l then f l else y.pcOf l) } s

/-- After a step, the ply halts with REASON step done, once the stepped instruction has retired (R474). -/
def afterStep (k : Nat) (stepping : Bool) (s : State) : State :=
  if !stepping then s
  else
    match plyAt s k with
    | none => s
    | some y =>
      if y.mem.any (fun o => o.step) then putPly k { y with stepping := false, halting := true } s else haltPly k 6 0 s

/-- A memory instruction has retired: a watchpoint hit halts its ply, and a step is done (R474, R476). -/
def memRetired (k : Nat) (watch : Option Nat) (step : Bool) (s : State) : State :=
  if (plyAt s k).any (fun y => y.ended) then s
  else
    let s := match watch with
      | some i => haltPly k 3 i s
      | none => s
    if step then haltPly k 6 0 s else s

/-- How an instruction ends once it has been checked: it retires in a new state, or it cannot retire yet and holds the ply. -/
inductive Act
  | retire (s : State)
  | hold (s : State)

/-- Issue word w for the ply at p (R164, R180, R205, R206). opOk: the word is this instruction's. uses: the register fields
it uses, for the scoreboard. chk: the exceptions of Table 9-13 that the instruction itself raises, in order. next: whether
each issuing thread goes on at PC + 8 (the check of R180). act: what it does. A ply that cannot issue, or whose scoreboard
holds a register of the word, is left as it is. -/
def issue (p : PlyId) (w : W64) (opOk : Bool) (uses : List Nat) (chk : Iss → Option Nat) (next : Iss → BitVec 32)
    (act : Iss → State → Act) (s : State) : State :=
  let k := plyKey p
  if ! running s then s
  else
    match plyAt s k with
    | none => s
    | some y =>
      if ! y.mayIssue s || (y.stalled && wOp w ≠ 0xB0) then s
      else
        match y.choose with
        | none => s
        | some pc =>
          let m := y.issuers pc
          let i : Iss := { k := k, y := y, w := w, pc := pc, mask := m, g := y.guardMask w m }
          match (if y.passBp = some pc || y.stepping then none else bpMatch s k pc y.owner.ctx) with
          | some b => haltPly k 2 b s
          | none =>
            if (y.mem.flatMap MemOp.regs).any (fun r => (fieldRegs w uses).contains r) then s
            else
              let code :=
                if ! opOk then some 1
                else
                  match chk i with
                  | some 1 => some 1
                  | some 2 => some 2
                  | some 3 => some 3
                  | c => if 2 ^ 48 ≤ pc + 8 && next i ≠ 0#32 then some 3 else c
              match code with
              | some c => raiseException i c (wImm w % 65536) (noteIssue i s)
              | none =>
                match act i s with
                | .hold s => s
                | .retire s => afterStep k y.stepping (noteIssue i s)

/-- Every issuing thread goes on at PC + 8. -/
def allNext (i : Iss) : BitVec 32 := i.mask

/-- Store the ply after f and advance every issuing thread to PC + 8 (R182). -/
def retirePly (f : Iss → Ply → Ply) (i : Iss) (s : State) : Act :=
  .retire (setPcs i.k i.mask (fun _ => i.pc + 8) (putPly i.k (f i i.y) s))

/-- The first condition that fails gives its code. -/
def firstCode : List (Bool × Nat) → Option Nat
  | [] => none
  | (ok, c) :: t => if ok then firstCode t else some c

/-- An instruction of the register file: types it accepts, whether an I-form exists, how many of A, B, C it reads, and what a
lane's result is from its operand values. op is the even opcode. f gets TYPE, MOD and the operands. -/
def aluOp (op : Nat) (types : List Nat) (iform : Bool) (nsrc : Nat) (subOk : Nat → Bool)
    (f : Nat → Nat → Nat → Nat → Nat → Nat × Fl) (p : PlyId) (w : W64) (s : State) : State :=
  let t := wType w
  let im := wIform w
  let immv := if t = 5 then wrapN 64 (signedN 32 (wImm w)) else wImm w
  let uses := wD w :: wA w :: (if im then [] else if nsrc = 3 then [wB w, wC w] else if nsrc = 2 then [wB w] else [])
  issue p w (wOp w = op || (iform && wOp w = op + 1)) uses
    (fun i => firstCode
      [ (types.contains t, 1)
      , (dstOk i.y.vregs t (wD w) && srcOk i.y.vregs t (wA w)
          && (im || nsrc < 2 || srcOk i.y.vregs t (wB w)) && (im || nsrc < 3 || srcOk i.y.vregs t (wC w))
          && (im || subOk (mSub (wMod w))), 2) ])
    allNext
    (retirePly (fun i y =>
      let val := fun l => f t (wMod' w) (y.rdT t (wA w) l) (if im then immv else y.rdT t (wB w) l) (y.rdT t (wC w) l)
      (y.wrLanes t (wD w) i.g (fun l => (val l).1)).orFlags ((lanesOf i.g).foldl (fun a l => a ||| (val l).2) 0))) s

end Sys2Proof.Machine
end

