-- ==== Sys2Proof/Machine/IsaInt.lean ====
section
/-! DEFINITION. Integer, move, predicate and lane instructions (Tables 9-5 and 9-8; R184, R187, R188, R193). -/

namespace Sys2Proof.Machine

open Sys2Proof

/-- The integer value of a typed operand. -/
def intVal (t v : Nat) : Int := if isSigned t then signedN (typeBits t) v else (v : Int)
/-- The least and greatest integers of a type. -/
def intLo (t : Nat) : Int := if isSigned t then -((2 ^ (typeBits t - 1) : Nat) : Int) else 0
def intHi (t : Nat) : Int := if isSigned t then ((2 ^ (typeBits t - 1) : Nat) : Int) - 1 else ((2 ^ typeBits t : Nat) : Int) - 1
/-- Limit an integer to a type's range. -/
def clampInt (t : Nat) (v : Int) : Int := if v < intLo t then intLo t else if intHi t < v then intHi t else v
/-- Wrap, or clamp under SAT (R188). -/
def wrapOrSat (t m : Nat) (v : Int) : Nat := wrapN (typeBits t) (if mSat m then clampInt t v else v)
/-- No flag. -/
def noFl (v : Nat) : Nat × Fl := (v, 0)
/-- Every SUB value is accepted: the opcode does not use the field (R186). -/
def anySub : Nat → Bool := fun _ => true

/-- ADD: D = A + B, wrapping or, with SAT, clamped (R188). -/
def execAdd (p : PlyId) (w : W64) (s : State) : Res :=
  done (aluOp 0x00 [0, 1, 4, 5] true 2 anySub (fun t m a b _ => noFl (wrapOrSat t m (intVal t a + intVal t b))) p w s)

/-- SUB: D = A - B (R188). -/
def execSub (p : PlyId) (w : W64) (s : State) : Res :=
  done (aluOp 0x02 [0, 1, 4, 5] true 2 anySub (fun t m a b _ => noFl (wrapOrSat t m (intVal t a - intVal t b))) p w s)

/-- MUL: the low 32 bits of A * B (R188). -/
def execMul (p : PlyId) (w : W64) (s : State) : Res :=
  done (aluOp 0x04 [0, 1] true 2 anySub (fun _ _ a b _ => noFl (a * b % 2 ^ 32)) p w s)

/-- MULHI: the high 32 bits of the 64-bit product, signed for S32 (R188). -/
def execMulhi (p : PlyId) (w : W64) (s : State) : Res :=
  done (aluOp 0x06 [0, 1] true 2 anySub
    (fun t _ a b _ => noFl (wrapN 64 (intVal t a * intVal t b) / 2 ^ 32)) p w s)

/-- MAD: the low 32 bits of A * B + C (R188). -/
def execMad (p : PlyId) (w : W64) (s : State) : Res :=
  done (aluOp 0x08 [0, 1] false 3 anySub (fun _ _ a b c => noFl ((a * b + c) % 2 ^ 32)) p w s)

/-- MIN (R188). -/
def execMin (p : PlyId) (w : W64) (s : State) : Res :=
  done (aluOp 0x0A [0, 1] true 2 anySub (fun t _ a b _ => noFl (if intVal t b < intVal t a then b else a)) p w s)

/-- MAX (R188). -/
def execMax (p : PlyId) (w : W64) (s : State) : Res :=
  done (aluOp 0x0C [0, 1] true 2 anySub (fun t _ a b _ => noFl (if intVal t a < intVal t b then b else a)) p w s)

/-- AND (R188). -/
def execAnd (p : PlyId) (w : W64) (s : State) : Res :=
  done (aluOp 0x0E [0, 4] true 2 anySub (fun _ _ a b _ => noFl (a &&& b)) p w s)

/-- OR (R188). -/
def execOr (p : PlyId) (w : W64) (s : State) : Res :=
  done (aluOp 0x10 [0, 4] true 2 anySub (fun _ _ a b _ => noFl (a ||| b)) p w s)

/-- XOR (R188). -/
def execXor (p : PlyId) (w : W64) (s : State) : Res :=
  done (aluOp 0x12 [0, 4] true 2 anySub (fun _ _ a b _ => noFl (a ^^^ b)) p w s)

/-- The shift count: B mod 32, or mod 64 for 64-bit types (R188). -/
def shiftCount (t b : Nat) : Nat := b % typeBits t

/-- SHL (R188). -/
def execShl (p : PlyId) (w : W64) (s : State) : Res :=
  done (aluOp 0x14 [0, 4] true 2 anySub (fun t _ a b _ => noFl (a * 2 ^ shiftCount t b % 2 ^ typeBits t)) p w s)

/-- SHR: logical for U, arithmetic for S (R188). -/
def execShr (p : PlyId) (w : W64) (s : State) : Res :=
  done (aluOp 0x16 [0, 1, 4, 5] true 2 anySub
    (fun t _ a b _ => noFl (wrapN (typeBits t) (intVal t a / ((2 ^ shiftCount t b : Nat) : Int)))) p w s)

/-- A bit field of A: length B[13:8] from bit B[4:0]; bits past bit 31 read 0 or bit 31; the result is extended (Table 9-5). -/
def bfe (t a b : Nat) : Nat :=
  let len := let n := bitsN b 13 8; if 32 < n then 32 else n
  let x := (intVal t a / ((2 ^ (b % 32) : Nat) : Int))
  if len = 0 then 0
  else if isSigned t then wrapN 32 (signedN len (wrapN len x)) else wrapN len x

/-- BFE (Table 9-5). -/
def execBfe (p : PlyId) (w : W64) (s : State) : Res :=
  done (aluOp 0x18 [0, 1] true 2 anySub (fun t _ a b _ => noFl (bfe t a b)) p w s)

/-- The number of ones among the low n bits. -/
def popCount (v : Nat) : Nat → Nat
  | 0 => 0
  | n + 1 => popCount v n + (if bitN v n then 1 else 0)

/-- POPC: BITOP SUB 0 (Table 9-5). -/
def execPopc (p : PlyId) (w : W64) (s : State) : Res :=
  done (aluOp 0x1A [0] false 1 (fun n => n = 0) (fun _ _ a _ _ => noFl (popCount a 32)) p w s)

/-- CLZ: BITOP SUB 1, 32 for 0 (Table 9-5). -/
def execClz (p : PlyId) (w : W64) (s : State) : Res :=
  done (aluOp 0x1A [0] false 1 (fun n => n = 1) (fun _ _ a _ _ => noFl (32 - bitLen (a % 2 ^ 32))) p w s)

/-- BREV: BITOP SUB 2 (Table 9-5). -/
def execBrev (p : PlyId) (w : W64) (s : State) : Res :=
  done (aluOp 0x1A [0] false 1 (fun n => n = 2) (fun _ _ a _ _ => noFl (maskOf (fun i => bitN a (31 - i))).toNat) p w s)

/-- SEL: D = A where predicate C is 1, else B; C must be a predicate specifier (Table 9-5). -/
def execSel (p : PlyId) (w : W64) (s : State) : Res :=
  let t := wType w
  done (issue p w (wOp w = 0x1C) [wD w, wA w, wB w]
    (fun i => firstCode
      [ ([0, 1, 2, 3, 4, 5].contains t, 1)
      , (dstOk i.y.vregs t (wD w) && srcOk i.y.vregs t (wA w) && srcOk i.y.vregs t (wB w) && spP (wC w), 2) ])
    allNext
    (retirePly (fun i y => y.wrLanes t (wD w) i.g
      (fun l => if (y.pget (wC w - 0xA0)).getLsbD l then y.rdT t (wA w) l else y.rdT t (wB w) l))) s)

/-- MOV: D = A; the I-form D = IMM, sign-extended for S64 (Table 9-5, R187). -/
def execMov (p : PlyId) (w : W64) (s : State) : Res :=
  let t := wType w
  let im := wIform w
  let immv := if t = 5 then wrapN 64 (signedN 32 (wImm w)) else wImm w
  done (issue p w (wOp w = 0x1E || wOp w = 0x1F) (if im then [wD w] else [wD w, wA w])
    (fun i => firstCode
      [ ([0, 1, 2, 3, 4, 5].contains t, 1)
      , (dstOk i.y.vregs t (wD w) && (im || srcOk i.y.vregs t (wA w)), 2) ])
    allNext
    (retirePly (fun i y => y.wrLanes t (wD w) i.g (fun l => if im then immv else y.rdT t (wA w) l))) s)

/-! ### Predicates and lanes (Table 9-8) -/

/-- Write a predicate in the lanes of a mask. -/
def Ply.wrPred (y : Ply) (d : Nat) (m : BitVec 32) (f : Nat → Bool) : Ply :=
  let r := d - 0xA0
  y.pset r ((y.pget r &&& ~~~m) ||| (m &&& maskOf f))

/-- Set, AND or OR a comparison into a predicate: SUB 0, 1, 2 (Table 9-8). -/
def combinePred (sub : Nat) (r c : Bool) : Bool := if sub = 1 then r && c else if sub = 2 then r || c else r

/-- An integer comparison by its code (Table 9-8). -/
def icmp (code : Nat) (a b : Int) : Bool :=
  match code with
  | 0 => a = b
  | 1 => a ≠ b
  | 2 => a < b
  | 3 => a ≤ b
  | 4 => b < a
  | _ => b ≤ a

/-- ISETP (Table 9-8). -/
def execIsetp (p : PlyId) (w : W64) (s : State) : Res :=
  let t := wType w
  let sub := mSub (wMod w)
  done (issue p w (wOp w = 0x50) [wA w, wB w]
    (fun i => firstCode
      [ ([0, 1, 4, 5].contains t, 1)
      , (spP (wD w) && srcOk i.y.vregs t (wA w) && srcOk i.y.vregs t (wB w) && mCmp (wMod w) < 6 && sub < 3
          && (sub = 0 || spP (wC w)), 2) ])
    allNext
    (retirePly (fun i y => y.wrPred (wD w) i.g (fun l =>
      combinePred sub (icmp (mCmp (wMod w)) (intVal t (y.rdT t (wA w) l)) (intVal t (y.rdT t (wB w) l)))
        ((y.pget (wC w - 0xA0)).getLsbD l)))) s)

/-- A floating-point comparison by its 4-bit code: ordered 0-6, unordered 8-14 (Table 9-8). -/
def fcmp (code : Nat) (a b : FV) : Bool :=
  let un := a.isNan || b.isNan
  let r := match code % 8 with
    | 0 => feq a b
    | 1 => ! feq a b
    | 2 => fbelow a b
    | 3 => fbelow a b || feq a b
    | 4 => fbelow b a
    | 5 => fbelow b a || feq a b
    | _ => false
  if code = 6 then !un else if code = 14 then un else if code < 8 then !un && r else un || r

/-- PLOP (Table 9-8). -/
def execPlop (p : PlyId) (w : W64) (s : State) : Res :=
  let sub := mSub (wMod w)
  done (issue p w (wOp w = 0x54) []
    (fun _ => firstCode
      [ (wType w = 0, 1), (spP (wD w) && spP (wA w) && sub < 5 && (sub = 4 || spP (wB w)), 2) ])
    allNext
    (retirePly (fun i y =>
      let a := y.pget (wA w - 0xA0)
      let b := y.pget (wB w - 0xA0)
      let r := match sub with
        | 0 => a &&& b
        | 1 => a ||| b
        | 2 => a ^^^ b
        | 3 => a &&& ~~~b
        | _ => ~~~a
      y.wrPred (wD w) i.g (fun l => r.getLsbD l))) s)

/-- A vote that writes a predicate in every participant (Table 9-8). -/
def voteOp (sub : Nat) (res : BitVec 32 → BitVec 32 → Bool) (p : PlyId) (w : W64) (s : State) : State :=
  issue p w (wOp w = 0x56) []
    (fun _ => firstCode [(wType w = 0, 1), (spP (wD w) && spP (wA w) && mSub (wMod w) = sub, 2)])
    allNext
    (retirePly (fun i y => y.wrPred (wD w) i.g (fun _ => res (y.pget (wA w - 0xA0)) i.g))) s

/-- VOTE_ALL: 1 where pA is 1 in all participants (Table 9-8). -/
def execVoteAll (p : PlyId) (w : W64) (s : State) : Res := done (voteOp 0 (fun a g => a &&& g = g) p w s)

/-- VOTE_ANY (Table 9-8). -/
def execVoteAny (p : PlyId) (w : W64) (s : State) : Res := done (voteOp 1 (fun a g => a &&& g ≠ 0#32) p w s)

/-- VOTE_BALLOT: D = the mask of participants with pA = 1 (Table 9-8). -/
def execVoteBallot (p : PlyId) (w : W64) (s : State) : Res :=
  done (issue p w (wOp w = 0x56) [wD w]
    (fun i => firstCode
      [(wType w = 0, 1), (dst32 i.y.vregs (wD w) && spP (wA w) && mSub (wMod w) = 2, 2)])
    allNext
    (retirePly (fun i y => y.wrLanes 0 (wD w) i.g (fun _ => (y.pget (wA w - 0xA0) &&& i.g).toNat))) s)

/-- The source lane of SHFL (Table 9-8). -/
def shflLane (sub lane b : Nat) : Nat :=
  match sub with
  | 0 => b % 32
  | 1 => (lane ^^^ (b % 32)) % 32
  | 2 => if b ≤ lane then lane - b else lane
  | _ => if lane + b < 32 then lane + b else lane

/-- SHFL: all reads precede all writes, and read lanes whether or not they issue (R193). -/
def execShfl (p : PlyId) (w : W64) (s : State) : Res :=
  let sub := mSub (wMod w)
  done (issue p w (wOp w = 0x58) [wD w, wA w, wB w]
    (fun i => firstCode
      [ (wType w = 0, 1)
      , (dst32 i.y.vregs (wD w) && src32 i.y.vregs (wA w) && src32 i.y.vregs (wB w) && sub < 4, 2) ])
    allNext
    (retirePly (fun i y => y.wrLanes 0 (wD w) i.g (fun l => i.y.rd (wA w) (shflLane sub l (i.y.rd (wB w) l))))) s)

/-- The value of a special register in a lane (Table 9-10). -/
def specialReg (i : Iss) (s : State) (ix lane : Nat) : Nat :=
  match ix with
  | 0x00 => lane
  | 0x01 => i.mask.toNat
  | 0x02 => spOf i.k
  | 0x03 => flyOf i.k % 4
  | 0x04 => i.k % 16
  | 0x05 => i.y.owner.ctx
  | 0x06 => i.y.owner.source
  | 0x07 => i.y.vregs
  | 0x08 => s.core.timebase.toNat % 2 ^ 32
  | 0x09 => i.y.tbLatch.toNat
  | 0x0A => i.y.fpflags.toNat
  | _ => (numsFrom 0 8).foldl (fun a t => a + bitVal (((i.y.tokens[t]?).map (fun k => k.busy)).getD false) t) 0

/-- MOVSR: D = a special register; index 0x08 latches the timebase's high word; index 0x0A with IMM[8] = 1 reads FPFLAGS and
clears it; an unlisted index is ILLEGAL_OPERAND (R192, R202). -/
def execMovsr (p : PlyId) (w : W64) (s : State) : Res :=
  let ix := wImm w % 256
  done (issue p w (wOp w = 0x5A) [wD w]
    (fun i => firstCode [(wType w = 0, 1), (dst32 i.y.vregs (wD w) && ix < 12, 2)])
    allNext
    (fun i s => retirePly (fun i y =>
      let y := y.wrLanes 0 (wD w) i.g (fun l => specialReg i s ix l)
      let y := if ix = 8 && i.g ≠ 0#32 then { y with tbLatch := BitVec.ofNat 32 (s.core.timebase.toNat / 2 ^ 32) } else y
      if ix = 0x0A && bitN (wImm w) 8 && i.g ≠ 0#32 then { y with fpflags := 0#5 } else y) i s) s)

end Sys2Proof.Machine
end

