-- ==== Sys2Proof/Machine/IsaFloat.lean ====
section
/-! DEFINITION. Floating-point and conversion instructions (Table 9-6; R189-R191, R239). -/

namespace Sys2Proof.Machine

open Sys2Proof

/-- An operand of a floating-point instruction: FTZ's reading, then ABS, then NEG (Table 9-4, R190). -/
def fin (f : Fmt) (m : Nat) (ab ng : Bool) (bits : Nat) : FV :=
  let v := fread f (mFtz m) bits
  let v := if ab then v.mapSign (fun _ => false) else v
  if ng then v.mapSign (fun n => !n) else v

/-- Do an operation on binary32, or on the two elements of F16X2 independently (R189); SAT last (R190). -/
def fpDo (t m : Nat) (op : Fmt → (Nat → Nat) → Nat × Fl) : Nat × Fl :=
  if t = 3 then
    let lo := op fmt16 (fun x => x % 65536)
    let hi := op fmt16 (fun x => x / 65536 % 65536)
    (fsat fmt16 (mSat m) lo.1 + fsat fmt16 (mSat m) hi.1 * 65536, lo.2 ||| hi.2)
  else
    let r := op fmt32 (fun x => x % 2 ^ 32)
    (fsat fmt32 (mSat m) r.1, r.2)

def opA (f : Fmt) (m a : Nat) : FV := fin f m (mAbsA m) (mNegA m) a
def opB (f : Fmt) (m b : Nat) : FV := fin f m (mAbsB m) (mNegB m) b
def opC (f : Fmt) (m c : Nat) : FV := fin f m false (mNegC m) c

/-- FADD (R189). -/
def execFadd (p : PlyId) (w : W64) (s : State) : Res :=
  done (aluOp 0x20 [2, 3] true 2 anySub (fun t m a b _ =>
    fpDo t m (fun f e => fadd f (mRnd m) (mFtz m) (opA f m (e a)) (opB f m (e b)))) p w s)

/-- FMUL (R189). -/
def execFmul (p : PlyId) (w : W64) (s : State) : Res :=
  done (aluOp 0x22 [2, 3] true 2 anySub (fun t m a b _ =>
    fpDo t m (fun f e => fmul f (mRnd m) (mFtz m) (opA f m (e a)) (opB f m (e b)))) p w s)

/-- FFMA: a single rounding (R189). -/
def execFfma (p : PlyId) (w : W64) (s : State) : Res :=
  done (aluOp 0x24 [2, 3] false 3 anySub (fun t m a b c =>
    fpDo t m (fun f e => ffma f (mRnd m) (mFtz m) (opA f m (e a)) (opB f m (e b)) (opC f m (e c)))) p w s)

/-- FMIN: minimumNumber (R190). -/
def execFmin (p : PlyId) (w : W64) (s : State) : Res :=
  done (aluOp 0x26 [2, 3] true 2 anySub (fun t m a b _ =>
    fpDo t m (fun f e => fminmax f true (opA f m (e a)) (opB f m (e b)))) p w s)

/-- FMAX: maximumNumber (R190). -/
def execFmax (p : PlyId) (w : W64) (s : State) : Res :=
  done (aluOp 0x28 [2, 3] true 2 anySub (fun t m a b _ =>
    fpDo t m (fun f e => fminmax f false (opA f m (e a)) (opB f m (e b)))) p w s)

/-- FDIV (R189). -/
def execFdiv (p : PlyId) (w : W64) (s : State) : Res :=
  done (aluOp 0x2A [2, 3] false 2 anySub (fun t m a b _ =>
    fpDo t m (fun f e => fdiv f (mRnd m) (mFtz m) (opA f m (e a)) (opB f m (e b)))) p w s)

/-- FSQRT (R189). -/
def execFsqrt (p : PlyId) (w : W64) (s : State) : Res :=
  done (aluOp 0x2C [2, 3] false 1 anySub (fun t m a _ _ =>
    fpDo t m (fun f e => fsqrt f (mRnd m) (mFtz m) (opA f m (e a)))) p w s)

/-- FTRANS of one sub-operation: ABS and NEG apply to A, SAT to the result; RND and FTZ are ignored (R190, R191). -/
def ftransOp (sub : Nat) (p : PlyId) (w : W64) (s : State) : State :=
  aluOp 0x2E [2] false 1 (fun n => n = sub) (fun _ m a _ _ =>
    let a := if mAbsA m then a % 2 ^ 31 else a
    let a := if mNegA m then a ^^^ 2 ^ 31 else a
    let r := ftrans sub a
    (fsat fmt32 (mSat m) r.1, r.2)) p w s

/-- RCP (R191). -/
def execRcp (p : PlyId) (w : W64) (s : State) : Res := done (ftransOp 0 p w s)
/-- RSQ (R191). -/
def execRsq (p : PlyId) (w : W64) (s : State) : Res := done (ftransOp 1 p w s)
/-- EXP2 (R191). -/
def execExp2 (p : PlyId) (w : W64) (s : State) : Res := done (ftransOp 2 p w s)
/-- LOG2 (R191). -/
def execLog2 (p : PlyId) (w : W64) (s : State) : Res := done (ftransOp 3 p w s)
/-- SIN (R191). -/
def execSin (p : PlyId) (w : W64) (s : State) : Res := done (ftransOp 4 p w s)
/-- COS (R191). -/
def execCos (p : PlyId) (w : W64) (s : State) : Res := done (ftransOp 5 p w s)

/-- FSETP: a signalling NaN raises invalid (Table 9-8, R190). -/
def execFsetp (p : PlyId) (w : W64) (s : State) : Res :=
  let m := wMod w
  let sub := mSub m
  let code := mCmp m + 8 * mHalf m
  done (issue p w (wOp w = 0x52) [wA w, wB w]
    (fun i => firstCode
      [ (wType w = 2, 1)
      , (spP (wD w) && src32 i.y.vregs (wA w) && src32 i.y.vregs (wB w) && code ≠ 7 && code ≠ 15 && sub < 3
          && (sub = 0 || spP (wC w)), 2) ])
    allNext
    (retirePly (fun i y =>
      let a := fun l => opA fmt32 m (y.rd (wA w) l)
      let b := fun l => opB fmt32 m (y.rd (wB w) l)
      (y.wrPred (wD w) i.g (fun l => combinePred sub (fcmp code (a l) (b l)) ((y.pget (wC w - 0xA0)).getLsbD l))).orFlags
        ((lanesOf i.g).foldl (fun x l => x ||| sigFl [a l, b l]) 0))) s)

/-- One CVT lane: destination type t, source type from SUB (Table 9-6). a is the value of A's source type, b of B. -/
def cvtVal (t m a b : Nat) : Nat × Fl :=
  let src := mSub m
  let r := mRnd m
  let z := mFtz m
  let fsrc : FV :=
    if src = 2 then fin fmt32 m (mAbsA m) (mNegA m) a
    else fin fmt16 m (mAbsA m) (mNegA m) (a / 2 ^ (16 * mHalf m) % 65536)
  let isf := src = 2 || src = 3
  if t = 3 then
    let lo := fcvt fmt16 r z (fin fmt32 m (mAbsA m) (mNegA m) a)
    let hi := fcvt fmt16 r z (fin fmt32 m (mAbsB m) (mNegB m) b)
    (fsat fmt16 (mSat m) lo.1 + fsat fmt16 (mSat m) hi.1 * 65536, lo.2 ||| hi.2)
  else if t = 2 then
    let x := if isf then fcvt fmt32 r z fsrc else fofInt fmt32 r z (intVal src a)
    (fsat fmt32 (mSat m) x.1, x.2)
  else if isf then
    let x := ftoInt r (intLo t) (intHi t) fsrc
    (wrapN (typeBits t) x.1, x.2)
  else noFl (wrapOrSat t m (intVal src a))

/-- CVT (Table 9-6, R189, R190). -/
def execCvt (p : PlyId) (w : W64) (s : State) : Res :=
  let t := wType w
  let src := mSub (wMod w)
  done (issue p w (wOp w = 0x40) ([wD w, wA w] ++ (if t = 3 then [wB w] else []))
    (fun i => firstCode
      [ ([0, 1, 2, 3, 4, 5].contains t, 1)
      , (src < 6 && (t ≠ 3 || src = 2) && dstOk i.y.vregs t (wD w) && srcOk i.y.vregs src (wA w)
          && (t ≠ 3 || src32 i.y.vregs (wB w)), 2) ])
    allNext
    (retirePly (fun i y =>
      let val := fun l => cvtVal t (wMod w) (y.rdT src (wA w) l) (y.rd (wB w) l)
      (y.wrLanes t (wD w) i.g (fun l => (val l).1)).orFlags ((lanesOf i.g).foldl (fun a l => a ||| (val l).2) 0))) s)

/-- A narrow-format conversion: pack writes U32, unpack writes F32 (Table 9-6). packs tells whether the SUB at hand packs. -/
def narrowOp (op : Nat) (pack : Bool) (subOk : Nat → Bool) (f : Nat → Nat → Nat → Nat × Fl)
    (p : PlyId) (w : W64) (s : State) : State :=
  issue p w (wOp w = op) ([wD w, wA w] ++ (if pack then [wB w] else []))
    (fun i => firstCode
      [ (if subOk (mSub (wMod w)) then wType w = (if pack then 0 else 2) else wType w = 0 || wType w = 2, 1)
      , (subOk (mSub (wMod w)) && dst32 i.y.vregs (wD w) && src32 i.y.vregs (wA w)
          && (!pack || src32 i.y.vregs (wB w)), 2) ])
    allNext
    (retirePly (fun i y =>
      let val := fun l => f (wMod w) (y.rd (wA w) l) (y.rd (wB w) l)
      (y.wrLanes 0 (wD w) i.g (fun l => (val l).1)).orFlags ((lanesOf i.g).foldl (fun a l => a ||| (val l).2) 0))) s

/-- The FP8 format of SUB bit 0: E4M3 or E5M2 (Table 9-6). -/
def fp8Of (m : Nat) : Fmt := if bitN (mSub m) 0 then fmtE5M2 else fmtE4M3

/-- Two F32 values into a narrow format of n bits each (R190). -/
def packTwo (f : Fmt) (n m a b : Nat) : Nat × Fl :=
  let lo := fpackTo f (mRnd m) (mFtz m) (mSat m) (fin fmt32 m (mAbsA m) (mNegA m) a)
  let hi := fpackTo f (mRnd m) (mFtz m) (mSat m) (fin fmt32 m (mAbsB m) (mNegB m) b)
  (lo.1 + hi.1 * 2 ^ n, lo.2 ||| hi.2)

/-- One narrow value to F32: exact; a signalling NaN raises invalid (R190). -/
def unpackOne (f : Fmt) (n m a : Nat) : Nat × Fl :=
  let v := fin f m (mAbsA m) (mNegA m) (a / 2 ^ (n * mHalf m) % 2 ^ n)
  let r := fcvt fmt32 (mRnd m) (mFtz m) v
  (fsat fmt32 (mSat m) r.1, r.2)

/-- CVTF8_PACK (Table 9-6, R190). -/
def execCvtf8Pack (p : PlyId) (w : W64) (s : State) : Res :=
  done (narrowOp 0x42 true (fun n => n < 2) (fun m a b => packTwo (fp8Of m) 8 m a b) p w s)

/-- CVTF8_UNPACK (Table 9-6, R239). -/
def execCvtf8Unpack (p : PlyId) (w : W64) (s : State) : Res :=
  done (narrowOp 0x42 false (fun n => n = 2 || n = 3) (fun m a _ => unpackOne (fp8Of m) 8 m a) p w s)

/-- CVTBF_PACK (Table 9-6, R190). -/
def execCvtbfPack (p : PlyId) (w : W64) (s : State) : Res :=
  done (narrowOp 0x44 true (fun n => n = 0) (fun m a b => packTwo fmtBf 16 m a b) p w s)

/-- CVTBF_UNPACK (Table 9-6, R239). -/
def execCvtbfUnpack (p : PlyId) (w : W64) (s : State) : Res :=
  done (narrowOp 0x44 false (fun n => n = 1) (fun m a _ => unpackOne fmtBf 16 m a) p w s)

end Sys2Proof.Machine
end

