-- ==== Sys2Proof/Machine/IsaCtl.lean ====
section
/-! DEFINITION. Control flow, barriers, fences, token waits and the debug instructions (R194, R197, R198, R201, R218-R220), with
the ageing and active-set events of the flyers (R164-R167). -/

namespace Sys2Proof.Machine

open Sys2Proof

/-- Threads of an issue that do not take the transfer go on at PC + 8 (R194). -/
def notTaken (i : Iss) : BitVec 32 := i.mask &&& ~~~i.g

/-- The target of a relative transfer, as a 64-bit address. -/
def relTarget (i : Iss) : Nat := wrapN 64 ((i.pc : Int) + signedN 32 (wImm i.w))

/-- Store the ply after f, the taken threads at their targets, the others at PC + 8. -/
def branchTo (f : Iss → Ply → Ply) (tgt : Iss → Nat → Nat) (i : Iss) (s : State) : Act :=
  .retire (setPcs i.k i.mask (fun l => if i.g.getLsbD l then tgt i l else i.pc + 8) (putPly i.k (f i i.y) s))

/-- The checks of a relative transfer: IMM a multiple of 8, the target below 2^48 (R194, Table 9-13). -/
def relChecks (i : Iss) : List (Bool × Nat) :=
  [(wImm i.w % 8 = 0, 2), (i.g = 0#32 || relTarget i < 2 ^ 48, 3)]

/-- The checks of an indirect transfer through pair A (R194). -/
def indChecks (i : Iss) : List (Bool × Nat) :=
  [ (pair64 i.y.vregs (wA i.w), 2)
  , ((lanesOf i.g).all (fun l => i.y.rd64 (wA i.w) l < 2 ^ 48), 3)
  , ((lanesOf i.g).all (fun l => i.y.rd64 (wA i.w) l % 8 = 0), 5) ]

/-- BRA (R194). -/
def execBra (p : PlyId) (w : W64) (s : State) : Res :=
  done (issue p w (wOp w = 0x60) [] (fun i => firstCode (relChecks i)) notTaken
    (branchTo (fun _ y => y) (fun i _ => relTarget i)) s)

/-- JMP (R194). -/
def execJmp (p : PlyId) (w : W64) (s : State) : Res :=
  done (issue p w (wOp w = 0x62) [wA w] (fun i => firstCode (indChecks i)) notTaken
    (branchTo (fun _ y => y) (fun i l => i.y.rd64 (wA w) l)) s)

/-- CALL: pair D = PC + 8, then the relative transfer (R194). -/
def execCall (p : PlyId) (w : W64) (s : State) : Res :=
  done (issue p w (wOp w = 0x64) [wD w]
    (fun i => firstCode ((pair64 i.y.vregs (wD w), 2) :: relChecks i)) notTaken
    (branchTo (fun i y => y.wrLanes 4 (wD w) i.g (fun _ => i.pc + 8)) (fun i _ => relTarget i)) s)

/-- CALLR: pair D = PC + 8, then the transfer through pair A as it was (R194). -/
def execCallr (p : PlyId) (w : W64) (s : State) : Res :=
  done (issue p w (wOp w = 0x66) [wD w, wA w]
    (fun i => firstCode ((pair64 i.y.vregs (wD w), 2) :: indChecks i)) notTaken
    (branchTo (fun i y => y.wrLanes 4 (wD w) i.g (fun _ => i.pc + 8)) (fun i l => i.y.rd64 (wA w) l)) s)

/-- NOP: no effect but the PC's advance (Table 9-9). -/
def execNop (p : PlyId) (w : W64) (s : State) : Res :=
  done (issue p w (wOp w = 0x6A) [] (fun _ => none) allNext (retirePly (fun _ y => y)) s)

/-- BAR: the issuing threads stop at the group barrier; GEN = 1 is ILLEGAL_OPERAND (R194, R198). -/
def execBar (p : PlyId) (w : W64) (s : State) : Res :=
  done (issue p w (wOp w = 0x90) [] (fun _ => firstCode [(!wGen w, 2)]) allNext
    (retirePly (fun i y => { y with atBar := y.atBar ||| i.mask })) s)

/-- The plies of one group: same context, source, packet and group (R160). -/
def sameGroup (a b : PlyOwner) : Bool := a = b

/-- Every thread of the group is at a BAR or has exited (R198). -/
def barrierMet (s : State) (o : PlyOwner) : Bool :=
  s.fly.plies.all (fun e => !sameGroup e.2.owner o || (e.2.atBar ||| e.2.exited ||| ~~~e.2.present) = BitVec.allOnes 32)

/-- BAR_RELEASE: once every thread of the group of the ply at p is at a BAR or has exited, all continue (R198). -/
def execBarRelease (p : PlyId) (s : State) : Res :=
  done (onlyIf (running s) (fun s =>
    match plyAt s (plyKey p) with
    | none => s
    | some y =>
      if barrierMet s y.owner then
        { s with fly := { s.fly with plies := s.fly.plies.map (fun e =>
          if sameGroup e.2.owner y.owner then (e.1, { e.2 with atBar := 0#32 }) else e) } }
      else s) s)

/-- An outstanding store or atomic of the ply (R219). -/
def Ply.storesOut (y : Ply) : Bool := y.mem.any (fun o => wOp o.w = 0x72 || wOp o.w = 0x80)

/-- An outstanding acquire of the ply: no later access of its threads is performed before it completes (R218). -/
def Ply.acquireOut (y : Ply) : Bool :=
  y.mem.any (fun o => (wOp o.w = 0x70 && bitsOf o.w 29 28 = 1) || (wOp o.w = 0x80 && bitN (mOrder (wMod o.w)) 0))

/-- A release at a scope: system scope also writes the merge buffers to DRAM (R219). -/
def releaseAt (scope : Nat) (s : State) : State := if scope = 3 then drainAll s else s

/-- FENCE: relaxed is ILLEGAL_OPERAND; release waits for the ply's earlier stores, acquire invalidates the L1 (R218-R220). -/
def execFence (p : PlyId) (w : W64) (s : State) : Res :=
  let o := mOrder (wMod w)
  done (issue p w (wOp w = 0x92) [] (fun _ => firstCode [(o ≠ 0, 2)]) allNext
    (fun i s =>
      if (bitN o 1 && i.y.storesOut) || (bitN o 0 && i.y.acquireOut) then .hold s
      else if i.g = 0#32 then retirePly (fun _ y => y) i s
      else
        let s := if bitN o 1 then releaseAt (mScope (wMod w)) s else s
        let s := if bitN o 0 then l1Invalidate (flyOf i.k) s else s
        retirePly (fun _ y => y) i s) s)

/-- Token t of a ply. -/
def Ply.token (y : Ply) (t : Nat) : Token := (y.tokens[t]?).getD ⟨false, 0⟩

/-- Every token of a mask is done (R197). -/
def Ply.tokensDone (y : Ply) (mask : Nat) : Bool := (numsFrom 0 8).all (fun t => !bitN mask t || !(y.token t).busy)

/-- The status word TWAIT writes: two bits for each token in MASK (R197). -/
def Ply.statusWord (y : Ply) (mask : Nat) : Nat :=
  (numsFrom 0 8).foldl (fun a t => a + if bitN mask t then (y.token t).status * 2 ^ (2 * t) else 0) 0

/-- TWAIT: guard-true threads stop until every token in MASK is done, then D gets the status word; with all done already it
completes at once, as an acquire at spindle scope (R197, R223). -/
def execTwait (p : PlyId) (w : W64) (s : State) : Res :=
  let mask := wMod w % 256
  done (issue p w (wOp w = 0x94) [wD w] (fun i => firstCode [(dst32 i.y.vregs (wD w), 2)]) allNext
    (fun i s =>
      if i.g = 0#32 then retirePly (fun _ y => y) i s
      else if i.y.tokensDone mask then
        retirePly (fun i y => y.wrLanes 0 (wD w) i.g (fun _ => y.statusWord mask)) i (l1Invalidate (flyOf i.k) s)
      else
        match retirePly (fun i y => { y with twaits := y.twaits ++ [(i.g, mask, wD w)] }) i s with
        | .retire s => .retire (toPending i.k s)
        | .hold s => .hold s) s)

/-- TWAIT_RELEASE: each TWAIT of the ply whose tokens are all done writes its status word and releases its threads (R197). -/
def execTwaitRelease (p : PlyId) (s : State) : Res :=
  done (onlyIf (running s) (fun s =>
    let k := plyKey p
    match plyAt s k with
    | none => s
    | some y =>
      let ready := y.twaits.filter (fun t => y.tokensDone t.2.1)
      if ready.isEmpty then s
      else
        let y' := ready.foldl (fun z t => z.wrLanes 0 t.2.2 t.1 (fun _ => y.statusWord t.2.1)) y
        l1Invalidate (flyOf k)
          (putPly k { y' with twaits := y.twaits.filter (fun t => !y.tokensDone t.2.1) } s)) s)

/-- BKPT: with software breakpoints enabled the ply halts before retiring, else a NOP; a ply resumed or stepped at it retires
it as a NOP (R201, R477). -/
def execBkpt (p : PlyId) (w : W64) (s : State) : Res :=
  done (issue p w (wOp w = 0xF0) [] (fun _ => none) allNext
    (fun i s =>
      if s.flag ⟨flyDbg i.k 0, 0, 0⟩ && i.y.passBkpt ≠ some i.pc && !i.y.stepping then .hold (haltPly i.k 4 0 s)
      else retirePly (fun _ y => y) i s) s)

/-- TRAP: the TRAP exception when some issuing thread has a true guard, else nothing (R201). -/
def execTrap (p : PlyId) (w : W64) (s : State) : Res :=
  done (issue p w (wOp w = 0xF2) [] (fun i => firstCode [(i.g = 0#32, 6)]) allNext (retirePly (fun _ y => y)) s)

/-- LOGEV: one code event with IMM[15:0] and pair A of the lowest thread with a true guard, while LOGEV_EN = 1 (R201, R449). -/
def execLogev (p : PlyId) (w : W64) (s : State) : Res :=
  done (issue p w (wOp w = 0xF4) [wA w]
    (fun i => firstCode [(wType w = 0, 1), (pair64 i.y.vregs (wA w), 2)]) allNext
    (fun i s =>
      match (lanesOf i.g).head? with
      | none => retirePly (fun _ y => y) i s
      | some l =>
        let s :=
          if s.flag ⟨C 0xC0000, 31, 31⟩ then
            logEvent 6 0x0A8 i.y.owner.ctx (plySrc i.k) (wImm w % 65536 * 2 ^ 32 + i.y.rd64 (wA w) l % 2 ^ 32) s
          else s
        retirePly (fun _ y => y) i s) s)

/-! ### Ageing and the active set (R164-R167) -/

/-- Flyer counter 4: ageing overrides (Table 8-3). -/
def noteOverride (k : Nat) (s : State) : State := bumpSp (spOf k) (0x100 + 0x40 * (flyOf k % 4) + 0x20) 1 s

/-- THREAD_AGE_OVERRIDE: a ready thread of the ply has SKIP = 64, so its PC is the next chosen (Ply.choose); the flyer counts
the override (R164). -/
def execThreadAgeOverride (p : PlyId) (s : State) : Res :=
  done (onlyIf (running s) (fun s =>
    match plyAt s (plyKey p) with
    | none => s
    | some y => if (lanesOf y.readyMask).any (fun l => y.skipOf l = 64) then noteOverride (plyKey p) s else s) s)

/-- Two-level plies of a flyer in its active set. -/
def activePlies (s : State) (fly : Nat) : List (Nat × Ply) :=
  s.fly.plies.filter (fun e => flyOf e.1 = fly && e.2.twoLevel && e.2.active)

/-- FLY_STAT of a flyer (Table 8-2). -/
def syncFly (fly : Nat) (s : State) : State :=
  let mine := s.fly.plies.filter (fun e => flyOf e.1 = fly)
  let act := (activePlies s fly).length
  let two := (mine.filter (fun e => e.2.twoLevel)).length
  let units := mine.foldl (fun a e => a + e.2.vregs / 8) 0
  let r := C (0x100010 + (fly / 4) * 0x1000 + 4 * (fly % 4))
  s.setFlds [(⟨r, 31, 27⟩, mine.length), (⟨r, 26, 24⟩, act), (⟨r, 23, 20⟩, two - act), (⟨r, 19, 13⟩, 64 - units)]

/-- Promote a pending ply to the active set. -/
def promote (k : Nat) (s : State) : State :=
  match plyAt s k with
  | some y => putPly k { y with active := true } s
  | none => s

/-- The ply with the least age of a list. -/
def oldest : List (Nat × Ply) → Option (Nat × Ply)
  | [] => none
  | e :: t => match oldest t with
    | none => some e
    | some f => some (if e.2.age ≤ f.2.age then e else f)

/-- PLY_AGE_OVERRIDE: a ready ply whose unchosen count has reached 256 is chosen next; a pending two-level one replaces the
active ply that is there longest (R167). Which ply is chosen is the issue command's ply; here the set changes and the count
of overrides. -/
def execPlyAgeOverride (p : PlyId) (s : State) : Res :=
  let k := plyKey p
  done (onlyIf (running s) (fun s =>
    match plyAt s k with
    | none => s
    | some y =>
      if y.unchosen < 256 || y.readyMask = 0#32 then s
      else
        let s := noteOverride k s
        if y.twoLevel && !y.active then
          let acts := activePlies s (flyOf k)
          let s := if acts.length < 4 then s else
            match oldest acts with
            | some e => toPending e.1 s
            | none => s
          syncFly (flyOf k) (promote k s)
        else s) s)

/-- A two-level ply waits on a long event (R166): an outstanding access, a token wait, a fault, a barrier, a halt, a WEFT or
TRACE that has not retired. -/
def Ply.longWait (y : Ply) : Bool :=
  !y.mem.isEmpty || !y.twaits.isEmpty || y.faulted || y.atBar ≠ 0#32 || y.halted || y.stalled

/-- ACTIVE_SET_MOVE: an active ply with no ready thread that waits on a long event moves to the pending set; otherwise, with
fewer than 4 active plies, a ready pending ply that is the oldest such is promoted (R166). -/
def execActiveSetMove (p : PlyId) (s : State) : Res :=
  let k := plyKey p
  done (onlyIf (running s) (fun s =>
    match plyAt s k with
    | none => s
    | some y =>
      if !y.twoLevel then s
      else if y.active then
        (if y.longWait && (y.readyMask = 0#32 || y.halted || y.stalled || !y.mem.isEmpty) then
          syncFly (flyOf k) (toPending k s) else s)
      else
        let cand := s.fly.plies.filter (fun e => flyOf e.1 = flyOf k && e.2.twoLevel && !e.2.active
          && !e.2.halted && e.2.readyMask ≠ 0#32)
        if (activePlies s (flyOf k)).length < 4 && (oldest cand).map (fun e => e.1) = some k then
          syncFly (flyOf k) (promote k s)
        else s) s)

end Sys2Proof.Machine
end

