-- ==== Sys2Proof/Machine/IsaMem.lean ====
section
/-! DEFINITION. LD, ST and the atomics: their checks, their lane accesses, and what one line request does to memory and
registers (R135, R170, R195, R196, R215, R224-R227). MEMORY_RESPONSE, which also reaches the control space and the peer
windows, is in Machine/MemResponse.lean. -/

namespace Sys2Proof.Machine

open Sys2Proof

/-- Bytes of one element of an LD or ST type (Table 9-3). -/
def elemSize (t : Nat) : Nat := if t = 7 then 1 else if t = 6 then 2 else if t = 4 then 8 else 4
/-- OPT.VEC as an element count (R195). -/
def vecCount (w : W64) : Nat := 2 ^ bitsOf w 31 30
def optOrder (w : W64) : Nat := bitsOf w 29 28
def optScope (w : W64) : Nat := bitsOf w 27 26
def optBypass (w : W64) : Bool := bitN w.toNat 25

/-- Registers per element: a pair for U64 (R195). -/
def elemRegs (t : Nat) : Nat := if t = 4 then 2 else 1

/-- D of an LD or ST: ZERO in every form; one 32-bit element as any value; otherwise consecutive lane or scalar registers,
even for U64 (R183, R195). -/
def memD (vregs : Nat) (w : W64) (store : Bool) : Bool :=
  let d := wD w
  let n := vecCount w * elemRegs (wType w)
  if spZero d then true
  else if vecCount w = 1 && wType w ≠ 4 then (if store then src32 vregs d else dst32 vregs d)
  else ((spV d && d + n ≤ vregs) || (spS d && d + n ≤ 0xA0)) && (wType w ≠ 4 || d % 2 = 0)

/-- The address of a lane's LD or ST access (R195). -/
def memVa (y : Ply) (w : W64) (l : Nat) : Nat := wrapN 64 ((y.rd64 (wA w) l : Int) + wOff w)

/-- Address checks for the guard-true lanes: bits 63:48 zero, aligned to the whole access (Table 9-13). -/
def addrChecks (g : BitVec 32) (va : Nat → Nat) (size : Nat) : List (Bool × Nat) :=
  [((lanesOf g).all (fun l => va l < 2 ^ 48), 3), ((lanesOf g).all (fun l => va l % size = 0), 4)]

/-- The flyer's translation unit. -/
def flyUnit (k : Nat) : TlbUnit := .flyer ⟨k / 64 % 64, Nat.mod_lt _ (by decide)⟩ ⟨k / 16 % 4, Nat.mod_lt _ (by decide)⟩

/-- Translate the lanes of a memory instruction. Each lane gets its physical address, or a fault is raised for it: the op
then waits, or (ABORT mode) the ply is aborted (R135). Returns the lanes, whether some lane waits, whether some was aborted. -/
def translateLanes (k uid : Nat) (c : Nat) (a : Access) : List (Nat × Nat) → State → List LaneAcc × Bool × Bool × State
  | [], s => ([], false, false, s)
  | (l, va) :: t, s =>
    match translate (flyUnit k) c va a false s with
    | (.ok pa u, s) =>
      let (r, w, ab, s) := translateLanes k uid c a t s
      ({ lane := l, va := va, pa := some (pa, u), data := [], b := 0, c := 0 } :: r, w, ab, s)
    | (.fault cause lv, s) =>
      let (waits, s) := raiseFault c va cause lv a 0 (plySrc k) (.ply uid) s
      let (r, w, ab, s) := translateLanes k uid c a t s
      ({ lane := l, va := va, pa := none, data := [], b := 0, c := 0 } :: r, w || waits, ab || !waits, s)

/-- The element values a lane's loaded bytes hold, written to the registers from D (R195); a scalar D takes the lowest lane's
(R184). -/
def loadLane (y : Ply) (w : W64) (l : Nat) (bs : List Byte) : Ply :=
  if spZero (wD w) then y
  else
    let es := elemSize (wType w)
    (numsFrom 0 (vecCount w)).foldl (fun y e =>
      let v := fieldAt bs (e * es) es
      let d := wD w + e * elemRegs (wType w)
      if wType w = 4 then (y.wr d l (v % 2 ^ 32)).wr (d + 1) l (v / 2 ^ 32) else y.wr d l v) y

/-- The bytes a lane stores (R195): ZERO stores zero in every element. -/
def storeBytes (y : Ply) (w : W64) (l : Nat) : List Byte :=
  let es := elemSize (wType w)
  (numsFrom 0 (vecCount w)).flatMap (fun e =>
    let d := wD w + e * elemRegs (wType w)
    let v := if spZero (wD w) then 0 else if wType w = 4 then y.rd d l + y.rd (d + 1) l * 2 ^ 32 else y.rd d l
    leBytes es v)

/-- The lanes whose result a destination takes: all of them, or for a scalar D the lowest guard-true lane of the op. -/
def takesResult (w : W64) (first l : Nat) : Bool := !spS (wD w) || l = first

/-- Lines a set of lanes touches. -/
def lineCount (ls : List LaneAcc) : Nat := ((ls.map (fun a => a.va / 64)).dedup).length

/-- Begin a memory instruction: translate, count line requests and lane accesses, complete the loads that hit in the L1, and
leave the rest outstanding; every issuing thread advances (R170, R215). -/
def beginMem (a : Access) (size : Nat) (va : Nat → Nat) (l1ok : Bool) (i : Iss) (s : State) : Act :=
  let ls := lanesOf i.g
  if ls.isEmpty then retirePly (fun _ y => y) i s
  else
    let (acc, waits, aborted, s) := translateLanes i.k i.y.uid i.y.owner.ctx a (ls.map (fun l => (l, va l))) s
    let acc := acc.map (fun x => match a with
      | .write => { x with data := storeBytes i.y i.w x.lane }
      | .atomic => { x with b := i.y.rdT (wType i.w) (wB i.w) x.lane, c := i.y.rdT (wType i.w) (wC i.w) x.lane }
      | _ => x)
    let base := 0x100 + 0x40 * (flyOf i.k % 4)
    let s := bumpSp (spOf i.k) (base + 0x28) (lineCount acc) s
    let s := bumpSp (spOf i.k) (base + 0x30) acc.length s
    let first := ls.headD 0
    let hitBytes := fun (x : LaneAcc) => match x.pa with
      | some (pa, false) => if l1ok then (l1Find s (flyOf i.k) (pa / 64)).map (fun (l : L1Line) => (l.bytes.drop (pa % 64)).take size) else none
      | _ => none
    let hits := acc.filter (fun x => (hitBytes x).isSome)
    let rest := acc.filter (fun x => (hitBytes x).isNone)
    let y := hits.foldl (fun y x =>
      if takesResult i.w first x.lane then loadLane y i.w x.lane ((hitBytes x).getD []) else y) i.y
    let watch := leastOf (ls.filterMap (fun l => wpMatch s i.k i.y.owner.ctx (va l) size (a = .read) (a ≠ .read)))
    let op : MemOp :=
      { w := i.w, first := first, pc := i.pc, size := size, todo := rest, faulted := waits, watch := watch, step := i.y.stepping, cleared := [] }
    let y := if rest.isEmpty then y else { y with mem := y.mem ++ [op] }
    let s := setPcs i.k i.mask (fun _ => i.pc + 8) (putPly i.k y s)
    let s := if waits then toPending i.k s else s
    .retire (if aborted then endPly i.k 1 s else if rest.isEmpty then memRetired i.k watch false s else s)

/-- The ordering an access must wait for: a release waits for the ply's stores, anything waits for its acquires (R218, R219). -/
def memHeld (y : Ply) (release : Bool) : Bool := y.acquireOut || (release && y.storesOut)

/-- LD: its checks, then its line requests; relaxed loads of L1-cacheable lines may hit in the L1 (R195, R215). -/
def execLd (p : PlyId) (w : W64) (s : State) : Res :=
  let t := wType w
  let size := elemSize t * vecCount w
  done (issue p w (wOp w = 0x70) [wD w, wA w]
    (fun i => firstCode
      ([ ([0, 2, 3, 4, 6, 7].contains t, 1)
       , (pair64 i.y.vregs (wA w) && bitsOf w 31 30 ≠ 3 && !(bitsOf w 31 30 = 2 && t = 4) && optOrder w < 2
           && memD i.y.vregs w false, 2) ] ++ addrChecks i.g (memVa i.y w) size))
    allNext
    (fun i s =>
      if memHeld i.y false then .hold s
      else beginMem .read size (memVa i.y w) (optOrder w = 0 && !optBypass w) i s) s)

/-- ST: relaxed or release (R195, R219). -/
def execSt (p : PlyId) (w : W64) (s : State) : Res :=
  let t := wType w
  let size := elemSize t * vecCount w
  done (issue p w (wOp w = 0x72) [wD w, wA w]
    (fun i => firstCode
      ([ ([0, 2, 3, 4, 6, 7].contains t, 1)
       , (pair64 i.y.vregs (wA w) && bitsOf w 31 30 ≠ 3 && !(bitsOf w 31 30 = 2 && t = 4)
           && (optOrder w = 0 || optOrder w = 2) && memD i.y.vregs w true, 2) ] ++ addrChecks i.g (memVa i.y w) size))
    allNext
    (fun i s =>
      let rel := optOrder w = 2
      if memHeld i.y rel then .hold s
      else beginMem .write size (memVa i.y w) false i (if rel then releaseAt (optScope w) s else s)) s)

/-- SUB accepted for an atomic's TYPE (R196). -/
def atomSubOk (t sub : Nat) : Bool :=
  if sub = 3 || sub = 4 || sub = 5 then t = 0 || t = 4 else true

/-- One of the atomics, told apart by SUB (R196). -/
def atomOp (sub : Nat) (p : PlyId) (w : W64) (s : State) : State :=
  let t := wType w
  let size := if is64 t then 8 else 4
  let o := mOrder (wMod w)
  issue p w (wOp w = 0x80) ([wD w, wA w, wB w] ++ (if sub = 7 then [wC w] else []))
    (fun i => firstCode
      ([ ([0, 1, 2, 4, 5].contains t, 1)
       , (pair64 i.y.vregs (wA w) && dstOk i.y.vregs t (wD w) && srcOk i.y.vregs t (wB w)
           && (sub ≠ 7 || srcOk i.y.vregs t (wC w)) && mSub (wMod w) = sub && atomSubOk t sub, 2) ]
        ++ addrChecks i.g (fun l => i.y.rd64 (wA w) l) size))
    allNext
    (fun i s =>
      if memHeld i.y (bitN o 1) then .hold s
      else beginMem .atomic size (fun l => i.y.rd64 (wA w) l) false i
        (if bitN o 1 then releaseAt (mScope (wMod w)) s else s)) s

/-- ATOM_ADD (R225). -/
def execAtomAdd (p : PlyId) (w : W64) (s : State) : Res := done (atomOp 0 p w s)
/-- ATOM_MIN (R225). -/
def execAtomMin (p : PlyId) (w : W64) (s : State) : Res := done (atomOp 1 p w s)
/-- ATOM_MAX (R225). -/
def execAtomMax (p : PlyId) (w : W64) (s : State) : Res := done (atomOp 2 p w s)
/-- ATOM_AND (R225). -/
def execAtomAnd (p : PlyId) (w : W64) (s : State) : Res := done (atomOp 3 p w s)
/-- ATOM_OR (R225). -/
def execAtomOr (p : PlyId) (w : W64) (s : State) : Res := done (atomOp 4 p w s)
/-- ATOM_XOR (R225). -/
def execAtomXor (p : PlyId) (w : W64) (s : State) : Res := done (atomOp 5 p w s)
/-- EXCH (R226). -/
def execExch (p : PlyId) (w : W64) (s : State) : Res := done (atomOp 6 p w s)
/-- CAS (R226). -/
def execCas (p : PlyId) (w : W64) (s : State) : Res := done (atomOp 7 p w s)

/-- One lane's update of a location: op of Table 9-9 on the value of TYPE; b the operand, c CAS's compare value (R225, R226). -/
def atomUpdate (t sub v b c : Nat) : Nat :=
  let n := typeBits t
  match sub with
  | 0 => if t = 2 then (fadd fmt32 .ne false (fdecode fmt32 v) (fdecode fmt32 b)).1 else (v + b) % 2 ^ n
  | 1 => if t = 2 then (fminmax fmt32 true (fdecode fmt32 v) (fdecode fmt32 b)).1
      else if intVal t b < intVal t v then b else v
  | 2 => if t = 2 then (fminmax fmt32 false (fdecode fmt32 v) (fdecode fmt32 b)).1
      else if intVal t v < intVal t b then b else v
  | 3 => v &&& b
  | 4 => v ||| b
  | 5 => v ^^^ b
  | 6 => b
  | _ => if v = c then b else v

/-- Flags of one F32 update (R192). -/
def atomFlags (t sub v b : Nat) : Fl :=
  if t ≠ 2 then 0
  else match sub with
    | 0 => (fadd fmt32 .ne false (fdecode fmt32 v) (fdecode fmt32 b)).2
    | 1 | 2 => sigFl [fdecode fmt32 v, fdecode fmt32 b]
    | _ => 0

/-- The lanes of one line, in ascending order, on a byte map of the line: each lane gets the location's value before its own
update (R224-R226). Returns the new bytes, each lane's value, and the flags. -/
def atomLanes (w : W64) (size : Nat) : List LaneAcc → List Byte → List Byte × List (Nat × Nat) × Fl
  | [], bs => (bs, [], 0)
  | a :: t, bs =>
    let ty := wType w
    let sub := mSub (wMod w)
    let o := a.va % 64
    let v := fieldAt bs o size
    let b := a.b
    let n := atomUpdate ty sub v b a.c
    let (bs', r, fl) := atomLanes w size t (bs.take o ++ leBytes size n ++ bs.drop (o + size))
    (bs', (a.lane, v) :: r, fl ||| atomFlags ty sub v b)

/-- The lanes of the op's next line request: those in the line of the first lane that has an address (R170). -/
def nextLine (o : MemOp) : List LaneAcc :=
  match o.todo.find? (fun a => a.pa.isSome) with
  | none => []
  | some a => match a.pa with
    | none => []
    | some (pa, _) => o.todo.filter (fun b => match b.pa with
      | some (pb, _) => pb / 64 = pa / 64
      | none => false)

/-- A ply's memory instructions without the lanes ls of instruction n. -/
def Ply.withoutLanes (y : Ply) (n : Nat) (ls : List LaneAcc) : List MemOp :=
  y.mem.zipIdx.map (fun e => if e.2 = n then { e.1 with todo := e.1.todo.filter (fun a => !ls.contains a) } else e.1)

/-- Lanes are outstanding no more. -/
def forgetLanes (k n : Nat) (ls : List LaneAcc) (s : State) : State :=
  match plyAt s k with
  | none => s
  | some y => putPly k { y with mem := (y.withoutLanes n ls).filter (fun o => !o.todo.isEmpty) } s

/-- Mark lanes complete; the instruction retires when none is left (R135, R170). -/
def completeLanes (k : Nat) (n : Nat) (ls : List LaneAcc) (s : State) : State :=
  match plyAt s k with
  | none => s
  | some y =>
    let s := forgetLanes k n ls s
    match (y.withoutLanes n ls)[n]? with
    | some o => if o.todo.isEmpty then memRetired k o.watch o.step s else s
    | none => s

/-- An acquire that has completed invalidates the flyer's L1 (R218). -/
def acquireDone (k : Nat) (w : W64) (s : State) : State :=
  let acq := (wOp w = 0x70 && optOrder w = 1) || (wOp w = 0x80 && bitN (mOrder (wMod w)) 0)
  if acq then l1Invalidate (flyOf k) s else s

/-- A ply ends on uncorrectable data: its packet completes UNCORRECTABLE (R179, R234). -/
def uncorrectablePly (k : Nat) (s : State) : State := raiseInt iErrUncorr (endPly k 6 s)

/-- Perform one line of a memory instruction at its point of coherence in DRAM or skein (R170, R212-R215, R224-R227). -/
def memLine (k n : Nat) (o : MemOp) (ls : List LaneAcc) (pa0 : Nat) (uncached : Bool) (e : Ecc) (s : State) : State :=
  match plyAt s k with
  | none => s
  | some y =>
    let w := o.w
    let line := pa0 / 64 * 64
    let fly := flyOf k
    let isDram := pa0 < 0x800000000
    let s := lookup (wOp w ≠ 0x72) uncached line (if isDram && uncached then drainLine (line / 64) s else s)
    let bad := wOp w ≠ 0x72 && (e = .uncorrectable || poisoned s line 64)
    let s := if e = .corrected then noteCe line s else s
    if bad then uncorrectablePly k (forgetLanes k n ls (noteUe line (if poisoned s line 64 then s else markUe line s)))
    else if wOp w = 0x70 then
      let bytes := memRead s line 64
      let y := ls.foldl (fun y a =>
        if takesResult w o.first a.lane then loadLane y w a.lane ((bytes.drop (a.va % 64)).take o.size) else y) y
      let s := putPly k y s
      let s := if uncached || optBypass w || optOrder w = 1 then s else l1Fill fly (line / 64) bytes s
      acquireDone k w (completeLanes k n ls s)
    else if wOp w = 0x72 then
      let s := ls.foldl (fun s a =>
        let pa := line + a.va % 64
        let bs := a.data
        l1Store fly pa bs (memPut uncached pa bs s)) s
      completeLanes k n ls s
    else
      let bytes := memRead s line 64
      let (new, vals, fl) := atomLanes w o.size ls bytes
      let s := ls.foldl (fun s a =>
        let pa := line + a.va % 64
        memPut uncached pa ((new.drop (a.va % 64)).take o.size) s) s
      let y := vals.foldl (fun y v => if takesResult w o.first v.1 then y.wrT (wType w) (wD w) v.1 v.2 else y) y
      let s := putPly k (y.orFlags fl) s
      let sp := if isDram then (homeLea s pa0).map (fun l => l / 8) else some ((pa0 - 0x100000000000) / 0x80000)
      let s := match sp with
        | none => s
        | some sp =>
          if 6 ≤ mSub (wMod w) then bumpSp sp 0x228 ls.length s
          else bumpSp sp 0x220 ((ls.map (fun a => a.va)).dedup).length s
      acquireDone k w (completeLanes k n ls (l1Drop fly (line / 64) s))

end Sys2Proof.Machine
end

