-- ==== Sys2Proof/Machine/Plies.lean ====
section
/-! DEFINITION. Slots, register units, the resident-state budget and the admission of plies (R151, R161, R162, R174), ranks of
contexts (R148), and completion tokens (R197). -/

namespace Sys2Proof.Machine

open Sys2Proof

/-- The plies of a flyer. -/
def flyPlies (s : State) (fly : Nat) : List (Nat × Ply) := s.fly.plies.filter (fun e => flyOf e.1 = fly)

/-- Register units of a ply (R174). -/
def Ply.units (y : Ply) : Nat := y.vregs / 8
/-- A ply formed by the return spool. -/
def Ply.spool (y : Ply) : Bool := y.owner.source = 2

/-- FLY_CFG.SPOOL_UNITS. -/
def spoolUnits (s : State) (sp : Nat) : Nat := s.fld ⟨C (0x100000 + sp * 0x1000), 15, 12⟩

/-- Free slots of a flyer that a ply may take: a spool-formed ply the reserved slot 15 if free, else any; another ply 0-14
(R174). -/
def freeSlots (s : State) (fly : Nat) (spool : Bool) : List Nat :=
  let free := fun n => (Sparse.find s.fly.plies (fly * 16 + n)).isNone
  let low := (numsFrom 0 15).filter free
  if spool && free 15 then [15] else low

/-- A flyer can hold one more ply of n units (R174). -/
def flyerTakes (s : State) (fly n : Nat) (spool : Bool) : Bool :=
  let mine := flyPlies s fly
  let used := mine.foldl (fun a e => a + e.2.units) 0
  let plain := mine.foldl (fun a e => a + if e.2.spool then 0 else e.2.units) 0
  !(freeSlots s fly spool).isEmpty && used + n ≤ 64 && (spool || plain + n ≤ 64 - spoolUnits s (fly / 4))

/-- Free non-spool slots of a flyer. -/
def freePlain (s : State) (fly : Nat) : Nat := (freeSlots s fly false).length

/-- The flyer of a spindle with the most free non-spool slots among those that can hold the ply, ties to the lower number
(R161). -/
def bestFlyer (s : State) (sp n : Nat) (spool : Bool) : Option Nat :=
  (numsFrom (sp * 4) 4).foldl (fun b f =>
    if flyerTakes s f n spool then
      match b with
      | none => some f
      | some g => if freePlain s g < freePlain s f then some f else b
    else b) none

/-! ### Budget (R151) -/

/-- Resident bytes of one ply. -/
def Ply.bytes (y : Ply) : Nat := 1024 + y.vregs * 128

/-- Slots of hank stores a context holds: its rays, and the allotments no ray sits in (R151, R288). -/
def ctxSlots (s : State) (c : Nat) : Nat :=
  (s.ray.rays.filter (fun r => r.ctx = c && !r.saved && !r.inAllot)).length
    + s.fly.plies.foldl (fun a e => if e.2.owner.ctx = c then a + e.2.allot.length else a) 0

/-- Resident state of a context in bytes. -/
def residentOf (s : State) (c : Nat) : Nat :=
  s.fly.plies.foldl (fun a e => if e.2.owner.ctx = c then a + e.2.bytes else a) 0 + 128 * ctxSlots s c

/-- BUDGET of a context in bytes (Table 7-1). -/
def budgetOf (s : State) (c : Nat) : Nat := s.fld ⟨C (0x2001C + c * 0x40), 6, 0⟩ * 65536

/-- Resident state stays within the budget after n more bytes; context 0 has no save area and no budget (R151, R154). -/
def withinBudget (s : State) (c n : Nat) : Bool := c = 0 || residentOf s c + n ≤ budgetOf s c

/-- RESIDENT shows the resident state in 128-byte units (Table 7-1). -/
def syncResident (c : Nat) (s : State) : State := s.setFld ⟨C (0x20028 + c * 0x40), 15, 0⟩ (residentOf s c / 128)

/-- A spool-formed ply may be admitted: within the budget, or as one of at most 4 plies beyond it (R151). -/
def spoolBudget (s : State) (c n : Nat) : Bool :=
  withinBudget s c n || (s.fly.plies.filter (fun e => e.2.owner.ctx = c && e.2.extra)).length < 4

/-! ### Admission -/

/-- A ply with no register set: all threads that are present at one PC. -/
def Ply.fresh (o : PlyOwner) (uid vregs : Nat) (twoLevel : Bool) (pc : Nat) (present : BitVec 32) : Ply :=
  { owner := o, uid := uid, vregs := vregs, twoLevel := twoLevel, active := false, age := 0, unchosen := 0
    pcs := (numsFrom 0 32).map (fun _ => pc), present := present, exited := ~~~present
    skip := (numsFrom 0 32).map (fun _ => 0), v := [], sc := [], pr := [], fpflags := 0#5
    tokens := (numsFrom 0 8).map (fun _ => ⟨false, 0⟩), tbLatch := 0#32, atBar := 0#32, twaits := [], mem := []
    fetchFault := false, stalled := false, halted := false, haltReason := 0, haltIndex := 0, halting := false
    tracing := none, cbs := [], allot := [], extra := false, shadeKind := 0, shadeDraw := 0, shade := [], stepping := false, passBp := none, passBkpt := none, ended := false, status := 0 }

/-- Put a ply into a slot of a flyer: it is the youngest, and joins the active set if there is room (R166, R174). Where a
flyer has several free slots, which one is taken is a free value. -/
def seatPly (fly : Nat) (y : Ply) (s : State) : State :=
  let slots := freeSlots s fly y.spool
  let (n, s) := if slots.length ≤ 1 then (0, s) else takeFree slots.length s
  let k := fly * 16 + (slots[n]?).getD 0
  let act := y.twoLevel && (activePlies s fly).length < 4
  let s := putPly k { y with age := s.fly.nextAge, active := act, unchosen := 0 } s
  let s := { s with fly := { s.fly with nextAge := s.fly.nextAge + 1 } }
  syncDbg (syncFly fly (syncResident y.owner.ctx s))

/-- The flyer's first ply of a packet, pass or batch that it has not yet run invalidates the flyer's L1 (R216). -/
def noteSource (fly : Nat) (o : PlyOwner) (s : State) : State :=
  let e := (fly, o.ctx, o.source * 2 ^ 20 + o.packet)
  if s.fly.seen.contains e then s
  else
    l1Invalidate fly { s with fly := { s.fly with seen := e :: s.fly.seen } }

/-- Admit a ply on a spindle, if a flyer of it can take it. mk gets the ply's uid. -/
def admitPly (sp : Nat) (mk : Nat → Ply) (s : State) : Option State :=
  let y := mk s.fly.nextAge
  (bestFlyer s sp y.units y.spool).map (fun f => seatPly f y (noteSource f y.owner s))

/-! ### Ranks (R148) -/

/-- Rank of a context: context 0 above PRIORITY 15. -/
def rankOf (s : State) (c : Nat) : Nat := if c = 0 then 16 else s.fld ⟨C (0x20008 + c * 0x40), 11, 8⟩

/-- The first element of a list whose context has the highest rank. -/
def topRank {α : Type} (s : State) (ctx : α → Nat) : List α → Option α
  | [] => none
  | a :: t => match topRank s ctx t with
    | none => some a
    | some b => some (if rankOf s (ctx a) < rankOf s (ctx b) then b else a)

/-! ### Completion tokens (R197) -/

/-- Change the ply with a uid, wherever it is: resident, or saved with its context. -/
def onUid (uid : Nat) (f : Ply → Ply) (s : State) : State :=
  let g := fun (e : Nat × Ply) => if e.2.uid = uid then (e.1, f e.2) else e
  { s with
    fly := { s.fly with plies := s.fly.plies.map g }
    q := { s.q with ctxs := s.q.ctxs.map (fun e =>
      (e.1, { e.2 with saved := e.2.saved.map (fun w => { w with plies := w.plies.map g }) })) } }

/-- The place of a resident ply by uid. -/
def placeOf (s : State) (uid : Nat) : Option Nat := (s.fly.plies.find? (fun e => e.2.uid = uid)).map (fun e => e.1)

/-- Token t of a ply becomes busy. -/
def Ply.tokenBusy (y : Ply) (t : Nat) : Ply := { y with tokens := setAt y.tokens t ⟨true, 0⟩ }

/-- Token t of a ply becomes done with a status. -/
def tokenDone (uid t status : Nat) (s : State) : State :=
  onUid uid (fun y => { y with tokens := setAt y.tokens t ⟨false, status⟩ }) s

/-! ### Packets in flight -/

/-- The queue state of a context. -/
def ctxQ (s : State) (c : Nat) : CtxQ := Sparse.get (fun _ => CtxQ.empty) s.q.ctxs c

/-- Store the queue state of a context. -/
def setCtxQ (c : Nat) (q : CtxQ) (s : State) : State :=
  { s with q := { s.q with ctxs := Sparse.put (fun _ => CtxQ.empty) s.q.ctxs c q } }

/-- Change a packet of a context, in flight or saved. -/
def onPacket (c index : Nat) (f : Packet → Packet) (s : State) : State :=
  let g := fun (p : Packet) => if p.index = index then f p else p
  let q := ctxQ s c
  setCtxQ c { q with flight := q.flight.map g, saved := q.saved.map (fun w => { w with packets := w.packets.map g }) } s

/-- A packet takes a status (Table 7-7: the lowest nonzero code stands). -/
def packetStatus (c index st : Nat) (s : State) : State :=
  onPacket c index (fun p => { p with status := mergeStatus p.status st }) s

/-- The packet in flight with an index. -/
def packetOf (s : State) (c index : Nat) : Option Packet := (ctxQ s c).flight.find? (fun p => p.index = index)

end Sys2Proof.Machine
end

