-- ==== Sys2Proof/Machine/Weft.lean ====
section
/-! DEFINITION. Weft ops: the descriptor and its checks, the arithmetic of the twist cells and the output stage, the weft queue
(chapter 11), and the WEFT instruction (R200). -/

namespace Sys2Proof.Machine

open Sys2Proof

/-! ### Descriptor (Table 11-4) -/

def dB (d : List Byte) (i : Nat) : Nat := fieldAt d i 1
def dH (d : List Byte) (i : Nat) : Nat := fieldAt d i 2
def wfXsigned (d : List Byte) : Bool := bitN (dB d 0) 7
def wfWsigned (d : List Byte) : Bool := bitN (dB d 0) 6
def wfXfmt (d : List Byte) : Nat := bitsN (dB d 0) 5 3
def wfWfmt (d : List Byte) : Nat := bitsN (dB d 0) 2 0
def wfAccIn (d : List Byte) : Bool := bitN (dB d 1) 7
def wfAct (d : List Byte) : Nat := bitsN (dB d 1) 6 5
def wfSat (d : List Byte) : Bool := bitN (dB d 1) 4
def wfOsigned (d : List Byte) : Bool := bitN (dB d 1) 3
def wfOfmt (d : List Byte) : Nat := bitsN (dB d 1) 2 0
def wfMask (d : List Byte) : Nat := dB d 2
def wfQt (d : List Byte) : Bool := bitN (dB d 3) 3
def wfKlog (d : List Byte) : Nat := bitsN (dB d 3) 2 0
def wfKsplit (d : List Byte) : Nat := 2 ^ wfKlog d
def wfWoff (d : List Byte) : Nat := bitsN (dH d 4) 12 0
def wfK (d : List Byte) : Nat := dH d 6
def wfM (d : List Byte) : Nat := dH d 8
def wfN (d : List Byte) : Nat := dH d 10
def wfXlea (d : List Byte) : Nat := bitsN (dH d 12) 8 0
def wfXoff (d : List Byte) : Nat := dH d 14
def wfYlea (d : List Byte) : Nat := bitsN (dH d 16) 8 0
def wfYoff (d : List Byte) : Nat := dH d 18
def wfQlea (d : List Byte) : Nat := bitsN (dH d 20) 8 0
def wfQoff (d : List Byte) : Nat := dH d 22
def wfShift (d : List Byte) : Nat := bitsN (dB d 24) 5 0
def wfZp (d : List Byte) : Int := signedN 16 (dH d 26)

/-- Formats 0 and 1 are integer. -/
def wfInt (d : List Byte) : Bool := wfWfmt d < 2

/-- Bytes of a unit of W (Table 11-2). -/
def wfUb (d : List Byte) : Nat := if wfWfmt d = 4 then 2 else 1
/-- Bytes of an element (INT4: of a pair of rows) of X. -/
def wfXeb (d : List Byte) : Nat := if wfXfmt d = 4 then 2 else 1
/-- Bytes of an element (INT4: of a pair of rows) of Y. -/
def wfYeb (d : List Byte) : Nat :=
  match wfOfmt d with
  | 0 | 4 => 4
  | 7 => 2
  | _ => 1

/-- K_u of R236. -/
def wfKu (d : List Byte) : Nat := if wfWfmt d = 0 then wfK d / 2 else wfK d
/-- Steps S. -/
def wfSteps (d : List Byte) : Nat := wfKu d / wfKsplit d
/-- Row groups G. -/
def wfGroups (d : List Byte) : Nat := (wfM d + 31) / 32
/-- Bobbins B. -/
def wfBobbins (d : List Byte) : Nat := 8 * ((numsFrom 0 8).filter (fun l => bitN (wfMask d) l)).length
/-- Columns of a block. -/
def wfColw (d : List Byte) : Nat := if wfN d < 8 then wfN d else 8
/-- Column blocks NB. -/
def wfBlocks (d : List Byte) : Nat := wfN d / wfColw d
/-- Rows of Y as they are stored: pairs for INT4 (R241); an odd last row takes a whole pair. -/
def wfYrows (d : List Byte) : Nat := if wfOfmt d = 2 then (wfM d + 1) / 2 else wfM d
/-- Bytes of one block of X and of Y. -/
def wfXblock (d : List Byte) : Nat := wfKu d * wfColw d * wfXeb d
def wfYblock (d : List Byte) : Nat := wfYrows d * wfColw d * wfYeb d

/-! ### The checks of Table 11-5 -/

/-- Local lea l of spindle sp is granted to a context (Table 11-6). -/
def leaGranted (s : State) (sp c l : Nat) : Bool :=
  bitN (s.reg (C (0x100310 + sp * 0x1000 + 4 * (c / 4)))).toNat (8 * (c % 4) + l)

/-- A lea may hold an operand: SCRATCH or PINNED, and granted. -/
def leaUsable (s : State) (sp c l : Nat) : Bool :=
  let r := roleOf s (sp * 8 + l)
  (r = 0 || r = 3) && leaGranted s sp c l

/-- A region of n bytes from a lea and offset: on the spindle, aligned, usable leas throughout, not past local index 7. -/
def regionOk (s : State) (sp c lea off n align : Nat) : Bool :=
  let l0 := lea % 8
  let last := l0 + (off + (n - 1)) / 65536
  lea / 8 = sp && off % align = 0 && last ≤ 7
    && (numsFrom l0 (last + 1 - l0)).all (fun l => leaUsable s sp c l)

/-- Formats and flags (code 0x1). -/
def wfFormatsOk (d : List Byte) : Bool :=
  let w := wfWfmt d
  let x := wfXfmt d
  let o := wfOfmt d
  w ≤ 4 && x ≤ 4 && (w = x || ((w = 2 || w = 3) && (x = 2 || x = 3)))
    && (if wfInt d then o ≤ 2 else 4 ≤ o)
    && (!wfAccIn d || o = 0 || o = 4) && wfAct d ≠ 3

/-- Shape (code 0x4). -/
def wfShapeOk (d : List Byte) : Bool :=
  wfK d ≠ 0 && wfM d ≠ 0 && wfN d ≠ 0 && wfK d ≤ 16384 && (wfWfmt d ≠ 0 || wfK d % 2 = 0) && wfKlog d ≠ 7
    && wfKu d % wfKsplit d = 0 && (wfN d ≤ 8 || wfN d % 8 = 0) && wfGroups d * wfKsplit d ≤ wfBobbins d
    && wfWoff d % 32 = 0 && wfWoff d + 32 * wfSteps d * wfUb d ≤ 8192

/-- The first reason of Table 11-5 that applies, 0 if none (R243). -/
def weftReject (s : State) (sp c : Nat) (d : List Byte) : Nat :=
  if !wfFormatsOk d then 1
  else if wfMask d = 0 || (numsFrom 0 8).any (fun l => bitN (wfMask d) l && !leaUsable s sp c l) then 2
  else if !regionOk s sp c (wfXlea d) (wfXoff d) (wfXblock d * wfBlocks d) 32
      || !regionOk s sp c (wfYlea d) (wfYoff d) (wfYblock d * wfBlocks d) 32
      || (wfQt d && !regionOk s sp c (wfQlea d) (wfQoff d) (8 * wfM d) 8) then 3
  else if !wfShapeOk d then 4
  else if 16384 < wfXblock d then 5
  else 0

/-! ### Arithmetic (R240, R241, R244-R246) -/

/-- Offset of a lea in the skein aperture. -/
def leaOff (lea : Nat) : Nat := lea * 65536

/-- Aperture offset of the panel of bobbin j of the op. -/
def panelOff (sp : Nat) (d : List Byte) (j : Nat) : Nat :=
  let leas := (numsFrom 0 8).filter (fun l => bitN (wfMask d) l)
  leaOff (sp * 8 + (leas[j / 8]?).getD 0) + (j % 8) * 8192 + wfWoff d

/-- n bytes of the aperture as a number. -/
def skeinNat (s : State) (off n : Nat) : Nat := leNat (getBytes noByte s.mem.skein off n)

/-- The unit of W for row r of group g at unit u (R236, R240). -/
def unitW (s : State) (sp : Nat) (d : List Byte) (g r u : Nat) : Nat :=
  let ks := wfKsplit d
  skeinNat s (panelOff sp d (g * ks + u % ks) + ((u / ks) * 32 + r) * wfUb d) (wfUb d)

/-- The unit of X for column c of block b at unit u (R241). -/
def unitX (s : State) (d : List Byte) (b u c : Nat) : Nat :=
  skeinNat s (leaOff (wfXlea d) + wfXoff d + b * wfXblock d + (u * wfColw d + c) * wfXeb d) (wfXeb d)

/-- An n-bit element as an integer. -/
def elemInt (sg : Bool) (n v : Nat) : Int := if sg then signedN n v else (v % 2 ^ n : Nat)

/-- The exact product of one unit of integer operands: two products for INT4. -/
def unitMacInt (d : List Byte) (w x : Nat) : Int :=
  if wfWfmt d = 0 then
    elemInt (wfWsigned d) 4 (w % 16) * elemInt (wfXsigned d) 4 (x % 16)
      + elemInt (wfWsigned d) 4 (w / 16) * elemInt (wfXsigned d) 4 (x / 16)
  else elemInt (wfWsigned d) 8 w * elemInt (wfXsigned d) 8 x

/-- An operand of a float format; a subnormal BF16 counts as zero (R245). -/
def elemFloat (fmt v : Nat) : FV :=
  match fmt with
  | 2 => fdecode fmtE4M3 v
  | 3 => fdecode fmtE5M2 v
  | _ => fread fmtBf true v

/-- The integer accumulator of a cell modulo 2^32 (R244). -/
def accInt (s : State) (sp : Nat) (d : List Byte) (b g r c : Nat) : Nat :=
  wrapN 32 ((numsFrom 0 (wfKu d)).foldl (fun a u => a + unitMacInt d (unitW s sp d g r u) (unitX s d b u c)) 0)

/-- The partial sum of one K-group: steps in ascending order, each sum rounded in binary32 (R245). -/
def partialFloat (s : State) (sp : Nat) (d : List Byte) (b g r c q : Nat) : Nat :=
  (numsFrom 0 (wfSteps d)).foldl (fun a st =>
    let u := st * wfKsplit d + q
    (ffma fmt32 .ne true (elemFloat (wfWfmt d) (unitW s sp d g r u)) (elemFloat (wfXfmt d) (unitX s d b u c))
      (fdecode fmt32 a)).1) 0

/-- The accumulated value of a float cell: K-groups added in ascending order (R238, R245). -/
def accFloat (s : State) (sp : Nat) (d : List Byte) (b g r c : Nat) : Nat :=
  (numsFrom 1 (wfKsplit d - 1)).foldl (fun a q =>
    (fadd fmt32 .ne true (fdecode fmt32 a) (fdecode fmt32 (partialFloat s sp d b g r c q))).1)
    (partialFloat s sp d b g r c 0)

/-- Y of the op overlaps W, X or QT: what later blocks read there is undefined (R243). -/
def wfOverlap (sp : Nat) (d : List Byte) : Bool :=
  let y0 := leaOff (wfYlea d) + wfYoff d
  let y1 := y0 + wfYblock d * wfBlocks d
  let hits := fun a n => y0 < a + n && a < y1
  hits (leaOff (wfXlea d) + wfXoff d) (wfXblock d * wfBlocks d)
    || (wfQt d && hits (leaOff (wfQlea d) + wfQoff d) (8 * wfM d))
    || (numsFrom 0 (wfGroups d * wfKsplit d)).any (fun j => hits (panelOff sp d j) (32 * wfSteps d * wfUb d))

/-- The accumulator of row m, column c of block b. A later block of an op whose Y overlaps an operand gets a free value. -/
def accOf (s : State) (sp : Nat) (d : List Byte) (b m c : Nat) : Nat :=
  if b ≠ 0 && wfOverlap sp d then
    Config.unstated "weft overlap" [s.free, sp, b, m, c] % 2 ^ 32
  else if wfInt d then accInt s sp d b (m / 32) (m % 32) c
  else accFloat s sp d b (m / 32) (m % 32) c

/-- Clamp to [LO, HI] of integers; an empty range has no stated result. -/
def clampRange (lo hi y : Int) : Int :=
  if hi < lo then signedN 32 (Config.unstated "weft clamp" [lo.toNat, hi.toNat, y.toNat])
  else if y < lo then lo else if hi < y then hi else y

/-- Range of an integer output (R246). -/
def satOut (lo hi y : Int) : Int := if y < lo then lo else if hi < y then hi else y

/-- The integer output stage: bias, scale, shift, zero point, activation, saturation (R246). -/
def outInt (d : List Byte) (acc prior bias scale : Nat) : Nat :=
  let lo := signedN 16 (dH d 28)
  let hi := signedN 16 (dH d 30)
  if wfOfmt d = 0 then
    let y := signedN 32 (acc + prior + bias)
    let y := match wfAct d with
      | 1 => if y < 0 then 0 else y
      | 2 => clampRange lo hi y
      | _ => y
    wrapN 32 y
  else
    let t := (signedN 32 acc + signedN 32 bias) * (scale : Int)
    let sh := wfShift d
    let y := (t + if sh = 0 then 0 else (2 ^ (sh - 1) : Nat)) / ((2 ^ sh : Nat) : Int) + wfZp d
    let y := match wfAct d with
      | 1 => if y < wfZp d then wfZp d else y
      | 2 => clampRange lo hi y
      | _ => y
    let n := if wfOfmt d = 1 then 8 else 4
    let y := if wfOsigned d then satOut (-((2 ^ (n - 1) : Nat) : Int)) ((2 ^ (n - 1) : Nat) - 1) y
      else satOut 0 ((2 ^ n : Nat) - 1) y
    wrapN n y

/-- Clamp of a float result to BF16 bounds; NaN passes through; a NaN bound or an empty range has no stated result. -/
def clampFloat (lo hi y : Nat) : Nat :=
  let l := fdecode fmt32 (lo * 65536)
  let h := fdecode fmt32 (hi * 65536)
  let v := fdecode fmt32 y
  if v.isNan then y
  else if l.isNan || h.isNan || fbelow h l then Config.unstated "weft clamp" [lo, hi, y] % 2 ^ 32
  else if fbelow v l then lo * 65536 else if fbelow h v then hi * 65536 else y

/-- Turn negative values and -0 into +0; NaN passes through (R246). -/
def reluFloat (y : Nat) : Nat := if (fdecode fmt32 y).isNan then y else if bitN y 31 then 0 else y

/-- The float output stage (R246). -/
def outFloat (d : List Byte) (acc prior bias scale : Nat) : Nat :=
  let v := fun x => fread fmt32 true x
  let y := (fadd fmt32 .ne true (v acc) (v prior)).1
  let y := (fadd fmt32 .ne true (v y) (v bias)).1
  let y := (fmul fmt32 .ne true (v y) (v scale)).1
  let y := match wfAct d with
    | 1 => reluFloat y
    | 2 => clampFloat (dH d 28) (dH d 30) y
    | _ => y
  let f := match wfOfmt d with
    | 5 => fmtE4M3
    | 6 => fmtE5M2
    | 7 => fmtBf
    | _ => fmt32
  (fpackTo f .ne false (wfSat d) (fdecode fmt32 y)).1

/-- Aperture offset of row m (INT4: of its pair), column c, of block b of Y (R241). -/
def yOff (d : List Byte) (b m c : Nat) : Nat :=
  let row := if wfOfmt d = 2 then m / 2 else m
  leaOff (wfYlea d) + wfYoff d + b * wfYblock d + (row * wfColw d + c) * wfYeb d

/-- The output value of row m, column c of block b. -/
def outOf (s : State) (sp : Nat) (d : List Byte) (b m c : Nat) : Nat :=
  let q := leaOff (wfQlea d) + wfQoff d + 8 * m
  let bias := if wfQt d then skeinNat s q 4 else 0
  let scale := if wfQt d then skeinNat s (q + 4) 4 else if wfInt d then 1 else 0x3F800000
  let prior := if wfAccIn d then skeinNat s (yOff d b m c) 4 else 0
  let acc := accOf s sp d b m c
  if wfInt d then outInt d acc prior bias scale else outFloat d acc prior bias scale

/-- Write one output element; an INT4 element keeps the other half of its byte. -/
def putOut (d : List Byte) (b m c v : Nat) (s : State) : State :=
  let o := yOff d b m c
  if wfOfmt d = 2 then
    let old := skeinNat s o 1
    skeinWrite o (leBytes 1 (if m % 2 = 0 then old / 16 * 16 + v % 16 else old % 16 + v % 16 * 16)) s
  else skeinWrite o (leBytes (wfYeb d) v) s

/-- Every output of block b, computed on the state as the block finds it, then written (R238, R246). -/
def writeBlock (sp : Nat) (d : List Byte) (b : Nat) (s : State) : State :=
  let cells := (numsFrom 0 (wfM d)).flatMap (fun m => (numsFrom 0 (wfColw d)).map (fun c => (m, c)))
  let vals := cells.map (fun e => (e.1, e.2, outOf s sp d b e.1 e.2))
  vals.foldl (fun s e => putOut d b e.1 e.2.1 e.2.2 s) s

/-- Some W, X or QT byte the block reads lies in an uncorrectable granule (R254). -/
def blockPoisoned (s : State) (sp : Nat) (d : List Byte) (b : Nat) : Bool :=
  let bad := fun off n => poisoned s (0x100000000000 + off) n
  (n0 (wfGroups d * wfKsplit d)).any (fun j => bad (panelOff sp d j) (32 * wfSteps d * wfUb d))
    || bad (leaOff (wfXlea d) + wfXoff d + b * wfXblock d) (wfXblock d)
    || (wfQt d && bad (leaOff (wfQlea d) + wfQoff d) (8 * wfM d))
where
  n0 (n : Nat) : List Nat := numsFrom 0 n

/-! ### The weft queue (R247-R249, R251) -/

/-- Entries that wait on a spindle. -/
def weftWaiting (s : State) (sp : Nat) : List WeftOp := (s.weft.queue.filter (fun e => e.1 = sp)).map (fun e => e.2)

/-- WEFT_STAT of a spindle (Table 11-6). -/
def syncWeft (sp : Nat) (s : State) : State :=
  let r := C (0x100300 + sp * 0x1000)
  let q := (weftWaiting s sp).length
  match Sparse.find s.weft.running sp with
  | some o => s.setFlds [(⟨r, 31, 31⟩, 1), (⟨r, 30, 27⟩, o.ctx), (⟨r, 26, 23⟩, q), (⟨r, 15, 0⟩, o.block)]
  | none => s.setFlds [(⟨r, 31, 31⟩, 0), (⟨r, 30, 27⟩, 0), (⟨r, 26, 23⟩, q), (⟨r, 15, 0⟩, 0)]

/-- Put an op at the end of a spindle's queue. -/
def weftPush (sp : Nat) (o : WeftOp) (s : State) : State :=
  syncWeft sp { s with weft := { s.weft with queue := s.weft.queue ++ [(sp, o)] } }

/-- The queue holds 8 entries (R247). -/
def weftFull (s : State) (sp : Nat) : Bool := 8 ≤ (weftWaiting s sp).length

/-- A ring halts at a packet: HALTED, ERROR, QERR_STATUS, and an event (R141). -/
def haltRing (c code : Nat) (index : Nat) (s : State) : State :=
  let q := ctxQ s c
  let s := if q.halted.isEmpty then s.setFld (fQError c) code else s
  let s := setCtxQ c { q with halted := q.halted ++ [(index, code)] } s
  let s := s.setFlds [(fQState c, 6), (⟨C 0x20408, c, c⟩, 1)]
  syncCtx c (logEvent 4 0x081 c code index s)

/-- An access of the queue engine that ends aborted aborts its context (Table 6-12); context 0, which cannot be aborted, halts at
the packet, and the manual gives no ERROR for it. -/
def queueAborted (c index : Nat) (s : State) : State :=
  if c = 0 then haltRing 0 (Config.unstated "QSTAT.ERROR" [0, index] % 16) index s else ctxStop c s

/-- An access of the queue engine for a context meets a fault: the queue waits, or its context is aborted (R158, Table 6-12). -/
def queueFault (c va cause lv index : Nat) (s : State) : State :=
  let (waits, s) := raiseFault c va cause lv .queue 6 0 (.queue c) s
  if waits then setCtxQ c { ctxQ s c with faulted := true } s else queueAborted c index s

/-- Read a 64-byte descriptor of a WEFT_PROGRAM as the queue engine does, and queue it; with no entry free it waits (R249). -/
def weftPresent (sp c index addr : Nat) (s : State) : State :=
  if weftFull s sp || (ctxQ s c).faulted then s
  else
    match translate .queue c addr .queue false s with
    | (.ok pa _, s) =>
      if poisoned s pa 64 then
        onPacket c index (fun p => { p with ended := true }) (packetStatus c index 6 (raiseInt iErrUncorr (noteUe pa s)))
      else
        weftPush sp { ctx := c, owner := .packet c index, addr := addr, desc := memRead s pa 64, block := 0, started := false
                      stop := false, bad := false } s
    | (.fault cause lv, s) => queueFault c addr cause lv index s

/-- A packet's own fields (Table 7-4). -/
def pktNat (p : Packet) (i n : Nat) : Nat := fieldAt p.bytes i n

/-- Present the descriptor of a WEFT_PROGRAM packet that its cursor names, or mark the packet ended (R249). -/
def weftNext (c index : Nat) (s : State) : State :=
  match packetOf s c index with
  | none => s
  | some p =>
    if pktNat p 24 4 ≤ p.cursor || p.status ≠ 0 then onPacket c index (fun p => { p with ended := true }) s
    else weftPresent (pktNat p 28 1 % 64) c index (pktNat p 16 6 + 64 * p.cursor) s

/-- An op is over: its token or packet hears of it. st is a token status (R247, R249, R253, R254). -/
def weftOver (sp : Nat) (o : WeftOp) (st : Nat) (s : State) : State :=
  let s := syncWeft sp s
  match o.owner with
  | .token u t => tokenDone u t st s
  | .packet c i =>
    if st = 0 then weftNext c i (onPacket c i (fun p => { p with cursor := p.cursor + 1 }) s)
    else onPacket c i (fun p => { p with ended := true }) (packetStatus c i (if st = 1 then 2 else 6) s)

/-- The highest-ranked waiting entry of a spindle whose context runs, the oldest among equals (R248). -/
def weftPick (s : State) (sp : Nat) : Option WeftOp :=
  topRank s (fun o => o.ctx) ((weftWaiting s sp).filter (fun o => ctxRuns s o.ctx))

/-- Take one waiting entry out of a spindle's queue. -/
def weftTake (sp : Nat) (o : WeftOp) (s : State) : State :=
  { s with weft := { s.weft with queue := s.weft.queue.erase (sp, o) } }

/-- WEFT_OP_START: with no op running, the highest-ranked entry is checked; it starts, or is rejected with its code logged
(R243, R248, R254). A restored op starts again without a new check at its block. -/
def execWeftOpStart (sp : Fin 64) (s : State) : Res :=
  done (onlyIf (running s && (Sparse.find s.weft.running sp).isNone) (fun s =>
    match weftPick s sp with
    | none => s
    | some o =>
      let s := weftTake sp o s
      let code := if o.started then 0 else weftReject s sp o.ctx o.desc
      if code = 0 then
        syncWeft sp { s with weft := { s.weft with running := Sparse.insert s.weft.running sp { o with started := true } } }
      else
        let s := s.setFld ⟨C (0x100300 + sp * 0x1000), 22, 19⟩ code
        let s := logEvent 4 0x0E1 o.ctx (sp * 1024) (o.addr / 64 * 64 + code) s
        match o.owner with
        | .token u t => tokenDone u t 1 (syncWeft sp s)
        | .packet c i => haltRing c 2 i (syncWeft sp s)) s)

/-- Weft counter 2 counts MACs in units of 256; what is left over waits for the next block (Table 11-6). -/
def countMacs (sp n : Nat) (s : State) : State :=
  if s.flag ⟨C (0x100000 + sp * 0x1000), 1, 1⟩ && !s.flag ⟨C 0xD0040, 0, 0⟩ then
    let t := Sparse.get (fun _ => 0) s.weft.macs sp + n
    bumpSp sp 0x350 (t / 256) { s with weft := { s.weft with macs := Sparse.put (fun _ => 0) s.weft.macs sp (t % 256) } }
  else s

/-- WEFT_ROW_END: a column block ends; its outputs are written, or with a parity or uncorrectable error nothing is and the op
ends at this row (R238, R246, R254). -/
def execWeftRowEnd (sp : Fin 64) (parity : Option (Fin 64)) (s : State) : Res :=
  done (onlyIf (running s) (fun s =>
    match Sparse.find s.weft.running sp with
    | none => s
    | some o =>
      if o.bad || o.stop || wfBlocks o.desc ≤ o.block then s
      else
        let put := fun (o : WeftOp) (s : State) =>
          syncWeft sp { s with weft := { s.weft with running := Sparse.insert s.weft.running sp o } }
        match parity with
        | some bob =>
          put { o with bad := true }
            (raiseInt iErrUncorr (logEvent 2 0x0E2 o.ctx (sp * 1024 + bob) o.block s))
        | none =>
          if blockPoisoned s sp o.desc o.block then
            put { o with bad := true } (raiseInt iErrUncorr (logEvent 2 0x0FE o.ctx (sp * 1024) o.block s))
          else
            put { o with block := o.block + 1 }
              (countMacs sp (wfGroups o.desc * 32 * wfColw o.desc * wfK o.desc) (writeBlock sp o.desc o.block s))) s)

/-- WEFT_OP_END: the running op has done its last row, met an error, or was stopped with its context; its token becomes done,
or its packet goes on to the next descriptor (R249, R251, R253, R254). -/
def execWeftOpEnd (sp : Fin 64) (s : State) : Res :=
  done (onlyIf (running s) (fun s =>
    match Sparse.find s.weft.running sp with
    | none => s
    | some o =>
      if o.bad || o.stop || wfBlocks o.desc ≤ o.block then
        let s := { s with weft := { s.weft with running := Sparse.erase s.weft.running sp } }
        let st := if o.bad then 2 else if o.stop then 1 else 0
        weftOver sp o st (bumpSp sp 0x340 1 s)
      else s) s)

/-! ### WEFT (R200) -/

/-- The token a WEFT or TRACE names. -/
def mToken (w : W64) : Nat := wMod w % 8

/-- A busy token: the guard-true threads stop as at a TWAIT on it, before the instruction; the others go on (R197). -/
def waitToken (t : Nat) (i : Iss) (s : State) : Act :=
  let y := { i.y with twaits := i.y.twaits ++ [(i.g, 2 ^ t, 0xC0)] }
  .retire (setPcs i.k (i.mask &&& ~~~i.g) (fun _ => i.pc + 8) (toPending i.k (putPly i.k y s)))

/-- The ply waits on a fault of its own read before the instruction, or ends (R135). -/
def plyReadFault (va cause lv : Nat) (i : Iss) (s : State) : Act :=
  let (waits, s) := raiseFault i.y.owner.ctx va cause lv .read 0 (plySrc i.k) (.ply i.y.uid) s
  .hold (if waits then toPending i.k (putPly i.k { i.y with fetchFault := true } s) else endPly i.k 1 s)

/-- WEFT: the lowest guard-true thread's descriptor is read and queued under a token; a full queue makes the ply wait (R200,
R247). -/
def execWeft (p : PlyId) (w : W64) (s : State) : Res :=
  let low := fun (i : Iss) => (lanesOf i.g).head?
  let addr := fun (i : Iss) => i.y.rd64 (wA w) ((low i).getD 0)
  done (issue p w (wOp w = 0xB0) [wA w]
    (fun i => firstCode
      [ (pair64 i.y.vregs (wA w), 2), ((low i).isNone || addr i < 2 ^ 48, 3), ((low i).isNone || addr i % 64 = 0, 4) ])
    allNext
    (fun i s =>
      if i.g = 0#32 then retirePly (fun _ y => y) i s
      else if memHeld i.y true then .hold s
      else if (i.y.token (mToken w)).busy then waitToken (mToken w) i s
      else if weftFull s (spOf i.k) then .hold (toPending i.k (putPly i.k { i.y with stalled := true } s))
      else
        match translate (flyUnit i.k) i.y.owner.ctx (addr i) .read false s with
        | (.fault cause lv, s) => plyReadFault (addr i) cause lv i s
        | (.ok pa _, s) =>
          if poisoned s pa 64 then .hold (uncorrectablePly i.k (noteUe pa s))
          else
            let s := weftPush (spOf i.k)
              { ctx := i.y.owner.ctx, owner := .token i.y.uid (mToken w), addr := addr i, desc := memRead s pa 64
                block := 0, started := false, stop := false, bad := false } s
            retirePly (fun i y => { y.tokenBusy (mToken i.w) with stalled := false }) i s) s)

end Sys2Proof.Machine
end

