-- ==== Sys2Proof/Machine/RayGeom.lean ====
section
/-! DEFINITION. The geometry of ray traversal on exact values: boxes, triangles, transforms, ray validity, and the layouts of tree
blocks (R255-R268). -/

namespace Sys2Proof.Machine

open Sys2Proof

/-! ### Numbers -/

/-- A finite binary32 pattern times 2^149, an integer. -/
def dyad (b : Nat) : Option Int :=
  match fdecode fmt32 b with
  | .fin n m e => some (sgn n (m * 2 ^ (e + 149).toNat))
  | _ => none

/-- A fraction with a positive denominator. -/
abbrev Frac := Int × Nat

def fracLe (a b : Frac) : Bool := a.1 * (b.2 : Int) ≤ b.1 * (a.2 : Int)

/-- n / d for d ≠ 0. -/
def fracOf (n d : Int) : Frac := if d < 0 then (-n, d.natAbs) else (n, d.natAbs)

/-- A fraction in binary32, rounded to nearest-even. -/
def fracBits (a : Frac) : Nat :=
  let k := 32 + bitLen a.2
  (fround fmt32 .ne false false (a.1 < 0) (a.1.natAbs * 2 ^ k / a.2) (-(k : Int)) (a.1.natAbs * 2 ^ k % a.2 ≠ 0)).1

/-- A finite binary32 pattern as a fraction. -/
def bitsFrac (b : Nat) : Option Frac := (dyad b).map (fun v => (v, 2 ^ 149))

/-- Numeric a < b and a ≤ b of patterns; NaN gives false. -/
def f32Lt (a b : Nat) : Bool := fbelow (fdecode fmt32 a) (fdecode fmt32 b)
def f32Le (a b : Nat) : Bool :=
  let x := fdecode fmt32 a
  let y := fdecode fmt32 b
  !x.isNan && !y.isNan && !fbelow y x
def f32Nan (a : Nat) : Bool := (fdecode fmt32 a).isNan

/-- A vector of scaled integers. -/
structure V3 where
  x : Int
  y : Int
  z : Int
deriving DecidableEq, Repr

def V3.sub (a b : V3) : V3 := ⟨a.x - b.x, a.y - b.y, a.z - b.z⟩
def V3.dot (a b : V3) : Int := a.x * b.x + a.y * b.y + a.z * b.z
def V3.cross (a b : V3) : V3 := ⟨a.y * b.z - a.z * b.y, a.z * b.x - a.x * b.z, a.x * b.y - a.y * b.x⟩

/-- Element i of a list of numbers. -/
def nth (l : List Nat) (i : Nat) : Nat := (l[i]?).getD 0

/-- The vector of three patterns, if all are finite. -/
def vec3 (l : List Nat) : Option V3 :=
  match dyad (nth l 0), dyad (nth l 1), dyad (nth l 2) with
  | some x, some y, some z => some ⟨x, y, z⟩
  | _, _, _ => none

/-- n 32-bit words of a byte list from an offset. -/
def wordsAt (bs : List Byte) (off n : Nat) : List Nat := (numsFrom 0 n).map (fun i => fieldAt bs (off + 4 * i) 4)

/-! ### Boxes (R257, R268) -/

/-- One bound of a child box: ORIGIN + q * 2^EXP, rounded down or up in binary32 (R257). None with ORIGIN not finite. -/
def childBound (origin : Nat) (ex : Int) (q : Nat) (up : Bool) : Option Nat :=
  (dyad origin).map (fun o =>
    let v := o + (q : Int) * 2 ^ (ex + 149).toNat
    (fround fmt32 (if up then .up else .down) false false (v < 0) v.natAbs (-149) false).1)

/-- The exact path against one axis of a box: the parameter range, or none where the axis misses. A zero direction has no bound
when the origin is inside. -/
def slab (o d lo hi : Int) : Option (Option (Frac × Frac)) :=
  if d = 0 then (if lo ≤ o && o ≤ hi then some none else none)
  else
    let a := fracOf (lo - o) d
    let b := fracOf (hi - o) d
    some (some (if fracLe a b then (a, b) else (b, a)))

/-- Narrow a parameter range by one axis. -/
def narrow (r : Option (Frac × Option Frac)) (s : Option (Option (Frac × Frac))) : Option (Frac × Option Frac) :=
  match r, s with
  | some r, some none => some r
  | some (n, f), some (some (a, b)) =>
    let n' := if fracLe n a then a else n
    let f' := match f with
      | none => b
      | some g => if fracLe b g then b else g
    if fracLe n' f' then some (n', some f') else none
  | _, _ => none

/-- The exact entry parameter of a box within [TMIN, TMAX]; none where the path misses it or a value is not finite. tmax none:
no upper bound. -/
def boxExact (o d lo hi : List Nat) (tmin : Nat) (tmax : Option Frac) : Option Frac :=
  match vec3 o, vec3 d, vec3 lo, vec3 hi, bitsFrac tmin with
  | some o, some d, some lo, some hi, some t0 =>
    let start : Option (Frac × Option Frac) := match tmax with
      | none => some (t0, none)
      | some t1 => if fracLe t0 t1 then some (t0, some t1) else none
    (narrow (narrow (narrow start (slab o.x d.x lo.x hi.x)) (slab o.y d.y lo.y hi.y)) (slab o.z d.z lo.z hi.z)).map (fun r => r.1)
  | _, _, _, _, _ => none

/-- The box test: never rejects a ray whose exact path enters; one that misses may still be let in (R268). The entry distance
orders the visits. -/
def boxTest (o d lo hi : List Nat) (tmin tmax : Nat) : Option Frac :=
  match boxExact o d lo hi tmin (bitsFrac tmax) with
  | some t => some t
  | none => if Config.boxLoose (o ++ d ++ lo ++ hi ++ [tmin, tmax]) then some ((bitsFrac tmin).getD (0, 1)) else none

/-! ### Triangles (R265, R268) -/

/-- Lexicographic order of equally long lists. -/
def listLt : List Nat → List Nat → Bool
  | a :: s, b :: t => a < b || (a = b && listLt s t)
  | _, _ => false

/-- The triangle that runs along the edge p to q owns the rays that cross it (R268). -/
def ownsEdge (p q : List Nat) : Bool :=
  if listLt p q then Config.edgeSide p q else !Config.edgeSide q p

/-- T within 4 ulp of the exact distance: by which steps it is off is a fixed but unstated function of the inputs (R268). -/
def distBits (t : Frac) (args : List Nat) : Nat :=
  if t.1 < 0 then fracBits t
  else ulpStep (fracBits t) ((Config.unstated "T" args % 9 : Nat) - 4)

/-- U or V within 2^-22 of the exact weight (R268). -/
def weightBits (w : Frac) (name : String) (args : List Nat) : Nat :=
  let j := ((Config.unstated name args % 2049 : Nat) : Int) - 1024
  fracBits (w.1 * 2 ^ 32 + j * (w.2 : Int), w.2 * 2 ^ 32)

/-- The triangle test: T, U, V as patterns, and whether it is front-facing. A triangle of zero area or with a vertex that is not
finite gives no candidate; so does a ray in its plane. A direction or origin that is not finite has no stated result. -/
def triTest (o d a b c : List Nat) : Option (Nat × Nat × Nat × Bool) :=
  let args := o ++ d ++ a ++ b ++ c
  match vec3 a, vec3 b, vec3 c with
  | some va, some vb, some vc =>
    let e1 := vb.sub va
    let e2 := vc.sub va
    let n := e1.cross e2
    if n = ⟨0, 0, 0⟩ then none
    else
      match vec3 o, vec3 d with
      | some vo, some vd =>
        let det := n.dot vd
        if det = 0 then none
        else
          let r := vo.sub va
          let k : Int := if det < 0 then -1 else 1
          let den := (k * det).toNat
          let un := k * r.dot (e2.cross vd)
          let vn := k * e1.dot (r.cross vd)
          let wn := (den : Int) - un - vn
          let t : Frac := (-(k * r.dot n), den)
          let zeros := [decide (vn = 0), decide (wn = 0), decide (un = 0)]
          let owned := [ownsEdge a b, ownsEdge b c, ownsEdge c a]
          let onEdge := (zeros.filter (fun z => z)).length
          let takes := onEdge ≠ 1 || (zeros.zip owned).any (fun e => e.1 && e.2)
          if un < 0 || vn < 0 || wn < 0 || !takes then none
          else some (distBits t args, weightBits (un, den) "U" args, weightBits (vn, den) "V" args, decide (det < 0))
      | _, _ =>
        if Config.unstated "tri" args % 2 = 0 then none
        else some (Config.unstated "T" args % 2 ^ 32, Config.unstated "U" args % 2 ^ 32, Config.unstated "V" args % 2 ^ 32,
          Config.unstated "front" args % 2 = 1)
  | _, _, _ => none

/-! ### Transform (R264) -/

/-- A component of a transformed vector, every operation rounded to nearest-even; w adds the fourth column. -/
def xformRow (m v : List Nat) (row : Nat) (w : Bool) : Nat :=
  let x := fun b => fdecode fmt32 b
  let mul := fun i => (fmul fmt32 .ne false (x (nth m (4 * row + i))) (x (nth v i))).1
  let s := (fadd fmt32 .ne false (x (mul 0)) (x (mul 1))).1
  let s := (fadd fmt32 .ne false (x s) (x (mul 2))).1
  if w then (fadd fmt32 .ne false (x s) (x (nth m (4 * row + 3)))).1 else s

/-- A transformed vector. -/
def xform (m v : List Nat) (w : Bool) : List Nat := (numsFrom 0 3).map (fun r => xformRow m v r w)

/-! ### Records (Tables 12-1 to 12-6) -/

def rrOrigin (b : List Byte) : List Nat := wordsAt b 0 3
def rrTmin (b : List Byte) : Nat := fieldAt b 12 4
def rrDir (b : List Byte) : List Nat := wordsAt b 16 3
def rrTmax (b : List Byte) : Nat := fieldAt b 28 4
def rrMask (b : List Byte) : Nat := fieldAt b 32 1
def rrFlag (b : List Byte) (i : Nat) : Bool := bitN (fieldAt b 33 1) i
def rrMiss (b : List Byte) : Nat := fieldAt b 34 2
def rrTag (b : List Byte) : Nat := fieldAt b 36 4

/-- R259: a NaN field, a zero direction, TMIN < 0, or TMIN > TMAX. -/
def rayInvalid (b : List Byte) : Bool :=
  (rrTmin b :: rrTmax b :: (rrOrigin b ++ rrDir b)).any f32Nan
    || (rrDir b).all (fun x => x % 2 ^ 31 = 0)
    || f32Lt (rrTmin b) 0 || f32Lt (rrTmax b) (rrTmin b)

/-- A child reference (Table 12-3). -/
def refKind (r : Nat) : Nat := bitsN r 31 30
def refBlocks (r : Nat) : Nat := bitsN r 29 26 + 1
def refIndex (r : Nat) : Nat := r % 256
def refTarget (base r : Nat) : Nat := (base + r % 2 ^ 30 * 64) % 2 ^ 48

/-- The box of child i of a node and the test of a ray against it; none where it is empty or rejected (R257). -/
def childTest (node : List Byte) (i : Nat) (o d : List Nat) (tmin tmax : Nat) : Option Frac :=
  let q := fun k => fieldAt node (16 + 6 * i + k) 1
  let ex := fun a => signedN 8 (fieldAt node (12 + a) 1)
  let org := wordsAt node 0 3
  if (numsFrom 0 3).any (fun a => q (3 + a) < q a) then none
  else
    let lo := (numsFrom 0 3).map (fun a => childBound (nth org a) (ex a) (q a) false)
    let hi := (numsFrom 0 3).map (fun a => childBound (nth org a) (ex a) (q (3 + a)) true)
    boxTest o d (lo.map (fun x => x.getD 0x7FC00000)) (hi.map (fun x => x.getD 0x7FC00000)) tmin tmax

end Sys2Proof.Machine
end

