-- ==== Sys2Proof/Machine/Ray.lean ====
section
/-! DEFINITION. The ray engine: traces, admission, movement between slices, hanks, traversal, callbacks, delivery and the return
spool (chapters 12 and 13), and the TRACE instruction (R199). -/

namespace Sys2Proof.Machine

open Sys2Proof

/-! ### Rays, slots and counts -/

def rayOf (s : State) (id : Nat) : Option Ray := s.ray.rays.find? (fun r => r.id = id)
def traceOf (s : State) (id : Nat) : Option Trace := s.ray.traces.find? (fun t => t.id = id)

/-- Replace a ray. -/
def putRay (r : Ray) (s : State) : State :=
  { s with ray := { s.ray with rays := s.ray.rays.map (fun x => if x.id = r.id then r else x) } }

/-- Change a trace. -/
def onTrace (id : Nat) (f : Trace → Trace) (s : State) : State :=
  { s with ray := { s.ray with traces := s.ray.traces.map (fun t => if t.id = id then f t else t) } }

/-- Slots of a slice that are held: rays, and allotments no ray sits in (R288). -/
def slotsHeld (s : State) (sp : Nat) : Nat :=
  (s.ray.rays.filter (fun r => r.sp = sp && !r.saved && !r.inAllot)).length
    + s.fly.plies.foldl (fun a e => a + (e.2.allot.filter (fun x => x.2.1 = sp)).length) 0

/-- Free slots of a slice (R280). -/
def slotsFree (s : State) (sp : Nat) : Nat := 1024 - slotsHeld s sp

/-- CARD_STAT of a slice (Table 13-4). -/
def syncCard (sp : Nat) (s : State) : State :=
  let r := C (0x1004C0 + sp * 0x1000)
  s.setFlds [(⟨r, 31, 21⟩, slotsFree s sp), (⟨r, 20, 13⟩, (s.ray.hanks.filter (fun h => h.sp = sp)).length),
    (⟨r, 12, 7⟩, (s.ray.groups.filter (fun g => g.key.sp = sp)).length)]

/-- A carding counter (Table 13-4) and a whorl counter (Table 12-10). -/
def cardCount (sp i : Nat) (s : State) : State := bumpSp sp (0x500 + 8 * i) 1 s
def whorlCount (sp i n : Nat) (s : State) : State := bumpSp sp (0x400 + 8 * i) n s

/-- The next number for a ray, trace or hank. -/
def freshId (s : State) : Nat × State := (s.ray.next, { s with ray := { s.ray with next := s.ray.next + 1 } })

/-! ### Homes (R278, R279) -/

/-- The bit of a two-word mask register pair; a mask of zero counts as all ones. -/
def inMask (s : State) (reg n : Nat) : Bool :=
  let m := (s.reg reg).toNat + (s.reg (reg + 4)).toNat * 2 ^ 32
  m = 0 || bitN m n

/-- The first spindle from h on, cyclically, that a mask names. -/
def advance (s : State) (reg h : Nat) : Nat :=
  ((numsFrom 0 64).map (fun i => (h + i) % 64)).find? (fun n => inMask s reg n) |>.getD h

/-- The hashed home of a header address for a context (R278). -/
def hashHome (s : State) (c va : Nat) : Nat :=
  let x := bitsN va 47 14
  let h := bitsN x 5 0 ^^^ bitsN x 11 6 ^^^ bitsN x 17 12 ^^^ bitsN x 23 18 ^^^ bitsN x 29 24 ^^^ bitsN x 33 30 ^^^ c
  advance s (C 0x30008) (h % 64)

/-- The home that a header's bytes give. -/
def headerHome (s : State) (c va : Nat) (b : List Byte) : Nat :=
  if bitN (fieldAt b 3 1) 0 then fieldAt b 4 1 % 64 else hashHome s c va

/-- How a home lookup ends. -/
inductive HomeRes
  | at (home : Nat)
  | fault (cause level : Nat)
  | ue
deriving DecidableEq, Repr

/-- Look up the home of a treelet at a slice: its home cache, else the header; a full cache replaces a free choice (R279). -/
def lookHome (sp c va : Nat) (s : State) : HomeRes × State :=
  match s.ray.homes.find? (fun h => h.1 = sp && h.2.1 = c && h.2.2.1 = va) with
  | some h => (.at h.2.2.2, s)
  | none =>
    match vread (.spindle (Fin.ofNat 64 sp)) c va 64 .ray false s with
    | (.fault cause lv, s) => (.fault cause lv, s)
    | (.ue, s) => (.ue, s)
    | (.ok b, s) =>
      let home := headerHome s c va b
      let mine := s.ray.homes.filter (fun h => h.1 = sp)
      let (k, s) := if mine.length < 256 then (256, s) else takeFree 256 s
      let kept := match mine[k]? with
        | some v => s.ray.homes.filter (fun h => h ≠ v)
        | none => s.ray.homes
      (.at home, { s with ray := { s.ray with homes := (sp, c, va, home) :: kept } })

/-! ### Hanks (R282, R283) -/

/-- Close a hank: counter i counts why (1 full, 2 AGE_LIMIT, 3 IDLE_AGE; 8: none). -/
def closeHank (id why : Nat) (s : State) : State :=
  match s.ray.hanks.find? (fun h => h.id = id && h.phase = 0) with
  | none => s
  | some h =>
    let (n, s) := freshId s
    let s := { s with ray := { s.ray with hanks := s.ray.hanks.map (fun x => if x.id = id then { x with phase := 1, closedAt := n } else x) } }
    if why = 8 then s else cardCount h.sp why s

/-- File a ray at its slice for the treelet at the top of its list (R282). -/
def fileRay (r : Ray) (s : State) : State :=
  let key := (r.todo.map (fun t => t.hdr)).headD 0
  let r := { r with cur := key }
  let mine := s.ray.hanks.filter (fun h => h.sp = r.sp)
  match mine.find? (fun h => h.phase = 0 && h.ctx = r.ctx && h.hdr = key) with
  | some h =>
    let s := putRay { r with place := .filed h.id } s
    let s := { s with ray := { s.ray with hanks := s.ray.hanks.map (fun x => if x.id = h.id then { x with filed := x.filed + 1 } else x) } }
    let s := cardCount r.sp 0 s
    syncCard r.sp (if 32 ≤ h.filed + 1 then closeHank h.id 1 s else s)
  | none =>
    if mine.length < 128 then
      let (id, s) := freshId s
      let h : Hank := { id := id, sp := r.sp, ctx := r.ctx, hdr := key, phase := 0, filed := 1, closedAt := 0 }
      let s := { s with ray := { s.ray with hanks := s.ray.hanks ++ [h] } }
      syncCard r.sp (cardCount r.sp 0 (putRay { r with place := .filed id } s))
    else
      let s := putRay { r with place := .unfiled } s
      match mine.find? (fun h => h.phase = 0) with
      | some h => closeHank h.id 8 s
      | none => s

/-- Rays at a slice that wait for a header are filed in arrival order (R282). -/
def fileWaiting (sp : Nat) (s : State) : State :=
  (s.ray.rays.filter (fun r => r.sp = sp && r.place = .unfiled && !r.saved)).foldl (fun s r =>
    if (s.ray.hanks.filter (fun h => h.sp = sp)).length < 128
        || s.ray.hanks.any (fun h => h.sp = sp && h.phase = 0 && h.ctx = r.ctx && h.hdr = (r.todo.map (fun t => t.hdr)).headD 0) then
      fileRay r s
    else s) s

/-- Headers whose last ray has left are free again (R284). -/
def freeHanks (sp : Nat) (s : State) : State :=
  let s := { s with ray := { s.ray with hanks := s.ray.hanks.filter (fun h =>
    s.ray.rays.any (fun r => r.place = .filed h.id && !r.saved)) } }
  syncCard sp (fileWaiting sp s)

/-- The ray changes place and leaves its hank. -/
def moveOut (r : Ray) (p : RayPlace) (s : State) : State := freeHanks r.sp (putRay { r with place := p } s)

/-! ### Ends -/

/-- The event of a trace that is logged once: BAD_TREE 0x101, TOO_DEEP 0x102 (R276). -/
def logOnce (r : Ray) (code va : Nat) (s : State) : State :=
  match traceOf s r.trace with
  | none => s
  | some t =>
    if t.logged.contains code then s
    else logEvent 4 code r.ctx (r.sp * 1024) va (onTrace t.id (fun t => { t with logged := code :: t.logged }) s)

/-- A ray ends with a status (Table 12-8); it is delivered next. -/
def endRay (r : Ray) (st : Nat) (s : State) : State :=
  moveOut { r with status := st, todo := [], cbs := [], best := if st = 0 then r.best else none } .ended s

/-- A block of the ray is bad: va names it. -/
def endBad (r : Ray) (st va : Nat) (s : State) : State :=
  endRay r st (logOnce r (if st = 5 then 0x102 else 0x101) va s)

/-- A fetch of the ray faulted: it is parked on a record, or ends FAULT_ABORTED (R135, R275). -/
def rayFault (r : Ray) (va cause lv : Nat) (a : Access) (why : Nat) (s : State) : Bool × State :=
  let (waits, s) := raiseFault r.ctx va cause lv a 1 (r.sp * 1024) (.ray r.id) s
  (waits, if waits then moveOut r (.parked why) s else s)

/-! ### Shader table (R261) -/

/-- What an entry gives for a kind: code address and VREGS field. -/
structure ShadeEnt where
  code : Nat
  vregs : Nat
deriving DecidableEq, Repr

/-- How a read of a shader table entry ends. -/
inductive ShadeRes
  | ok (count : Nat) (bytes : List Byte)
  | fault (va cause level : Nat)
  | ue
deriving DecidableEq, Repr

/-- Read COUNT and, below it, entry i of a table. -/
def readShader (sp c table i : Nat) (s : State) : ShadeRes × State :=
  match vread (.spindle (Fin.ofNat 64 sp)) c table 32 .ray false s with
  | (.fault cause lv, s) => (.fault table cause lv, s)
  | (.ue, s) => (.ue, s)
  | (.ok h, s) =>
    let n := fieldAt h 0 4
    if n ≤ i then (.ok n [], s)
    else
      let va := table + 32 + 32 * i
      match vread (.spindle (Fin.ofNat 64 sp)) c va 32 .ray false s with
      | (.fault cause lv, s) => (.fault va cause lv, s)
      | (.ue, s) => (.ue, s)
      | (.ok b, s) => (.ok n b, s)

/-- The part of an entry for a kind: hit and miss at 0, any-hit at 8, intersection at 16 (Table 12-9). -/
def shadeEnt (b : List Byte) (kind : Nat) : ShadeEnt :=
  let o := if kind = 2 then 8 else if kind = 3 then 16 else 0
  { code := fieldAt b o 6, vregs := fieldAt b (o + 6) 1 }

/-! ### Spool groups (R286) -/

/-- A ray joins a spool: its group, a new one, or the overflow list. n numbers its candidate. -/
def joinSpool (k : SpoolKey) (e : ShadeEnt) (ray n : Nat) (s : State) : State :=
  let waiting := s.ray.groups.any (fun g => g.key = k && g.flushed)
  let openG := s.ray.groups.find? (fun g => g.key = k && !g.flushed)
  let put := fun (gs : List SpoolGroup) => syncCard k.sp { s with ray := { s.ray with groups := gs } }
  let late := { s with ray := { s.ray with overflow := s.ray.overflow ++ [(k, e.code, e.vregs, ray, n)] } }
  if waiting then late
  else
    match openG with
    | some g =>
      put (s.ray.groups.map (fun x =>
        if x = g then { x with rays := x.rays ++ [(ray, n)], flushed := decide (32 ≤ x.rays.length + 1) } else x))
    | none =>
      if (s.ray.groups.filter (fun g => g.key.sp = k.sp)).length < 32 then
        put (s.ray.groups ++ [{ key := k, code := e.code, vregs := e.vregs, rays := [(ray, n)], flushed := false }])
      else late

/-- A group has freed: the spool's overflow list is filed again in arrival order. -/
def fileOverflow (sp : Nat) (s : State) : State :=
  let mine := s.ray.overflow.filter (fun x => x.1.sp = sp)
  let s := { s with ray := { s.ray with overflow := s.ray.overflow.filter (fun x => x.1.sp ≠ sp) } }
  mine.foldl (fun s x => joinSpool x.1 ⟨x.2.1, x.2.2.1⟩ x.2.2.2.1 x.2.2.2.2 s) s

/-! ### Traces and their ends (R262, R277) -/

/-- The shader table's rules for a candidate are the trace's: it has a table (R262). -/
def Trace.shaded (t : Trace) : Bool := t.table ≠ 0

/-- Token status of a trace (R277). -/
def Trace.tokenStatus (t : Trace) : Nat := if t.ue then 2 else if t.aborted || t.cut then 1 else 0

/-- Every ray of the trace has been read and admitted. -/
def Trace.admitted (t : Trace) : Bool := t.todo.isEmpty && t.count ≤ t.next

/-- The trace after one of its rays was delivered or removed: its token becomes done, its batch packet ends, and it goes when no
ray is left (R199, R277, R285). -/
def traceCheck (id : Nat) (s : State) : State :=
  match traceOf s id with
  | none => s
  | some t =>
    let mine := s.ray.rays.filter (fun r => r.trace = id)
    let s :=
      if t.admitted && !t.told && mine.all (fun r => r.place = .spool) then
        match t.owner with
        | .token u n => onTrace id (fun t => { t with told := true }) (tokenDone u n t.tokenStatus s)
        | .packet _ _ => s
      else s
    if t.admitted && mine.isEmpty then
      let s := { s with ray := { s.ray with traces := s.ray.traces.filter (fun x => x.id ≠ id) } }
      match t.owner with
      | .packet c i => onPacket c i (fun p => { p with ended := true }) s
      | .token _ _ => s
    else s

/-- A ray's slot is free; the thread whose allotment it used may trace again (R288). -/
def removeRay (r : Ray) (s : State) : State :=
  let s := { s with ray := { s.ray with rays := s.ray.rays.filter (fun x => x.id ≠ r.id) } }
  let s := match r.thread with
    | none => s
    | some (u, l) => onUid u (fun y => { y with allot := y.allot.map (fun a => if a.1 = l then (a.1, a.2.1, false) else a) }) s
  syncResident r.ctx (syncCard r.sp s)

/-! ### Candidates (R266, R267) -/

/-- The candidate replaces the best: smaller T, then INSTANCE_INDEX, then PRIM (R267). -/
def better (c : Cand) (best : Option Cand) : Bool :=
  match best with
  | none => true
  | some b => f32Lt c.t b.t || (f32Le c.t b.t && (c.inst < b.inst || (c.inst = b.inst && c.prim < b.prim)))

/-- TMIN ≤ T ≤ the current bound. -/
def eligible (r : Ray) (t : Nat) : Bool := f32Le (rrTmin r.bytes) t && f32Le t r.tmax

/-- Accept a candidate: true in the result when the search ends. -/
def acceptCand (mode : Nat) (r : Ray) (c : Cand) : Ray × Bool :=
  if mode = 0 then (if better c r.best then { r with best := some c, tmax := c.t } else r, false)
  else ({ r with best := some c }, true)

/-- What a leaf item asks for. -/
inductive ItemRes
  | none
  | take (c : Cand)
  | callback (c : Cand) (e : ShadeEnt)
deriving DecidableEq, Repr

/-- One item of a leaf block against a ray in an instance (R265, R266, R270). ent gives its shader table entry
for a kind of callback. -/
def leafItem (t : Trace) (r : Ray) (x : RayInst) (b : List Byte) (i : Nat) (ent : Nat → ShadeEnt) : ItemRes :=
  let fl := fieldAt b (58 + i) 1
  let shader := (x.sbt + fieldAt b (60 + i) 1) % 65536
  let prim := fieldAt b (48 + 4 * i) 4
  if bitN (fieldAt b 62 1) 2 then
    let lo := wordsAt b (24 * i) 3
    let hi := wordsAt b (24 * i + 12) 3
    if rrFlag r.bytes 4 || !t.shaded || (ent 3).code = 0 then .none
    else
      match boxTest x.o x.d lo hi (rrTmin r.bytes) r.tmax with
      | none => .none
      | some _ =>
        .callback { t := r.tmax, u := 0, v := 0, prim := prim, inst := x.index, shader := shader, back := false, proc := true
                    obj := x.o ++ x.d, box := lo ++ hi, cb := 3 } (ent 3)
  else
    let idx := fieldAt b 56 2
    let vert := fun k => wordsAt b (12 * (bitsN idx (6 * i + 2 * k + 1) (6 * i + 2 * k))) 3
    match triTest x.o x.d (vert 0) (vert 1) (vert 2) with
    | none => .none
    | some (tt, u, v, front) =>
      let front := if bitN x.flags 2 then !front else front
      let culled := (if front then rrFlag r.bytes 1 else rrFlag r.bytes 0) && !bitN fl 1 && !bitN x.flags 1
      let opaque' := if rrFlag r.bytes 2 then true else if rrFlag r.bytes 3 then false else bitN fl 0 || bitN x.flags 0
      let c : Cand := { t := tt, u := u, v := v, prim := prim, inst := x.index, shader := shader, back := !front, proc := false
                        obj := x.o ++ x.d, box := [], cb := 0 }
      if culled || !eligible r tt then .none
      else if opaque' || !t.shaded || (ent 2).code = 0 then .take c
      else .callback { c with cb := 2 } (ent 2)

/-- An item may need its shader table entry: it is procedural, or not opaque (R266, R270). -/
def needsEntry (t : Trace) (r : Ray) (x : RayInst) (b : List Byte) (i : Nat) : Bool :=
  t.shaded && (if bitN (fieldAt b 62 1) 2 then !rrFlag r.bytes 4
    else !rrFlag r.bytes 2 && (rrFlag r.bytes 3 || !(bitN (fieldAt b (58 + i) 1) 0 || bitN x.flags 0)))

/-! ### Traversal (R256-R267, R284) -/

/-- Count one callback (Table 12-10). -/
def countCallback (sp kind : Nat) (s : State) : State := whorlCount sp (if kind = 2 then 3 else 4) 1 s

/-- Where a ray goes after a block or after its callbacks: blocks beyond its bound are dropped; it ends, waits on callbacks, moves
to another treelet, or stays (R267, R284). -/
def settleRay (r : Ray) (s : State) : State :=
  let far := fun (t : RayTodo) => match t.entry, bitsFrac r.tmax with
    | some e, some m => !fracLe e m
    | _, _ => false
  let r := { r with todo := r.todo.dropWhile far }
  if r.cbs.any (fun c => c.isSome) then moveOut r .callback s
  else
    let r := { r with cbs := [] }
    match r.todo.head? with
    | none => endRay r (if r.best.isSome then 0 else 1) s
    | some t =>
      if t.kind = 0 || t.hdr ≠ r.cur then moveOut r .toMove s
      else
        match r.place with
        | .filed _ => putRay r s
        | _ => fileRay r s

/-- The block todo of a treelet header address. -/
def headerTodo (va level base depth : Nat) (entry : Option Frac) (x : Option RayInst) : RayTodo :=
  { kind := 0, va := va, hdr := va, level := level, size := 0, base := base, depth := depth, entry := entry, inst := x }

/-- A header block: check it against what led to it, then go on at its ROOT. level 2 stands for a root of either level
(R255, Table 12-8). -/
def visitHeader (r : Ray) (t : RayTodo) (rest : List RayTodo) (b : List Byte) (s : State) : State :=
  let level := fieldAt b 2 1
  let size := fieldAt b 5 1
  let root := fieldAt b 6 1
  let base := fieldAt b 8 6
  if fieldAt b 0 2 ≠ 1 || 1 < level || (t.level ≠ 2 && level ≠ t.level) || base ≠ t.base || size < root || root = 0
      || t.va / 16384 ≠ (t.va + 64 * size) / 16384 then endBad r 6 t.va s
  else
    let x := if t.level = 2 && level = 0 then
        some { o := rrOrigin r.bytes, d := rrDir r.bytes, flags := 0, sbt := 0, index := 0 }
      else t.inst
    settleRay { r with todo := { t with kind := 1, va := t.va + 64 * root, level := level, size := size, inst := x } :: rest } s

/-- The origin and direction a ray has in the tree it is in. -/
def treeO (r : Ray) (t : RayTodo) : List Nat := (t.inst.map (fun x => x.o)).getD (rrOrigin r.bytes)
def treeD (r : Ray) (t : RayTodo) : List Nat := (t.inst.map (fun x => x.d)).getD (rrDir r.bytes)

/-- Insert a child by entry distance, after those that are as near (R267). -/
def insertChild (e : Frac × List RayTodo) : List (Frac × List RayTodo) → List (Frac × List RayTodo)
  | [] => [e]
  | h :: t => if fracLe h.1 e.1 then h :: insertChild e t else e :: h :: t

/-- The blocks behind a child reference, or none where it breaks Table 12-8. -/
def childTodo (t : RayTodo) (ref : Nat) (entry : Frac) : Option (List RayTodo) :=
  match refKind ref with
  | 1 => if t.size < refIndex ref then none
    else some [{ t with kind := 1, va := t.hdr + 64 * refIndex ref, entry := some entry }]
  | 2 => if t.size < refIndex ref + (refBlocks ref - 1) then none
    else some ((numsFrom 0 (refBlocks ref)).map (fun k =>
      { t with kind := 2, va := t.hdr + 64 * (refIndex ref + k), entry := some entry }))
  | 3 => some [headerTodo (refTarget t.base ref) t.level t.base t.depth (some entry) t.inst]
  | _ => some []

/-- A box node: its children nearest-entry first, ties in slot order (R257, R267). -/
def visitNode (r : Ray) (t : RayTodo) (rest : List RayTodo) (b : List Byte) (s : State) : State :=
  let depth := t.depth + 1
  let r := { r with visits := r.visits + 1 }
  let s := whorlCount r.sp 0 1 s
  if 48 < depth then endBad r 5 t.va s
  else
    let t := { t with depth := depth }
    let kids := (numsFrom 0 4).filterMap (fun i =>
      let ref := fieldAt b (40 + 4 * i) 4
      if refKind ref = 0 then none
      else (childTest b i (treeO r t) (treeD r t) (rrTmin r.bytes) r.tmax).map (fun e => (e, childTodo t ref e)))
    if kids.any (fun k => k.2.isNone) then endBad r 6 t.va s
    else
      let sorted := kids.foldl (fun l k => insertChild (k.1, k.2.getD []) l) []
      settleRay { r with todo := sorted.flatMap (fun k => k.2) ++ rest } s

/-- An instance record: mask, transform, then the geometry tree (R264). -/
def visitInstance (r : Ray) (t : RayTodo) (rest : List RayTodo) (b : List Byte) (s : State) : State :=
  if rrMask r.bytes &&& fieldAt b 54 1 = 0 then settleRay { r with todo := rest } s
  else
    let m := wordsAt b 0 12
    let x : RayInst := { o := xform m (rrOrigin r.bytes) true, d := xform m (rrDir r.bytes) false, flags := fieldAt b 55 1
                         sbt := fieldAt b 56 2, index := fieldAt b 58 4 }
    let g := fieldAt b 48 6
    settleRay { r with todo := headerTodo g 0 g 0 t.entry (some x) :: rest } (whorlCount r.sp 2 1 s)

/-- Apply the items of a leaf block in order: accepted ones at once, the others to callbacks (R267, R270). -/
def applyItems (t : Trace) (x : RayInst) (b : List Byte) (ent : Nat → Nat → ShadeEnt) :
    List Nat → Ray → List (Cand × ShadeEnt) → Ray × List (Cand × ShadeEnt) × Bool
  | [], r, cs => (r, cs, false)
  | i :: is, r, cs =>
    match leafItem t r x b i (ent i) with
    | .none => applyItems t x b ent is r cs
    | .take c =>
      let (r, stop) := acceptCand t.mode r c
      if stop then (r, cs, true) else applyItems t x b ent is r cs
    | .callback c e => applyItems t x b ent is r (cs ++ [(c, e)])

/-- The shader table entries that the items of a block need, in item order. -/
def itemEntries (t : Trace) (r : Ray) (x : RayInst) (b : List Byte) : List Nat → State → List (Nat × ShadeRes) × State
  | [], s => ([], s)
  | i :: is, s =>
    if !needsEntry t r x b i then itemEntries t r x b is s
    else
      let (e, s) := readShader r.sp r.ctx t.table ((x.sbt + fieldAt b (60 + i) 1) % 65536) s
      let (l, s) := itemEntries t r x b is s
      ((i, e) :: l, s)

/-- The entry read for an item and a kind; code 0 without one. -/
def itemEnt (l : List (Nat × ShadeRes)) (i kind : Nat) : ShadeEnt :=
  match l.find? (fun e => e.1 = i) with
  | some (_, .ok _ b) => shadeEnt b kind
  | _ => ⟨0, 0⟩

/-- Send candidates, numbered from n, to their callbacks at the spool of the spindle where the ray waits (Table 13-1). -/
def sendCallbacks (t : Trace) (r : Ray) : Nat → List (Cand × ShadeEnt) → State → State
  | _, [], s => s
  | n, (c, e) :: cs, s =>
    let k : SpoolKey := { sp := r.sp, ctx := r.ctx, packet := t.packet, table := t.table, entry := c.shader, kind := c.cb }
    sendCallbacks t r (n + 1) cs (whorlCount r.sp (if c.cb = 2 then 3 else 4) 1 (joinSpool k e r.id n s))

/-- A BAD_SHADER ray is logged with the index (R262). -/
def logBadShader (r : Ray) (idx : Nat) (s : State) : State := logEvent 4 0x103 r.ctx (r.sp * 1024) idx s

/-- A leaf block: every shader table entry its items need must be had first, then the items apply in order (R265-R270). -/
def visitLeaf (t : Trace) (r : Ray) (d : RayTodo) (rest : List RayTodo) (b : List Byte) (s : State) : State :=
  let count := fieldAt b 62 1 % 4
  if count = 0 || count = 3 then endBad r 6 d.va s
  else
    let x := d.inst.getD { o := rrOrigin r.bytes, d := rrDir r.bytes, flags := 0, sbt := 0, index := 0 }
    let items := numsFrom 0 count
    let (ents, s) := itemEntries t r x b items s
    match ents.find? (fun e => match e.2 with
      | .ok n b => b.isEmpty
      | _ => true) with
    | some (_, .fault va cause lv) =>
      let (waits, s) := rayFault r va cause lv .ray 0 s
      if waits then s else endRay r 2 s
    | some (_, .ue) => raiseInt iErrUncorr (endRay r 3 s)
    | some (i, .ok _ _) => endRay r 7 (logBadShader r ((x.sbt + fieldAt b (60 + i) 1) % 65536) s)
    | none =>
      let s := if bitN (fieldAt b 62 1) 2 then s else whorlCount r.sp 1 count s
      let (r, cs, stop) := applyItems t x b (itemEnt ents) items r []
      if stop then endRay r 0 s
      else
        let r := { r with todo := rest, cbs := r.cbs ++ cs.map (fun c => some c.1) }
        let s := sendCallbacks t r (r.cbs.length - cs.length) cs s
        settleRay r s

/-- Keep a block in a node cache of 256 blocks; which one a full cache gives up is a free value (R271). -/
def nodeFill (sp c va : Nat) (b : List Byte) (s : State) : State :=
  let mine := s.ray.nodes.filter (fun n => n.1 = sp)
  let (k, s) := if mine.length < 256 then (256, s) else takeFree 256 s
  let kept := match mine[k]? with
    | some v => s.ray.nodes.filter (fun n => n ≠ v)
    | none => s.ray.nodes
  { s with ray := { s.ray with nodes := (sp, c, va, b) :: kept } }

/-- The block a ray asks for: the node cache's copy, or a fetch that fills it; bad: the data came back uncorrectable. -/
def fetchBlock (r : Ray) (va : Nat) (bad : Bool) (s : State) : VRead × State :=
  match s.ray.nodes.find? (fun n => n.1 = r.sp && n.2.1 = r.ctx && n.2.2.1 = va) with
  | some n => (.ok n.2.2.2, whorlCount r.sp 5 1 s)
  | none =>
    let s := whorlCount r.sp 6 1 s
    match vread (.spindle (Fin.ofNat 64 r.sp)) r.ctx va 64 .ray bad s with
    | (.ok b, s) => (.ok b, nodeFill r.sp r.ctx va b s)
    | x => x

/-- The whorl of the ray's slice works on the hank it is in (R284). -/
def inWhorl (s : State) (r : Ray) : Bool :=
  match r.place with
  | .filed h => s.ray.hanks.any (fun x => x.id = h && x.phase = 2)
  | _ => false

/-- BLOCK_FETCH_RETURN: the block that a ray of the whorl's hank needs next arrives, and traversal goes on with it (R256). -/
def execBlockFetchReturn (ray : Nat) (e : Ecc) (s : State) : Res :=
  done (onlyIf (running s) (fun s =>
    match rayOf s ray with
    | none => s
    | some r =>
      match traceOf s r.trace, r.todo with
      | some t, d :: rest =>
        if !inWhorl s r || r.saved || !ctxRuns s r.ctx then s
        else
          match fetchBlock r d.va (e = .uncorrectable) s with
          | (.fault cause lv, s) =>
            let (waits, s) := rayFault r d.va cause lv .ray 0 s
            if waits then s else endRay r 2 s
          | (.ue, s) => raiseInt iErrUncorr (endRay r 3 s)
          | (.ok b, s) =>
            if d.kind = 0 then visitHeader r d rest b s
            else if d.kind = 1 then visitNode r d rest b s
            else if d.level = 1 then visitInstance r d rest b s
            else visitLeaf t r d rest b s
      | _, _ => s) s)

/-! ### Admission and movement (R280, R281) -/

/-- A new ray of a trace at a slice. An invalid one has ended already (R259). -/
def newRay (t : Trace) (sp pos : Nat) (b : List Byte) (hit : Option Nat) (thread : Option (Nat × Nat)) (inAllot : Bool)
    (s : State) : State :=
  let (id, s) := freshId s
  let bad := rayInvalid b
  let r : Ray :=
    { id := id, ctx := t.ctx, trace := t.id, pos := pos, sp := sp, bytes := b, hit := hit
      todo := if bad then [] else [headerTodo t.root 2 t.root 0 none none], best := none, tmax := rrTmax b, visits := 0
      status := if bad then 4 else 0, place := if bad then .ended else .toMove, cbs := [], thread := thread, inAllot := inAllot
      cur := 0, saved := false, recDone := false, noShade := false }
  syncResident t.ctx (syncCard sp { s with ray := { s.ray with rays := s.ray.rays ++ [r] } })

/-- A slice admits a ray beyond RESERVE and within the budget (R280, R151). -/
def mayAdmit (s : State) (sp c : Nat) : Bool :=
  4 * s.fld ⟨C 0x30000, 15, 8⟩ < slotsFree s sp && withinBudget s c 128

/-- The free allotment of a thread: its slice (R288). -/
def allotOf (s : State) (thread : Option (Nat × Nat)) : Option Nat :=
  match thread with
  | none => none
  | some (u, l) =>
    ((placeOf s u).bind (fun k => plyAt s k)).bind (fun y => (y.allot.find? (fun a => a.1 = l && !a.2.2)).map (fun a => a.2.1))

/-- The last ray of a TRACE has been admitted: the instruction retires (R280). -/
def traceRetire (t : Trace) (s : State) : State :=
  match t.owner with
  | .packet _ _ => s
  | .token u _ =>
    onUid u (fun y =>
      if y.tracing = some t.id then
        { y with tracing := none, pcs := (numsFrom 0 32).map (fun l => if t.mask.getLsbD l then t.pc + 8 else y.pcOf l) }
      else y) s

/-- Admit the next ray of a TRACE. -/
def admitTrace (t : Trace) (s : State) : State :=
  match t.todo with
  | [] => s
  | (pos, b, hit, thread) :: rest =>
    let go := fun (sp : Nat) (al : Bool) (s : State) =>
      let s := onTrace t.id (fun t => { t with todo := rest }) s
      let s := newRay t sp pos b hit thread al s
      if rest.isEmpty then traceRetire t s else s
    match allotOf s thread with
    | some sp =>
      let s := match thread with
        | some (u, l) => onUid u (fun y => { y with allot := y.allot.map (fun a => if a.1 = l then (a.1, a.2.1, true) else a) }) s
        | none => s
      go sp true s
    | none => if mayAdmit s t.sp t.ctx then go t.sp false s else s

/-- Read and admit the next ray of a batch (R263, R280). A home lookup that faults admits the ray at its hashed home, where it
meets the fault itself. -/
def admitBatch (t : Trace) (c : Nat) (s : State) : State :=
  if t.count ≤ t.next then s
  else
    let (h, s) := lookHome (hashHome s t.ctx t.root) t.ctx t.root s
    let sp := match h with
      | .at home => home
      | _ => hashHome s t.ctx t.root
    if !mayAdmit s sp t.ctx then s
    else
      let va := t.rayAddr + 64 * t.next
      match vread .queue c va 64 .queue false s with
      | (.fault cause lv, s) =>
        queueFault c va cause lv t.packet s
      | (.ue, s) =>
        traceCheck t.id (raiseInt iErrUncorr (packetStatus c t.packet 6 (onTrace t.id (fun t => { t with next := t.next + 1 }) s)))
      | (.ok b, s) =>
        let s := onTrace t.id (fun t => { t with next := t.next + 1 }) s
        newRay t sp t.next b (some (t.hitAddr + 32 * t.next)) none false s

/-- RAY_ADMIT: the next ray of a trace gets a slot: its thread's allotted one, or a free one under the reserve and budget rules
(R280, R288, R151). -/
def execRayAdmit (trace : Nat) (s : State) : Res :=
  done (onlyIf (running s) (fun s =>
    match traceOf s trace with
    | none => s
    | some t =>
      if !ctxRuns s t.ctx then s
      else
        match t.owner with
        | .packet c _ => if (ctxQ s c).faulted then s else admitBatch t c s
        | .token _ _ => admitTrace t s) s)

/-- The home a moving ray needs; a fault parks or ends it (R279, R294). -/
def rayHome (r : Ray) (s : State) : Option Nat × State :=
  match r.todo with
  | [] => (none, s)
  | d :: _ =>
    match lookHome r.sp r.ctx d.hdr s with
    | (.at h, s) => (some h, s)
    | (.fault cause lv, s) =>
      let (waits, s) := rayFault r d.hdr cause lv .ray 0 s
      (none, if waits then s else endRay r 2 s)
    | (.ue, s) => (none, raiseInt iErrUncorr (endRay r 3 s))

/-- RAY_MOVE: the slice at the home of the treelet the ray must enter next has a free slot and takes it, and files it; at its home
already, it is filed there (R281). A full slice refuses it. -/
def execRayMove (ray : Nat) (s : State) : Res :=
  done (onlyIf (running s) (fun s =>
    match rayOf s ray with
    | none => s
    | some r =>
      if r.place ≠ .toMove || r.saved || !ctxRuns s r.ctx then s
      else
        match rayHome r s with
        | (none, s) => s
        | (some h, s) =>
          if h = r.sp then fileRay r s
          else if slotsFree s h = 0 then s
          else
            let s := if r.cur = 0 then s else cardCount r.sp 4 s
            let old := r.sp
            let r := { r with sp := h, inAllot := false }
            syncCard old (fileRay r (putRay r s))) s)

/-- STAY_AND_FETCH: the home's slice has refused the ray for STAY_WAIT cycles; it is filed at its present slice (R281). -/
def execStayAndFetch (ray : Nat) (s : State) : Res :=
  done (onlyIf (running s) (fun s =>
    match rayOf s ray with
    | none => s
    | some r =>
      if r.place ≠ .toMove || r.saved || !ctxRuns s r.ctx then s
      else
        match rayHome r s with
        | (none, s) => s
        | (some h, s) => if h = r.sp || slotsFree s h ≠ 0 then s else cardCount r.sp 5 (fileRay r s)) s)

/-- HANK_AGE_CLOSE: the oldest ray of an open hank has waited AGE_LIMIT (R283). -/
def execHankAgeClose (hank : Nat) (s : State) : Res :=
  done (onlyIf (running s) (closeHank hank 2) s)

/-- HANK_IDLE_CLOSE: the slice's whorl has no closed hank and the oldest ray has waited IDLE_AGE (R283). -/
def execHankIdleClose (hank : Nat) (s : State) : Res :=
  done (onlyIf (running s) (fun s =>
    match s.ray.hanks.find? (fun h => h.id = hank && h.phase = 0) with
    | none => s
    | some h => if s.ray.hanks.any (fun x => x.sp = h.sp && x.phase = 1) then s else closeHank hank 3 s) s)

/-- Put a hank among hanks in their order of closing. -/
def insertClosed (h : Hank) : List Hank → List Hank
  | [] => [h]
  | g :: u => if h.closedAt ≤ g.closedAt then h :: g :: u else g :: insertClosed h u

/-- Hanks in their order of closing. -/
def inClosingOrder : List Hank → List Hank
  | [] => []
  | h :: t => insertClosed h (inClosingOrder t)

/-- WHORL_TAKE_HANK: a whorl without a hank takes the closed one whose context ranks highest, the first closed among equals
(R284). -/
def execWhorlTakeHank (sp : Fin 64) (s : State) : Res :=
  done (onlyIf (running s && !s.ray.hanks.any (fun h => h.sp = sp && h.phase = 2)) (fun s =>
    match topRank s (fun (h : Hank) => h.ctx) (inClosingOrder (s.ray.hanks.filter (fun h => h.sp = sp && h.phase = 1 && ctxRuns s h.ctx))) with
    | none => s
    | some h => { s with ray := { s.ray with hanks := s.ray.hanks.map (fun x => if x.id = h.id then { x with phase := 2 } else x) } }) s)

/-! ### Delivery (R262, R285) -/

/-- The 32 bytes of a hit record (Table 12-7). -/
def hitRecord (t : Trace) (r : Ray) : List Byte :=
  let hit := r.status = 0
  let full := hit && t.mode ≠ 2
  let c := r.best.getD { t := 0, u := 0, v := 0, prim := 0, inst := 0, shader := 0, back := false, proc := false, obj := [], box := []
                         cb := 0 }
  leBytes 4 (if hit then c.t else 0x7F800000) ++ leBytes 4 (if full then c.u else 0) ++ leBytes 4 (if full then c.v else 0)
    ++ leBytes 4 (if full then c.prim else 0) ++ leBytes 4 (if full then c.inst else 0)
    ++ leBytes 2 (if hit then c.shader else rrMiss r.bytes) ++ leBytes 1 r.status
    ++ leBytes 1 (if full then bitVal c.back 0 + bitVal c.proc 1 else 0) ++ leBytes 4 (rrTag r.bytes)
    ++ leBytes 2 (satN 0xFFFF r.visits) ++ leBytes 2 0

/-- The spool a shaded ray goes to (Table 13-1). -/
def spoolOf (s : State) (t : Trace) (shader : Nat) : Nat :=
  match t.owner with
  | .token _ _ => t.sp
  | .packet _ _ => advance s (C 0x30018) (bitsN shader 5 0 ^^^ bitsN shader 11 6 ^^^ bitsN shader 15 12)

/-- What a trace keeps of an ended ray's status (R277): UNCORRECTABLE, FAULT_ABORTED. -/
def noteStatus (t : Trace) (st : Nat) (s : State) : State :=
  let s := onTrace t.id (fun t => { t with ue := t.ue || st = 3, aborted := t.aborted || st = 2 }) s
  match t.owner with
  | .packet c i => if st = 3 then packetStatus c i 6 s else if st = 2 then packetStatus c i 1 s else s
  | .token _ _ => s

/-- The ray's shader index: the hit's, or MISS_INDEX. -/
def shaderIndex (r : Ray) : Nat := if r.status = 0 then (r.best.map (fun c => c.shader)).getD 0 else rrMiss r.bytes

/-- The thread a delivered ray forms, if any: nothing yet (a fault), none, or an entry (R262, R275). The ray may turn into a
BAD_SHADER or FAULT_ABORTED one. -/
inductive ThreadRes
  | wait (s : State)
  | again (r : Ray) (s : State)
  | noThread (s : State)
  | thread (e : ShadeEnt) (s : State)

/-- Look up the thread. -/
def deliverThread (t : Trace) (r : Ray) (s : State) : ThreadRes :=
  if !t.shaded || r.status = 7 || r.noShade || (t.mode = 2 && r.status = 0) then .noThread s
  else
    match readShader r.sp r.ctx t.table (shaderIndex r) s with
    | (.fault va cause lv, s) =>
      let (waits, s) := rayFault r va cause lv .ray 2 s
      if waits then .wait s
      else if r.status = 0 then .again { r with status := 2, best := none } s else .again { r with status := 2, noShade := true } s
    | (.ue, s) =>
      let s := raiseInt iErrUncorr s
      if r.status = 0 then .again { r with status := 3, best := none } s else .again { r with status := 3, noShade := true } s
    | (.ok _ b, s) =>
      if b.isEmpty then .again { r with status := 7 } (logBadShader r (shaderIndex r) s)
      else
        let e := shadeEnt b 0
        if e.code = 0 then .noThread s else .thread e s

/-- Write the hit record. None in the first part: it has to wait (R275). -/
def deliverRecord (t : Trace) (r : Ray) (s : State) : Option Ray × State :=
  match r.hit with
  | none => (some { r with recDone := true }, s)
  | some va =>
    if r.recDone then (some r, s)
    else
      match vwrite (.spindle (Fin.ofNat 64 r.sp)) r.ctx va (hitRecord t r) .write s with
      | (none, s) => (some { r with recDone := true }, s)
      | (some (cause, lv), s) =>
        let (waits, s) := rayFault r va cause lv .write 1 s
        if waits then (none, s)
        else (some { r with recDone := true }, noteStatus t 2 s)

/-- The ray is handed to its spool: its allotment is released, its slot stays (R285, R288). -/
def handToSpool (t : Trace) (r : Ray) (e : ShadeEnt) (s : State) : State :=
  let s := putRay { r with place := .spool, thread := none, inAllot := false } s
  let s := match r.thread with
    | some (u, l) => onUid u (fun y => { y with allot := y.allot.filter (fun a => a.1 ≠ l) }) s
    | none => s
  let kind := if r.status = 0 then 0 else 1
  let k : SpoolKey := { sp := spoolOf s t (shaderIndex r), ctx := r.ctx, packet := t.packet, table := t.table
                        entry := shaderIndex r, kind := kind }
  syncCard r.sp (joinSpool k e r.id 0 s)

/-- Deliver an ended ray; n bounds the turns its status can take. -/
def deliver (t : Trace) : Nat → Ray → State → State
  | 0, _, s => s
  | n + 1, r, s =>
    match deliverThread t r s with
    | .wait s => s
    | .again r s => deliver t n r (putRay r s)
    | .noThread s =>
      (match deliverRecord t r s with
      | (none, s) => s
      | (some r, s) => traceCheck t.id (removeRay r (noteStatus t r.status s)))
    | .thread e s =>
      (match deliverRecord t r s with
      | (none, s) => s
      | (some r, s) => traceCheck t.id (handToSpool t r e (noteStatus t r.status s)))

/-- RAY_DELIVER: an ended ray has its hit record written, or is linked to a spool group, or both (R262, R285). -/
def execRayDeliver (ray : Nat) (s : State) : Res :=
  done (onlyIf (running s) (fun s =>
    match rayOf s ray with
    | none => s
    | some r =>
      match traceOf s r.trace with
      | none => s
      | some t => if r.place = .ended && !r.saved && ctxRuns s r.ctx then deliver t 4 r s else s) s)

/-! ### The return spool (R286, R287) -/

/-- SPOOL_FLUSH_AGE: the oldest ray of the n-th open group of a spool has waited FLUSH_AGE (R286). -/
def execSpoolFlushAge (sp : Fin 64) (n : Fin 32) (s : State) : Res :=
  done (onlyIf (running s) (fun s =>
    match (s.ray.groups.filter (fun g => g.key.sp = sp.val && !g.flushed))[n.val]? with
    | none => s
    | some g =>
      cardCount sp 7 { s with ray := { s.ray with groups := s.ray.groups.map (fun x => if x = g then { x with flushed := true } else x) } }) s)

/-- Words 0-7 of the hit record a spool-formed thread starts with (Table 13-2). -/
def threadRecord (t : Trace) (r : Ray) (k : SpoolKey) (n : Nat) : List Nat :=
  match (r.cbs[n]?).join with
  | some c =>
    if k.kind = 2 then wordsAt (hitRecord { t with mode := 0 } { r with status := 0, best := some c }) 0 8
    else if k.kind = 3 then [r.tmax, 0, 0, c.prim, c.inst, k.entry, 0, 0]
    else wordsAt (hitRecord t r) 0 8
  | none => wordsAt (hitRecord t r) 0 8

/-- The initial lane registers of one thread (Table 13-2), by register number. -/
def threadRegs (t : Trace) (r : Ray) (k : SpoolKey) (n lane : Nat) : List (Nat × Nat) :=
  let c := (r.cbs[n]?).join
  let space := if k.kind = 3 then (c.map (fun c => c.obj)).getD [] else rrOrigin r.bytes ++ rrDir r.bytes
  let box := if k.kind = 3 then (c.map (fun c => c.box)).getD [] else []
  (0, lane) :: (numsFrom 4 8).zip (threadRecord t r k n) ++ (numsFrom 12 6).zip (wordsAt r.bytes 40 6)
    ++ (numsFrom 18 6).zip space ++ [(24, rrTmin r.bytes)] ++ (numsFrom 25 6).zip box
    ++ [(31, if 2 ≤ k.kind then r.tmax else 0)]

/-- VREGS of an entry: 8 times the field; the manual gives no meaning to a field outside 1-16. -/
def entryVregs (v : Nat) : Nat :=
  8 * (if v = 0 || 16 < v then Config.unstated "VREGS" [v] % 16 + 1 else v)

/-- The ply a group becomes (R287, Table 13-2). -/
def spoolPly (s : State) (g : SpoolGroup) (uid : Nat) : Ply :=
  let n := g.rays.length
  let t0 := (g.rays.head?.bind (fun e => rayOf s e.1)).bind (fun r => traceOf s r.trace)
  let tag := (t0.map (fun t => match t.owner with
    | .packet _ _ => t.tag
    | .token _ _ => 0)).getD 0
  let k := g.key
  let vregs := entryVregs g.vregs
  let present : BitVec 32 := BitVec.ofNat 32 (2 ^ n - 1)
  let y := Ply.fresh { ctx := k.ctx, source := 2, packet := k.packet, group := uid } uid vregs true g.code present
  let y := { y with present := BitVec.allOnes 32 }
  let y := ([(0, k.entry), (1, k.kind), (2, k.table % 2 ^ 32), (3, k.table / 2 ^ 32), (4, n), (6, tag), (7, k.ctx)]).foldl
    (fun (y : Ply) (e : Nat × Nat) => y.sset e.1 e.2) y
  let lanes := (numsFrom 0 n).zip g.rays
  lanes.foldl (fun y e =>
    match rayOf s e.2.1 with
    | none => y
    | some r =>
      match traceOf s r.trace with
      | none => y
      | some t =>
        let y := (threadRegs t r k e.2.2 e.1).foldl (fun (y : Ply) (w : Nat × Nat) =>
          if w.1 < vregs then y.vset w.1 e.1 w.2 else y) y
        if 2 ≤ k.kind then { y with cbs := y.cbs ++ [(e.1, r.id, e.2.2)] }
        else { y with allot := y.allot ++ [(e.1, r.sp, false)] }) y

/-- The flushed group a spool forms next: callback groups first (R286). -/
def nextGroup (s : State) (sp : Nat) : Option SpoolGroup :=
  let mine := s.ray.groups.filter (fun g => g.key.sp = sp && g.flushed && ctxRuns s g.key.ctx)
  (mine.find? (fun g => 2 ≤ g.key.kind)).orElse (fun _ => mine.head?)

/-- SPOOL_PLY_FORM: a flushed group becomes one ply on the spool's spindle; the rays of hits and misses are gone, their slots the
threads' allotments (R287, R288). -/
def execSpoolPlyForm (sp : Fin 64) (s : State) : Res :=
  done (onlyIf (running s) (fun s =>
    match nextGroup s sp with
    | none => s
    | some g =>
      let bytes := 1024 + entryVregs g.vregs * 128
      if !spoolBudget s g.key.ctx bytes then s
      else
        let extra := !withinBudget s g.key.ctx bytes
        match admitPly sp (fun uid => { spoolPly s g uid with extra := extra }) s with
        | none => s
        | some s =>
          let s := { s with ray := { s.ray with groups := s.ray.groups.erase g } }
          let gone := if 2 ≤ g.key.kind then [] else g.rays.filterMap (fun e => rayOf s e.1)
          let s := { s with ray := { s.ray with rays := s.ray.rays.filter (fun r => !gone.contains r) } }
          let s := (gone.map (fun r => r.trace)).dedup.foldl (fun s t => traceCheck t s) s
          let s := gone.foldl (fun s r => syncCard r.sp s) s
          syncCard sp (fileOverflow sp (cardCount sp 6 s))) s)

/-! ### Verdicts (R270) -/

/-- A callback's verdict reaches its ray: p0 accepts an eligible candidate, p1 with it ends the search; with no callback left the
ray goes on. -/
def verdict (ray n : Nat) (p0 p1 : Bool) (v4 v5 : Nat) (s : State) : State :=
  match rayOf s ray with
  | none => s
  | some r =>
    match traceOf s r.trace, (r.cbs[n]?).join with
    | some t, some c =>
      let c' : Cand := if c.cb = 3 then { c with t := v4, u := v5 } else c
      let r := { r with cbs := setAt r.cbs n none }
      if p0 && eligible r c'.t then
        let (r, stop) := acceptCand t.mode r c'
        if stop then endRay r 0 s
        else if p1 then endRay { r with best := some c' } 0 s
        else settleRay r s
      else settleRay r s
    | _, _ => s

/-- The verdicts of the callback threads among some lanes of a ply, read at their EXIT; ok = false gives p0 = 0 (R270). -/
def verdicts (y : Ply) (lanes : Nat → Bool) (ok : Bool) (s : State) : State :=
  (y.cbs.filter (fun e => lanes e.1)).foldl (fun s e =>
    verdict e.2.1 e.2.2 (ok && (y.pget 0).getLsbD e.1) ((y.pget 1).getLsbD e.1) (y.vget 4 e.1) (y.vget 5 e.1) s) s

/-! ### TRACE (R199) -/

/-- Read the ray records of the lanes; the first that cannot be read stops. -/
def readRays (i : Iss) (va : Nat → Nat) : List Nat → State → List (Nat × List Byte) × Option (Nat × VRead) × State
  | [], s => ([], none, s)
  | l :: ls, s =>
    match vread (flyUnit i.k) i.y.owner.ctx (va l) 64 .read false s with
    | (.ok b, s) =>
      let (r, e, s) := readRays i va ls s
      ((l, b) :: r, e, s)
    | (x, s) => ([], some (va l, x), s)

/-- RET of a TRACE. -/
def mRet (w : W64) : Bool := bitN (wMod w) 7

/-- TRACE's checks (R199, Table 9-13): pairs; C a scalar pair, and B with RET = 1; SUB 0-2; aligned addresses below 2^48. -/
def traceChecks (w : W64) (i : Iss) : List (Bool × Nat) :=
  let y := i.y
  let spair := fun n => spS n && n % 2 = 0
  let a := fun l => y.rd64 (wA w) l
  let b := fun l => y.rd64 (wB w) l
  [ (pair64 y.vregs (wA w) && spair (wC w) && (if mRet w then spair (wB w) else pair64 y.vregs (wB w)) && mSub (wMod w) ≤ 2, 2)
  , ((lanesOf i.g).all (fun l => a l < 2 ^ 48 && b l < 2 ^ 48 && y.rd64 (wC w) l < 2 ^ 48), 3)
  , ((lanesOf i.g).all (fun l => a l % 64 = 0 && (mRet w || b l % 32 = 0)), 4) ]

/-- TRACE: the ray records are read and the rays wait for admission under a token; the instruction retires once all are admitted
(R199, R280). A callback ply's TRACE submits nothing and its token is done with 0b01 (R289). -/
def execTrace (p : PlyId) (w : W64) (s : State) : Res :=
  done (issue p w (wOp w = 0xA0) [wA w, wB w, wC w] (fun i => firstCode (traceChecks w i)) allNext
    (fun i s =>
      let t := mToken w
      let lanes := lanesOf i.g
      if lanes.isEmpty then retirePly (fun _ y => y) i s
      else if memHeld i.y true then .hold s
      else if (i.y.token t).busy then waitToken t i s
      else if !i.y.cbs.isEmpty then
        retirePly (fun _ y => { y with tokens := setAt y.tokens t ⟨false, 1⟩ }) i s
      else
        match readRays i (fun l => i.y.rd64 (wA w) l) lanes s with
        | (_, some (va, .fault cause lv), s) => plyReadFault va cause lv i s
        | (_, some (_, _), s) => .hold (uncorrectablePly i.k s)
        | (recs, none, s) =>
          let l0 := lanes.headD 0
          let (id, s) := freshId s
          let tr : Trace :=
            { id := id, ctx := i.y.owner.ctx, owner := .token i.y.uid t, packet := i.y.owner.packet, tag := 0, sp := spOf i.k
              mode := mSub (wMod w), root := i.y.rd64 (wC w) l0, table := if mRet w then i.y.rd64 (wB w) l0 else 0
              ret := mRet w
              todo := recs.map (fun e => (e.1, e.2, if mRet w then none else some (i.y.rd64 (wB w) e.1), some (i.y.uid, e.1)))
              next := 0, count := 0, rayAddr := 0, hitAddr := 0, mask := i.mask, pc := i.pc, ue := false, aborted := false
              cut := false, logged := [], told := false }
          let s := { s with ray := { s.ray with traces := s.ray.traces ++ [tr] } }
          .retire (toPending i.k (putPly i.k { i.y.tokenBusy t with tracing := some id } s))) s)

/-! ### Node cache invalidation and the RAY reset (R271, R273, R275, R294) -/

/-- NODE_INVAL.GO (R271). -/
def nodeInvalGo (s : State) : State := s.setFld ⟨C 0x30F00, 31, 31⟩ 1

/-- NODE_INVAL: an invalidation starts; one in progress is left alone (R271, R273). -/
def execNodeInval (s : State) : Res := done (onlyIf (running s) nodeInvalGo s)

/-- NODE_INVAL_DONE: every node cache and home cache is empty and BUSY returns to 0 (R273, R279). -/
def execNodeInvalDone (s : State) : Res :=
  done (onlyIf (running s && s.flag ⟨C 0x30F00, 31, 31⟩) (fun s =>
    { (s.setFld ⟨C 0x30F00, 31, 31⟩ 0) with ray := { s.ray with nodes := [], homes := [] } }) s)

/-- Discard the rays, hanks, groups and traces that p picks, without records: tokens become done with 0b01, a TRACE that had not
retired retires, batch packets end with a status (R275, R294, R157). -/
def dropTraces (p : Trace → Bool) (status : Nat) (s : State) : State :=
  let gone := s.ray.traces.filter p
  let ids := gone.map (fun t => t.id)
  let lost := s.ray.rays.filter (fun r => ids.contains r.trace)
  let lostIds := lost.map (fun r => r.id)
  let s := gone.foldl (fun s t =>
    let s := traceRetire t s
    match t.owner with
    | .token u n => if t.told then s else tokenDone u n 1 s
    | .packet c i => onPacket c i (fun p => { p with ended := true }) (packetStatus c i status s)) s
  let s := { s with ray := { s.ray with
    traces := s.ray.traces.filter (fun t => !ids.contains t.id)
    rays := s.ray.rays.filter (fun r => !lostIds.contains r.id)
    groups := (s.ray.groups.map (fun g => { g with rays := g.rays.filter (fun e => !lostIds.contains e.1) })).filter
      (fun g => !g.rays.isEmpty)
    overflow := s.ray.overflow.filter (fun x => !lostIds.contains x.2.2.2.1)
    spooled := s.ray.spooled.filter (fun x => !lostIds.contains x.2.2.2.1) } }
  let s := lost.foldl (fun s r => freeHanks r.sp (match r.thread with
    | some (u, l) => onUid u (fun y => { y with allot := y.allot.map (fun a => if a.1 = l then (a.1, a.2.1, false) else a) }) s
    | none => s)) s
  (lost.map (fun r => r.ctx)).dedup.foldl (fun s c => syncResident c s) s

/-- The RAY function reset: every ray, hank, group and allotment goes, and the home caches empty (R275, R294). -/
def rayReset (s : State) : State :=
  let s := dropTraces (fun _ => true) 3 s
  let s := { s with
    ray := { s.ray with hanks := [], groups := [], overflow := [], spooled := [], homes := [] }
    fly := { s.fly with plies := s.fly.plies.map (fun e => (e.1, { e.2 with allot := [] })) } }
  let s := (numsFrom 0 64).foldl (fun s sp => syncCard sp s) s
  (numsFrom 0 16).foldl (fun s c => syncResident c s) s

end Sys2Proof.Machine
end

