-- ==== Sys2Proof/Machine/Surface.lean ====
section
/-! DEFINITION. Surfaces: descriptors and formats, pixels, blending arithmetic, and the UMZ block format with its encoder and decoder
(R302, R307-R312). -/

namespace Sys2Proof.Machine

open Sys2Proof

/-! ### Surface descriptor (Tables 14-2 and 14-3) -/

def sfBase (d : List Byte) : Nat := fieldAt d 0 6
def sfHeader (d : List Byte) : Nat := fieldAt d 8 6
def sfWidth (d : List Byte) : Nat := fieldAt d 16 2
def sfHeight (d : List Byte) : Nat := fieldAt d 18 2
def sfPitch (d : List Byte) : Nat := fieldAt d 20 2
def sfFormat (d : List Byte) : Nat := fieldAt d 22 1
def sfSlog (d : List Byte) : Nat := bitsN (fieldAt d 23 1) 5 4
def sfLevels (d : List Byte) : Nat := bitsN (fieldAt d 23 1) 3 0
def sfStride (d : List Byte) : Nat := fieldAt d 24 4 * 4096
def sfClear (d : List Byte) : Nat := fieldAt d 28 4

/-- A 4-byte pixel format, which may be a render target. -/
def fmtTarget (f : Nat) : Bool := [1, 2, 3, 0x11, 0x12, 0x13].contains f
/-- UMZ rather than linear. -/
def fmtUmz (f : Nat) : Bool := [0x11, 0x12, 0x13].contains f
/-- RGBA8 with the sRGB encoding. -/
def fmtSrgb (f : Nat) : Bool := f % 16 = 2
/-- RGB10A2. -/
def fmtTen (f : Nat) : Bool := f % 16 = 3

/-! ### Channels (R302, R307) -/

/-- v / m in binary32. -/
def unorm (v m : Nat) : Nat := fracBits ((v : Int), m)

/-- The four channels of a pixel word as linear binary32 patterns. -/
def pixelDecode (f w : Nat) : List Nat :=
  if fmtTen f then [unorm (bitsN w 9 0) 1023, unorm (bitsN w 19 10) 1023, unorm (bitsN w 29 20) 1023, unorm (bitsN w 31 30) 3]
  else
    let c := fun i => bitsN w (8 * i + 7) (8 * i)
    let lin := fun v => if fmtSrgb f then (Config.srgbDecode v).toNat else unorm v 255
    [lin (c 0), lin (c 1), lin (c 2), unorm (c 3) 255]

/-- A value clamped to [0, 1]; what a NaN becomes is not stated. -/
def clamp01 (b : Nat) : Nat :=
  match fdecode fmt32 b with
  | .nan _ => Config.unstated "clamp NaN" [b] % 2
  | .inf n => if n then 0 else 0x3F800000
  | .fin n m e => if n || m = 0 then 0 else if magGt m e 1 0 then 0x3F800000 else b

/-- A clamped value times m, rounded to nearest-even. -/
def quantize (b m : Nat) : Nat :=
  match fdecode fmt32 b with
  | .fin _ v e => (roundAt .ne false (v * m) e 0 false).1
  | _ => 0

/-- The pixel word of four linear channels, clamped, encoded and rounded (R307). -/
def pixelEncode (f : Nat) (ch : List Nat) : Nat :=
  let c := fun i => clamp01 (nth ch i)
  if fmtTen f then
    quantize (c 0) 1023 + quantize (c 1) 1023 * 2 ^ 10 + quantize (c 2) 1023 * 2 ^ 20 + quantize (c 3) 3 * 2 ^ 30
  else
    let enc := fun i => if fmtSrgb f then (Config.srgbEncode (BitVec.ofNat 32 (c i))).toNat else quantize (c i) 255
    enc 0 + enc 1 * 2 ^ 8 + enc 2 * 2 ^ 16 + quantize (c 3) 255 * 2 ^ 24

def f32Add (a b : Nat) : Nat := (fadd fmt32 .ne false (fdecode fmt32 a) (fdecode fmt32 b)).1
def f32Mul (a b : Nat) : Nat := (fmul fmt32 .ne false (fdecode fmt32 a) (fdecode fmt32 b)).1
/-- 1 - a. -/
def oneMinus (a : Nat) : Nat := f32Add 0x3F800000 (a ^^^ 2 ^ 31)

/-- Blend a source over a destination, both linear; the source of a UNORM target is clamped first (R307). -/
def blend (mode : Nat) (src dst : List Nat) : List Nat :=
  let s := fun i => clamp01 (nth src i)
  let d := fun i => nth dst i
  let k := oneMinus (s 3)
  (numsFrom 0 4).map (fun i =>
    match mode with
    | 0 => s i
    | 1 => if i = 3 then f32Add (s 3) (f32Mul (d 3) k) else f32Add (f32Mul (s i) (s 3)) (f32Mul (d i) k)
    | 2 => f32Add (s i) (f32Mul (d i) k)
    | 3 => f32Add (s i) (d i)
    | _ => f32Mul (s i) (d i))

/-- The channel fields of a pixel word: high and low bit of R, G, B, A. -/
def channelBits (f i : Nat) : Nat × Nat :=
  if fmtTen f then (if i = 3 then (31, 30) else (10 * i + 9, 10 * i)) else (8 * i + 7, 8 * i)

/-- The word with the channels a write mask leaves out taken from the old one (R307). -/
def maskChannels (f wmask old new : Nat) : Nat :=
  (numsFrom 0 4).foldl (fun a i =>
    let (hi, lo) := channelBits f i
    a + bitsN (if bitN wmask i then new else old) hi lo * 2 ^ lo) 0

/-- The mean of the samples of a pixel, computed in binary32 on linear values, as a pixel of another format (R297). -/
def resolvePixel (f g : Nat) (samples : List Nat) : Nat :=
  let cs := samples.map (pixelDecode f)
  let n := samples.length
  let inv := if n = 4 then 0x3E800000 else if n = 2 then 0x3F000000 else 0x3F800000
  let sum := fun i => match cs.map (fun c => nth c i) with
    | [] => 0
    | a :: t => t.foldl f32Add a
  pixelEncode g ((numsFrom 0 4).map (fun i => f32Mul (sum i) inv))

/-! ### UMZ blocks (R310-R312) -/

/-- Byte k of a word. -/
def byteOf (w k : Nat) : Nat := bitsN w (8 * k + 7) (8 * k)

/-- The least and the greatest byte of plane k. -/
def planeMin (ws : List Nat) (k : Nat) : Nat := ws.foldl (fun m w => if byteOf w k < m then byteOf w k else m) 255
def planeMax (ws : List Nat) (k : Nat) : Nat := ws.foldl (fun m w => if m < byteOf w k then byteOf w k else m) 0

/-- The residual width of plane k: the fewest bits that hold its largest residual. -/
def planeWidth (ws : List Nat) (k : Nat) : Nat := bitLen (planeMax ws k - planeMin ws k)

/-- SECTORS of a DELTA payload of n words with a total residual width. -/
def deltaSectors (n width : Nat) : Nat := (32 + n * width + 255) / 256

/-- The DELTA payload as one number: minima, then the residuals of planes 0 to 3, least significant bit first. -/
def deltaPayload (ws : List Nat) : Nat :=
  let minima := (numsFrom 0 4).foldl (fun a k => a + planeMin ws k * 2 ^ (8 * k)) 0
  let (v, _) := (numsFrom 0 4).foldl (fun (a : Nat × Nat) k =>
    let w := planeWidth ws k
    ws.foldl (fun (a : Nat × Nat) x => (a.1 + (byteOf x k - planeMin ws k) * 2 ^ a.2, a.2 + w)) a) (minima, 32)
  v

/-- Total residual width of a list of words. -/
def totalWidth (ws : List Nat) : Nat := planeWidth ws 0 + planeWidth ws 1 + planeWidth ws 2 + planeWidth ws 3

/-- The width fields of a DELTA header. -/
def widthFields (ws : List Nat) : Nat :=
  planeWidth ws 0 * 2 ^ 16 + planeWidth ws 1 * 2 ^ 20 + planeWidth ws 2 * 2 ^ 24 + planeWidth ws 3 * 2 ^ 28

/-- Encode 64 words: the header and the payload that is written (R312). -/
def umzEncode (clear : Nat) (ws : List Nat) : Nat × List Byte :=
  if ws.all (fun w => w = clear) then (0, [])
  else
    let sec := deltaSectors 64 (totalWidth ws)
    if sec ≤ 7 then (widthFields ws + sec * 4 + 2, leBytes (sec * 32) (deltaPayload ws))
    else (8 * 4 + 1, ws.flatMap (fun w => leBytes 4 w))

/-- The residuals of a plane from a payload number. -/
def residuals (v pos w : Nat) : Nat → List Nat
  | 0 => []
  | n + 1 => (v / 2 ^ pos) % 2 ^ w :: residuals v (pos + w) w n

/-- n words of a DELTA payload with the widths of a header. -/
def deltaDecode (h n : Nat) (v : Nat) : List Nat :=
  let w := fun k => bitsN h (19 + 4 * k) (16 + 4 * k)
  let pos := fun k => 32 + n * ((numsFrom 0 k).foldl (fun a i => a + w i) 0)
  let planes := (numsFrom 0 4).map (fun k => (residuals v (pos k) (w k) n).map (fun r => (bitsN v (8 * k + 7) (8 * k) + r) % 256))
  (numsFrom 0 n).map (fun i => (numsFrom 0 4).foldl (fun a k => a + nth ((planes[k]?).getD []) i * 2 ^ (8 * k)) 0)

/-- SECTORS of a header. -/
def umzSectors (h : Nat) : Nat := bitsN h 5 2

/-- The header is malformed (R312). -/
def umzMalformed (h : Nat) : Bool :=
  match h % 4 with
  | 0 => umzSectors h ≠ 0
  | 1 => umzSectors h ≠ 8
  | 2 =>
    let w := fun k => bitsN h (19 + 4 * k) (16 + 4 * k)
    8 < w 0 || 8 < w 1 || 8 < w 2 || 8 < w 3
      || umzSectors h ≠ deltaSectors 64 (w 0 + w 1 + w 2 + w 3)
      || 7 < umzSectors h
  | _ => true

/-- The 64 words of a block; a malformed one decodes as CLEAR_VALUE (R311, R312). -/
def umzDecode (clear h : Nat) (payload : List Byte) : List Nat :=
  if umzMalformed h || h % 4 = 0 then (numsFrom 0 64).map (fun _ => clear)
  else if h % 4 = 1 then wordsAt payload 0 64
  else deltaDecode h 64 (leNat payload)

/-- Payload bytes of a header that is not malformed. -/
def umzBytes (h : Nat) : Nat := if umzMalformed h then 0 else umzSectors h * 32

/-! ### Blocks of a target in memory -/

/-- Base of a sample plane. -/
def planeAddr (d : List Byte) (base s : Nat) : Nat := base + s * sfStride d

/-- UMZ header and data slot of a block. -/
def umzHeaderAddr (d : List Byte) (s bx by' : Nat) : Nat := planeAddr d (sfHeader d) s + (by' * sfPitch d + bx) * 4
def umzSlotAddr (d : List Byte) (s bx by' : Nat) : Nat := planeAddr d (sfBase d) s + (by' * sfPitch d + bx) * 256

/-- The linear address of a pixel. -/
def linearAddr (d : List Byte) (s x y : Nat) : Nat := planeAddr d (sfBase d) s + y * sfPitch d * 64 + 4 * x

/-- Reader of a byte run: what a unit's translated or untranslated reads give. -/
abbrev Reader := Nat → Nat → State → VRead × State

/-- Read the visible rows of a linear block; pixels beyond the surface read as CLEAR_VALUE. -/
def readRows (rd : Reader) (d : List Byte) (s bx by' : Nat) : List Nat → State → Except (Nat × VRead) (List Nat) × State
  | [], st => (.ok [], st)
  | row :: rest, st =>
    let y := by' * 8 + row
    let n := if sfWidth d < bx * 8 + 8 then sfWidth d - bx * 8 else 8
    if sfHeight d ≤ y then
      match readRows rd d s bx by' rest st with
      | (.ok l, st) => (.ok ((numsFrom 0 8).map (fun _ => sfClear d) ++ l), st)
      | e => e
    else
      let va := linearAddr d s (bx * 8) y
      match rd va (4 * n) st with
      | (.ok b, st) =>
        (match readRows rd d s bx by' rest st with
        | (.ok l, st) => (.ok ((numsFrom 0 8).map (fun i => if i < n then fieldAt b (4 * i) 4 else sfClear d) ++ l), st)
        | e => e)
      | (x, st) => (.error (va, x), st)

/-- Read and decode one 8 x 8 block of a sample plane: its words, and whether it was malformed. -/
def readBlock (rd : Reader) (d : List Byte) (s bx by' : Nat) (st : State) : Except (Nat × VRead) (List Nat × Bool) × State :=
  if fmtUmz (sfFormat d) then
    let ha := umzHeaderAddr d s bx by'
    match rd ha 4 st with
    | (.ok hb, st) =>
      let h := leNat hb
      if umzBytes h = 0 then (.ok (umzDecode (sfClear d) h [], umzMalformed h), st)
      else
        let va := umzSlotAddr d s bx by'
        (match rd va (umzBytes h) st with
        | (.ok p, st) => (.ok (umzDecode (sfClear d) h p, false), st)
        | (x, st) => (.error (va, x), st))
    | (x, st) => (.error (ha, x), st)
  else
    match readRows rd d s bx by' (numsFrom 0 8) st with
    | (.ok l, st) => (.ok (l, false), st)
    | (.error e, st) => (.error e, st)

/-- Writer of a byte run: the fault if there is one. -/
abbrev Writer := Nat → List Byte → State → Option (Nat × Nat) × State

/-- Run writes in order up to the first fault: its address, cause and level. -/
def writeAll (wr : Writer) : List (Nat × List Byte) → State → Option (Nat × Nat × Nat) × State
  | [], s => (none, s)
  | (va, bs) :: t, s =>
    match wr va bs s with
    | (none, s) => writeAll wr t s
    | (some (c, l), s) => (some (va, c, l), s)

/-- The writes that put a block's 64 words into a plane: UMZ data, then header (R310); linear rows inside the surface. -/
def blockWrites (d : List Byte) (s bx by' : Nat) (ws : List Nat) : List (Nat × List Byte) :=
  if fmtUmz (sfFormat d) then
    let (h, p) := umzEncode (sfClear d) ws
    (if p.isEmpty then [] else [(umzSlotAddr d s bx by', p)]) ++ [(umzHeaderAddr d s bx by', leBytes 4 h)]
  else
    let n := if sfWidth d < bx * 8 + 8 then sfWidth d - bx * 8 else 8
    (numsFrom 0 8).filterMap (fun row =>
      if sfHeight d ≤ by' * 8 + row then none
      else some (linearAddr d s (bx * 8) (by' * 8 + row), ((ws.drop (8 * row)).take n).flatMap (fun w => leBytes 4 w)))

end Sys2Proof.Machine
end

