-- ==== Sys2Proof/Machine/RasterGeom.lean ====
section
/-! DEFINITION. Rasterisation and texturing: the fields of pass headers and draw records, clipping, coverage, interpolation, the
depth and stencil operations, and texture fetches (R300-R309). -/

namespace Sys2Proof.Machine

open Sys2Proof

/-! ### Pass header (Table 14-1) and draw record (Table 14-4) -/

def phDiscard (h : List Byte) : Bool := bitN (fieldAt h 2 1) 7
def phLoad (h : List Byte) : Nat := bitsN (fieldAt h 2 1) 6 5
def phStencil (h : List Byte) : Bool := bitN (fieldAt h 2 1) 4
def phDepth (h : List Byte) : Bool := bitN (fieldAt h 2 1) 3
def phSlog (h : List Byte) : Nat := bitsN (fieldAt h 2 1) 2 1
def phImm (h : List Byte) : Bool := bitN (fieldAt h 2 1) 0
def phX0 (h : List Byte) : Nat := fieldAt h 4 2
def phY0 (h : List Byte) : Nat := fieldAt h 6 2
def phW (h : List Byte) : Nat := fieldAt h 8 2
def phH (h : List Byte) : Nat := fieldAt h 10 2
def phTarget (h : List Byte) : Nat := fieldAt h 16 6
def phDepthClear (h : List Byte) : Nat := fieldAt h 24 3
def phStencilClear (h : List Byte) : Nat := fieldAt h 27 1
def phSpillFirst (h : List Byte) : Nat := bitsN (fieldAt h 28 2) 8 0
def phSpillCount (h : List Byte) : Nat := fieldAt h 30 2
def phTileMask (h : List Byte) : Nat := fieldAt h 32 8
def phDraws (h : List Byte) : Nat := fieldAt h 40 2
def phResolve (h : List Byte) : Nat := fieldAt h 42 6
/-- Samples per pixel. -/
def phSamples (h : List Byte) : Nat := 2 ^ phSlog h

def drOp (d : List Byte) : Nat := fieldAt d 0 1
def drStrip (d : List Byte) : Bool := fieldAt d 1 1 = 1
def drDiscard (d : List Byte) : Bool := bitN (fieldAt d 2 1) 3
def drFrontCw (d : List Byte) : Bool := bitN (fieldAt d 2 1) 2
def drCullFront (d : List Byte) : Bool := bitN (fieldAt d 2 1) 1
def drCullBack (d : List Byte) : Bool := bitN (fieldAt d 2 1) 0
def drStencilFunc (d : List Byte) : Nat := bitsN (fieldAt d 3 1) 6 4
def drDepthWrite (d : List Byte) : Bool := bitN (fieldAt d 3 1) 3
def drDepthFunc (d : List Byte) : Nat := bitsN (fieldAt d 3 1) 2 0
def drRef (d : List Byte) : Nat := fieldAt d 4 1
def drMask (d : List Byte) : Nat := fieldAt d 5 1
def drFailOp (d : List Byte) : Nat := bitsN (fieldAt d 6 1) 5 3
def drPassOp (d : List Byte) : Nat := bitsN (fieldAt d 6 1) 2 0
def drWmask (d : List Byte) : Nat := bitsN (fieldAt d 7 1) 7 4
def drBlend (d : List Byte) : Nat := bitsN (fieldAt d 7 1) 3 0
def drVsCode (d : List Byte) : Nat := fieldAt d 8 6
def drVsVregs (d : List Byte) : Nat := fieldAt d 14 1
def drFsVregs (d : List Byte) : Nat := fieldAt d 15 1
def drFsCode (d : List Byte) : Nat := fieldAt d 16 6
def drVaryings (d : List Byte) : Nat := fieldAt d 22 1
def drFetches (d : List Byte) : Nat := fieldAt d 23 1
def drArg (d : List Byte) : Nat := fieldAt d 24 6
def drIndexAddr (d : List Byte) : Nat := fieldAt d 32 6
def drCount (d : List Byte) : Nat := fieldAt d 40 4
def drFirst (d : List Byte) : Nat := fieldAt d 44 4
/-- UV varying and flags of fetch k. -/
def drUv (d : List Byte) (k : Nat) : Nat := fieldAt d (48 + 4 * k) 1
def drFetchFlags (d : List Byte) (k : Nat) : Nat := fieldAt d (49 + 4 * k) 1

/-- A draw record breaks R303. -/
def drawBad (imm : Bool) (d : List Byte) : Bool :=
  let idx := if drOp d = 2 then 2 else if drOp d = 3 then 4 else 1
  !(1 ≤ drOp d && drOp d ≤ 3) || 1 < fieldAt d 1 1
    || drCount d = 0 || (!drStrip d && drCount d % 3 ≠ 0)
    || drVsCode d % 8 ≠ 0 || drFsCode d % 8 ≠ 0
    || drVsVregs d = 0 || 16 < drVsVregs d || drFsVregs d = 0 || 16 < drFsVregs d
    || 16 < drVaryings d || 4 < drFetches d || 4 < drBlend d || 5 < drFailOp d || 5 < drPassOp d
    || (numsFrom 0 (if drFetches d < 4 then drFetches d else 4)).any (fun k =>
        drVaryings d < drUv d k + 2 || bitsN (drFetchFlags d k) 2 1 = 3)
    || (2 ≤ drOp d && drIndexAddr d % idx ≠ 0)
    || (imm && (fieldAt d 3 1 % 128 ≠ 0 || drRef d ≠ 0 || drMask d ≠ 0 || fieldAt d 6 1 % 64 ≠ 0))

/-- Primitives of a draw. -/
def drPrims (d : List Byte) : Nat := if drStrip d then drCount d - 2 else drCount d / 3

/-- Vertex positions of primitive n, in order; a strip alternates its winding. -/
def primVerts (d : List Byte) (n : Nat) : List Nat :=
  if drStrip d then (if n % 2 = 0 then [n, n + 1, n + 2] else [n + 1, n, n + 2]) else [3 * n, 3 * n + 1, 3 * n + 2]

/-! ### Clipping and window coordinates (R305) -/

/-- A homogeneous vertex of scaled integers. -/
structure HV where
  x : Int
  y : Int
  z : Int
  w : Int
deriving DecidableEq, Repr

/-- The exact position of a shaded vertex, if finite. -/
def hvOf (v : RVert) : Option HV :=
  match dyad (nth v.pos 0), dyad (nth v.pos 1), dyad (nth v.pos 2), dyad (nth v.pos 3) with
  | some x, some y, some z, some w => some ⟨x, y, z, w⟩
  | _, _, _, _ => none

/-- The six clip planes: inside where the value is not negative. -/
def clipPlanes : List (HV → Int) :=
  [fun v => v.w + v.x, fun v => v.w - v.x, fun v => v.w + v.y, fun v => v.w - v.y, fun v => v.z, fun v => v.w - v.z]

/-- Where the edge from a (inside) to b (outside) meets a plane. -/
def clipEdge (a b : HV) (da db : Int) : HV :=
  ⟨da * b.x - db * a.x, da * b.y - db * a.y, da * b.z - db * a.z, da * b.w - db * a.w⟩

/-- Clip the edges of a polygon against one plane; prev is the vertex before the first. -/
def clipWalk (f : HV → Int) : HV → List HV → List HV
  | _, [] => []
  | p, v :: t =>
    let dp := f p
    let dv := f v
    let cut := if 0 ≤ dp && dv < 0 then [clipEdge p v dp dv] else if dp < 0 && 0 ≤ dv then [clipEdge v p dv dp] else []
    cut ++ (if 0 ≤ dv then [v] else []) ++ clipWalk f v t

/-- Clip a polygon against one plane. -/
def clipBy (f : HV → Int) (poly : List HV) : List HV :=
  match poly.getLast? with
  | none => []
  | some p => clipWalk f p poly

/-- A coordinate with 8 fractional bits: exact values are kept; to which neighbour another one goes is not stated. -/
def snap (n : Int) (d : Int) : Int :=
  let q := n / d
  if n % d = 0 then q else q + (Config.unstated "snap" [n.toNat, d.toNat] % 2 : Nat)

/-- Window coordinates of a clipped vertex in 1/256 pixels (R305). -/
def window (tw th : Nat) (v : HV) : Int × Int :=
  (snap ((v.x + v.w) * ((tw * 128 : Nat) : Int)) v.w, snap ((v.w - v.y) * ((th * 128 : Nat) : Int)) v.w)

/-- Twice the signed area of a polygon in window coordinates; positive is clockwise on the screen. -/
def area2 (p : List (Int × Int)) : Int :=
  match p with
  | [] => 0
  | a :: t => ((a :: t).zip (t ++ [a])).foldl (fun s e => s + (e.1.1 * e.2.2 - e.2.1 * e.1.2)) 0

/-- The clipped polygon of a primitive in window coordinates, clockwise; empty if nothing is left. -/
def primPoly (tw th : Nat) (p : Prim) : List (Int × Int) :=
  match (p.vs.map hvOf) with
  | [some a, some b, some c] =>
    let poly := (clipPlanes.foldl (fun l f => clipBy f l) [a, b, c]).filter (fun v => 0 < v.w)
    let w := poly.map (window tw th)
    let s := area2 w
    if s = 0 then [] else if 0 < s then w else w.reverse
  | _ => []

/-- The orientation of a primitive from its clip-space vertices: positive is counter-clockwise on the screen. -/
def primTurn (p : Prim) : Int :=
  match (p.vs.map hvOf) with
  | [some a, some b, some c] =>
    a.x * (b.y * c.w - c.y * b.w) - a.y * (b.x * c.w - c.x * b.w) + a.w * (b.x * c.y - c.x * b.y)
  | _ => 0

/-- The primitive is culled by its facing (Table 14-4), or has no area. -/
def primCulled (d : List Byte) (p : Prim) : Bool :=
  let t := primTurn p
  let front := if drFrontCw d then t < 0 else 0 < t
  t = 0 || (front && drCullFront d) || (!front && drCullBack d)

/-! ### Coverage (R305) -/

/-- Sample positions in 1/256 pixels. -/
def samplePos (samples s : Nat) : Int × Int :=
  match samples, s with
  | 2, 0 => (192, 192)
  | 2, _ => (64, 64)
  | 4, 0 => (96, 32)
  | 4, 1 => (224, 96)
  | 4, 2 => (32, 160)
  | 4, _ => (160, 224)
  | _, _ => (128, 128)

/-- A point lies in a clockwise polygon under the top-left rule. -/
def inPoly (poly : List (Int × Int)) (px py : Int) : Bool :=
  match poly with
  | [] => false
  | a :: t =>
    ((a :: t).zip (t ++ [a])).all (fun e =>
      let dx := e.2.1 - e.1.1
      let dy := e.2.2 - e.1.2
      let v := dx * (py - e.1.2) - dy * (px - e.1.1)
      0 < v || (v = 0 && ((dy = 0 && 0 < dx) || dy < 0)))

/-- The covered samples of a pixel inside the render area, as a mask. -/
def coverMask (h : List Byte) (poly : List (Int × Int)) (x y : Nat) : Nat :=
  if x < phX0 h || phX0 h + phW h ≤ x || y < phY0 h || phY0 h + phH h ≤ y then 0
  else
    (numsFrom 0 (phSamples h)).foldl (fun a s =>
      let (sx, sy) := samplePos (phSamples h) s
      a + bitVal (inPoly poly ((x : Int) * 256 + sx) ((y : Int) * 256 + sy)) s) 0

/-- The covered quads of a primitive in a rectangle of pixels (even origin), rows first. -/
def quadsIn (h : List Byte) (tw th : Nat) (p : Prim) (x0 y0 w ht : Nat) : List Quad :=
  let poly := primPoly tw th p
  if poly.isEmpty then []
  else
    (numsFrom 0 ((ht + 1) / 2)).flatMap (fun j => (numsFrom 0 ((w + 1) / 2)).filterMap (fun i =>
      let x := x0 + 2 * i
      let y := y0 + 2 * j
      let cover := [coverMask h poly x y, coverMask h poly (x + 1) y, coverMask h poly x (y + 1), coverMask h poly (x + 1) (y + 1)]
      if cover.all (fun m => m = 0) then none else some { prim := p, x := x, y := y, cover := cover }))

/-- Tiles that meet the render area, rows ascending, columns ascending (R297). -/
def areaTiles (h : List Byte) : List (Nat × Nat) :=
  let tx0 := phX0 h / 32
  let ty0 := phY0 h / 32
  let nx := (phX0 h + phW h - 1) / 32 + 1 - tx0
  let ny := (phY0 h + phH h - 1) / 32 + 1 - ty0
  (numsFrom ty0 ny).flatMap (fun y => (numsFrom tx0 nx).map (fun x => (x, y)))

/-- Tiles of the area that a primitive may cover: those its bounding box meets. -/
def primTiles (h : List Byte) (tw th : Nat) (p : Prim) : List (Nat × Nat) :=
  let poly := primPoly tw th p
  match poly with
  | [] => []
  | a :: t =>
    let lox := t.foldl (fun m e => if e.1 < m then e.1 else m) a.1
    let hix := t.foldl (fun m e => if m < e.1 then e.1 else m) a.1
    let loy := t.foldl (fun m e => if e.2 < m then e.2 else m) a.2
    let hiy := t.foldl (fun m e => if m < e.2 then e.2 else m) a.2
    (areaTiles h).filter (fun tile =>
      let x := ((tile.1 * 8192 : Nat) : Int)
      let y := ((tile.2 * 8192 : Nat) : Int)
      lox < x + 8192 && x ≤ hix && loy < y + 8192 && y ≤ hiy)

/-! ### Interpolation (R305, R306) -/

/-- Weights of the three vertices at a window point given in 1/256 pixels: perspective-correct, not yet divided by their sum. -/
def weights (tw th : Nat) (p : Prim) (px py : Int) : Option (Int × Int × Int × HV × HV × HV) :=
  match (p.vs.map hvOf) with
  | [some a, some b, some c] =>
    let wx : Int := ((tw * 256 : Nat) : Int)
    let wy : Int := ((th * 256 : Nat) : Int)
    let u := fun (v : HV) => v.x * wx - (2 * px - wx) * v.w
    let t := fun (v : HV) => v.y * wy - (wy - 2 * py) * v.w
    some (u b * t c - u c * t b, u c * t a - u a * t c, u a * t b - u b * t a, a, b, c)
  | _ => none

/-- A varying at a pixel centre, in binary32. -/
def varyingAt (tw th : Nat) (p : Prim) (x y i : Nat) : Nat :=
  let vals := p.vs.map (fun v => nth v.vars i)
  match weights tw th p ((x : Int) * 256 + 128) ((y : Int) * 256 + 128), vals.map dyad with
  | some (l0, l1, l2, _, _, _), [some a, some b, some c] =>
    let s := l0 + l1 + l2
    if s = 0 then Config.unstated "varying" (x :: y :: vals) % 2 ^ 32
    else
      let f := fracOf (l0 * a + l1 * b + l2 * c) s
      fracBits (f.1, f.2 * 2 ^ 149)
  | _, _ => Config.unstated "varying" (x :: y :: vals) % 2 ^ 32

/-- z/w at a window point. -/
def depthFrac (tw th : Nat) (p : Prim) (px py : Int) : Frac :=
  match weights tw th p px py with
  | some (l0, l1, l2, a, b, c) =>
    let n := l0 * a.z + l1 * b.z + l2 * c.z
    let d := l0 * a.w + l1 * b.w + l2 * c.w
    if d = 0 then (0, 1) else fracOf n d
  | none => (0, 1)

/-- Depth as 24-bit unsigned normalised, rounded to nearest (R305). -/
def depth24 (f : Frac) : Nat :=
  let m := 2 ^ 24 - 1
  if f.1 ≤ 0 then 0
  else if (f.2 : Int) ≤ f.1 then m
  else (2 * f.1.toNat * m + f.2) / (2 * f.2)

/-! ### Depth and stencil (R306, Table 14-4) -/

/-- Comparison codes 0-7: a the new value, b the stored one. -/
def cmpFunc (f a b : Nat) : Bool :=
  match f with
  | 0 => false
  | 1 => a < b
  | 2 => a = b
  | 3 => a ≤ b
  | 4 => b < a
  | 5 => a ≠ b
  | 6 => b ≤ a
  | _ => true

/-- Stencil operations. -/
def stencilOp (op ref v : Nat) : Nat :=
  match op with
  | 0 => v
  | 1 => 0
  | 2 => ref
  | 3 => satN 255 (v + 1)
  | 4 => v - 1
  | _ => 255 - v

/-- Test one sample of depth-stencil word w: whether it passes, and the word it leaves (R306). -/
def sampleTest (h d : List Byte) (depth w : Nat) : Bool × Nat :=
  let st := bitsN w 31 24
  let z := w % 2 ^ 24
  let sOk := !phStencil h || cmpFunc (drStencilFunc d) (Nat.land st (drMask d)) (Nat.land (drRef d) (drMask d))
  let zOk := !phDepth h || cmpFunc (drDepthFunc d) depth z
  let st' := if !phStencil h then st else if !sOk then stencilOp (drFailOp d) (drRef d) st
    else if zOk then stencilOp (drPassOp d) (drRef d) st else st
  let z' := if sOk && zOk && phDepth h && drDepthWrite d then depth else z
  (sOk && zOk, st' * 2 ^ 24 + z')

/-! ### Textures (R308, R309) -/

/-- Block width, height and bytes of a block-compressed format (Table 14-3). -/
def texBlockDim (f : Nat) : Nat × Nat × Nat :=
  if f < 0x40 then (4, 4, if f = 0x24 || f = 0x25 || f = 0x28 || f = 0x29 then 16 else 8)
  else
    let dims : List (Nat × Nat) := [(4, 4), (5, 4), (5, 5), (6, 5), (6, 6), (8, 5), (8, 6), (8, 8), (10, 5), (10, 6), (10, 8), (10, 10),
      (12, 10), (12, 12)]
    let d := (dims[f % 16]?).getD (4, 4)
    (d.1, d.2, 16)

/-- A texture format of Table 14-3. -/
def fmtTexture (f : Nat) : Bool :=
  fmtTarget f || (0x20 ≤ f && f ≤ 0x29) || (0x40 ≤ f && f ≤ 0x4D) || (0x50 ≤ f && f ≤ 0x5D)

/-- Size of a mip level. -/
def levelDim (n l : Nat) : Nat := if n / 2 ^ l = 0 then 1 else n / 2 ^ l

/-- Bytes of a level of a block-compressed texture, rounded up to 256 (R302). -/
def levelBytes (d : List Byte) (l : Nat) : Nat :=
  let (bw, bh, n) := texBlockDim (sfFormat d)
  let x := (levelDim (sfWidth d) l + bw - 1) / bw
  let y := (levelDim (sfHeight d) l + bh - 1) / bh
  (x * y * n + 255) / 256 * 256

/-- Address and length of the data that holds texel (x, y) of a level, for the formats whose blocks stand in one run. -/
def texelRun (d : List Byte) (l x y : Nat) : Nat × Nat :=
  if fmtTarget (sfFormat d) then (linearAddr d 0 x y, 4)
  else
    let (bw, bh, n) := texBlockDim (sfFormat d)
    let row := (levelDim (sfWidth d) l + bw - 1) / bw
    (sfBase d + (numsFrom 0 l).foldl (fun a k => a + levelBytes d k) 0 + ((y / bh) * row + x / bw) * n, n)

/-- The RGBA channels of texel (x, y) from its block's bytes, for the block-compressed formats (R308). -/
def texelOf (d : List Byte) (x y : Nat) (bs : List Byte) : List Nat :=
  let f := sfFormat d
  let (bw, bh, _) := texBlockDim f
  let v := Config.texBlock f bs (x % bw) (y % bh)
  let c := fun i => (v / 2 ^ (32 * i)) % 2 ^ 32
  if f = 0x26 || f = 0x27 then [c 0, 0, 0, 0x3F800000]
  else if f = 0x28 || f = 0x29 then [c 0, c 1, 0, 0x3F800000]
  else [c 0, c 1, c 2, c 3]

/-- Read texel (x, y) of a level. -/
def readTexel (rd : Reader) (d : List Byte) (l x y : Nat) (s : State) : Except (Nat × VRead) (List Nat) × State :=
  if fmtUmz (sfFormat d) then
    match readBlock rd d 0 (x / 8) (y / 8) s with
    | (.ok (ws, _), s) => (.ok (pixelDecode (sfFormat d) (nth ws (y % 8 * 8 + x % 8))), s)
    | (.error e, s) => (.error e, s)
  else
    let (va, n) := texelRun d l x y
    match rd va n s with
    | (.ok bs, s) => (.ok (if fmtTarget (sfFormat d) then pixelDecode (sfFormat d) (leNat bs) else texelOf d x y bs), s)
    | (r, s) => (.error (va, r), s)

/-- A texel index under WRAP: 0 clamp, 1 repeat, 2 mirror. -/
def wrapIndex (mode n : Nat) (i : Int) : Nat :=
  match mode with
  | 1 => (i % (n : Int)).toNat
  | 2 =>
    let m := (i % ((2 * n : Nat) : Int)).toNat
    if m < n then m else 2 * n - 1 - m
  | _ => if i < 0 then 0 else if (n : Int) ≤ i then n - 1 else i.toNat

/-- The mip level for a quad's (s, t): round(log2 of the largest texel-space difference), within 0 to LEVELS (R308). -/
def mipLevel (d : List Byte) (uv : List (Frac × Frac)) : Nat :=
  let diffs := uv.flatMap (fun a => uv.flatMap (fun b =>
    [ ((a.1.1 * (b.1.2 : Int) - b.1.1 * (a.1.2 : Int)).natAbs * sfWidth d, a.1.2 * b.1.2)
    , ((a.2.1 * (b.2.2 : Int) - b.2.1 * (a.2.2 : Int)).natAbs * sfHeight d, a.2.2 * b.2.2) ]))
  -- level l or more is reached when the difference is at least 2^(l - 1/2)
  ((numsFrom 1 (sfLevels d)).filter (fun l => diffs.any (fun r => 4 ^ l * (r.2 * r.2) ≤ 2 * (r.1 * r.1)))).length

/-- Weighted sum of four texels per channel in binary32; filtering may be off by 1 unit of the 8-bit decode (R308). -/
def bilinear (t00 t10 t01 t11 : List Nat) (fx fy : Frac) : List Nat :=
  (numsFrom 0 4).map (fun i =>
    match dyad (nth t00 i), dyad (nth t10 i), dyad (nth t01 i), dyad (nth t11 i) with
    | some a, some b, some c, some e =>
      let x : Int := fx.1
      let xd : Int := (fx.2 : Int)
      let y : Int := fy.1
      let yd : Int := (fy.2 : Int)
      let n := (a * (xd - x) + b * x) * (yd - y) + (c * (xd - x) + e * x) * y
      let den := fx.2 * fy.2 * 2 ^ 149
      let j := ((Config.unstated "filter" [i, n.toNat, den] % 2001 : Nat) : Int) - 1000
      fracBits (n * 255000 + j * (den : Int), den * 255000)
    | _, _, _, _ => Config.unstated "filter" [i] % 2 ^ 32)

/-- One fetch for one lane: the filtered RGBA at (s, t) of a level. -/
def fetchAt (rd : Reader) (d : List Byte) (flags l : Nat) (uv : Frac × Frac) (s : State) :
    Except (Nat × VRead) (List Nat) × State :=
  let w := levelDim (sfWidth d) l
  let h := levelDim (sfHeight d) l
  let mode := bitsN flags 2 1
  -- twice the texel coordinate plus one half, so that both filters take whole numbers
  let cx := uv.1.1 * (w : Int)
  let cy := uv.2.1 * (h : Int)
  if bitN flags 0 then
    let nx := 2 * cx - (uv.1.2 : Int)
    let ny := 2 * cy - (uv.2.2 : Int)
    let ix := nx / (2 * (uv.1.2 : Int))
    let iy := ny / (2 * (uv.2.2 : Int))
    let fx : Frac := (nx % (2 * (uv.1.2 : Int)), 2 * uv.1.2)
    let fy : Frac := (ny % (2 * (uv.2.2 : Int)), 2 * uv.2.2)
    let at' := fun (x y : Int) (s : State) => readTexel rd d l (wrapIndex mode w x) (wrapIndex mode h y) s
    match at' ix iy s with
    | (.error e, s) => (.error e, s)
    | (.ok a, s) =>
      match at' (ix + 1) iy s with
      | (.error e, s) => (.error e, s)
      | (.ok b, s) =>
        match at' ix (iy + 1) s with
        | (.error e, s) => (.error e, s)
        | (.ok c, s) =>
          match at' (ix + 1) (iy + 1) s with
          | (.error e, s) => (.error e, s)
          | (.ok f, s) => (.ok (bilinear a b c f fx fy), s)
  else
    readTexel rd d l (wrapIndex mode w (cx / (uv.1.2 : Int))) (wrapIndex mode h (cy / (uv.2.2 : Int))) s

end Sys2Proof.Machine
end

