-- ==== Sys2Proof/Machine/Raster.lean ====
section
/-! DEFINITION. Render passes: the checks, vertex and fragment plies, binning, tiles, partial renders, immediate passes, the SPILL
reserve and the ends of a pass (chapter 14). -/

namespace Sys2Proof.Machine

open Sys2Proof

/-! ### The pass and its registers -/

/-- The pass that holds the front end (R148). -/
def activePass (s : State) : Option Pass := s.ras.passes.find? (fun p => !p.suspended)

/-- The pass that holds the front end, while its context's work runs (R152). -/
def runningPass (s : State) : Option Pass := (activePass s).filter (fun p => ctxRuns s p.ctx)

/-- RAS_STAT (Table 14-6). -/
def syncRas (s : State) : State :=
  let r := C 0x40000
  match activePass s with
  | some p => s.setFlds [(⟨r, 31, 31⟩, 1), (⟨r, 30, 28⟩, p.phase), (⟨r, 27, 24⟩, p.ctx), (⟨r, 9, 0⟩, 512 - p.pages)]
  | none => s.setFlds [(⟨r, 31, 31⟩, 0), (⟨r, 30, 28⟩, 0), (⟨r, 27, 24⟩, 0), (⟨r, 9, 0⟩, 512)]

/-- Replace a pass. -/
def putPass (p : Pass) (s : State) : State :=
  syncRas { s with ras := { s.ras with passes := s.ras.passes.map (fun q => if q.ctx = p.ctx && q.index = p.index then p else q) } }

/-- Replace a tile buffer of a pass. -/
def Pass.putBuf (p : Pass) (b : TileBuf) : Pass :=
  { p with bufs := p.bufs.map (fun x => if x.sp = b.sp && x.slot = b.slot then b else x) }

/-- A raster counter (Table 14-6). -/
def rasCount (i n : Nat) (s : State) : State := bump (s.flag ⟨C 0x40004, 0, 0⟩) (0x40100 + 8 * i) n s

/-- Draw n of a pass. -/
def Pass.drawOf (p : Pass) (n : Nat) : List Byte := (p.draws[n]?).getD []

/-- The front end's reads and a backend's reads and writes. -/
def rdFront (c : Nat) : Reader := fun va n s => vread .raster c va n .read false s
def rdTile (sp c : Nat) : Reader := fun va n s => vread (.spindle (Fin.ofNat 64 sp)) c va n .read false s
def wrTile (sp c : Nat) : Writer := fun va bs s => vwrite (.spindle (Fin.ofNat 64 sp)) c va bs .write s

/-- Read a run that may cross pages, in pieces of at most 64 bytes. -/
def readLong (rd : Reader) : Nat → Nat → Nat → State → Except (Nat × VRead) (List Byte) × State
  | 0, _, _, s => (.ok [], s)
  | f + 1, va, n, s =>
    if n = 0 then (.ok [], s)
    else
      let k := if n < 64 - va % 64 then n else 64 - va % 64
      match rd va k s with
      | (.ok b, s) =>
        (match readLong rd f (va + k) (n - k) s with
        | (.ok t, s) => (.ok (b ++ t), s)
        | e => e)
      | (x, s) => (.error (va, x), s)

/-! ### Ends of a pass -/

/-- Remove plies that p picks, wherever their context's state stands: they are gone at once. -/
def dropPlies (p : Ply → Bool) (s : State) : State :=
  let gone := s.fly.plies.filter (fun e => p e.2)
  let s := gone.foldl (fun s e => dropAllot e.2.uid (fun _ => true) s) s
  let s := { s with fly := { s.fly with plies := s.fly.plies.filter (fun e => !p e.2) } }
  let s := (gone.map (fun e => flyOf e.1)).dedup.foldl (fun s f => syncFly f s) s
  let s := (gone.map (fun e => e.2.owner.ctx)).dedup.foldl (fun s c => syncResident c s) s
  syncDbg s

/-- Blocks of a tile that meet the area. -/
def tileBlocks (h : List Byte) (tx ty : Nat) : List (Nat × Nat) :=
  (numsFrom (ty * 4) 4).flatMap (fun y => (numsFrom (tx * 4) 4).filterMap (fun x =>
    if x * 8 < phX0 h + phW h && phX0 h < x * 8 + 8 && y * 8 < phY0 h + phH h && phY0 h < y * 8 + 8 then some (x, y) else none))

/-- A pixel lies in the render area. -/
def inArea (h : List Byte) (x y : Nat) : Bool := phX0 h ≤ x && x < phX0 h + phW h && phY0 h ≤ y && y < phY0 h + phH h

/-- The words of a block of one plane after the tile's pixels are put in: old pixels outside the area stay; what lies beyond the
surface is not stated (R297, R310). -/
def composeBlock (h d : List Byte) (bx by' : Nat) (old : List Nat) (v : Nat → Nat → Nat) : List Nat :=
  (numsFrom 0 64).map (fun i =>
    let x := bx * 8 + i % 8
    let y := by' * 8 + i / 8
    if inArea h x y then v x y
    else if x < sfWidth d && y < sfHeight d then nth old i
    else Config.unstated "beyond the surface" [bx, by', i] % 2 ^ 32)

/-- Some pixel of a block inside the surface is outside the area, so the block is read before it is written. -/
def needsOld (h d : List Byte) (bx by' : Nat) : Bool :=
  (numsFrom 0 64).any (fun i =>
    let x := bx * 8 + i % 8
    let y := by' * 8 + i / 8
    x < sfWidth d && y < sfHeight d && !inArea h x y)

/-- Tiles of a pass that have been stored for good: those of its final render that are neither waiting nor in a buffer. -/
def Pass.stored (p : Pass) : List (Nat × Nat) :=
  if p.phase ≠ 2 then []
  else (areaTiles p.hdr).filter (fun t =>
    !p.tiles.contains t && !p.bufs.any (fun b => (b.tx, b.ty) = t) && !p.parked.any (fun b => (b.tx, b.ty) = t))

/-- The area's pixels in one block of a surface plane become free values, named by base; where the memory cannot be reached nothing
changes. -/
def undefBlock (h d : List Byte) (c base bx by' sm : Nat) (s : State) : State :=
  let old := match (readBlock (fun va n s => vread .raster c va n .read false s) d sm bx by' s).1 with
    | .ok (o, _) => some o
    | .error _ => if needsOld h d bx by' then none else some []
  match old with
  | none => s
  | some old =>
    let ws := composeBlock h d bx by' old (fun x y => Config.unstated "area content" [base, sm, x, y] % 2 ^ 32)
    (blockWrites d sm bx by' ws).foldl (fun s w =>
      match (translate .raster c w.1 .write true s).1 with
      | .ok pa un => memPut un pa w.2 s
      | .fault _ _ => s) s

/-- A pass was cut short: the area of its surfaces holds undefined content, but for the tiles that keep their content (R318, R319). -/
def undefArea (p : Pass) (keep : List (Nat × Nat)) (s : State) : State :=
  let base := s.free
  let blocks := ((areaTiles p.hdr).filter (fun t => !keep.contains t)).flatMap (fun t => tileBlocks p.hdr t.1 t.2)
  let one := fun (d : List Byte) (k n : Nat) (s : State) =>
    blocks.foldl (fun s e => (numsFrom 0 n).foldl (fun s sm => undefBlock p.hdr d p.ctx (base + k) e.1 e.2 sm s) s) s
  let s := one p.target 0 (phSamples p.hdr) { s with free := base + 2 }
  match p.resolve with
  | some r => one r 1 1 s
  | none => s

/-- Plies of a pass. -/
def plyOfPass (c i : Nat) (y : Ply) : Bool := y.owner.source = 1 && y.owner.ctx = c && y.owner.packet = i

/-- A pass ends with a completion status (Table 7-7); its bin pages, buffers and leas are free (R315, R318). Tiles already stored
stand where an abort or an error ends it, and none where a function reset or a stop does. -/
def passEnd (p : Pass) (status : Nat) (s : State) : State :=
  let s := if status = 0 then s
    else undefArea p (if status = 1 || status = 6 then p.stored else []) (dropPlies (plyOfPass p.ctx p.index) s)
  let s := { s with ras := { s.ras with passes := s.ras.passes.filter (fun q => !(q.ctx = p.ctx && q.index = p.index)) } }
  onPacket p.ctx p.index (fun k => { k with ended := true }) (packetStatus p.ctx p.index status (syncRas s))

/-- An uncorrectable error ends the pass (R319). -/
def passUe (p : Pass) (s : State) : State := passEnd p 6 (raiseInt iErrUncorr (logEvent 2 0x13E p.ctx 0 0 s))

/-- An access of the pass failed: uncorrectable data ends it; a fault makes it wait, or ends it (R135, R318). source: 2 tile
backend, 3 front end. -/
def passFault (p : Pass) (source sp : Nat) (a : Access) (e : Nat × VRead) (s : State) : State :=
  match e.2 with
  | .fault cause lv =>
    let (waits, s) := raiseFault p.ctx e.1 cause lv a source (if source = 2 then sp * 1024 else 0)
      (if source = 2 then .tile sp else .frontEnd) s
    if waits then s else passEnd p 1 s
  | _ => passUe p s

/-- A write fault as the same thing. -/
def asFault (f : Nat × Nat × Nat) : Nat × VRead := (f.1, .fault f.2.1 f.2.2)

/-- A malformed block is counted; its pass logs one event (R319). -/
def noteMalformed (p : Pass) (s : State) : Pass × State :=
  let s := rasCount 10 1 s
  ({ p with malformed := p.malformed + 1 }, if p.malformed = 0 then logEvent 5 0x122 p.ctx 0 1 s else s)

/-! ### Starting (R301, R313) -/

/-- SPILL leas Q of a pass (R313). -/
def spillNeed (h : List Byte) : Nat :=
  if phDepth h || phStencil h then (phW h * phH h * phSamples h * 4 + 65535) / 65536 else 0

/-- Spill units of a pass: target-aligned 8 x 8 blocks that meet the area. -/
def spillUnits (h : List Byte) : Nat :=
  ((phX0 h + phW h + 7) / 8 - phX0 h / 8) * ((phY0 h + phH h + 7) / 8 - phY0 h / 8)

/-- Active SPILL leas from a number on, ascending. -/
def spillLeas (s : State) (first : Nat) : List Nat :=
  (numsFrom 0 512).filter (fun l => first ≤ l && roleOf s l = 2)

/-- The check of R301 on what was read. -/
def passBad (p : Packet) (h : List Byte) (draws : List (List Byte)) (t : List Byte) (r : Option (List Byte)) : Bool :=
  fieldAt h 0 2 ≠ 1 || pktNat p 24 4 ≠ 64 + 64 * phDraws h || phLoad h = 3 || phSlog h = 3 || phDraws h = 0
    || phW h = 0 || phH h = 0
    || (phImm h && (phDepth h || phStencil h || phSlog h ≠ 0))
    || sfWidth t < phX0 h + phW h || sfHeight t < phY0 h + phH h
    || 131072 < spillUnits h
    || !fmtTarget (sfFormat t) || sfSlog t ≠ phSlog h
    || (match r with
        | some r => !fmtTarget (sfFormat r) || sfSlog r ≠ 0 || sfWidth r ≠ sfWidth t || sfHeight r ≠ sfHeight t
        | none => false)
    || draws.any (drawBad (phImm h))

/-- How the start of a RENDER_PASS ends. -/
inductive PassStart
  /-- It runs. -/
  | started (s : State)
  /-- It waits for the front end, or on a fault. -/
  | waits (s : State)
  /-- It ended without running, with a status. -/
  | over (status : Nat) (s : State)
  /-- An unlisted field: the ring halts. -/
  | bad (s : State)

/-- Cut a byte list into 64-byte records. -/
def records : Nat → List Byte → List (List Byte)
  | 0, _ => []
  | n + 1, b => b.take 64 :: records n (b.drop 64)

/-- Read header, draws and surface descriptors, in that order. -/
def readPass (c addr : Nat) (s : State) :
    Except (Nat × VRead) (List Byte × List (List Byte) × List Byte × Option (List Byte)) × State :=
  match readLong (rdFront c) 3 addr 64 s with
  | (.error e, s) => (.error e, s)
  | (.ok h, s) =>
    match readLong (rdFront c) (phDraws h + 2) (addr + 64) (64 * phDraws h) s with
    | (.error e, s) => (.error e, s)
    | (.ok ds, s) =>
      match readLong (rdFront c) 3 (phTarget h) 32 s with
      | (.error e, s) => (.error e, s)
      | (.ok t, s) =>
        if phResolve h = 0 then (.ok (h, records (phDraws h) ds, t, none), s)
        else
          match readLong (rdFront c) 3 (phResolve h) 32 s with
          | (.error e, s) => (.error e, s)
          | (.ok r, s) => (.ok (h, records (phDraws h) ds, t, some r), s)

/-- The front end waits on a fault of a pass that has not started (R135). -/
def frontWaits (s : State) (c : Nat) : Bool :=
  s.mmu.recs.any (fun e => e.2.inUse && e.2.ctx = c && e.2.waiters.contains .frontEnd)
    || s.mmu.held.any (fun r => r.ctx = c && r.waiters.contains .frontEnd)

/-- A RENDER_PASS packet takes the front end if it is free, is checked, and starts (R148, R301, R313, R315). -/
def passStart (c : Nat) (p : Packet) (s : State) : PassStart :=
  if (activePass s).isSome then .waits s
  else
    match readPass c (pktNat p 16 6) s with
    | (.error e, s) =>
      (match e.2 with
      | .fault cause lv =>
        let (waits, s) := raiseFault c e.1 cause lv .read 3 0 .frontEnd s
        if waits then .waits s else .over 1 s
      | _ => .over 6 (raiseInt iErrUncorr (logEvent 2 0x13E c 0 e.1 s)))
    | (.ok (h, ds, t, r), s) =>
      if passBad p h ds t r then .bad s
      else
        let q := spillNeed h
        let found := spillLeas s (phSpillFirst h)
        let reserve := found.take q
        if phSpillCount h < q || found.length < q then
          .over 4 (logEvent 4 0x121 c 0 (q % 1024 + satN 1023 found.length * 2 ^ 16) s)
        else if s.ras.passes.any (fun x => x.reserve.any (fun l => reserve.contains l)) then .waits s
        else
          let pass : Pass :=
            { ctx := c, index := p.index, hdr := h, draws := ds, target := t, resolve := r, reserve := reserve
              phase := if phImm h then 5 else 1, vDraw := 0, vNext := 0, verts := [], pDraw := 0, pNext := 0, bins := []
              pages := 0, tiles := [], lastTile := none, lastVert := none, bufs := [], parked := [], flushed := []
              compressed := [], blocks := [], suspended := false, malformed := 0, nextFrag := 0 }
          .started (syncRas { s with ras := { s.ras with passes := s.ras.passes ++ [pass] } })

/-! ### Vertex plies (R304) -/

/-- Spindles of TILE_MASK, ascending; a zero mask names all. -/
def maskSpindles (m : Nat) : List Nat := (numsFrom 0 64).filter (fun n => m = 0 || bitN m n)

/-- A list of spindles in round-robin order, starting after the last one. -/
def afterLast (l : List Nat) (last : Option Nat) : List Nat :=
  match last with
  | none => l
  | some n => l.filter (fun x => n < x) ++ l.filter (fun x => x ≤ n)

/-- Vertex indices of positions from a on: from the index buffer of an indexed draw, else FIRST + position (R304). -/
def vertexIndices (c : Nat) (d : List Byte) : Nat → Nat → State → Except (Nat × VRead) (List Nat) × State
  | _, 0, s => (.ok [], s)
  | a, n + 1, s =>
    let k := drFirst d + a
    if drOp d = 1 then
      match vertexIndices c d (a + 1) n s with
      | (.ok l, s) => (.ok (k % 2 ^ 32 :: l), s)
      | e => e
    else
      let sz := if drOp d = 2 then 2 else 4
      match rdFront c (drIndexAddr d + sz * k) sz s with
      | (.ok b, s) =>
        (match vertexIndices c d (a + 1) n s with
        | (.ok l, s) => (.ok (leNat b :: l), s)
        | e => e)
      | (x, s) => (.error (drIndexAddr d + sz * k, x), s)

/-- The scalar registers of a raster ply: s4-s7 as R304 gives; what s0-s3 hold for a ply with no group is not stated. -/
def rasterScalars (c draw : Nat) (d : List Byte) (y : Ply) : Ply :=
  ([(0, Config.unstated "s0" [y.uid]), (1, Config.unstated "s1" [y.uid]), (2, Config.unstated "s2" [y.uid]),
    (3, Config.unstated "s3" [y.uid]), (4, drArg d % 2 ^ 32), (5, drArg d / 2 ^ 32), (6, draw), (7, c)]).foldl
    (fun (y : Ply) (e : Nat × Nat) => y.sset e.1 e.2) y

/-- The vertex ply of n positions from a on with their indices. -/
def vertexPly (p : Pass) (d : List Byte) (a : Nat) (idx : List Nat) (uid : Nat) : Ply :=
  let n := idx.length
  let y := Ply.fresh { ctx := p.ctx, source := 1, packet := p.index, group := uid } uid (8 * drVsVregs d) false (drVsCode d)
    (BitVec.ofNat 32 (2 ^ n - 1))
  let y := rasterScalars p.ctx p.vDraw d { y with present := BitVec.allOnes 32, shadeKind := 1, shadeDraw := p.vDraw
                                                  shade := (numsFrom 0 n).map (fun l => (l, a + l)) }
  ((numsFrom 0 n).zip idx).foldl (fun (y : Ply) (e : Nat × Nat) =>
    (((y.vset 0 e.1 e.2).vset 1 e.1 (Config.unstated "v1" [uid, e.1])).vset 2 e.1 (Config.unstated "v2" [uid, e.1])).vset 3 e.1
      (Config.unstated "v3" [uid, e.1])) y

/-- Place the next vertex ply of the pass, if vertices are left and a spindle of TILE_MASK can take it (R304, R161, R151). -/
def placeVertices (p : Pass) (s : State) : State :=
  let d := p.drawOf p.vDraw
  if p.draws.length ≤ p.vDraw then s
  else
    let left := drCount d - p.vNext
    let n := if left < 32 then left else 32
    let fits := fun sp => (bestFlyer s sp (drVsVregs d) false).isSome
    match (afterLast (maskSpindles (phTileMask p.hdr)) p.lastVert).find? fits with
    | none => s
    | some sp =>
      if !withinBudget s p.ctx (1024 + 8 * drVsVregs d * 128) then s
      else
        match vertexIndices p.ctx d p.vNext n s with
        | (.error e, s) => passFault p 3 0 .read e s
        | (.ok idx, s) =>
          match admitPly sp (vertexPly p d p.vNext idx) s with
          | none => s
          | some s =>
            let fin : Bool := left ≤ 32
            putPass { p with lastVert := some sp, vDraw := if fin then p.vDraw + 1 else p.vDraw
                             vNext := if fin then 0 else p.vNext + n } s

/-! ### Tiles: loading, storing, spilling (R297, R298, R310, R314) -/

/-- The place of a sample in a tile buffer. -/
def sampleKey (n x y s : Nat) : Nat := ((y % 32) * 32 + x % 32) * n + s

/-- Pixels of a block in the area, with their number in the block. -/
def blockPixels (h : List Byte) (bx by' : Nat) : List (Nat × Nat × Nat) :=
  (numsFrom 0 64).filterMap (fun i =>
    let x := bx * 8 + i % 8
    let y := by' * 8 + i / 8
    if inArea h x y then some (i, x, y) else none)

/-- Read every block and sample plane of a tile's colour from the target. -/
def loadColour (p : Pass) (rd : Reader) (n : Nat) : List (Nat × Nat × Nat) → Sparse Nat → State →
    Except (Nat × VRead) (Sparse Nat × Nat) × State
  | [], col, s => (.ok (col, 0), s)
  | (bx, by', sm) :: rest, col, s =>
    match readBlock rd p.target sm bx by' s with
    | (.error e, s) => (.error e, s)
    | (.ok (ws, mal), s) =>
      let col := (blockPixels p.hdr bx by').foldl (fun c e => Sparse.put (fun _ => 0) c (sampleKey n e.2.1 e.2.2 sm) (nth ws e.1)) col
      match loadColour p rd n rest col s with
      | (.ok (c, m), s) => (.ok (c, m + if mal then 1 else 0), s)
      | e => e

/-- A spill unit of a block: area-relative origin, width, height (R314). -/
def unitRect (h : List Byte) (bx by' : Nat) : Nat × Nat × Nat × Nat :=
  let x0 := if bx * 8 < phX0 h then phX0 h else bx * 8
  let y0 := if by' * 8 < phY0 h then phY0 h else by' * 8
  let x1 := if phX0 h + phW h < bx * 8 + 8 then phX0 h + phW h else bx * 8 + 8
  let y1 := if phY0 h + phH h < by' * 8 + 8 then phY0 h + phH h else by' * 8 + 8
  (x0 - phX0 h, y0 - phY0 h, x1 - x0, y1 - y0)

/-- Offset of a unit in the reserve, and its sample words' places in the tile buffer in order. -/
def unitOff (h : List Byte) (bx by' : Nat) : Nat :=
  let (x, y, _, ht) := unitRect h bx by'
  (y * phW h + x * ht) * phSamples h * 4

def unitKeys (h : List Byte) (bx by' : Nat) : List Nat :=
  let (x, y, w, ht) := unitRect h bx by'
  (numsFrom 0 ht).flatMap (fun j => (numsFrom 0 w).flatMap (fun i => (numsFrom 0 (phSamples h)).map (fun s =>
    sampleKey (phSamples h) (phX0 h + x + i) (phY0 h + y + j) s)))

/-- Aperture offset of a byte of the reserve. -/
def reserveOff (p : Pass) (o : Nat) : Nat := leaOff (nth p.reserve (o / 65536)) + o % 65536

/-- Write words of the reserve, 4 bytes each. -/
def reserveWrite (p : Pass) : Nat → List Nat → State → State
  | _, [], s => s
  | o, w :: t, s => reserveWrite p (o + 4) t (skeinWrite (reserveOff p o) (leBytes 4 w) s)

/-- Read n words of the reserve. -/
def reserveRead (s : State) (p : Pass) (o : Nat) : Nat → List Nat
  | 0 => []
  | n + 1 => skeinNat s (reserveOff p o) 4 :: reserveRead s p (o + 4) n

/-- Bytes of a compressed unit: header word and DELTA payload (R314). -/
def unitBytes (ws : List Nat) : Nat := 4 + (32 + ws.length * totalWidth ws + 7) / 8

/-- A number as n 32-bit words. -/
def natWords : Nat → Nat → List Nat
  | 0, _ => []
  | n + 1, v => v % 2 ^ 32 :: natWords n (v / 2 ^ 32)

/-- Spill one unit: compressed where that takes at most 2n bytes, else raw (R314). -/
def spillUnit (p : Pass) (dep : Sparse Nat) (b : Nat × Nat) (s : State) : Pass × State :=
  let ws := (unitKeys p.hdr b.1 b.2).map (fun k => Sparse.get (fun _ => 0) dep k)
  let o := unitOff p.hdr b.1 b.2
  if unitBytes ws ≤ 2 * ws.length then
    ({ p with compressed := o :: p.compressed.filter (fun x => x ≠ o) },
      rasCount 8 1 (reserveWrite p o ((widthFields ws + 2) :: natWords ((unitBytes ws - 1) / 4) (deltaPayload ws)) s))
  else ({ p with compressed := p.compressed.filter (fun x => x ≠ o) }, rasCount 9 1 (reserveWrite p o ws s))

/-- Reload one spilled unit. -/
def unspillUnit (s : State) (p : Pass) (dep : Sparse Nat) (b : Nat × Nat) : Sparse Nat :=
  let keys := unitKeys p.hdr b.1 b.2
  let o := unitOff p.hdr b.1 b.2
  let n := keys.length
  let ws :=
    if p.compressed.contains o then
      let h := nth (reserveRead s p o 1) 0
      let words := reserveRead s p (o + 4) (n / 2)
      deltaDecode h n (words.foldr (fun w a => w + a * 2 ^ 32) 0)
    else reserveRead s p o n
  (keys.zip ws).foldl (fun d e => Sparse.put (fun _ => 0) d e.1 e.2) dep

/-- Some granule of a spilled unit is uncorrectable (R319). -/
def unitPoisoned (s : State) (p : Pass) (b : Nat × Nat) : Bool :=
  let o := unitOff p.hdr b.1 b.2
  (numsFrom 0 (unitKeys p.hdr b.1 b.2).length).any (fun i => poisoned s (0x100000000000 + reserveOff p (o + 4 * i)) 4)

/-- The pass keeps depth or stencil. -/
def Pass.hasDepth (p : Pass) : Bool := phDepth p.hdr || phStencil p.hdr

/-- Load a tile buffer: colour by COLOUR_LOAD or from a flushed target, depth and stencil cleared or from the reserve (R297). -/
def loadTile (p : Pass) (b : TileBuf) (s : State) : State :=
  let h := p.hdr
  let n := phSamples h
  let blocks := tileBlocks h b.tx b.ty
  let flushed := p.flushed.contains (b.tx, b.ty)
  let pix := blocks.flatMap (fun e => blockPixels h e.1 e.2)
  let keys := pix.flatMap (fun e => (numsFrom 0 n).map (fun sm => sampleKey n e.2.1 e.2.2 sm))
  let fill := fun (v : Nat → Nat) => keys.foldl (fun c k => Sparse.put (fun _ => 0) c k (v k)) ([] : Sparse Nat)
  let clearDep := fill (fun _ => phStencilClear h * 2 ^ 24 + phDepthClear h)
  if flushed && p.hasDepth && blocks.any (fun e => unitPoisoned s p e) then passUe p s
  else
    let dep := if !p.hasDepth then [] else if flushed then blocks.foldl (fun d e => unspillUnit s p d e) [] else clearDep
    let done' := fun (p : Pass) (col : Sparse Nat) (s : State) =>
      let s := if flushed then rasCount 4 1 s else s
      let todo := if p.parked.any (fun x => x.tx = b.tx && x.ty = b.ty) then b.todo else b.todo
      putPass (p.putBuf { b with phase := 1, col := col, dep := dep, todo := todo }) s
    if flushed || phLoad h = 1 then
      match loadColour p (rdTile b.sp p.ctx) n (blocks.flatMap (fun e => (numsFrom 0 n).map (fun sm => (e.1, e.2, sm)))) [] s with
      | (.error e, s) => passFault p 2 b.sp .read e s
      | (.ok (col, mal), s) =>
        let (p, s) := if mal = 0 then (p, s) else noteMalformed p (rasCount 10 (mal - 1) s)
        done' p col s
    else if phLoad h = 0 then done' p (fill (fun _ => sfClear p.target)) s
    else done' p (fill (fun k => Config.unstated "tile colour" [s.free, b.tx, b.ty, k] % 2 ^ 32)) { s with free := s.free + 1 }

/-- UMZ counters of a written block (Table 14-6). -/
def countUmz (d : List Byte) (ws : List Nat) (s : State) : State :=
  if fmtUmz (sfFormat d) then
    match (umzEncode (sfClear d) ws).1 % 4 with
    | 0 => rasCount 5 1 s
    | 2 => rasCount 6 1 s
    | _ => rasCount 7 1 s
  else s

/-- Store blocks of one surface plane by plane; v gives a pixel's word for a sample plane. -/
def storeBlocks (h d : List Byte) (sp c : Nat) (v : Nat → Nat → Nat → Nat) : List (Nat × Nat × Nat) → State →
    Option (Nat × VRead) × State
  | [], s => (none, s)
  | (bx, by', sm) :: rest, s =>
    let go := fun (old : List Nat) (s : State) =>
      let ws := composeBlock h d bx by' old (fun x y => v sm x y)
      match writeAll (wrTile sp c) (blockWrites d sm bx by' ws) s with
      | (some f, s) => (some (asFault f), s)
      | (none, s) => storeBlocks h d sp c v rest (countUmz d ws s)
    if needsOld h d bx by' then
      match readBlock (rdTile sp c) d sm bx by' s with
      | (.error e, s) => (some e, s)
      | (.ok (old, _), s) => go old s
    else go [] s

/-- Write a tile's colour to the target, all sample planes. -/
def storeColour (p : Pass) (b : TileBuf) (s : State) : Option (Nat × VRead) × State :=
  let n := phSamples p.hdr
  storeBlocks p.hdr p.target b.sp p.ctx (fun sm x y => Sparse.get (fun _ => 0) b.col (sampleKey n x y sm))
    ((tileBlocks p.hdr b.tx b.ty).flatMap (fun e => (numsFrom 0 n).map (fun sm => (e.1, e.2, sm)))) s

/-- Resolve a tile into the resolve surface (R297). -/
def storeResolve (p : Pass) (b : TileBuf) (s : State) : Option (Nat × VRead) × State :=
  match p.resolve with
  | none => (none, s)
  | some r =>
    let n := phSamples p.hdr
    storeBlocks p.hdr r b.sp p.ctx
      (fun _ x y => resolvePixel (sfFormat p.target) (sfFormat r)
        ((numsFrom 0 n).map (fun sm => Sparse.get (fun _ => 0) b.col (sampleKey n x y sm))))
      ((tileBlocks p.hdr b.tx b.ty).map (fun e => (e.1, e.2, 0))) s

/-- Spill a tile's depth and stencil units. -/
def spillTile (p : Pass) (b : TileBuf) (s : State) : Pass × State :=
  if p.hasDepth then (tileBlocks p.hdr b.tx b.ty).foldl (fun (e : Pass × State) u => spillUnit e.1 b.dep u e.2) (p, s)
  else (p, s)

/-- Flush a tile: its full colour to the target, depth and stencil to the reserve (R298). None of it happened on a fault. -/
def flushTile (p : Pass) (b : TileBuf) (s : State) : Except (Nat × VRead) Pass × State :=
  match storeColour p b s with
  | (some e, s) => (.error e, s)
  | (none, s) =>
    let (p, s) := spillTile p b s
    (.ok { p with flushed := (b.tx, b.ty) :: p.flushed.filter (fun t => t ≠ (b.tx, b.ty)) }, s)

/-! ### Fragments (R306-R308) -/

/-- The stored word of a sample in the buffer. -/
def TileBuf.depOf (b : TileBuf) (n x y s : Nat) : Nat := Sparse.get (fun _ => 0) b.dep (sampleKey n x y s)

/-- Test the covered samples of one pixel: those that pass, and the words the samples would hold. -/
def testPixel (p : Pass) (d : List Byte) (b : TileBuf) (pr : Prim) (x y cover : Nat) : Nat × List (Nat × Nat) :=
  let n := phSamples p.hdr
  (numsFrom 0 n).foldl (fun (a : Nat × List (Nat × Nat)) sm =>
    if !bitN cover sm then a
    else
      let (sx, sy) := samplePos n sm
      let z := depth24 (depthFrac (sfWidth p.target) (sfHeight p.target) pr ((x : Int) * 256 + sx) ((y : Int) * 256 + sy))
      let old := b.depOf n x y sm
      let (ok, w) := sampleTest p.hdr d z old
      (a.1 + bitVal ok sm, if w = old then a.2 else a.2 ++ [(sm, w)])) (0, [])

/-- Put sample words of a pixel into the buffer. -/
def TileBuf.putDep (b : TileBuf) (n x y : Nat) (ws : List (Nat × Nat)) : TileBuf :=
  { b with dep := ws.foldl (fun d e => Sparse.put (fun _ => 0) d (sampleKey n x y e.1) e.2) b.dep }

/-- The tests of one quad before shading: the buffer after them, and the fragments of its pixels that go on to shading, with
their lane in the quad (R306). DISCARD holds back the words of a fragment until it is kept. -/
def testQuad (p : Pass) (q : Quad) (b : TileBuf) (id : Nat) : TileBuf × List (Nat × Frag) :=
  let d := p.drawOf q.prim.draw
  let n := phSamples p.hdr
  (numsFrom 0 4).foldl (fun (a : TileBuf × List (Nat × Frag)) i =>
    let x := q.x + i % 2
    let y := q.y + i / 2
    let cover := nth q.cover i
    if cover = 0 then a
    else
      let (ok, ws) := if p.hasDepth then testPixel p d a.1 q.prim x y cover else (cover, [])
      if ok = 0 then (a.1.putDep n x y ws, a.2)
      else
        let held := drDiscard d
        let f : Frag := { id := id + i, draw := q.prim.draw, x := x, y := y, cover := cover, pass := ok
                          writes := if held then ws else [], out := none }
        (if held then a.1 else a.1.putDep n x y ws, a.2 ++ [(i, f)])) (b, [])

/-- A fragment of a DISCARD draw still holds back depth or stencil words: nothing later is tested (R306). -/
def TileBuf.blocked (b : TileBuf) : Bool := b.frags.any (fun f => !f.writes.isEmpty)

/-- Take up to n quads of one primitive for a ply, testing each; quads none of whose pixels go on are dropped. -/
def takeQuads (p : Pass) : Nat → Nat → TileBuf → List (Quad × List (Nat × Frag)) → TileBuf × List (Quad × List (Nat × Frag))
  | 0, _, b, acc => (b, acc)
  | f + 1, n, b, acc =>
    if n = 0 then (b, acc)
    else
      match b.quads with
      | [] => (b, acc)
      | q :: rest =>
        let (b', fs) := testQuad p q { b with quads := rest } (p.nextFrag + 4 * acc.length)
        if fs.isEmpty then takeQuads p f n b' acc else takeQuads p f (n - 1) b' (acc ++ [(q, fs)])

/-- The (s, t) of a fetch at a pixel, if finite. -/
def uvAt (p : Pass) (d : List Byte) (pr : Prim) (k x y : Nat) : Option (Frac × Frac) :=
  let v := fun i => bitsFrac (varyingAt (sfWidth p.target) (sfHeight p.target) pr x y i)
  match v (drUv d k), v (drUv d k + 1) with
  | some a, some b => some (a, b)
  | _, _ => none

/-- Fetch k for the four lanes of a quad (R308). -/
def fetchQuad (p : Pass) (rd : Reader) (d surf : List Byte) (k : Nat) (q : Quad) :
    List Nat → State → Except (Nat × VRead) (List (List Nat)) × State
  | [], s => (.ok [], s)
  | i :: is, s =>
    let uvs := (numsFrom 0 4).filterMap (fun j => uvAt p d q.prim k (q.x + j % 2) (q.y + j / 2))
    let l := if bitN (drFetchFlags d k) 3 then 0 else mipLevel surf uvs
    let one := match uvAt p d q.prim k (q.x + i % 2) (q.y + i / 2) with
      | some uv => fetchAt rd surf (drFetchFlags d k) l uv s
      | none => (.ok ((numsFrom 0 4).map (fun c => Config.unstated "fetch" [k, q.x, q.y, i, c] % 2 ^ 32)), s)
    match one with
    | (.error e, s) => (.error e, s)
    | (.ok v, s) =>
      match fetchQuad p rd d surf k q is s with
      | (.ok t, s) => (.ok (v :: t), s)
      | e => e

/-- All fetches of the quads of a ply: by fetch, by quad, by lane of the quad. -/
def fetchAll (p : Pass) (rd : Reader) (d : List Byte) (qs : List Quad) :
    List Nat → State → Except (Nat × VRead) (List (List (List (List Nat)))) × State
  | [], s => (.ok [], s)
  | k :: ks, s =>
    match rd (drArg d + 8 * k) 6 s with
    | (.ok ab, s) =>
      (match readLong rd 3 (leNat ab) 32 s with
      | (.error e, s) => (.error e, s)
      | (.ok surf, s) =>
        let (r, s) := qs.foldl (fun (a : Except (Nat × VRead) (List (List (List Nat))) × State) q =>
          match a.1 with
          | .error e => (.error e, a.2)
          | .ok l => (match fetchQuad p rd d surf k q (numsFrom 0 4) a.2 with
            | (.ok v, s) => (.ok (l ++ [v]), s)
            | (.error e, s) => (.error e, s))) (.ok [], s)
        match r with
        | .error e => (.error e, s)
        | .ok v =>
          match fetchAll p rd d qs ks s with
          | (.ok t, s) => (.ok (v :: t), s)
          | e => e)
    | (x, s) => (.error (drArg d + 8 * k, x), s)

/-- The lane registers of a fragment lane (R306). -/
def fragmentRegs (p : Pass) (d : List Byte) (q : Quad) (i : Nat) (fetches : List (List Nat)) : List (Nat × Nat) :=
  let x := q.x + i % 2
  let y := q.y + i / 2
  let tw := sfWidth p.target
  let th := sfHeight p.target
  let z := fracBits (depthFrac tw th q.prim ((x : Int) * 256 + 128) ((y : Int) * 256 + 128))
  [(0, x), (1, y), (2, nth q.cover i), (3, z)]
    ++ (numsFrom 0 (drVaryings d)).map (fun v => (8 + v, varyingAt tw th q.prim x y v))
    ++ ((numsFrom 0 fetches.length).zip fetches).flatMap (fun e => (numsFrom 0 4).map (fun c => (24 + 4 * e.1 + c, nth e.2 c)))

/-- The fragment ply of some quads with their fragments and fetches. -/
def fragmentPly (p : Pass) (draw : Nat) (qs : List (Quad × List (Nat × Frag))) (fetches : List (List (List (List Nat)))) (uid : Nat) :
    Ply :=
  let d := p.drawOf draw
  let n := qs.length
  let vregs := 8 * drFsVregs d
  let y := Ply.fresh { ctx := p.ctx, source := 1, packet := p.index, group := uid } uid vregs true (drFsCode d)
    (BitVec.ofNat 32 (2 ^ (4 * n) - 1))
  let shade := ((numsFrom 0 n).zip qs).flatMap (fun e => e.2.2.map (fun f => (4 * e.1 + f.1, f.2.id)))
  let y := rasterScalars p.ctx draw d { y with present := BitVec.allOnes 32, shadeKind := 2, shadeDraw := draw, shade := shade }
  ((numsFrom 0 n).zip qs).foldl (fun (y : Ply) (e : Nat × Quad × List (Nat × Frag)) =>
    (numsFrom 0 4).foldl (fun (y : Ply) i =>
      let f := fetches.map (fun perQuad => (((perQuad[e.1]?).getD [])[i]?).getD [])
      (fragmentRegs p d e.2.1 i f).foldl (fun (y : Ply) (w : Nat × Nat) =>
        if w.1 < vregs then y.vset w.1 (4 * e.1 + i) w.2 else y) y) y) y

/-- Form the next fragment ply of a buffer on its backend's spindle: the next primitive's quads are found, tested, fetched for,
and shaded together, up to eight to a ply (R306, R308, R151). -/
def placeFragments (p : Pass) (b : TileBuf) (s : State) : State :=
  let b := match b.quads, b.todo with
    | [], pr :: rest => { b with todo := rest, quads := quadsIn p.hdr (sfWidth p.target) (sfHeight p.target) pr (b.tx * 32) (b.ty * 32) 32 32 }
    | _, _ => b
  match b.quads with
  | [] => putPass (p.putBuf b) s
  | q0 :: _ =>
    let d := p.drawOf q0.prim.draw
    if b.blocked || (bestFlyer s b.sp (drFsVregs d) false).isNone
        || !withinBudget s p.ctx (1024 + 8 * drFsVregs d * 128) then s
    else
      let same := b.quads.filter (fun q => q.prim = q0.prim)
      let later := b.quads.filter (fun q => q.prim ≠ q0.prim)
      let (b', qs) := takeQuads p (same.length + 1) 8 { b with quads := same } []
      let b' := { b' with quads := b'.quads ++ later }
      if qs.isEmpty then putPass (p.putBuf b') s
      else
        match fetchAll p (rdTile b.sp p.ctx) d (qs.map (fun e => e.1)) (numsFrom 0 (drFetches d)) s with
        | (.error e, s) => passFault p 2 b.sp .read e s
        | (.ok fs, s) =>
          match admitPly b.sp (fragmentPly p q0.prim.draw qs fs) s with
          | none => s
          | some s =>
            let b' := { b' with frags := b'.frags ++ qs.flatMap (fun e => e.2.map (fun f => f.2)) }
            putPass { p.putBuf b' with nextFrag := p.nextFrag + 4 * qs.length } s

/-! ### Blending (R306, R307) -/

/-- Blend one kept fragment into a pixel word. -/
def blendWord (p : Pass) (f : Frag) (src : List Nat) (old : Nat) : Nat :=
  let d := p.drawOf f.draw
  let fm := sfFormat p.target
  maskChannels fm (drWmask d) old (pixelEncode fm (blend (drBlend d) src (pixelDecode fm old)))

/-- Blend a finished fragment of a tile: every passing sample, unless it was discarded. -/
def blendTile (p : Pass) (f : Frag) (b : TileBuf) : TileBuf :=
  let n := phSamples p.hdr
  match f.out with
  | some (src, false) =>
    let col := (numsFrom 0 n).foldl (fun c sm =>
      if bitN f.pass sm then
        let k := sampleKey n f.x f.y sm
        Sparse.put (fun _ => 0) c k (blendWord p f src (Sparse.get (fun _ => 0) c k))
      else c) b.col
    { b with col := col }.putDep n f.x f.y f.writes
  | _ => b

/-- Blend the finished fragments at the head of a tile's list, in submission order. -/
def drainTile (p : Pass) : Nat → TileBuf → TileBuf
  | 0, b => b
  | n + 1, b =>
    match b.frags with
    | [] => b
    | f :: rest => if f.out.isNone then b else drainTile p n { (blendTile p f b) with frags := rest }

/-- Write a cached block of an immediate pass back to the target. -/
def writeBack (p : Pass) (e : Nat × Nat × Nat × List Nat) (s : State) : Option (Nat × VRead) × State :=
  match writeAll (wrTile e.1 p.ctx) (blockWrites p.target 0 e.2.1 e.2.2.1 e.2.2.2) s with
  | (some f, s) => (some (asFault f), s)
  | (none, s) => (none, countUmz p.target e.2.2.2 s)

/-- Have a target block in a backend's cache of 256, reading it on first use; a full cache writes back and gives up a free
choice (R299). -/
def cacheBlock (p : Pass) (sp bx by' : Nat) (s : State) : Except (Nat × VRead) Pass × State :=
  if p.blocks.any (fun e => e.1 = sp && e.2.1 = bx && e.2.2.1 = by') then (.ok p, s)
  else
    match readBlock (rdTile sp p.ctx) p.target 0 bx by' s with
    | (.error e, s) => (.error e, s)
    | (.ok (ws, mal), s) =>
      let (p, s) := if mal then noteMalformed p s else (p, s)
      let mine := p.blocks.filter (fun e => e.1 = sp)
      if mine.length < 256 then (.ok { p with blocks := p.blocks ++ [(sp, bx, by', ws)] }, s)
      else
        let (k, s) := takeFree 256 s
        match mine[k]? with
        | none => (.ok { p with blocks := p.blocks ++ [(sp, bx, by', ws)] }, s)
        | some v =>
          match writeBack p v s with
          | (some e, s) => (.error e, s)
          | (none, s) => (.ok { p with blocks := p.blocks.filter (fun e => e ≠ v) ++ [(sp, bx, by', ws)] }, s)

/-- Blend the finished fragments of one backend of an immediate pass in order; a fault leaves the rest for later. -/
def drainImm (sp : Nat) : Nat → Pass → State → Pass × Option (Nat × VRead) × State
  | 0, p, s => (p, none, s)
  | n + 1, p, s =>
    match p.bufs.find? (fun b => b.sp = sp) with
    | none => (p, none, s)
    | some b =>
      match b.frags with
      | [] => (p, none, s)
      | f :: rest =>
        match f.out with
        | none => (p, none, s)
        | some (src, discarded) =>
          if discarded then drainImm sp n (p.putBuf { b with frags := rest }) s
          else
            match cacheBlock p sp (f.x / 8) (f.y / 8) s with
            | (.error e, s) => (p, some e, s)
            | (.ok p, s) =>
              let i := f.y % 8 * 8 + f.x % 8
              let blocks := p.blocks.map (fun e =>
                if e.1 = sp && e.2.1 = f.x / 8 && e.2.2.1 = f.y / 8 then
                  (e.1, e.2.1, e.2.2.1, setAt e.2.2.2 i (blendWord p f src (nth e.2.2.2 i)))
                else e)
              drainImm sp n ({ p with blocks := blocks }.putBuf { b with frags := rest }) s

/-- All primitives of the pass have been assembled. -/
def Pass.allPrims (p : Pass) : Bool := p.draws.length ≤ p.pDraw

/-- A buffer has no work left. -/
def TileBuf.idle (b : TileBuf) : Bool := b.todo.isEmpty && b.quads.isEmpty && b.frags.isEmpty

/-- Write back the cached blocks of an immediate pass, first to last. -/
def writeBackAll : Nat → Pass → State → Pass × Option (Nat × VRead) × State
  | 0, p, s => (p, none, s)
  | n + 1, p, s =>
    match p.blocks with
    | [] => (p, none, s)
    | e :: rest =>
      match writeBack p e s with
      | (some f, s) => (p, some f, s)
      | (none, s) => writeBackAll n { p with blocks := rest } s

/-- An immediate pass whose work is done writes its blocks back and ends (R299). -/
def settleImm (p : Pass) (s : State) : State :=
  if p.phase = 5 && !p.suspended && p.allPrims && p.bufs.all TileBuf.idle then
    match writeBackAll (p.blocks.length + 1) p s with
    | (p, some e, s) => passFault p 2 ((p.blocks.map (fun b => b.1)).headD 0) .write e (putPass p s)
    | (p, none, s) => passEnd p 0 (rasCount 0 1 (putPass p s))
  else putPass p s

/-- A fragment of the pass has its result: blend what can be blended. -/
def fragDone (p : Pass) (s : State) : State :=
  if p.phase = 5 then
    let sps := p.bufs.map (fun b => b.sp)
    let (p, err, s) := sps.foldl (fun (a : Pass × Option (Nat × Nat × VRead) × State) sp =>
      match a.2.1 with
      | some _ => a
      | none =>
        let n := (a.1.bufs.map (fun b => b.frags.length)).foldl (fun x y => x + y) 1
        let (p, e, s) := drainImm sp n a.1 a.2.2
        (p, e.map (fun x => (sp, x)), s)) (p, none, s)
    match err with
    | some (sp, e) => passFault p 2 sp .read e (putPass p s)
    | none => settleImm p s
  else
    putPass { p with bufs := p.bufs.map (fun b => if b.phase = 1 then drainTile p (b.frags.length + 1) b else b) } s

/-- The pass a raster ply works for. -/
def passOf (s : State) (y : Ply) : Option Pass := s.ras.passes.find? (fun p => p.ctx = y.owner.ctx && p.index = y.owner.packet)

/-- Results of raster threads that exit: vertices join the pass, fragments get colour and discard bit (R304, R306). ok = false: they
ended by exception, and no rule states their results. -/
def shadeExit (y : Ply) (gone : Nat → Bool) (ok : Bool) (s : State) : State :=
  let mine := y.shade.filter (fun e => gone e.1)
  if mine.isEmpty then s
  else
    match passOf s y with
    | none => s
    | some p =>
      let d := p.drawOf y.shadeDraw
      let rd := fun (r l : Nat) => if ok then y.vget r l else Config.unstated "raster thread" [y.uid, r, l] % 2 ^ 32
      if y.shadeKind = 1 then
        putPass { p with verts := p.verts ++ mine.map (fun e =>
          (y.shadeDraw, e.2, { pos := (numsFrom 4 4).map (fun r => rd r e.1)
                               vars := (numsFrom 8 (drVaryings d)).map (fun r => rd r e.1) })) } s
      else
        let put := fun (f : Frag) => match mine.find? (fun e => e.2 = f.id) with
          | some e => { f with out := some ((numsFrom 4 4).map (fun r => rd r e.1), drDiscard d && ok && (y.pget 0).getLsbD e.1) }
          | none => f
        let upd := fun (b : TileBuf) => { b with frags := b.frags.map put }
        fragDone { p with bufs := p.bufs.map upd, parked := p.parked.map upd } s

/-! ### Binning and rendering -/

/-- The shaded vertices of the next primitive, if all are there. -/
def nextPrim (p : Pass) : Option Prim :=
  let d := p.drawOf p.pDraw
  if p.draws.length ≤ p.pDraw then none
  else
    let vs := (primVerts d p.pNext).map (fun n => (p.verts.find? (fun v => v.1 = p.pDraw && v.2.1 = n)).map (fun v => v.2.2))
    match vs with
    | [some a, some b, some c] => some { draw := p.pDraw, number := p.pNext, vs := [a, b, c] }
    | _ => none

/-- Go on to the next primitive; draws without one are passed over, and vertices of finished draws dropped. -/
def Pass.advance (p : Pass) : Pass :=
  let d := p.drawOf p.pDraw
  let p := if p.pNext + 1 < drPrims d then { p with pNext := p.pNext + 1 } else { p with pDraw := p.pDraw + 1, pNext := 0 }
  { p with verts := p.verts.filter (fun v => p.pDraw ≤ v.1) }

/-- Pass over draws that have no primitive (a strip of fewer than three vertices). -/
def Pass.skipEmpty : Nat → Pass → Pass
  | 0, p => p
  | n + 1, p =>
    if p.draws.length ≤ p.pDraw || drPrims (p.drawOf p.pDraw) ≠ 0 then p
    else Pass.skipEmpty n { p with pDraw := p.pDraw + 1, pNext := 0 }

/-- When every primitive is binned, rendering of every tile of the area begins (R297). -/
def startRender (p : Pass) : Pass :=
  if p.phase = 1 && p.allPrims then { p with phase := 2, tiles := areaTiles p.hdr } else p

/-- PRIMITIVE_BIN: the next shaded primitive is clipped and culled; it is binned into pages bin pages (their layout is the
device's), or without free pages a partial render begins before it (R297, R298). -/
def execPrimitiveBin (pages : Fin 9) (s : State) : Res :=
  done (onlyIf (running s) (fun s =>
    match runningPass s with
    | none => s
    | some p =>
      if p.phase ≠ 1 then s
      else
        let p := p.skipEmpty p.draws.length
        if p.allPrims then putPass (startRender p) s
        else
          match nextPrim p with
          | none => putPass p s
          | some pr =>
            let tiles := if primCulled (p.drawOf pr.draw) pr then []
              else primTiles p.hdr (sfWidth p.target) (sfHeight p.target) pr
            if tiles.isEmpty then putPass (startRender (p.advance.skipEmpty p.draws.length)) s
            else if 512 < p.pages + pages then
              putPass { p with phase := 3, tiles := (areaTiles p.hdr).filter (fun t => p.bins.any (fun b => b.2.contains t)) } s
            else
              putPass (startRender ({ p with bins := p.bins ++ [(pr, tiles)], pages := p.pages + pages }.advance.skipEmpty
                p.draws.length)) (rasCount 2 1 s)) s)

/-- Free buffer of a backend. -/
def freeBuffer (p : Pass) (sp : Nat) : Option Nat :=
  (numsFrom 0 2).find? (fun n => !p.bufs.any (fun b => b.sp = sp && b.slot = n))

/-- TILE_ASSIGN: the next tile goes to the next spindle of TILE_MASK, round-robin, whose backend has a free buffer; a tile that a
suspension flushed goes back to its own backend first (R297, R318). -/
def execTileAssign (s : State) : Res :=
  done (onlyIf (running s) (fun s =>
    match runningPass s with
    | none => s
    | some p =>
      match p.parked.find? (fun b => (freeBuffer p b.sp).isSome) with
      | some b =>
        (match freeBuffer p b.sp with
        | none => s
        | some n => putPass { p with parked := p.parked.erase b, bufs := p.bufs ++ [{ b with slot := n, phase := 0 }] } s)
      | none =>
        match p.tiles with
        | [] => s
        | t :: rest =>
          if p.phase ≠ 2 && p.phase ≠ 3 then s
          else
            match (afterLast (maskSpindles (phTileMask p.hdr)) p.lastTile).find? (fun sp => (freeBuffer p sp).isSome) with
            | none => s
            | some sp =>
              match freeBuffer p sp with
              | none => s
              | some n =>
                let todo := (p.bins.filter (fun e => e.2.contains t)).map (fun e => e.1)
                let b : TileBuf := { sp := sp, slot := n, tx := t.1, ty := t.2, phase := 0, col := [], dep := [], todo := todo
                                     quads := [], frags := [] }
                putPass { p with tiles := rest, lastTile := some sp, bufs := p.bufs ++ [b] } s) s)

/-- A buffer of the active pass. -/
def bufOf (p : Pass) (sp n : Nat) : Option TileBuf := p.bufs.find? (fun b => b.sp = sp && b.slot = n)

/-- TILE_LOAD_DONE: a tile's colour, depth and stencil are loaded and its shading begins (R297). -/
def execTileLoadDone (sp : Fin 64) (buffer : Fin 2) (s : State) : Res :=
  done (onlyIf (running s) (fun s =>
    match runningPass s with
    | none => s
    | some p =>
      match bufOf p sp buffer with
      | none => s
      | some b => if b.phase = 0 then
          match loadTile p b s with
          | s => match runningPass s with
            | some p => if p.bufs.any (fun x => x.sp = sp.val && x.phase = 1) then fragDone p s else s
            | none => s
        else s) s)

/-- After a tile's buffer is free: a partial render that is complete frees the bin pages and binning resumes; a pass whose last
tile is stored ends (R297, R298). -/
def settleTiles (p : Pass) (s : State) : State :=
  if !p.tiles.isEmpty || !p.bufs.isEmpty || !p.parked.isEmpty then putPass p s
  else if p.phase = 3 then putPass { p with phase := 1, bins := [], pages := 0 } (rasCount 1 1 s)
  else if p.phase = 2 then passEnd p 0 (rasCount 0 1 (putPass p s))
  else putPass p s

/-- TILE_STORE_DONE: a tile whose primitives are all shaded is flushed (partial render) or stored and resolved (R297, R298); its
buffer frees. -/
def execTileStoreDone (sp : Fin 64) (buffer : Fin 2) (s : State) : Res :=
  done (onlyIf (running s) (fun s =>
    match runningPass s with
    | none => s
    | some p =>
      match bufOf p sp buffer with
      | none => s
      | some b =>
        if b.phase ≠ 1 || !b.idle || (p.phase ≠ 2 && p.phase ≠ 3) then s
        else
          let free := fun (p : Pass) => { p with bufs := p.bufs.filter (fun x => !(x.sp = b.sp && x.slot = b.slot)) }
          if p.phase = 3 then
            match flushTile p b s with
            | (.error e, s) => passFault p 2 b.sp .write e s
            | (.ok p, s) => settleTiles (free p) s
          else
            match (if phDiscard p.hdr then (none, s) else storeColour p b s) with
            | (some e, s) => passFault p 2 b.sp .write e s
            | (none, s) =>
              match storeResolve p b s with
              | (some e, s) => passFault p 2 b.sp .write e s
              | (none, s) => settleTiles (free p) (rasCount 3 1 s)) s)

/-- The backend of a target block in an immediate pass (R299). -/
def immBackend (h : List Byte) (bx by' : Nat) : Nat :=
  let l := maskSpindles (phTileMask h)
  nth l ((bx + 3 * by') % l.length)

/-- Add quads to a backend's work. -/
def addQuads (sp : Nat) (qs : List Quad) (p : Pass) : Pass :=
  if qs.isEmpty then p
  else if p.bufs.any (fun b => b.sp = sp) then
    { p with bufs := p.bufs.map (fun b => if b.sp = sp then { b with quads := b.quads ++ qs } else b) }
  else
    { p with bufs := p.bufs ++ [{ sp := sp, slot := 0, tx := 0, ty := 0, phase := 1, col := [], dep := [], todo := [], quads := qs
                                  frags := [] }] }

/-- IMMEDIATE_PRIMITIVE: the next shaded primitive of an immediate pass is rasterised; its quads go to the backends of their blocks,
where they are shaded and blended in order (R299). -/
def execImmediatePrimitive (s : State) : Res :=
  done (onlyIf (running s) (fun s =>
    match runningPass s with
    | none => s
    | some p =>
      if p.phase ≠ 5 then s
      else
        let p := p.skipEmpty p.draws.length
        if p.allPrims then settleImm p s
        else
          match nextPrim p with
          | none => putPass p s
          | some pr =>
            let h := p.hdr
            let x0 := phX0 h / 2 * 2
            let y0 := phY0 h / 2 * 2
            let qs := if primCulled (p.drawOf pr.draw) pr then []
              else quadsIn h (sfWidth p.target) (sfHeight p.target) pr x0 y0 (phX0 h + phW h - x0) (phY0 h + phH h - y0)
            let p := (maskSpindles (phTileMask h)).foldl (fun p sp =>
              addQuads sp (qs.filter (fun q => immBackend h (q.x / 8) (q.y / 8) = sp)) p) p
            settleImm (p.advance.skipEmpty p.draws.length) s) s)

/-- Place the next ply of a render pass: a fragment ply of a loaded tile or backend that has quads, else a vertex ply. -/
def placeRaster (p : Pass) (s : State) : State :=
  match p.bufs.find? (fun b => b.phase = 1 && (!b.quads.isEmpty || !b.todo.isEmpty) && !b.blocked) with
  | some b => placeFragments p b s
  | none => placeVertices p s

/-! ### Suspension and discard (R318) -/

/-- Flush the tiles of a suspended pass one by one; a tile whose write faults keeps its content in the buffer record. -/
def suspendTiles : Nat → Pass → State → Pass × State
  | 0, p, s => (p, s)
  | n + 1, p, s =>
    match p.bufs with
    | [] => (p, s)
    | b :: rest =>
      let p' := { p with bufs := rest, parked := p.parked ++ [b] }
      if b.phase = 0 then suspendTiles n p' s
      else
        match flushTile p b s with
        | (.ok q, s) => suspendTiles n { q with bufs := rest, parked := q.parked ++ [{ b with col := [], dep := [], phase := 0 }] } s
        | (.error _, s) => suspendTiles n p' s

/-- Suspend the active pass of a context (R152, R318). -/
def passSuspend (c : Nat) (s : State) : State :=
  match s.ras.passes.find? (fun p => p.ctx = c && !p.suspended) with
  | none => s
  | some p =>
    let (p, s) := if p.phase = 5 then
        let (p, _, s) := writeBackAll (p.blocks.length + 1) p s
        (p, s)
      else suspendTiles (p.bufs.length + 1) p s
    putPass { p with suspended := true } s

/-- Discard the passes that q picks, with a status (R318, R157). -/
def dropPasses (q : Pass → Bool) (status : Nat) (s : State) : State :=
  (s.ras.passes.filter q).foldl (fun s p => passEnd p status s) s

/-! ### EXIT -/

/-- EXIT: the threads with a true guard exit; callback verdicts and raster results are read, allotments free (R162, R270, R288,
R304, R306). The others go on at PC + 8. -/
def execExit (p : PlyId) (w : W64) (s : State) : Res :=
  done (issue p w (wOp w = 0x68) [] (fun _ => none) notTaken
    (fun i s =>
      let gone := fun l => i.g.getLsbD l
      let y := { i.y with exited := i.y.exited ||| i.g, cbs := i.y.cbs.filter (fun e => !gone e.1)
                          allot := i.y.allot.filter (fun a => !gone a.1), shade := i.y.shade.filter (fun e => !gone e.1) }
      let s := putPly i.k y s
      let s := setPcs i.k (notTaken i) (fun _ => i.pc + 8) s
      .retire (shadeExit i.y gone true (verdicts i.y gone true (dropAllot i.y.uid gone s)))) s)

end Sys2Proof.Machine
end

