-- ==== Sys2Proof/Machine/Display.lean ====
section
/-! DEFINITION. The four display pipes and their ports (chapter 15): frames and commits, planes and prefetch, how a pixel is formed,
underruns, timing and pixel clock changes, eDP and DSI. Scan-out's progress comes as the LINE that a command names: the
lines before it have been shown. -/

namespace Sys2Proof.Machine

open Sys2Proof

/-! ### Registers and state of one pipe -/

/-- Register at an offset of pipe n's block (R328). -/
def pipeR (n off : Nat) : Nat := C (0x50000 + 0x4000 * n + off)

/-- A saturating counter of a pipe counts, unless DBG_CNT.HOLD_ALL holds it (Table 15-1, R478). -/
def pipeCount (n off : Nat) (s : State) : State :=
  if s.flag ⟨C 0xD0040, 0, 0⟩ then s else s.addSat ⟨pipeR n off, 31, 0⟩ 1

def fPipeEn (n : Nat) : Fld := ⟨pipeR n 0, 31, 31⟩
def fPipePort (n : Nat) : Fld := ⟨pipeR n 0, 29, 28⟩
def fPipeBpc (n : Nat) : Fld := ⟨pipeR n 0, 27, 26⟩
def fPipeDither (n : Nat) : Fld := ⟨pipeR n 0, 25, 25⟩
def fFlipPending (n : Nat) : Fld := ⟨pipeR n 0x108, 31, 31⟩
def fShownSeq (n : Nat) : Fld := ⟨pipeR n 0x108, 15, 0⟩
def fPipeActive (n : Nat) : Fld := ⟨pipeR n 0x118, 31, 31⟩
def fPipeRelock (n : Nat) : Fld := ⟨pipeR n 0x118, 30, 30⟩
def fApplyPending (n : Nat) : Fld := ⟨pipeR n 0x118, 29, 29⟩
def fQuietValid (n : Nat) : Fld := ⟨pipeR n 0x118, 28, 28⟩
def fPipeLine (n : Nat) : Fld := ⟨pipeR n 0x118, 23, 12⟩
def fPortEn (q : Nat) : Fld := ⟨pipeR q 0x3000, 31, 31⟩
def fPortLanes (q : Nat) : Fld := ⟨pipeR q 0x3000, 27, 24⟩
def fPortRate (q : Nat) : Fld := ⟨pipeR q 0x3000, 23, 20⟩
def fDsiRate (q : Nat) : Fld := ⟨pipeR q 0x3000, 19, 8⟩
def fLinkUp (q : Nat) : Fld := ⟨pipeR q 0x3004, 31, 31⟩
def fTrainFail (q : Nat) : Fld := ⟨pipeR q 0x3004, 30, 30⟩
def fHpd (q : Nat) : Fld := ⟨pipeR q 0x3004, 29, 29⟩
def fTe (q : Nat) : Fld := ⟨pipeR q 0x3004, 27, 27⟩
def fAuxBusy (q : Nat) : Fld := ⟨pipeR q 0x3010, 30, 30⟩
def fAuxResult (q : Nat) : Fld := ⟨pipeR q 0x3010, 29, 28⟩
def fDsiBusy (q : Nat) : Fld := ⟨pipeR q 0x3030, 30, 30⟩
/-- Bit b of pipe n's byte of DISPLAY_STATUS (Table 3-21). -/
def fDispBit (n b : Nat) : Fld := ⟨0xA4, 8 * n + b, 8 * n + b⟩
def fDispUnderruns (n : Nat) : Fld := ⟨0xA4, 8 * n + 3, 8 * n⟩

def pipeAt (s : State) (n : Nat) : PipeSt := (s.disp.pipes[n]?).getD .empty
def setPipe (n : Nat) (p : PipeSt) (s : State) : State :=
  { s with disp := { s.disp with pipes := setAt s.disp.pipes n p } }
def portAt (s : State) (q : Nat) : PortSt := (s.disp.ports[q]?).getD .empty
def setPort (q : Nat) (p : PortSt) (s : State) : State :=
  { s with disp := { s.disp with ports := setAt s.disp.ports q p } }

/-- Set a state bit of PIPE_STAT and its copy in DISPLAY_STATUS. -/
def setActive (n : Nat) (b : Bool) (s : State) : State := (s.setFlag (fPipeActive n) b).setFlag (fDispBit n 7) b
def setRelock (n : Nat) (b : Bool) (s : State) : State := (s.setFlag (fPipeRelock n) b).setFlag (fDispBit n 6) b
def setApplyPending (n : Nat) (b : Bool) (s : State) : State := (s.setFlag (fApplyPending n) b).setFlag (fDispBit n 5) b

/-- Raise an event of PIPE_INT_STATUS. -/
def pipeEvent (n bit : Nat) (s : State) : State := s.setFld ⟨pipeR n 0x12C, bit, bit⟩ 1

/-- Fields of the timing in use: HTIMING0, HTIMING1, VTIMING0, VTIMING1. -/
def tHigh (t : List Nat) (i : Nat) : Nat := nth t i / 65536
def tLow (t : List Nat) (i : Nat) : Nat := nth t i % 65536
def hTotal (t : List Nat) : Nat := tLow t 0 + tHigh t 0 + tLow t 1 + tHigh t 1
def vBlank (t : List Nat) : Nat := tHigh t 2 + tLow t 3 + tHigh t 3
def vTotal (t : List Nat) : Nat := tLow t 2 + vBlank t

/-- The timing and pixel clock shadows of pipe n. -/
def timingShadow (s : State) (n : Nat) : List Nat :=
  [0x10, 0x14, 0x18, 0x1C, 0x20, 0x24, 0x28].map (fun o => (s.reg (pipeR n o)).toNat)

/-! ### Checks of an APPLY (R330, R335, R44) -/

/-- VCO frequency in units of 25 MHz / 2^24, and the divider. -/
def pclkVco (t : List Nat) : Nat := nth t 5
def pclkDiv (t : List Nat) : Nat := nth t 6

/-- eDP lane rate in units of 10 Mb/s. -/
def edpRate (code : Nat) : Nat := nth [162, 216, 243, 270, 324, 432, 540, 810] code

def bpcBits (code : Nat) : Nat := 6 + 2 * code

/-- The port carries the pixel rate at BPC (R335): both sides in bits per second, times 5 * 2^24 * POSTDIV. -/
def portCarries (s : State) (n : Nat) (t : List Nat) : Bool :=
  let q := s.fld (fPipePort n)
  let need := 25000000 * pclkVco t * bpcBits (s.fld (fPipeBpc n)) * 3 * 5
  let unit := 10000000 * 2 ^ 24 * pclkDiv t
  if q < 2 then need ≤ s.fld (fPortLanes q) * edpRate (s.fld (fPortRate q)) * 4 * unit
  else need ≤ s.fld (fPortLanes q) * s.fld (fDsiRate q) * 5 * unit

/-- The timing shadows break R330. -/
def applyBad (s : State) (n : Nat) : Bool :=
  let t := timingShadow s n
  let odd := fun v => v % 2 = 1 || v = 0
  let vco := pclkVco t
  let d := pclkDiv t
  odd (tLow t 0) || 3840 < tLow t 0 || odd (tHigh t 0) || odd (tLow t 1) || odd (tHigh t 1)
    || tLow t 2 = 0 || 1440 < tLow t 2 || tHigh t 2 = 0 || tLow t 3 = 0 || tHigh t 3 = 0
    || 8192 < hTotal t || 4095 < vTotal t
    || vco / 2 ^ 24 < 48 || 96 < vco / 2 ^ 24 || 96 * 2 ^ 24 < vco
    || d % 2 = 1 || d < 2 || 128 < d
    || 25 * vco < 10 * d * 2 ^ 24 || 600 * d * 2 ^ 24 < 25 * vco
    || hTotal t * vTotal t * 120 * d * 2 ^ 24 < 25000000 * vco
    || !portCarries s n t

/-! ### Planes -/

/-- The plane registers of Table 15-2 as latched. -/
def planeWords (s : State) (n k : Nat) : List Nat :=
  (numsFrom 0 11).map (fun i => (s.reg (pipeR n (0x40 + 0x40 * k + 4 * i))).toNat)

def plEn (w : List Nat) : Bool := bitN (nth w 0) 31
def plBlend (w : List Nat) : Nat := bitsN (nth w 0) 30 29
def plDegamma (w : List Nat) : Bool := bitN (nth w 0) 28
def plAlpha (w : List Nat) : Nat := bitsN (nth w 0) 23 16
def plFormat (w : List Nat) : Nat := nth w 0 % 256
def plBase (w : List Nat) : Nat := nth w 1 + nth w 2 % 65536 * 2 ^ 32
def plHeader (w : List Nat) : Nat := nth w 3 + nth w 4 % 65536 * 2 ^ 32
def plPitch (w : List Nat) : Nat := nth w 5 % 65536
def plX (w : List Nat) : Nat := nth w 6 % 65536
def plY (w : List Nat) : Nat := nth w 6 / 65536
def plW (w : List Nat) : Nat := nth w 7 % 65536
def plH (w : List Nat) : Nat := nth w 7 / 65536
def plSrcX (w : List Nat) : Nat := nth w 8 % 65536
def plSrcY (w : List Nat) : Nat := nth w 8 / 65536
def plClear (w : List Nat) : Nat := nth w 9
def plUnits (w : List Nat) : Nat := nth w 10 % 16
def plUmz (w : List Nat) : Bool := fmtUmz (plFormat w)
/-- Bytes of the plane's prefetch units (R325). -/
def plRoom (w : List Nat) : Nat := plUnits w * 15360

/-- First and last block row and column of a UMZ plane. -/
def plBy0 (w : List Nat) : Nat := plSrcY w / 8
def plBy1 (w : List Nat) : Nat := (plSrcY w + plH w - 1) / 8
def plBx0 (w : List Nat) : Nat := plSrcX w / 8
def plBx1 (w : List Nat) : Nat := (plSrcX w + plW w - 1) / 8

/-- Address of the first byte a row of a linear plane reads, and how many 64-byte lines the row touches. -/
def plRowAddr (w : List Nat) (r : Nat) : Nat := plBase w + (plSrcY w + r) * plPitch w * 64 + 4 * plSrcX w
def plRowLines (w : List Nat) (r : Nat) : Nat := (plRowAddr w r + 4 * plW w - 1) / 64 - plRowAddr w r / 64 + 1

/-- The byte run of a plane lies in DRAM below the check store (R331). -/
def runOk (s : State) (a n : Nat) : Bool := n = 0 || a + n ≤ dramBytes s / 32 * 31

/-- Every byte the plane will read lies in DRAM below the check store, and DRAM is ready (R331). -/
def planeInDram (s : State) (w : List Nat) : Bool :=
  s.flag fDramReady
    && (if plW w = 0 || plH w = 0 then true
      else if plUmz w then
        runOk s (plBase w) (((plBy1 w) * plPitch w + plBx1 w) * 256 + 256)
          && runOk s (plHeader w) (((plBy1 w) * plPitch w + plBx1 w) * 4 + 4)
      else runOk s (plRowAddr w (plH w - 1)) (4 * plW w))

/-- A plane of a set whose enabled planes hold `units` in all passes the checks of a latch (R331). -/
def planeOk (s : State) (t : List Nat) (units : Nat) (w : List Nat) : Bool :=
  units ≤ 8 && plX w + plW w ≤ tLow t 0 && plY w + plH w ≤ tLow t 2 && fmtTarget (plFormat w)
    && (if plUmz w then
        plBase w % 256 = 0 && plHeader w % 4 = 0 && plSrcX w % 8 = 0 && plSrcY w % 8 = 0
          && (32 * plW w + 15359) / 15360 ≤ plUnits w
      else plBase w % 64 = 0)
    && planeInDram s w

/-! ### How a pixel is formed (R320) -/

/-- num / den to the nearest integer; which way an exact half goes is not stated. -/
def nearest (num den : Nat) : Nat :=
  let q := num / den
  let r := num % den
  if 2 * r < den then q else if den < 2 * r then q + 1 else q + Config.unstated "half" [num, den] % 2

/-- Fraction bits that blending carries: at least 16 (R320). -/
def blendBits : Nat := 16 + Config.unstated "blend fraction bits" []

/-- Three 10-bit components and the pixel's alpha as a fraction (R320, step 1). -/
def scanDecode (f w : Nat) : List Nat × Nat × Nat :=
  if fmtTen f then ([bitsN w 9 0, bitsN w 19 10, bitsN w 29 20], bitsN w 31 30, 3)
  else ((numsFrom 0 3).map (fun i => byteOf w i * 4 + byteOf w i / 64), byteOf w 3, 255)

/-- The linear value of a component as a fraction (R320, step 2). -/
def scanLinear (p : PipeSt) (degamma : Bool) (c : Nat) : Nat × Nat :=
  if degamma then ((Sparse.get (fun _ => 0#32) p.degamma c).toNat % 65536, 65535) else (c, 1023)

/-- One channel of a plane over what lies below, in units of 2^-F (R320, step 3): sn / sd the source, an / ad the alpha. -/
def scanBlend (mode one dst sn sd an ad : Nat) : Nat :=
  let v :=
    match mode with
    | 1 => nearest (one * sn * an + dst * (ad - an) * sd) (sd * ad)
    | 2 => nearest (one * sn * ad + dst * (ad - an) * sd) (sd * ad)
    | _ => nearest (one * sn) sd
  satN one v

/-- The gamma table at a value, interpolated between the two nearest entries (R320, step 4). -/
def scanGamma (p : PipeSt) (one v ch : Nat) : Nat :=
  let g := fun i => bitsOf (Sparse.get (fun _ => 0#32) p.gamma (satN 1023 i)) (10 * ch + 9) (10 * ch)
  let i := v * 1023 / one
  let r := v * 1023 % one
  nearest (g i * (one - r) + g (i + 1) * r) one

/-- A 10-bit component at the port's depth; the dither matrix is not given, so a dithered component is either neighbour
(R320, step 5). -/
def scanReduce (bits : Nat) (dither : Bool) (x y ch v : Nat) : Nat :=
  let num := v * (2 ^ bits - 1)
  if dither && bits < 10 then
    (if num % 1023 = 0 then num / 1023 else num / 1023 + Config.unstated "dither" [bits, x % 4, y % 4, ch, v] % 2)
  else nearest num 1023

/-- What the formatter finds of a plane at a pixel: not covered, not fetched yet, uncorrectable, or a pixel word. -/
inductive Seen
  | clear | missing | bad | word (w : Nat)
deriving DecidableEq, Repr

/-- Plane a at output pixel (x, y). -/
def planeSeen (a : PlaneAct) (x y : Nat) : Seen :=
  let w := a.words
  if !a.ok || x < plX w || plX w + plW w ≤ x || y < plY w || plY w + plH w ≤ y then .clear
  else
    let dx := x - plX w
    let dy := y - plY w
    let (row, col, i) :=
      if plUmz w then
        let sx := plSrcX w + dx
        let sy := plSrcY w + dy
        (sy / 8, sx / 8, sy % 8 * 8 + sx % 8)
      else
        let ad := plRowAddr w dy + 4 * dx
        (dy, ad / 64 - plRowAddr w dy / 64, ad % 64 / 4)
    match a.pieces.find? (fun q => q.row = row && q.col = col) with
    | none => .missing
    | some q => if q.bad then .bad else .word (nth q.px i)

/-- Three output components as one number, ten bits each. -/
def pack3 (c : List Nat) : Nat := nth c 0 + nth c 1 * 2 ^ 10 + nth c 2 * 2 ^ 20
/-- Components of a 10-bit colour register. -/
def unpack3 (w : Nat) : List Nat := [bitsN w 9 0, bitsN w 19 10, bitsN w 29 20]

/-- HOLD_COLOUR at the port's depth. -/
def holdPixel (s : State) (n x y : Nat) : Nat :=
  pack3 ((unpack3 (s.reg (pipeR n 0x110)).toNat).zipIdx.map (fun c =>
    scanReduce (bpcBits (s.fld (fPipeBpc n))) (s.flag (fPipeDither n)) x y c.2 c.1))

/-- The output of pipe n at an active pixel; none where the data of an enabled plane is missing. -/
def pixelOut (s : State) (n x y : Nat) : Option Nat :=
  let p := pipeAt s n
  let seen := p.planes.map (fun a => (a, planeSeen a x y))
  if seen.any (fun e => e.2 = .missing) then none
  else if seen.any (fun e => e.2 = .bad) then some (holdPixel s n x y)
  else
    let one := 2 ^ blendBits
    let bg := (unpack3 (s.reg (pipeR n 0x10C)).toNat).map (fun c => nearest (c * one) 1023)
    let mixed := seen.foldl (fun dst e =>
      match e.2 with
      | .word w =>
        let (cs, an, ad) := scanDecode (plFormat e.1.words) w
        dst.zipIdx.map (fun d =>
          let (sn, sd) := scanLinear p (plDegamma e.1.words) (nth cs d.2)
          scanBlend (plBlend e.1.words) one d.1 sn sd (an * plAlpha e.1.words) (ad * 255))
      | _ => dst) bg
    some (pack3 (mixed.zipIdx.map (fun d =>
      scanReduce (bpcBits (s.fld (fPipeBpc n))) (s.flag (fPipeDither n)) x y d.2 (scanGamma p one d.1 d.2))))

/-- The pixels of an active line from x on, and the first pixel whose data was missing: HOLD_COLOUR from there to the end of
the line (R326). -/
def lineFrom (s : State) (n y : Nat) : List Nat → List Nat × Bool
  | [] => ([], false)
  | x :: t =>
    match pixelOut s n x y with
    | some v => let (l, u) := lineFrom s n y t; (v :: l, u)
    | none => ((x :: t).map (fun i => holdPixel s n i y), true)

/-! ### Scan-out progress -/

/-- A piece whose rows have all been shown before active line y. -/
def pieceDone (w : List Nat) (y : Nat) (q : Piece) : Bool :=
  if plUmz w then plY w + (q.row * 8 + 8 - plSrcY w) ≤ y else plY w + q.row < y

/-- Drop the pieces whose lines have been shown (R325). -/
def freePieces (p : PipeSt) : PipeSt :=
  { p with planes := p.planes.map (fun a => { a with pieces := a.pieces.filter (fun q => !pieceDone a.words p.next q) }) }

/-- The next active line is formed and given to the port; a pixel whose data is missing makes it an underrun line (R326). -/
def showLine (n : Nat) (s : State) : State :=
  let p := pipeAt s n
  let (out, u) := lineFrom s n p.next (numsFrom 0 (tLow p.timing 0))
  let under := if u then some (match p.under with
    | none => (p.next, 1)
    | some (f, k) => (f, k + 1)) else p.under
  let s := setPipe n (freePieces { p with out := out, under := under, next := p.next + 1 }) s
  if u then pipeCount n 0x11C s else s

/-- Show k lines. -/
def showLines (n : Nat) : Nat → State → State
  | 0, s => s
  | k + 1, s => showLines n k (showLine n s)

/-- Scan-out has reached a LINE of the frame: every active line before it has been shown. -/
def scanTo (n line : Nat) (s : State) : State :=
  let p := pipeAt s n
  let upTo := satN (tLow p.timing 2) (line - vBlank p.timing)
  let s := showLines n (upTo - p.next) s
  if s.fld (fPipeLine n) < line then s.setFld (fPipeLine n) line else s

/-- The pipe scans out. -/
def scanning (s : State) (n : Nat) : Bool := interior s && s.boot.released && s.flag (fPipeActive n)

/-! ### Frames -/

/-- The port's idle state: nothing is sent to the panel (R333, R334). -/
def portIdle (n : Nat) (s : State) : State := setPipe n { pipeAt s n with out := [] } s

/-- The pipe stops: no output, no quiet windows, its set dropped. -/
def stopPipe (n : Nat) (s : State) : State :=
  let s := setActive n false (setRelock n false (setApplyPending n false s))
  let s := s.setFlds [(fPipeEn n, 0), (fQuietValid n, 0), (fPipeLine n, 0)]
  setPipe n { pipeAt s n with stopping := false, planes := [], frames := 0, next := 0, under := none, out := [] } s

/-- The shadows become active, and the table shadows are copied (R330). -/
def applyShadows (n : Nat) (s : State) : State :=
  let p := pipeAt s n
  let tab := fun base => (numsFrom 0 1024).foldl
    (fun m i => Sparse.put (fun _ => 0#32) m i (s.reg (pipeR n (base + 4 * i)))) ([] : Sparse W32)
  let t := timingShadow s n
  let s := setPipe n { p with timing := t, degamma := tab 0x1000, gamma := tab 0x2000 } s
  pipeEvent n 1 (setApplyPending n false s)

/-- The pixel clock relocks: the generator stops, the port idles, the quiet windows end (R337). -/
def relockStart (n cause : Nat) (s : State) : State :=
  let s := setActive n false (setRelock n true s)
  let s := pipeEvent n 3 (s.setFlds [(fQuietValid n, 0), (fPipeLine n, 0)])
  let s := setPipe n { pipeAt s n with frames := 0, next := 0, under := none } s
  logEvent 5 0x142 0 n cause (portIdle n s)

/-- One plane of the set is checked: a failing one is left out, raising CHECK_ERR and one event (R331). -/
def checkPlanes (n units : Nat) : List (Nat × List Nat) → State → List PlaneAct × State
  | [], s => ([], s)
  | (k, w) :: t, s =>
    let ok := planeOk s (pipeAt s n).timing units w
    let s := if plEn w && !ok then logEvent 4 0x143 0 n k (pipeEvent n 7 s) else s
    let (l, s) := checkPlanes n units t s
    ({ words := w, ok := plEn w && ok, row := 0, col := 0, pieces := [] } :: l, s)

/-- A latch: the pending set comes into use, or the previous one is used again (R322, R331). -/
def latchPlanes (n : Nat) (s : State) : State :=
  if s.flag (fFlipPending n) then
    let ws := (numsFrom 0 3).map (fun k => (k, planeWords s n k))
    let units := (ws.filter (fun e => plEn e.2)).foldl (fun a e => a + plUnits e.2) 0
    let (planes, s) := checkPlanes n units ws s
    let p := pipeAt s n
    let s := setPipe n { p with planes := planes } s
    pipeEvent n 0 (s.setFlds [(fShownSeq n, p.seq), (fFlipPending n, 0), (fDispBit n 4, 0)])
  else (pipeCount n 0x124 s).setFld (fDispBit n 4) 1

/-- Prefetch for a frame starts at its vertical blank start: from the first piece of every plane (R325). -/
def startPrefetch (n : Nat) (s : State) : State :=
  let p := pipeAt s n
  let planes := p.planes.map (fun a =>
    { a with row := if plUmz a.words then plBy0 a.words else 0, col := if plUmz a.words then plBx0 a.words else 0, pieces := [] })
  setPipe n { p with planes := planes, next := 0, under := none, ueLogged := false } s

/-- DSI packets waiting are sent within the vertical blank, one a line (R334). -/
def dsiDrain (q lines : Nat) (s : State) : State :=
  let p := portAt s q
  let sent := p.dsi.take lines
  let left := p.dsi.drop lines
  (setPort q { p with dsi := left, sent := (sent.getLast?).orElse (fun _ => p.sent) } s).setFlag (fDsiBusy q) (!left.isEmpty)

/-- The end of a frame: its remaining lines, and the underrun it had (R326). -/
def endFrame (n : Nat) (s : State) : State :=
  let s := scanTo n (vTotal (pipeAt s n).timing) s
  match (pipeAt s n).under with
  | none => s
  | some (f, k) =>
    let s := s.setFld (fDispUnderruns n) ((s.fld (fDispUnderruns n) + 1) % 16)
    pipeEvent n 2 (logEvent 5 0x141 0 n (f + k * 2 ^ 16) s)

/-- A frame begins: FRAME_COUNT, the latch, prefetch, the DSI packets of its blank (R321, R322, R325, R334). -/
def beginFrame (n : Nat) (s : State) : State :=
  let s := setActive n true (s.setFld (fPipeLine n) 0)
  let s := if s.flag ⟨C 0xD0040, 0, 0⟩ then s else s.setFld ⟨pipeR n 0x120, 31, 0⟩ ((s.fld ⟨pipeR n 0x120, 31, 0⟩ + 1) % 2 ^ 32)
  let s := startPrefetch n (latchPlanes n s)
  let q := s.fld (fPipePort n)
  if 2 ≤ q then dsiDrain q (vBlank (pipeAt s n).timing) s else s

/-- A complete frame of the timing in use ended: the second makes QUIET_VALID rise (R327). -/
def countFrame (n : Nat) (s : State) : State :=
  let p := pipeAt s n
  let s := setPipe n { p with frames := satN 2 (p.frames + 1) } s
  if 2 ≤ p.frames + 1 then s.setFld (fQuietValid n) 1 else s

/-- DEV_CONTROL.QUIESCE stops scan-out at the next vertical blank start (Table 4-11), as does the entry of DOZE, OFF or a
power cycle. -/
def quiescing (s : State) : Bool := s.flag fQuiesce || s.core.entryQuiesce

/-- What a vertical blank start does once the frame before it has ended (R321, R329, R330, R337). -/
def vblank (n : Nat) (s : State) : State :=
  if (pipeAt s n).stopping then stopPipe n s
  else if quiescing s then
    let s := setActive n false (s.setFlds [(fQuietValid n, 0), (fPipeLine n, 0)])
    portIdle n (setPipe n { pipeAt s n with frames := 0 } s)
  else if s.flag (fApplyPending n) then
    let old := (pipeAt s n).timing
    let s := applyShadows n s
    let new := (pipeAt s n).timing
    if pclkVco new ≠ pclkVco old || pclkDiv new ≠ pclkDiv old then relockStart n 0 (latchPlanes n s)
    else if new = old then beginFrame n s
    else
      let s := s.setFld (fQuietValid n) 0
      beginFrame n (setPipe n { pipeAt s n with frames := 0 } s)
  else beginFrame n s

/-- VBLANK_START: the frame that ends is finished, then double-buffered state is latched. During a freeze the generator runs on
and every active pixel takes HOLD_COLOUR (R321, R322, Table 15-5). A pipe that a quiesce stopped starts again here once the
quiesce has ended. te is the TE level at the pipe's DSI port. -/
def execVblankStart (pipe : Fin 4) (te : Bool) (s : State) : Res :=
  let n := pipe.val
  let q := s.fld (fPipePort n)
  if s.flag fFrozen then
    done (onlyIf (s.flag (fPipeActive n)) (fun s =>
      let p := pipeAt s n
      setPipe n { p with out := (numsFrom 0 (tLow p.timing 0)).map (fun x => holdPixel s n x 0) } s) s)
  else
    let s := if running s && 2 ≤ q then s.setFlag (fTe q) te else s
    if scanning s n then
      let s := endFrame n s
      let stop := (pipeAt s n).stopping || quiescing s
      let s := if stop || s.flag (fApplyPending n) then s else countFrame n s
      done (vblank n s)
    else done (onlyIf (running s && s.flag (fPipeEn n) && !s.flag (fPipeRelock n) && !quiescing s) (vblank n) s)

/-- A write to FLIP_COMMIT: merge buffers drain, the set is complete; an unlatched commit before it is dropped (R322, R323). -/
def flipCommit (n seq : Nat) (s : State) : State :=
  let s := drainAll s
  let s := if s.flag (fFlipPending n) then pipeCount n 0x128 s else s
  setPipe n { pipeAt s n with seq := seq } (s.setFld (fFlipPending n) 1)

/-- FLIP_COMMIT. -/
def execFlipCommit (pipe : Fin 4) (seq : BitVec 16) (s : State) : Res := done (onlyIf (running s) (flipCommit pipe seq.toNat) s)

/-- PIPE_CTRL.APPLY: checked when written (R330). -/
def pipeApply (n : Nat) (s : State) : State :=
  if applyBad s n then logEvent 4 0x143 0 n 4 (pipeEvent n 7 s) else setApplyPending n true s

/-- APPLY. -/
def execApply (pipe : Fin 4) (s : State) : Res := done (onlyIf (running s) (pipeApply pipe) s)

/-- ENABLE goes from 0 to 1: refused while its port is off or another enabled pipe names the port; else the shadows are applied
at once as with a pixel clock change (R329, R330). -/
def pipeEnable (n : Nat) (s : State) : State :=
  let q := s.fld (fPipePort n)
  if s.flag (fPipeEn n) then s
  else if !s.flag (fPortEn q) || (numsFrom 0 4).any (fun m => m ≠ n && s.flag (fPipeEn m) && s.fld (fPipePort m) = q) then
    logIgnored (pipeR n 0) s
  else if applyBad s n then logEvent 4 0x143 0 n 4 (pipeEvent n 7 s)
  else
    let s := applyShadows n (s.setFld (fPipeEn n) 1)
    relockStart n 0 (setPipe n { pipeAt s n with stopping := false } s)

/-- PIPE_ENABLE. -/
def execPipeEnable (pipe : Fin 4) (s : State) : Res := done (onlyIf (running s) (pipeEnable pipe) s)

/-- ENABLE is cleared: output stops at the next vertical blank start (R329). -/
def pipeDisable (n : Nat) (s : State) : State :=
  if !s.flag (fPipeEn n) then s
  else if s.flag (fPipeActive n) || s.flag (fPipeRelock n) then
    setPipe n { pipeAt s n with stopping := true } (s.setFld (fPipeEn n) 0)
  else stopPipe n s

/-- PIPE_DISABLE. -/
def execPipeDisable (pipe : Fin 4) (s : State) : Res := done (onlyIf (running s) (pipeDisable pipe) s)

/-- PCLK_LOCK_LOST: as R337, from the moment of loss (R54). -/
def execPclkLockLost (pipe : Fin 4) (s : State) : Res := done (onlyIf (scanning s pipe) (relockStart pipe 2) s)

/-- RELOCK_DONE: the generator restarts at a vertical blank start, which counts as a latch (R337). -/
def execRelockDone (pipe : Fin 4) (s : State) : Res :=
  done (onlyIf (running s && s.flag (fPipeRelock pipe)) (fun s =>
    vblank pipe (logEvent 5 0x142 0 pipe 1 (pipeEvent pipe 4 (setRelock pipe false s)))) s)

/-! ### Prefetch -/

/-- Rows of a linear plane that fit its units (R325). -/
def rowsAhead (w : List Nat) : Nat := if plW w = 0 then 0 else plRoom w / (4 * plW w)

/-- Bytes of the pieces a plane holds. -/
def heldBytes (a : PlaneAct) : Nat := a.pieces.foldl (fun t q => t + q.size) 0

/-- The plane has more to fetch in this frame. -/
def fetchLeft (a : PlaneAct) : Bool :=
  a.ok && plW a.words ≠ 0 && plH a.words ≠ 0
    && (if plUmz a.words then a.row ≤ plBy1 a.words else a.row < plH a.words)

/-- The cursor past the piece it stands at. -/
def stepCursor (a : PlaneAct) : PlaneAct :=
  let w := a.words
  if plUmz w then (if a.col < plBx1 w then { a with col := a.col + 1 } else { a with row := a.row + 1, col := plBx0 w })
  else if a.col + 1 < plRowLines w a.row then { a with col := a.col + 1 } else { a with row := a.row + 1, col := 0 }

/-- An uncorrectable scan-out read: counted, one event a frame (R339). -/
def scanUe (n pa : Nat) (s : State) : State :=
  let s := s.addSat ⟨C 0xE0008, 31, 16⟩ 1
  let s := s.setFlds [(⟨C 0xE0010, 31, 6⟩, pa / 64), (⟨C 0xE0014, 15, 0⟩, pa / 2 ^ 32)]
  let p := pipeAt s n
  if p.ueLogged then s else logEvent 2 0x15E 0 n pa (setPipe n { p with ueLogged := true } s)

/-- The piece at a plane's cursor as read from DRAM, and where it lies (R214, R310, R325). -/
def readPiece (a : PlaneAct) (bad : Bool) (s : State) : Piece × Nat :=
  let w := a.words
  if plUmz w then
    let i := a.row * plPitch w + a.col
    let h := leNat (directRead s (plHeader w + i * 4) 4)
    let n := umzBytes h
    let pa := plBase w + i * 256
    let px := umzDecode (plClear w) h (directRead s pa n)
    ({ row := a.row, col := a.col, size := n, px := px, bad := bad || poisoned s (plHeader w + i * 4) 4 || poisoned s pa n }, pa)
  else
    let pa := (plRowAddr w a.row / 64 + a.col) * 64
    ({ row := a.row, col := a.col, size := 64, px := wordsAt (directRead s pa 64) 0 16, bad := bad || poisoned s pa 64 }, pa)

/-- There is room for the piece (R325). -/
def pieceRoom (p : PipeSt) (a : PlaneAct) (q : Piece) : Bool :=
  let w := a.words
  if plUmz w then heldBytes a + q.size ≤ plRoom w else q.row < (p.next - plY w) + rowsAhead w

/-- PREFETCH_ARRIVE: the next piece of a plane comes from DRAM into its units; data whose lines have passed is discarded (R325,
R326). line is the LINE that scan-out has reached. -/
def execPrefetchArrive (pipe : Fin 4) (plane : Fin 3) (line : BitVec 12) (e : Ecc) (s : State) : Res :=
  let n := pipe.val
  done (onlyIf (scanning s n) (fun s =>
    let s := scanTo n line.toNat s
    let p := pipeAt s n
    match p.planes[plane.val]? with
    | none => s
    | some a =>
      if !fetchLeft a then s
      else
        let (q, pa) := readPiece a (e = .uncorrectable) s
        if pieceDone a.words p.next q then
          setPipe n { p with planes := setAt p.planes plane.val (stepCursor a) } s
        else if !pieceRoom p a q then s
        else
          let s := if e = .corrected then noteCe pa s else s
          let s := setPipe n
            { p with planes := setAt p.planes plane.val (stepCursor { a with pieces := a.pieces ++ [q] }) } s
          if q.bad then scanUe n pa s else s) s)

/-- UNDERRUN: at active line LINE the formatter needs a pixel not fetched yet: HOLD_COLOUR to the end of the line (R326). -/
def execUnderrun (pipe : Fin 4) (line : BitVec 12) (s : State) : Res :=
  let n := pipe.val
  done (onlyIf (scanning s n) (fun s =>
    let s := scanTo n line.toNat s
    let p := pipeAt s n
    let y := line.toNat - vBlank p.timing
    if vBlank p.timing ≤ line.toNat && y = p.next && y < tLow p.timing 2
        && (lineFrom s n y (numsFrom 0 (tLow p.timing 0))).2 then showLine n s
    else s) s)

/-! ### Ports -/

/-- PORT_CTRL.ENABLE goes from 0 to 1: an eDP port powers up and trains; a DSI port leaves ULPS for LP-11 and is ready
(Table 15-3, R333, R334). -/
def portEnable (q : Nat) (s : State) : State :=
  if s.flag (fPortEn q) then s
  else
    let s := s.setFlds [(fPortEn q, 1), (fTrainFail q, 0)]
    if q < 2 then setPort q { portAt s q with training := true } s else s.setFld (fLinkUp q) 1

/-- PORT_ENABLE. -/
def execPortEnable (port : Fin 4) (s : State) : Res := done (onlyIf (running s) (portEnable port) s)

/-- PORT_TRAIN_DONE: eDP training ends with LINK_UP or TRAIN_FAIL (R333, R339). -/
def execPortTrainDone (port : Fin 4) (ok : Bool) (detail : BitVec 48) (s : State) : Res :=
  let q := port.val
  done (onlyIf (running s && (portAt s q).training) (fun s =>
    let s := setPort q { portAt s q with training := false } s
    if ok then s.setFlds [(fLinkUp q, 1), (fTrainFail q, 0)]
    else logEvent 5 0x144 0 q detail.toNat (pipeEvent q 6 (s.setFlds [(fLinkUp q, 0), (fTrainFail q, 1)]))) s)

/-- PORT_CTRL.ENABLE is cleared: the port powers down and the pipe that drives it is disabled at once (Table 15-5). -/
def portDisable (q : Nat) (s : State) : State :=
  if !s.flag (fPortEn q) then s
  else
    let s := s.setFlds [(fPortEn q, 0), (fLinkUp q, 0), (fDsiBusy q, 0), (fAuxBusy q, 0)]
    let s := setPort q { portAt s q with training := false, dsi := [] } s
    (numsFrom 0 4).foldl (fun s n =>
      if s.fld (fPipePort n) = q && (s.flag (fPipeEn n) || s.flag (fPipeActive n) || s.flag (fPipeRelock n)) then stopPipe n s
      else s) s

/-- PORT_DISABLE. -/
def execPortDisable (port : Fin 4) (s : State) : Res := done (onlyIf (running s) (portDisable port) s)

/-- A write of AUX_CTRL with GO: a transaction starts on an eDP port unless one runs (Table 15-3). -/
def auxGo (q : Nat) (v : W32) (s : State) : State :=
  if s.flag (fAuxBusy q) then s
  else
    let s' := plainWrite (pipeR q 0x3010) v s
    let listed := ((regRow (pipeR q 0x3010)).map (fun r => fieldsListed r.flds v)).getD false
    if listed && q < 2 then s'.setFld (fAuxBusy q) 1 else s'

/-- AUX_GO. -/
def execAuxGo (port : Fin 4) (v : W32) (s : State) : Res := done (onlyIf (running s) (auxGo port v) s)

/-- AUX_REPLY: the transaction ends; an acknowledged read leaves its bytes in AUX_DATA, byte 0 lowest (Table 15-3). -/
def execAuxReply (port : Fin 4) (result : BitVec 2) (data : List Byte) (s : State) : Res :=
  let q := port.val
  done (onlyIf (running s && s.flag (fAuxBusy q)) (fun s =>
    let s := s.setFlds [(fAuxBusy q, 0), (fAuxResult q, result.toNat)]
    let ctrl := s.reg (pipeR q 0x3010)
    let read := bitsOf ctrl 24 24 = 1
    if result = 0#2 && read then
      let n := bitsOf ctrl 23 20 + 1
      let old := (numsFrom 0 4).flatMap (fun i => leBytes 4 (s.reg (pipeR q (0x3020 + 4 * i))).toNat)
      let got := (data.take n) ++ old.drop (data.take n).length
      (numsFrom 0 4).foldl (fun s i => s.setReg (pipeR q (0x3020 + 4 * i)) (BitVec.ofNat 32 (fieldAt got (4 * i) 4))) s
    else s) s)

/-- Video runs through port q. -/
def videoOn (s : State) (q : Nat) : Bool := (numsFrom 0 4).any (fun n => s.flag (fPipeActive n) && s.fld (fPipePort n) = q)

/-- A write of DSI_CMD with GO: one packet is queued; without video it is sent at once (R334). -/
def dsiCmd (q : Nat) (v : W32) (s : State) : State :=
  let s' := plainWrite (pipeR q 0x3030) v s
  let listed := ((regRow (pipeR q 0x3030)).map (fun r => fieldsListed r.flds v)).getD false
  if !(listed && 2 ≤ q && s'.flag (fPortEn q)) then s'
  else
    let len := bitsOf v 23 16
    let pay := ((numsFrom 0 16).flatMap (fun i => leBytes 4 (s'.reg (pipeR q (0x3040 + 4 * i))).toNat)).take len
    let pkt := (bitsOf v 29 24, len, bitsOf v 15 0, pay)
    let p := portAt s' q
    if videoOn s' q then (setPort q { p with dsi := p.dsi ++ [pkt] } s').setFld (fDsiBusy q) 1
    else setPort q { p with sent := some pkt } s'

/-- DSI_CMD. -/
def execDsiCmd (port : Fin 4) (v : W32) (s : State) : Res := done (onlyIf (running s) (dsiCmd port v) s)

/-- HPD_CHANGE: the debounced HPD level or an IRQ of an eDP port; a fall takes LINK_UP down (R333, Table 15-5). -/
def execHpdChange (port : Fin 4) (level irq : Bool) (s : State) : Res :=
  let q := port.val
  done (onlyIf (running s && q < 2 && (irq || level ≠ s.flag (fHpd q))) (fun s =>
    let s := s.setFlag (fHpd q) level
    let s := if level then s else s.setFld (fLinkUp q) 0
    pipeEvent q 5 s) s)

/-! ### Resets -/

/-- Pipe n and port n return to reset state; another pipe routed to port n is disabled (R338, Table 15-5). -/
def resetPipe (n : Nat) (s : State) : State :=
  let others := (numsFrom 0 4).filter (fun m => m ≠ n && s.flag (fPipeEn m) && s.fld (fPipePort m) = n)
  let s := others.foldl (fun s m => stopPipe m s) s
  let s := resetRange (pipeR n 0) 0x4000 s
  let s := s.setFld ⟨0xA4, 8 * n + 7, 8 * n⟩ 0
  setPort n .empty (setPipe n .empty s)

/-- All pipes and ports (warm reset, DOZE). -/
def resetPipes (s : State) : State := (numsFrom 0 4).foldl (fun s n => resetPipe n s) s

end Sys2Proof.Machine
end

