-- ==== Sys2Proof/Machine/Touch.lean ====
section
/-! DEFINITION. The touch front end (chapter 16): groups, channels and sensors, scans, baselines, touch decisions, recalibration,
the water rule, positions, wake patterns, reports and the FIFO. A scan's counts come with the command that ends it. -/

namespace Sys2Proof.Machine

open Sys2Proof

/-! ### Registers -/

def tR (off : Nat) : Nat := C (0x60000 + off)
def fTchEn : Fld := ⟨tR 0, 31, 31⟩
def fTchSync : Fld := ⟨tR 0, 30, 30⟩
def fTchPipe : Fld := ⟨tR 0, 29, 28⟩
def fTchDump : Fld := ⟨tR 0, 27, 27⟩
def fTchErr : Fld := ⟨tR 0xC, 31, 31⟩
def fTchBad : Fld := ⟨tR 0xC, 28, 24⟩
def fFifoLevel : Fld := ⟨0xA8, 31, 24⟩
def fTouchDropped : Fld := ⟨0xA8, 23, 16⟩
def fPresent : Fld := ⟨0xA8, 15, 15⟩
def fFreeRun : Fld := ⟨0xA8, 14, 14⟩
def fRecal : Fld := ⟨0xA8, 13, 13⟩
def fWater : Fld := ⟨0xA8, 12, 12⟩
def fRate : Fld := ⟨0xA8, 11, 10⟩
def fDropCount : Fld := ⟨tR 0x348, 31, 0⟩

/-- The live trim word of an item and instance (R107): its written value, else its fused default. -/
def trimWord (s : State) (item inst : Nat) : W32 := (Sparse.find s.trim.live (item * 64 + inst)).getD (Config.fusedTrim item inst)

/-- The time in MCLK cycles, carried on in DOZE (R486). -/
def nowCycles (s : State) : Nat := if inDoze s then s.core.carryC.toNat else s.core.timebase.toNat

/-! ### Groups, channels, sensors (R340) -/

def groupMode (s : State) (g : Nat) : Nat := bitsOf (s.reg (tR (0x10 + 4 * g))) 1 0
def groupTx (s : State) (g : Nat) : Nat := bitsOf (s.reg (tR (0x10 + 4 * g))) 15 8
def groupSelf (s : State) (g : Nat) : Bool := groupMode s g = 1 || groupMode s g = 3
def groupMutual (s : State) (g : Nat) : Bool := groupMode s g = 2 || groupMode s g = 3

/-- Pins of a group that are TX, and those that are RX, in ascending order. -/
def txPins (s : State) (g : Nat) : List Nat := (numsFrom 0 8).filter (fun i => bitN (groupTx s g) i)
def rxPins (s : State) (g : Nat) : List Nat := (numsFrom 0 8).filter (fun i => !bitN (groupTx s g) i)

/-- Group of a channel. -/
def chanGroup (c : Nat) : Nat := if c < 64 then c / 8 else (c - 64) / 16

/-- The RX pin of a mutual channel, as a pin number of the device. -/
def chanRx (s : State) (c : Nat) : Option Nat :=
  let g := chanGroup c
  let t := (txPins s g).length
  let k := (c - 64) % 16
  if 64 ≤ c && c < 192 && t < 8 && k / (8 - t) < t then ((rxPins s g)[k % (8 - t)]?).map (fun i => 8 * g + i) else none

/-- The channel is measured (R340). -/
def chanExists (s : State) (c : Nat) : Bool :=
  if c < 64 then groupSelf s (c / 8) else c < 192 && groupMutual s (chanGroup c) && (chanRx s c).isSome

/-- The pin whose trims a channel uses (R344). -/
def trimPin (s : State) (c : Nat) : Nat := if c < 64 then c else (chanRx s c).getD 0

def sensType (s : State) (i : Nat) : Nat := bitsOf (s.reg (tR (0x100 + 16 * i))) 31 30
def sensCount (s : State) (i : Nat) : Nat := bitsOf (s.reg (tR (0x100 + 16 * i))) 26 24 + 1
/-- The channels of a sensor in segment order. -/
def sensChans (s : State) (i : Nat) : List Nat :=
  (numsFrom 0 (sensCount s i)).map (fun k => byteOf (s.reg (tR (0x104 + 16 * i + 4 * (k / 4)))).toNat (k % 4))
/-- The sensors in use. -/
def sensUsed (s : State) : List Nat := (numsFrom 0 32).filter (fun i => sensType s i ≠ 0)

/-- The sensor breaks R356. -/
def sensBad (s : State) (i : Nat) : Bool :=
  let cs := sensChans s i
  let n := cs.length
  cs.any (fun c => !chanExists s c)
    || (cs.any (fun c => c < 64) && cs.any (fun c => 64 ≤ c))
    || cs.dedup.length ≠ n
    || (sensType s i = 1 && n ≠ 1) || (sensType s i = 2 && n < 2) || (sensType s i = 3 && n < 3)

/-- Some DUAL group has no TX pin or no RX pin (R356). -/
def dualBad (s : State) : Bool := (numsFrom 0 8).any (fun g => groupMode s g = 3 && (groupTx s g = 0 || groupTx s g = 255))

def touched (s : State) (i : Nat) : Bool := bitN (s.reg (tR 0x340)).toNat i
def setTouched (i : Nat) (b : Bool) (s : State) : State := s.setFlag ⟨tR 0x340, i, i⟩ b

def chanBase (s : State) (c : Nat) : Nat := bitsOf (s.reg (tR (0x2000 + 4 * c))) 31 16
def chanSignal (s : State) (c : Nat) : Nat := bitsOf (s.reg (tR (0x2000 + 4 * c))) 15 0
def setBase (c v : Nat) (s : State) : State := s.setFld ⟨tR (0x2000 + 4 * c), 31, 16⟩ v
def setSignal (c v : Nat) (s : State) : State := s.setFld ⟨tR (0x2000 + 4 * c), 15, 0⟩ v

/-- DELTA of a channel (R344). -/
def chanDelta (s : State) (c : Nat) : Int :=
  if c < 64 then (chanSignal s c : Int) - chanBase s c else (chanBase s c : Int) - chanSignal s c

def chanThresh (s : State) (c : Nat) : Int := nth s.touch.thresh (trimPin s c) % 65536
def chanHyst (s : State) (c : Nat) : Int := bitsN (nth s.touch.thresh (trimPin s c)) 23 16
def chanAnti (s : State) (c : Nat) : Int := nth s.touch.antiTrim (trimPin s c) % 65536

/-- A sensor's delta: the largest of its channels (R344). -/
def maxDelta (s : State) : List Nat → Int
  | [] => 0
  | [c] => chanDelta s c
  | c :: t => let m := maxDelta s t; if m < chanDelta s c then chanDelta s c else m

/-- STUCK_LIMIT, and TCH_PROC as taken at the scan's start. -/
def tchProc (s : State) (hi lo : Nat) : Nat := bitsN (nth s.touch.cfg 1) hi lo
def waterMin (s : State) (g : Nat) : Int := signedN 16 (nth s.touch.cfg (2 + g))

/-! ### Reports (R354, R358, Table 16-3) -/

/-- TOUCH_STATUS follows the front end's state (Table 3-21). -/
def syncTouch (s : State) : State :=
  let s := s.setFld fFifoLevel s.touch.fifo.length
  let s := s.setFlag fPresent (s.reg (tR 0x340) ≠ 0#32)
  let s := s.setFlag fRecal (s.touch.sens.any (fun x => x.recal.isSome))
  s.setFlag fWater (s.touch.sens.any (fun x => x.water))

/-- A report of type t is made: SEQ counts it; a full FIFO drops it (R354, R67). -/
def report (t sensor pos : Nat) (delta : Int) (water : Bool) (s : State) : State :=
  let d := if -32768 ≤ delta && delta < 32768 then wrapN 16 delta else Config.unstated "report delta" [delta.toNat, (-delta).toNat] % 65536
  let flags := bitVal s.touch.free 0 + bitVal water 1 + bitVal (inDoze s) 2
  let bytes := leBytes 1 t ++ leBytes 1 sensor ++ leBytes 1 flags ++ leBytes 1 s.touch.seq ++ leBytes 2 pos ++ leBytes 2 d
    ++ leBytes 8 (nowCycles s)
  let s := { s with touch := { s.touch with seq := (s.touch.seq + 1) % 256 } }
  if 64 ≤ s.touch.fifo.length then
    (s.addSat fDropCount 1).setFld fTouchDropped ((s.fld fTouchDropped + 1) % 256)
  else { s with touch := { s.touch with fifo := s.touch.fifo ++ [bytes] } }

/-! ### Sensors' state -/

def SensSt.fresh (i n : Nat) : SensSt :=
  { id := i, onCnt := 0, offCnt := 0, waterCnt := 0, water := false, anti := (numsFrom 0 n).map (fun _ => 0), recal := none
    pos := 0, delta := 0 }

def putSens (x : SensSt) (s : State) : State :=
  { s with touch := { s.touch with sens := s.touch.sens.map (fun y => if y.id = x.id then x else y) } }

/-- A sensor is recalibrated with a cause: a touched one reports RELEASE, then its next 4 signals are summed (R349). -/
def recalSens (cause : Nat) (x : SensSt) (s : State) : State :=
  let s := if touched s x.id then setTouched x.id false (report 2 x.id x.pos x.delta false s) else s
  putSens { x with recal := some (cause, 0, x.anti.map (fun _ => 0)), onCnt := 0, offCnt := 0, waterCnt := 0, water := false
                   anti := x.anti.map (fun _ => 0) } s

/-- The sensor's channel is frozen: its sensor is touched, in the water state or recalibrating (R345). -/
def chanFrozen (s : State) (c : Nat) : Bool :=
  s.touch.sens.any (fun x => (sensChans s x.id).contains c && (touched s x.id || x.water || x.recal.isSome))

/-! ### Position (R351) -/

/-- Nearest integer to num / den, halves up, for den > 0. -/
def roundHalfUp (num den : Int) : Int := (2 * num + den) / (2 * den)

/-- Position of a slider or wheel from its segments' deltas, each at least 0; where all of them are 0 none is stated. -/
def position (slider : Bool) (ds : List Nat) : Nat :=
  let n := ds.length
  let top := ds.foldl (fun m d => if m < d then d else m) 0
  let k := (ds.findIdx? (fun d => d = top)).getD 0
  let at' := fun (i : Int) =>
    if slider then (if i < 0 || (n : Int) ≤ i then 0 else nth ds i.toNat)
    else nth ds (i % (n : Int)).toNat
  let dp := at' ((k : Int) - 1)
  let dn := at' ((k : Int) + 1)
  let sum := dp + nth ds k + dn
  if top = 0 then Config.unstated "position" (bitVal slider 0 :: ds) % 1024
  else
    let (sn, sd) : Int × Int := if slider then (1023, n - 1) else (1024, n)
    let p := roundHalfUp ((k : Int) * sn * sum + ((dn : Int) - dp) * sn) (sd * sum)
    if slider then (if p < 0 then 0 else if 1023 < p then 1023 else p.toNat) else (p % 1024).toNat

/-- A sensor's position now; a button has 0. -/
def sensPos (s : State) (i : Nat) : Nat :=
  if sensType s i = 1 then 0 else position (sensType s i = 2) ((sensChans s i).map (fun c => (chanDelta s c).toNat))

/-! ### The water rule (R350) -/

/-- The DUAL group of a self sensor, if it is in one. -/
def dualGroup (s : State) (i : Nat) : Option Nat :=
  ((sensChans s i).find? (fun c => c < 64 && groupMode s (c / 8) = 3)).map (fun c => c / 8)

/-- The largest mutual DELTA of the group's channels whose RX pin is one of the sensor's; with no such channel it is not stated. -/
def support (s : State) (i g : Nat) : Int :=
  let cs := (numsFrom (64 + 16 * g) 16).filter (fun c =>
    chanExists s c && (match chanRx s c with | some p => (sensChans s i).contains p | none => false))
  if cs.isEmpty then signedN 17 (Config.unstated "support" [i, g]) else maxDelta s cs

/-! ### Scans -/

/-- Groups that this scan measures: every group that is not OFF; in DOZE only those holding a sensor of an enabled wake
pattern (R341, R353). -/
def scanGroups (s : State) : List Nat :=
  let on := (numsFrom 0 8).filter (fun g => groupMode s g ≠ 0)
  if inDoze s then
    on.filter (fun g => s.touch.wakes.any (fun p => (sensChans s (bitsN p.a 28 24)).any (fun c => chanGroup c = g)))
  else on

/-- Channels that this scan measures. -/
def scanChans (s : State) : List Nat :=
  (numsFrom 0 192).filter (fun c => chanExists s c && (scanGroups s).contains (chanGroup c))

/-- The front end may scan: enabled, not quiesced, not frozen; in DOZE only for enabled patterns (R353, Table 16-6). -/
def mayScan (s : State) : Bool :=
  s.flag fTchEn && !quiescing s && !s.flag fFrozen
    && (if inDoze s then s.flag ⟨0x80, 0, 0⟩ && !s.touch.wakes.isEmpty else running s)

/-- The front end free-runs (R343). -/
def freeRuns (s : State) : Bool := !s.flag fTchSync || inDoze s || !s.flag (fQuietValid (s.fld fTchPipe))

/-- TOUCH_SCAN_START: settings and trims are taken; a change between synchronised and free-running is logged and reported
(R342, R343, R356, R357). -/
def execTouchScanStart (s : State) : Res :=
  done (onlyIf (mayScan s && !s.touch.scanning) (fun s =>
    let free := freeRuns s
    let cfg := [(s.reg (tR 4)).toNat, (s.reg (tR 8)).toNat] ++ (numsFrom 0 8).map (fun g => (s.reg (tR (0x30 + 4 * g))).toNat)
    let words := fun item => (numsFrom 0 64).map (fun i => (trimWord s item i).toNat)
    let s := { s with touch := { s.touch with scanning := true, free := free, cfg := cfg, gain := words 7, thresh := words 8, antiTrim := words 9 } }
    if free ≠ s.flag fFreeRun then
      let s := logEvent 5 0x161 0 (s.fld fTchPipe) (if free then 0 else 1) (s.setFlag fFreeRun free)
      syncTouch (report 7 0 0 (Config.unstated "SYNC delta" [s.touch.seq] % 32768 : Nat) false s)
    else s) s)

/-- TOUCH_SCAN_OVERRUN: a synchronised scan not ended one period after its start runs on freely (R342). -/
def execTouchScanOverrun (s : State) : Res :=
  done (onlyIf (mayScan s && s.touch.scanning && !s.touch.free) (fun s =>
    { (s.addSat ⟨tR 0x34C, 31, 0⟩ 1) with touch := { s.touch with free := true } }) s)

/-- SIGNAL of a count under a GAIN (R344). -/
def signalOf (gain count : Nat) : Nat := satN 65535 (count * (gain % 65536) / 256)

/-- Every measured channel gets its SIGNAL. -/
def takeSignals (counts : List (BitVec 16)) : List Nat → State → State
  | [], s => s
  | c :: t, s =>
    let count := ((counts[c]?).getD 0#16).toNat
    takeSignals counts t (setSignal c (signalOf (nth s.touch.gain (trimPin s c)) count) s)

/-- One scan of the initial capture: the eighth sets every channel's BASELINE to the mean of its eight signals (R345). -/
def initScan (chans : List Nat) (s : State) : State :=
  let sums := chans.foldl (fun m c => Sparse.put (fun _ => 0) m c (Sparse.get (fun _ => 0) m c + chanSignal s c)) s.touch.initSums
  if s.touch.initLeft = 1 then
    let s := chans.foldl (fun s c => setBase c (Sparse.get (fun _ => 0) sums c / 8) s) s
    { s with touch := { s.touch with initLeft := 0, initSums := [] } }
  else { s with touch := { s.touch with initLeft := s.touch.initLeft - 1, initSums := sums } }

/-- A recalibrating sensor takes one scan; the fourth sets its baselines and reports RECAL (R349). -/
def recalScan (x : SensSt) (cause k : Nat) (sums : List Nat) (s : State) : State :=
  let cs := sensChans s x.id
  let sums := (cs.zip sums).map (fun e => e.2 + chanSignal s e.1)
  if k = 3 then
    let s := (cs.zip sums).foldl (fun s e => setBase e.1 (e.2 / 4) s) s
    let x := { x with recal := none, delta := maxDelta s cs }
    report 5 x.id cause x.delta false (putSens x s)
  else putSens { x with recal := some (cause, k + 1, sums) } s

/-- A sensor that is not recalibrating takes one scan: anti-touch, touch, release, the water state, movement (R346, R348, R350,
R351). -/
def decide1 (x : SensSt) (s : State) : State :=
  let cs := sensChans s x.id
  let deb := tchProc s 7 4
  let anti := (cs.zip x.anti).map (fun e => if chanDelta s e.1 ≤ -(chanAnti s e.1) then e.2 + 1 else 0)
  let x := { x with delta := maxDelta s cs, anti := anti }
  if anti.any (fun k => tchProc s 15 12 ≤ k) then recalSens 1 x s
  else
    let cond := cs.any (fun c => chanThresh s c ≤ chanDelta s c)
    let rel := cs.all (fun c => chanDelta s c < chanThresh s c - chanHyst s c)
    let wet := match dualGroup s x.id with
      | some g => decide (support s x.id g < waterMin s g)
      | none => false
    if x.water then
      if cond then putSens x s
      else report 4 x.id 0 x.delta false (putSens { x with water := false, waterCnt := 0, onCnt := 0, offCnt := 0 } s)
    else
      let x := { x with onCnt := if cond && !wet then x.onCnt + 1 else 0, waterCnt := if cond && wet then x.waterCnt + 1 else 0
                        offCnt := if rel then x.offCnt + 1 else 0 }
      if deb ≤ x.waterCnt then
        let s := if touched s x.id then setTouched x.id false (report 2 x.id x.pos x.delta false s) else s
        report 4 x.id 0 x.delta true (putSens { x with water := true, waterCnt := 0, onCnt := 0, offCnt := 0 } s)
      else if touched s x.id then
        if deb ≤ x.offCnt then report 2 x.id x.pos x.delta false (setTouched x.id false (putSens { x with offCnt := 0, onCnt := 0 } s))
        else
          let pos := sensPos s x.id
          if pos ≠ x.pos && sensType s x.id ≠ 1 then report 3 x.id pos x.delta false (putSens { x with pos := pos } s)
          else putSens x s
      else if deb ≤ x.onCnt then
        let pos := sensPos s x.id
        report 1 x.id pos x.delta false (setTouched x.id true (putSens { x with pos := pos, offCnt := 0 } s))
      else putSens x s

/-- A sensor whose channels this scan measured takes it. -/
def sensScan (chans : List Nat) (id : Nat) (s : State) : State :=
  match s.touch.sens.find? (fun x => x.id = id) with
  | none => s
  | some x =>
    if (sensChans s id).all (fun c => chans.contains c) then
      match x.recal with
      | some (cause, k, sums) => recalScan x cause k sums s
      | none => decide1 x s
    else s

/-- Baselines move toward their signals where they are not frozen (R345). -/
def drift (chans : List Nat) (s : State) : State :=
  chans.foldl (fun s c =>
    if chanFrozen s c then s
    else
      let d := (chanSignal s c : Int) - chanBase s c
      setBase c ((chanBase s c : Int) + d.tdiv ((2 ^ tchProc s 11 8 : Nat) : Int)).toNat s) s

/-- The scan record of R360; one that would fall outside DRAM clears DUMP_EN and logs. -/
def dumpRecord (chans : List Nat) (s : State) : State :=
  if !s.flag fTchDump || inDoze s then s
  else
    let ix := s.fld ⟨tR 0x35C, 15, 0⟩
    let n := s.fld ⟨tR 0x358, 15, 0⟩
    let base := bitsOf (s.reg (tR 0x350)) 31 9 * 512 + s.fld ⟨tR 0x354, 15, 0⟩ * 2 ^ 32
    let pa := base + ix * 512
    if pa + 512 ≤ dramBytes s / 32 * 31 then
      let body := (numsFrom 0 192).flatMap (fun c => leBytes 2 (if chans.contains c then chanSignal s c else 0))
      let s := directWrite pa (leBytes 8 (nowCycles s) ++ body ++ leBytes 120 0) s
      s.setFld ⟨tR 0x35C, 15, 0⟩ (if n ≤ ix + 1 then 0 else ix + 1)
    else logEvent 4 0x163 0 0 ix (s.setFld fTchDump 0)

/-! ### Wake patterns (R353) -/

/-- A position lies within 64 of another. -/
def near (a b : Nat) : Bool := a ≤ b + 64 && b ≤ a + 64

/-- Milliseconds from a time to now. -/
def msSince (s : State) (t : Nat) : Nat := (nowCycles s - t) / 500000

/-- A pattern sees one scan: its new progress, and whether it matches. -/
def wakeScan (s : State) (p : WakeSt) : WakeSt × Bool :=
  let i := bitsN p.a 28 24
  let on := touched s i
  let limit := p.a % 65536
  match s.touch.sens.find? (fun x => x.id = i) with
  | none => (p, false)
  | some x =>
    if !bitN p.a 30 then
      if !on then ({ p with since := none }, false)
      else
        let t := p.since.getD (nowCycles s)
        ({ p with since := some t }, decide (limit ≤ msSince s t) && p.since.isSome)
    else
      let start := bitsN p.b 25 16
      let stop := bitsN p.b 9 0
      if !on then ({ p with since := none }, false)
      else
        match p.since with
        | some t =>
          -- the positions between START and END never turn back
          let forward := if start ≤ stop then p.last ≤ x.pos else x.pos ≤ p.last
          if near x.pos stop && decide (msSince s t ≤ limit) && forward then ({ p with since := none }, true)
          else if near x.pos start then ({ p with since := some (nowCycles s), last := x.pos }, false)
          else if forward && decide (msSince s t ≤ limit) then ({ p with last := x.pos }, false)
          else ({ p with since := none }, false)
        | none => if near x.pos start then ({ p with since := some (nowCycles s), last := x.pos }, false) else (p, false)

/-- Every pattern taken at DOZE entry sees the scan; a match sets WAKE_STATUS and reports (R353). -/
def wakeScans : Nat → List WakeSt → State → State
  | _, [], s => s
  | k, p :: t, s =>
    let (p', hit) := wakeScan s p
    let s := { s with touch := { s.touch with wakes := s.touch.wakes.map (fun q => if q = p then p' else q) } }
    let s :=
      if hit then
        let i := bitsN p.a 28 24
        let num := patternOf s p k
        let d := ((s.touch.sens.find? (fun x => x.id = i)).map (fun x => x.delta)).getD 0
        report 6 i num d false (wakeEvent 0 (s.setFld ⟨0x84, 4 + num, 4 + num⟩ 1))
      else s
    wakeScans (k + 1) t s
where
  /-- The number of the pattern registers a pattern was taken from. -/
  patternOf (s : State) (p : WakeSt) (k : Nat) : Nat :=
    ((numsFrom 0 4).find? (fun i => (s.reg (tR (0x300 + 8 * i))).toNat = p.a && (s.reg (tR (0x304 + 8 * i))).toNat = p.b)).getD k

/-- TOUCH_SCAN_END: counts become signals, signals baselines, decisions and reports (R344-R353, R360). counts[c] is the count of
channel c. -/
def execTouchScanEnd (counts : List (BitVec 16)) (s : State) : Res :=
  done (onlyIf (mayScan s && s.touch.scanning) (fun s =>
    let chans := scanChans s
    let s := takeSignals counts chans { s with touch := { s.touch with scanning := false } }
    let s := s.setFld ⟨tR 0x344, 31, 0⟩ ((s.fld ⟨tR 0x344, 31, 0⟩ + 1) % 2 ^ 32)
    let s :=
      if s.touch.initLeft ≠ 0 then initScan chans s
      else
        let reached := chans.any (fun c => chanThresh s c ≤ chanDelta s c)
        let s := if reached && !inDoze s then s.setFld fRate 0 else s
        -- a channel that was recalibrating in this scan does not drift in it
        let held := (s.touch.sens.filter (fun x => x.recal.isSome)).flatMap (fun x => sensChans s x.id)
        let s := (s.touch.sens.map (fun x => x.id)).foldl (fun s i => sensScan chans i s) s
        drift (chans.filter (fun c => !held.contains c)) s
    let s := dumpRecord chans s
    let s := if inDoze s then
        wakeScans 0 s.touch.wakes { s with touch := { s.touch with
          dozed := (s.touch.dozed ++ (s.touch.sens.filter (fun x => (sensChans s x.id).all (fun c => chans.contains c))).map (fun x => x.id)).dedup } }
      else s
    syncTouch s) s)

/-- STUCK_RECAL: a sensor touched for STUCK_LIMIT seconds is recalibrated with cause stuck (R347). -/
def execStuckRecal (sensor : Fin 32) (s : State) : Res :=
  done (onlyIf (mayScan s && touched s sensor && bitsN (nth s.touch.cfg 0) 31 24 ≠ 0) (fun s =>
    match s.touch.sens.find? (fun x => x.id = sensor.val) with
    | none => s
    | some x => syncTouch (recalSens 0 x s)) s)

/-- TOUCH_RATE_STEP: IDLE1, then IDLE2 seconds without touch slow the scans (R352). -/
def execTouchRateStep (s : State) : Res :=
  done (onlyIf (mayScan s && !inDoze s && s.reg (tR 0x340) = 0#32 && s.fld fRate < 2) (fun s => s.setFld fRate (s.fld fRate + 1)) s)

/-! ### Enable, disable, recalibrate, reset -/

/-- A write that sets ENABLE: refused on a bad configuration; else the baselines are captured from the next 8 scans (R345, R356). -/
def touchEnable (s : State) : State :=
  if s.flag fTchEn then s
  else
    match (sensUsed s).find? (fun i => sensBad s i) with
    | some i => logEvent 4 0x162 0 0 i (s.setFlds [(fTchErr, 1), (fTchBad, i)])
    | none =>
      if dualBad s then
        -- no sensor caused it
        logEvent 4 0x162 0 0 (s.fld fTchBad) (s.setFld fTchErr 1)
      else
        let s := s.setFlds [(fTchEn, 1), (fTchErr, 0), (fTchBad, 0)]
        syncTouch { s with touch := { s.touch with
          initLeft := 8, initSums := [], scanning := false, free := false
          sens := (sensUsed s).map (fun i => SensSt.fresh i (sensCount s i)) } }

/-- TOUCH_ENABLE. -/
def execTouchEnable (s : State) : Res := done (onlyIf (running s) touchEnable s)

/-- ENABLE is cleared: scanning stops and the pins are high-impedance (R341). -/
def touchDisable (s : State) : State :=
  let s := s.setFlds [(fTchEn, 0), (fFreeRun, 0), (fRate, 0)]
  syncTouch ({ s with touch := { s.touch with initLeft := 0, initSums := [], scanning := false, free := false, sens := [] } }.setReg (tR 0x340) 0#32)

/-- TOUCH_DISABLE. -/
def execTouchDisable (s : State) : Res := done (onlyIf (running s) touchDisable s)

/-- TCH_CTRL.RECAL: every sensor, with cause host (R349). -/
def touchRecal (s : State) : State :=
  if s.flag fTchEn then syncTouch (s.touch.sens.foldl (fun s x => recalSens 2 x s) s) else s

/-- TOUCH_RECAL. -/
def execTouchRecal (s : State) : Res := done (onlyIf (running s) touchRecal s)

/-- RESET_CTRL.TOUCH: scanning stops, the FIFO's reports are counted as dropped, every register of Table 16-1 returns to its reset
value (R362, Table 16-6). The count of dropped reports is added after DROP_COUNT's own reset, so that it shows them. -/
def resetTouch (s : State) : State :=
  let n := s.touch.fifo.length
  let held := s.host.drainTaken
  let s := resetRange (tR 0) 0x10000 s
  let s := (s.setReg 0xA8 0#32).addSat fDropCount n
  let s := s.setFld fTouchDropped (n % 256)
  { s with touch := .empty, host := { s.host with drainTaken := held } }

/-- DOZE entry: the enabled patterns are taken; a swipe that names no slider is ignored and logged (R353, R356). -/
def touchDozeEnter (s : State) : State :=
  let pats := (numsFrom 0 4).map (fun i => ((s.reg (tR (0x300 + 8 * i))).toNat, (s.reg (tR (0x304 + 8 * i))).toNat, i))
  let on := pats.filter (fun p : Nat × Nat × Nat => bitN p.1 31)
  let bad := on.filter (fun p : Nat × Nat × Nat => bitN p.1 30 && sensType s (bitsN p.1 28 24) ≠ 2)
  let good := on.filter (fun p : Nat × Nat × Nat => !(bitN p.1 30 && sensType s (bitsN p.1 28 24) ≠ 2))
  let s := bad.foldl (fun s (p : Nat × Nat × Nat) => logOther 11 (regPa (tR (0x300 + 8 * p.2.2))) s) s
  let s := { s with touch := { s.touch with
    wakes := good.map (fun p : Nat × Nat × Nat => { a := p.1, b := p.2.1, since := none, last := 0 }), dozed := [], scanning := false } }
  s.setFld fRate 3

/-- Return from DOZE: every sensor not scanned in it is recalibrated with cause DOZE exit (R353). -/
def touchDozeExit (s : State) : State :=
  let s := (s.touch.sens.filter (fun x => !s.touch.dozed.contains x.id)).foldl (fun s x => recalSens 3 x s) s
  let s := { s with touch := { s.touch with wakes := [], dozed := [], scanning := false } }
  syncTouch (s.setFld fRate 0)

end Sys2Proof.Machine
end

