-- ==== Sys2Proof/Machine/Camera.lean ====
section
/-! DEFINITION. Camera receivers, frame sync, illuminators and their limiters (chapter 17). Packets come with what they carry;
times of records are the timebase at the command. -/

namespace Sys2Proof.Machine

open Sys2Proof

/-! ### Registers -/

def camR (k off : Nat) : Nat := C (0x70000 + 0x100 * k + off)
def illR (k off : Nat) : Nat := C (0x70300 + 0x10 * k + off)
def fCamEn (k : Nat) : Fld := ⟨camR k 0, 31, 31⟩
def fCamVc (k : Nat) : Fld := ⟨camR k 0, 21, 20⟩
def fCamDt (k : Nat) : Fld := ⟨camR k 0, 16, 16⟩
def fCamPack (k : Nat) : Fld := ⟨camR k 0, 8, 8⟩
def fCamHeight (k : Nat) : Fld := ⟨camR k 4, 28, 16⟩
def fCamWidth (k : Nat) : Fld := ⟨camR k 4, 12, 0⟩
def fCamCount (k : Nat) : Fld := ⟨camR k 0x18, 3, 0⟩
def fCamErr (k : Nat) : Fld := ⟨camR k 0x30, 31, 31⟩
def fReceiving (k : Nat) : Fld := ⟨camR k 0x30, 30, 30⟩
def fCamNext (k : Nat) : Fld := ⟨camR k 0x30, 19, 16⟩
def fOwned (k i : Nat) : Fld := ⟨camR k 0x30, i, i⟩
def fIllMode (k : Nat) : Fld := ⟨illR k 0, 31, 30⟩
def fIllDelay (k : Nat) : Fld := ⟨illR k 4, 31, 16⟩
def fIllWidth (k : Nat) : Fld := ⟨illR k 4, 15, 0⟩
def fIllFault (k : Nat) : Fld := ⟨illR k 8, 31, 31⟩
def fFltPin (k : Nat) : Fld := ⟨illR k 8, 30, 30⟩
def fLimited (k : Nat) : Fld := ⟨illR k 8, 15, 0⟩
def fFsyncEn (k : Nat) : Fld := ⟨C 0x70200, 31 - k, 31 - k⟩

/-- A 48-bit address held as a low register's top bits and a high register's bits 15:0. -/
def addr48 (s : State) (lo hi shift : Nat) : Nat := bitsOf (s.reg lo) 31 shift * 2 ^ shift + bitsOf (s.reg hi) 15 0 * 2 ^ 32

def camBuf (s : State) (k : Nat) : Nat := addr48 s (camR k 8) (camR k 0xC) 12
def camStride (s : State) (k : Nat) : Nat := bitsOf (s.reg (camR k 0x10)) 31 12 * 4096
def camPitch (s : State) (k : Nat) : Nat := bitsOf (s.reg (camR k 0x14)) 11 0 * 64
def camRec (s : State) (k : Nat) : Nat := addr48 s (camR k 0x1C) (camR k 0x20) 5
def camSeq (s : State) (k : Nat) : Nat := addr48 s (camR k 0x24) (camR k 0x28) 3

def camAt (s : State) (k : Nat) : CamSt := (s.cam.cams[k]?).getD .empty
def setCam (k : Nat) (c : CamSt) (s : State) : State := { s with cam := { s.cam with cams := setAt s.cam.cams k c } }
def illAt (s : State) (k : Nat) : IllSt := (s.cam.ills[k]?).getD .empty
def setIll (k : Nat) (i : IllSt) (s : State) : State := { s with cam := { s.cam with ills := setAt s.cam.ills k i } }

/-! ### Regions (R367) -/

/-- A region lies wholly in DRAM below the check store, or wholly in SCRATCH or PINNED leas. -/
def engineRegion (s : State) (a n : Nat) : Bool :=
  if n = 0 then true
  else if a < 0x800000000 then a + n ≤ dramBytes s / 32 * 31
  else
    0x100000000000 ≤ a && a + n ≤ 0x100002000000
      && (numsFrom ((a - 0x100000000000) / 65536) ((a + n - 1 - 0x100000000000) / 65536 - (a - 0x100000000000) / 65536 + 1)).all
        (fun l => roleOf s l = 0 || roleOf s l = 3)

/-- A direct engine's write; false where its lea is no longer SCRATCH or PINNED (Table 17-5). -/
def engineWrite (pa : Nat) (bs : List Byte) (s : State) : Bool × State :=
  match target s pa with
  | .dram _ | .skein _ => (true, directWrite pa bs s)
  | _ => (false, s)

/-! ### Lines (R370) -/

/-- Bits of a pixel. -/
def camDepth (s : State) (k : Nat) : Nat := if s.flag (fCamDt k) then 12 else 10

/-- Bytes of a stored line of WIDTH pixels. -/
def lineBytes (s : State) (k : Nat) : Nat :=
  let w := s.fld (fCamWidth k)
  if s.flag (fCamPack k) then 2 * w else (w * camDepth s k + 7) / 8

/-- Pixels of a CSI-2 payload: RAW10 carries four high bytes and a byte of low bits; RAW12 two high bytes and one of low bits. -/
def rawPixel (raw12 : Bool) (bs : List Byte) (i : Nat) : Nat :=
  if raw12 then fieldAt bs (i / 2 * 3 + i % 2) 1 * 16 + fieldAt bs (i / 2 * 3 + 2) 1 / 16 ^ (i % 2) % 16
  else fieldAt bs (i / 4 * 5 + i % 4) 1 * 4 + fieldAt bs (i / 4 * 5 + 4) 1 / 4 ^ (i % 4) % 4

/-- Whole pixels of a payload. -/
def payloadPixels (raw12 : Bool) (n : Nat) : Nat := if raw12 then n / 3 * 2 else n / 5 * 4

/-- The bytes a line is stored as, at most WIDTH pixels. -/
def storedLine (s : State) (k : Nat) (payload : List Byte) : List Byte :=
  let raw12 := s.flag (fCamDt k)
  let w := s.fld (fCamWidth k)
  if s.flag (fCamPack k) then
    (numsFrom 0 (satN w (payloadPixels raw12 payload.length))).flatMap (fun i => leBytes 2 (rawPixel raw12 payload i))
  else payload.take (lineBytes s k)

/-! ### Frames -/

/-- CAMERA_ENABLE: regions are checked; every buffer becomes device-owned (R367, R369). -/
def cameraEnable (k : Nat) (s : State) : State :=
  if s.flag (fCamEn k) then s
  else
    let n := s.fld (fCamCount k) + 1
    let size := (s.fld (fCamHeight k) - 1) * camPitch s k + lineBytes s k
    let good := engineRegion s (camRec s k) (32 * n) && engineRegion s (camSeq s k) 8
      && (numsFrom 0 n).all (fun i => engineRegion s (camBuf s k + i * camStride s k) size)
    if good then
      let s := s.setFlds [(fCamEn k, 1), (fCamErr k, 0), (fReceiving k, 0), (fCamNext k, 0), (⟨camR k 0x30, 15, 0⟩, 0)]
      setCam k { camAt s k with frame := none, delivered := 0, stray := false } s
    else logEvent 4 0x182 0 k 0 (s.setFld (fCamErr k) 1)

/-- CAMERA_ENABLE. -/
def execCameraEnable (cam : Fin 2) (s : State) : Res := done (onlyIf (running s) (cameraEnable cam) s)

/-- CAM_CTRL.ENABLE is cleared: reception ends and the frame in progress is dropped without a record. -/
def cameraDisable (k : Nat) (s : State) : State :=
  let s := s.setFlds [(fCamEn k, 0), (fReceiving k, 0)]
  setCam k { camAt s k with frame := none } s

/-- Capture runs: enabled, the interior running. -/
def capturing (s : State) (k : Nat) : Bool := running s && s.flag (fCamEn k)

/-- The frame in progress ends: record, then sequence word; the buffer becomes software-owned and NEXT advances (R369, R371,
R385). add: further STATUS bits. A frame dropped whole only ends. -/
def endCamFrame (k add : Nat) (s : State) : State :=
  let c := camAt s k
  match c.frame with
  | none => s
  | some f =>
    let s := s.setFld (fReceiving k) 0
    match f.buf with
    | none => setCam k { c with frame := none } s
    | some b =>
      let short := f.line < s.fld (fCamHeight k)
      let status := f.status ||| add ||| (if short then 2 else 0)
      let stored := satN (s.fld (fCamHeight k)) f.line
      let body := leBytes 8 f.fsync ++ leBytes 8 f.sof ++ leBytes 8 s.core.timebase.toNat ++ leBytes 2 f.number ++ leBytes 2 stored
        ++ leBytes 1 b
      -- a discarded write of the record itself is a DATA_ERR too
      let lost := !engineRegion s (camRec s k + 32 * b) 32 || !engineRegion s (camSeq s k) 8
      let s := if lost && !bitN f.status 6 then logEvent 4 0x185 0 k (camRec s k + 32 * b) s else s
      let status := if lost then status ||| 64 else status
      let (_, s) := engineWrite (camRec s k + 32 * b) (body ++ leBytes 1 status ++ leBytes 2 0) s
      let (_, s) := engineWrite (camSeq s k) (leBytes 8 (c.delivered + 1)) s
      let s := s.setFlds [(fOwned k b, 1), (fCamNext k, if b = s.fld (fCamCount k) then 0 else b + 1)]
      let s := s.setFld ⟨camR k 0x40, 31, 0⟩ ((s.fld ⟨camR k 0x40, 31, 0⟩ + 1) % 2 ^ 32)
      let s := if status &&& 0xF7 = 0 then s else s.addSat ⟨camR k 0x4C, 31, 0⟩ 1
      setCam k { c with frame := none, delivered := c.delivered + 1 } s

/-- A frame starts: into buffer NEXT if the device owns it, else dropped whole (R369). -/
def startCamFrame (k number : Nat) (s : State) : State :=
  let c := camAt s k
  let b := s.fld (fCamNext k)
  let own := s.flag (fOwned k b)
  let f : CamFrame :=
    { buf := if own then none else some b, number := number, fsync := if s.flag (fFsyncEn k) then c.rise else 0
      sof := s.core.timebase.toNat, line := 0, cut := false
      status := bitVal c.limited 3 + bitVal (s.flag (fIllFault k)) 4 }
  let s := if own then s.addSat ⟨camR k 0x44, 31, 0⟩ 1 else s
  setCam k { c with frame := some f, limited := false, stray := false } (s.setFld (fReceiving k) 1)

/-- FRAME_START: a frame start packet of the selected virtual channel; a frame still in progress ends first (R369, R372). A quiesce
stops capture at the end of the frame. -/
def execFrameStart (cam : Fin 2) (vc : BitVec 2) (number : BitVec 16) (s : State) : Res :=
  let k := cam.val
  done (onlyIf (capturing s k && vc.toNat = s.fld (fCamVc k)) (fun s =>
    let s := endCamFrame k 0x81 s
    if quiescing s then s else startCamFrame k number.toNat s) s)

/-- LINE_PACKET: a long packet of the selected channel and type is stored as the frame's next line; outside a frame it is
discarded (R370, R372, R391, Table 17-5). full: the line FIFO overflowed. lost: the 64-byte piece of the line whose FIFO data was
uncorrectable. -/
def execLinePacket (cam : Fin 2) (vc : BitVec 2) (dt : BitVec 6) (payload : List Byte) (crcOk full : Bool)
    (lost : Option (BitVec 8)) (s : State) : Res :=
  let k := cam.val
  let mine := vc.toNat = s.fld (fCamVc k) && dt.toNat = (if s.flag (fCamDt k) then 0x2C else 0x2B)
  done (onlyIf (capturing s k && mine) (fun s =>
    let c := camAt s k
    match c.frame with
    | none => if c.stray then s else setCam k { c with stray := true } (s.addSat ⟨camR k 0x44, 31, 0⟩ 1)
    | some f =>
      let s := if crcOk then s else s.addSat ⟨camR k 0x48, 31, 0⟩ 1
      match f.buf with
      | none => s
      | some b =>
        if full || f.cut then setCam k { c with frame := some { f with cut := true, status := f.status ||| 1 } } s
        else
          let size := payloadPixels (s.flag (fCamDt k)) payload.length ≠ s.fld (fCamWidth k)
          let y := f.line
          let bad := bitVal (!crcOk) 2 + bitVal (size || s.fld (fCamHeight k) ≤ y) 1
          let f := { f with line := y + 1, status := f.status ||| bad }
          if s.fld (fCamHeight k) ≤ y then setCam k { c with frame := some f } s
          else
            let bytes := storedLine s k payload
            let bytes := match lost with
              | none => bytes
              | some i => bytes.take (64 * i.toNat) ++ ((bytes.drop (64 * i.toNat)).take 64).map (fun _ => 0#8)
                  ++ bytes.drop (64 * i.toNat + 64)
            let pa := camBuf s k + b * camStride s k + y * camPitch s k
            let (ok, s) := engineWrite pa bytes s
            let s := if !ok && !bitN f.status 6 then logEvent 4 0x185 0 k pa s else s
            let s := if lost.isSome then logEvent 2 0x19E 0 k (match lost with | some i => i.toNat | none => 0) (raiseInt iErrUncorr s) else s
            setCam k { c with frame := some { f with status := f.status ||| (if !ok || lost.isSome then 64 else 0) } } s) s)

/-- FRAME_END: a frame end packet completes the frame (R371). -/
def execFrameEnd (cam : Fin 2) (vc : BitVec 2) (s : State) : Res :=
  let k := cam.val
  done (onlyIf (capturing s k && vc.toNat = s.fld (fCamVc k)) (endCamFrame k 0) s)

/-- FRAME_TIMEOUT: no packet for 5 ms ends the frame as truncated (R372). -/
def execFrameTimeout (cam : Fin 2) (s : State) : Res := done (onlyIf (capturing s cam) (endCamFrame cam 0x81) s)

/-- CAM_RELEASE: a software-owned buffer returns to the device (R369). -/
def camRelease (k i : Nat) (s : State) : State := s.setFld (fOwned k i) 0

/-- CAM_RELEASE. -/
def execCamRelease (cam : Fin 2) (index : BitVec 4) (s : State) : Res := done (onlyIf (running s) (camRelease cam index.toNat) s)

/-! ### Frame sync and illuminators -/

/-- FSYNC_PULSE: FSYNCk rises at its time; FSYNC stops in a quiesce (R373, Table 17-5). -/
def execFsyncPulse (cam : Fin 2) (s : State) : Res :=
  let k := cam.val
  done (onlyIf (running s && s.flag (fFsyncEn k) && !quiescing s) (fun s =>
    setCam k { camAt s k with rise := s.core.timebase.toNat } s) s)

/-- A strobe was cut or suppressed: LIMITED counts, and the frame it served shows it: in MODE 2, and for a frame that started after
the strobe's FSYNC, the frame in progress; else the next one (R375). -/
def strobeLimited (k : Nat) (s : State) : State :=
  let s := s.addSat (fLimited k) 1
  let c := camAt s k
  match c.frame with
  | some f =>
    if s.fld (fIllMode k) = 2 || (s.flag (fFsyncEn k) && f.fsync = c.rise) then
      setCam k { c with frame := some { f with status := f.status ||| 8 } } s
    else setCam k { c with limited := true } s
  | none => setCam k { c with limited := true } s

/-- min(WIDTH_LIMIT, 2,000) in microseconds (R375, R388). -/
def illLimit (s : State) (k : Nat) : Nat :=
  let w := (trimWord s 0x0A k).toNat % 4096
  if w = 0 || 2000 < w then 2000 else w

/-- STROBE_REQUEST: DELAY after its reference the pin is asked to go high; the limiter suppresses it while FAULT holds or before
9 times the last high time has passed since the pin's fall, which rested tells (R374, R375). -/
def execStrobeRequest (ill : Fin 2) (rested : Bool) (s : State) : Res :=
  let k := ill.val
  done (onlyIf (running s && s.fld (fIllMode k) ≠ 0 && !quiescing s) (fun s =>
    let i := illAt s k
    if s.flag (fIllFault k) || i.high || (i.used && !rested) then strobeLimited k s
    else if s.fld (fIllWidth k) = 0 then s
    else setIll k { high := true, width := s.fld (fIllWidth k), limit := illLimit s k, used := true } s) s)

/-- STROBE_END: after WIDTH, or cut by the limiter at its limit (R375). -/
def execStrobeEnd (ill : Fin 2) (s : State) : Res :=
  let k := ill.val
  done (onlyIf (running s && (illAt s k).high) (fun s =>
    let i := illAt s k
    let s := setIll k { i with high := false } s
    if i.limit < i.width then strobeLimited k s else s) s)

/-- The pin is forced low; a strobe under way counts as truncated (R375). -/
def illForceLow (k : Nat) (s : State) : State :=
  let i := illAt s k
  if i.high then strobeLimited k (setIll k { i with high := false } s) else s

/-- ILL_FAULT: the fault input went low for 1 microsecond, which sets FAULT and forces the pin low, or high again (R376). The
limiter is in the always-on domain, but without MCLK nothing drives the pin high. -/
def execIllFault (ill : Fin 2) (low : Bool) (s : State) : Res :=
  let k := ill.val
  done (onlyIf (s.boot.released && !s.core.porstLow) (fun s =>
    let s := s.setFlag (fFltPin k) low
    if low then
      let s := logEvent 5 0x181 0 k 0 (illForceLow k (s.setFld (fIllFault k) 1))
      let c := camAt s k
      match c.frame with
      | some f => setCam k { c with frame := some { f with status := f.status ||| 16 } } s
      | none => s
    else s) s)

/-- ILL_STAT is written: FAULT clears only while the pin is high (R376). -/
def illStatWrite (k : Nat) (v : W32) (s : State) : State :=
  if bitN v.toNat 31 && !s.flag (fFltPin k) then s.setFld (fIllFault k) 0 else s

/-- FSYNC_CTRL is written: a first EN bit starts an epoch (R373). -/
def fsyncCtrl (v : W32) (s : State) : State :=
  let was := s.flag (fFsyncEn 0) || s.flag (fFsyncEn 1)
  let s := plainWrite (C 0x70200) v s
  let is := s.flag (fFsyncEn 0) || s.flag (fFsyncEn 1)
  if !was && is then { s with cam := { s.cam with epoch := s.core.timebase.toNat } } else s

/-- A freeze: pins low; a frame in progress is marked (Table 17-5). -/
def cameraFreeze (s : State) : State :=
  (numsFrom 0 2).foldl (fun s k =>
    let s := illForceLow k s
    let c := camAt s k
    match c.frame with
    | some f => setCam k { c with frame := some { f with status := f.status ||| 0x21, cut := true } } s
    | none => s) s

/-- After a thaw a frame that the freeze met completes (Table 17-5). -/
def cameraThaw (s : State) : State :=
  (numsFrom 0 2).foldl (fun s k =>
    match (camAt s k).frame with
    | some f => if bitN f.status 5 then endCamFrame k 0 s else s
    | none => s) s

/-- A quiesce drives ILL_DRV low; its end starts a new FSYNC epoch (R375, Table 17-5). -/
def cameraQuiesce (s : State) : State := (numsFrom 0 2).foldl (fun s k => illForceLow k s) s
def cameraResume (s : State) : State := { s with cam := { s.cam with epoch := s.core.timebase.toNat } }

/-- RESET_CTRL.CAMERA: the frame in progress is discarded without a record, pins low, Table 17-1 to reset (R390). The FLT_PIN bits go
on showing the pins. -/
def resetCamera (s : State) : State :=
  let p0 := s.fld (fFltPin 0)
  let p1 := s.fld (fFltPin 1)
  let s := resetRange (C 0x70000) 0x10000 s
  { s.setFlds [(fFltPin 0, p0), (fFltPin 1, p1)] with cam := .empty }

end Sys2Proof.Machine
end

