-- ==== Sys2Proof/Machine/Audio.lean ====
section
/-! DEFINITION. The audio converters and the TDM port (chapter 17). AUDIO_FRAME brings the ADC codes after decimation and the
high-pass filter, whose coefficients the manual does not give, and the words received on TDM_DI. -/

namespace Sys2Proof.Machine

open Sys2Proof

def aR (off : Nat) : Nat := C (0x80000 + off)
def fAudEn : Fld := ⟨aR 0, 31, 31⟩
def fAudRate : Fld := ⟨aR 0, 30, 30⟩
def fTdmEn : Fld := ⟨aR 0, 27, 27⟩
def fAudErr : Fld := ⟨aR 0x60, 31, 31⟩
def fAudRunning : Fld := ⟨aR 0x60, 30, 30⟩
def fClkOk : Fld := ⟨aR 0x60, 29, 29⟩
def fAddrErr : Fld := ⟨aR 0x60, 1, 1⟩
def fClkLost : Fld := ⟨aR 0x60, 0, 0⟩
def fUnderFrames : Fld := ⟨aR 0x64, 31, 0⟩
def fLostFrames : Fld := ⟨aR 0x68, 31, 0⟩
def adcEn (s : State) (k : Nat) : Bool := bitN (s.reg (aR 4)).toNat k
def dacEn (s : State) (k : Nat) : Bool := bitN (s.reg (aR 0xC)).toNat k
def dacMute (s : State) (k : Nat) : Bool := bitN (s.reg (aR 0xC)).toNat (4 + k)
def refByte (s : State) (k : Nat) : Nat := byteOf (s.reg (aR 0x10)).toNat k
def txSlots (s : State) : List Nat := (numsFrom 0 16).filter (fun i => s.flag fTdmEn && bitN (s.reg (aR 0x14)).toNat i)
def rxSlots (s : State) : List Nat := (numsFrom 0 16).filter (fun i => s.flag fTdmEn && bitN (s.reg (aR 0x14)).toNat (16 + i))

/-- A ring: base, blocks, frames per block, position record (R379). -/
structure Ring where
  base : Nat
  blocks : Nat
  frames : Nat
  pos : Nat
deriving DecidableEq, Repr

/-- The capture ring's registers are at 0x020, the playback ring's at 0x040. -/
def ringOf (s : State) (off : Nat) : Ring :=
  { base := addr48 s (aR off) (aR (off + 4)) 6, blocks := bitsOf (s.reg (aR (off + 8))) 21 16
    frames := bitsOf (s.reg (aR (off + 8))) 12 0, pos := addr48 s (aR (off + 12)) (aR (off + 16)) 4 }

/-- Channels of a capture and of a playback frame, in order (R378). -/
def capChannels (s : State) : Nat :=
  ((numsFrom 0 8).filter (fun k => adcEn s k)).length + ((numsFrom 0 4).filter (fun k => bitN (refByte s k) 7)).length + (rxSlots s).length
def playChannels (s : State) : Nat := ((numsFrom 0 4).filter (fun k => dacEn s k)).length + (txSlots s).length

/-- The ring is in use and breaks R367 or has no channel (R387). -/
def ringBad (s : State) (r : Ring) (channels : Nat) : Bool :=
  r.blocks ≠ 0 && (channels = 0 || !engineRegion s r.base (r.blocks * r.frames * 4 * channels) || !engineRegion s r.pos 16)

/-- Frames of a mute or enable ramp, 10 ms (R392). -/
def rampFrames (s : State) : Nat := if s.flag fAudRate then 160 else 480

/-- AUDIO_ENABLE: rings are checked; converters and TDM start, and the DAC outputs ramp (R367, R387, R392). -/
def audioEnable (s : State) : State :=
  if s.flag fAudEn then s
  else if ringBad s (ringOf s 0x20) (capChannels s) || ringBad s (ringOf s 0x40) (playChannels s) then
    logEvent 4 0x182 0 2 0 (s.setFld fAudErr 1)
  else
    let s := s.setFlds [(fAudEn, 1), (fAudErr, 0), (fAudRunning, 1), (fClkOk, if s.core.audclkLost then 0 else 1)]
    { s with aud := { s.aud with
      cap := 0, play := 0, capTime := 0, playTime := 0, dacs := [], tdms := []
      ramp := (numsFrom 0 4).map (fun _ => rampFrames s), muted := bitsOf (s.reg (aR 0xC)) 7 4 } }

/-- AUDIO_ENABLE. -/
def execAudioEnable (s : State) : Res := done (onlyIf (running s) audioEnable s)

/-- AUD_CTRL.ENABLE is cleared: converters and TDM stop. -/
def audioDisable (s : State) : State :=
  let s := s.setFlds [(fAudEn, 0), (fAudRunning, 0)]
  { s with aud := { s.aud with dacs := [], tdms := [] } }

/-- A product divided by 32,768, to an integer; which neighbour an inexact quotient becomes is not stated (R383). -/
def div32k (v : Int) : Int :=
  if v % 32768 = 0 then v / 32768 else v / 32768 + ((Config.unstated "audio rounding" [v.toNat, (-v).toNat] % 2 : Nat) : Int)

/-- Saturation to the 24-bit range, and whether it saturated (R383). -/
def sat24 (v : Int) : Int × Bool := if 8388607 < v then (8388607, true) else if v < -8388608 then (-8388608, true) else (v, false)

/-- The trimmed sample of ADC k (R383, R388). -/
def adcSample (s : State) (k : Nat) (x : BitVec 24) : Int × Bool :=
  let off := signedN 24 (trimWord s 4 k).toNat
  let gain := (trimWord s 3 k).toNat % 65536
  sat24 (div32k ((x.toInt - off) * gain))

/-- The code at DAC k's output for a 24-bit sample, ramp apart (R383). -/
def dacCode (s : State) (k : Nat) (x : Int) : Int :=
  (sat24 (div32k (x * ((trimWord s 5 k).toNat % 65536 : Nat)) + signedN 24 (trimWord s 6 k).toNat)).1

/-- A 24-bit value as a stored S32: the value in bits 31:8 (R378). -/
def s32Word (v : Int) : Nat := wrapN 24 v * 256
/-- The sample of a stored S32: bits 7:0 are ignored. -/
def s32Sample (w : Nat) : Int := signedN 24 (w / 256)

/-- The output of DAC k after its mute ramp: during a ramp the manual gives no shape (R383, R389). -/
def rampOut (s : State) (k : Nat) (y : Int) : Int :=
  let left := nth s.aud.ramp k
  if left ≠ 0 then signedN 24 (Config.unstated "ramp" [wrapN 24 y, left, bitVal (dacMute s k) 0])
  else if dacMute s k then 0 else y

/-- A change of MUTE bits starts ramps (R386). -/
def startRamps (s : State) : State :=
  let now := bitsOf (s.reg (aR 0xC)) 7 4
  let ramp := (numsFrom 0 4).map (fun k => if bitN now k ≠ bitN s.aud.muted k then rampFrames s else nth s.aud.ramp k)
  { s with aud := { s.aud with ramp := ramp, muted := now } }

/-- The audio unit processes a frame boundary. -/
def audioRuns (s : State) : Bool := s.flag fAudEn && s.boot.released && !s.core.audclkLost && !quiescing s

/-- Write a frame of a ring and, at the end of a block, its position record: TIME first, then FRAMES (R379). -/
def ringAdvance (r : Ring) (n time : Nat) (s : State) : State :=
  if r.frames ≠ 0 && (n + 1) % r.frames = 0 then
    let (a, s) := engineWrite (r.pos + 8) (leBytes 8 time) s
    let (b, s) := engineWrite r.pos (leBytes 8 (n + 1)) s
    if a && b then s else logEvent 4 0x185 0 2 r.pos (s.setFld fAddrErr 1)
  else s

/-- One captured frame (R378-R383). Its ADC samples were taken 18 frames before; a DAC reference is what that DAC's output showed
then, which was played 40 frames before; a TDM reference the slot word sent 18 frames before. -/
def captureFrame (adc : List (BitVec 24)) (tdm : List W32) (full : Bool) (s : State) : State :=
  let r := ringOf s 0x20
  if r.blocks = 0 then s
  else if full then logEvent 5 0x183 0 0 1 (s.addSat fLostFrames 1)
  else
    let adcs := ((numsFrom 0 8).filter (fun k => adcEn s k)).map (fun k => (k, adcSample s k ((adc[k]?).getD 0#24)))
    let s := adcs.foldl (fun s e => if e.2.2 then s.setFld ⟨aR 0x60, 8 + e.1, 8 + e.1⟩ 1 else s) s
    let refs := ((numsFrom 0 4).filter (fun k => bitN (refByte s k) 7)).map (fun k =>
      let src := refByte s k % 32
      if src < 4 then nth ((s.aud.dacs[39]?).getD []) src else nth ((s.aud.tdms[17]?).getD []) (src - 16))
    let rx := (rxSlots s).map (fun i => (((tdm[i]?).getD 0#32).toNat / 256) * 256)
    let words := adcs.map (fun e => s32Word e.2.1) ++ refs ++ rx
    let n := s.aud.cap
    let time := if n % r.frames = 0 then s.core.timebase.toNat else s.aud.capTime
    let pa := r.base + (n % (r.blocks * r.frames)) * (4 * words.length)
    let (ok, s) := engineWrite pa (words.flatMap (fun w => leBytes 4 w)) s
    let s := if ok then s else logEvent 4 0x185 0 2 pa (s.setFld fAddrErr 1)
    ringAdvance r n time { s with aud := { s.aud with cap := n + 1, capTime := time } }

/-- One played frame: from the ring while FRAMES < PLAY_LIMIT, else zero and counted (R380). -/
def playFrame (s : State) : State :=
  let r := ringOf s 0x40
  let m := playChannels s
  let n := s.aud.play
  let go := r.blocks ≠ 0 && n < s.aud.limit
  let pa := r.base + (n % (r.blocks * r.frames)) * (4 * m)
  let words := if go then wordsAt (directRead s pa (4 * m)) 0 m else (numsFrom 0 m).map (fun _ => 0)
  let ds := (numsFrom 0 4).filter (fun k => dacEn s k)
  let word := fun (ks : List Nat) k base => nth words (base + (ks.findIdx? (fun i => i = k)).getD 0)
  let dac := (numsFrom 0 4).map (fun k =>
    if dacEn s k then s32Word (rampOut s k (dacCode s k (s32Sample (word ds k 0)))) else 0)
  let tx := (numsFrom 0 16).map (fun i => if (txSlots s).contains i then word (txSlots s) i ds.length / 256 * 256 else 0)
  let s := { s with aud := { s.aud with
    dacs := (dac :: s.aud.dacs).take 41, tdms := (tx :: s.aud.tdms).take 41, ramp := s.aud.ramp.map (fun l => l - 1) } }
  if r.blocks = 0 then s
  else if go then
    let time := if n % r.frames = 0 then s.core.timebase.toNat else s.aud.playTime
    ringAdvance r n time { s with aud := { s.aud with play := n + 1, playTime := time } }
  else s.addSat fUnderFrames 1

/-- AUDIO_FRAME: at a frame boundary one frame is captured and one played. During a freeze outputs are zero and the capture is lost
(R379-R383, Table 17-5). -/
def execAudioFrame (adc : List (BitVec 24)) (tdm : List W32) (full : Bool) (s : State) : Res :=
  done (onlyIf (audioRuns s) (fun s =>
    if s.flag fFrozen then
      let zero := (numsFrom 0 16).map (fun _ => 0)
      let s := { s with aud := { s.aud with dacs := (zero :: s.aud.dacs).take 41, tdms := (zero :: s.aud.tdms).take 41 } }
      if (ringOf s 0x20).blocks = 0 then s else s.addSat fLostFrames 1
    else if interior s then playFrame (captureFrame adc tdm full s)
    else s) s)

/-- A write of PLAY_LIMIT_HI takes the new limit, low word from PLAY_LIMIT_LO (R380). -/
def playLimitSet (hi : W32) (s : State) : State :=
  let s := s.setReg (aR 0x58) hi
  { s with aud := { s.aud with limit := (s.reg (aR 0x54)).toNat + hi.toNat * 2 ^ 32 } }

/-- PLAY_LIMIT_SET. -/
def execPlayLimitSet (hi : W32) (s : State) : Res := done (onlyIf (running s) (playLimitSet hi) s)

/-- AUDCLK_LOSS: converters and the TDM port stop; CLK_LOST (R54, Table 17-5). -/
def execAudclkLoss (s : State) : Res :=
  done (onlyIf (!s.core.porstLow && !s.core.audclkLost) (fun s =>
    let s := { s with core := { s.core with audclkLost := true } }
    if s.boot.released then logEvent 5 0x184 0 0 0 (s.setFlds [(fClkOk, 0), (fClkLost, 1)]) else s) s)

/-- AUDCLK_RESUME: AUDCLK present for 1 ms: capture and playback go on, playback with a ramp (R390). -/
def execAudclkResume (s : State) : Res :=
  done (onlyIf (!s.core.porstLow && s.core.audclkLost) (fun s =>
    let s := { s with core := { s.core with audclkLost := false } }
    if s.boot.released then
      logEvent 5 0x184 0 0 1 (({ s with aud := { s.aud with ramp := (numsFrom 0 4).map (fun _ => rampFrames s) } }).setFld fClkOk 1)
    else s) s)

/-- QUIESCE = 0: audio resumes at the next ring frame with a ramp (Table 17-5). -/
def audioResume (s : State) : State := { s with aud := { s.aud with ramp := (numsFrom 0 4).map (fun _ => rampFrames s) } }

/-- RESET_CTRL.AUDIO: outputs high-impedance with no ramp, Table 17-3 to reset (R390). -/
def resetAudio (s : State) : State := { resetRange (aR 0) 0x10000 s with aud := .empty }

end Sys2Proof.Machine
end

