-- ==== Sys2Proof/Machine/PeerLink.lean ====
section
/-! DEFINITION. Peer links: the flit with its Reed-Solomon code and CRC, replay, credits, packets, training and link states, outgoing
requests (chapter 18). Incoming requests are performed in Machine/PeerIn.lean. -/

namespace Sys2Proof.Machine

open Sys2Proof

/-! ### The flit code (R395) -/

/-- A product in GF(2^8) with x^8 + x^4 + x^3 + x^2 + 1. -/
def gfMul (a b : Nat) : Nat :=
  ((numsFrom 0 8).foldl (fun (t : Nat × Nat) i =>
    (if bitN b i then t.1 ^^^ t.2 else t.1, if 128 ≤ t.2 then (t.2 * 2) ^^^ 0x11D else t.2 * 2)) (0, a)).1

def gfPow (a : Nat) : Nat → Nat
  | 0 => 1
  | n + 1 => gfMul a (gfPow a n)

def gfInv (a : Nat) : Nat := gfPow a 254

/-- The four parity symbols of 60 data symbols; the generator is x^4 + 15 x^3 + 54 x^2 + 120 x + 64. -/
def rsParity (data : List Nat) : List Nat :=
  data.foldl (fun r d =>
    let f := d ^^^ nth r 0
    [nth r 1 ^^^ gfMul f 15, nth r 2 ^^^ gfMul f 54, nth r 3 ^^^ gfMul f 120, gfMul f 64]) [0, 0, 0, 0]

/-- Syndrome j of a codeword, first symbol of highest degree. -/
def rsSyndrome (c : List Nat) (j : Nat) : Nat := c.foldl (fun t v => gfMul t (gfPow 2 j) ^^^ v) 0

/-- Flip the symbol of degree p by e. -/
def rsFix (c : List Nat) (p e : Nat) : List Nat := c.zipIdx.map (fun x => if x.2 = 63 - p then x.1 ^^^ e else x.1)

/-- Correct up to two symbols of a codeword: the codeword and how many were corrected; none where the decoding fails. -/
def rsCorrect (c : List Nat) : Option (List Nat × Nat) :=
  let s0 := rsSyndrome c 0
  let s1 := rsSyndrome c 1
  let s2 := rsSyndrome c 2
  let s3 := rsSyndrome c 3
  if s0 = 0 && s1 = 0 && s2 = 0 && s3 = 0 then some (c, 0)
  else
    let det := gfMul s0 s2 ^^^ gfMul s1 s1
    if det = 0 then
      -- one error: s1 = e x, s0 = e
      if s0 = 0 || s1 = 0 || gfMul s1 s3 ≠ gfMul s2 s2 then none
      else
        let x := gfMul s1 (gfInv s0)
        match (numsFrom 0 64).find? (fun p => gfPow 2 p = x) with
        | some p => some (rsFix c p s0, 1)
        | none => none
    else
      let inv := gfInv det
      let l1 := gfMul (gfMul s0 s3 ^^^ gfMul s1 s2) inv
      let l2 := gfMul (gfMul s1 s3 ^^^ gfMul s2 s2) inv
      match (numsFrom 0 64).filter (fun p => let x := gfPow 2 p; gfMul x x ^^^ gfMul l1 x ^^^ l2 = 0) with
      | [p, q] =>
        let x1 := gfPow 2 p
        let x2 := gfPow 2 q
        let e1 := gfMul (gfMul s0 x2 ^^^ s1) (gfInv (x1 ^^^ x2))
        some (rsFix (rsFix c p e1) q (s0 ^^^ e1), 2)
      | _ => none

/-- Codeword k of a flit, as numbers. -/
def flitWord (f : List Byte) (k : Nat) : List Nat :=
  (numsFrom 0 60).map (fun i => fieldAt f (4 * i + k) 1) ++ (numsFrom 0 4).map (fun i => fieldAt f (240 + 4 * i + k) 1)

/-- The 240 bytes before the parity, corrected, and the symbols corrected; none for a bad flit (R395). -/
def flitDecode (f : List Byte) : Option (List Byte × Nat) :=
  match rsCorrect (flitWord f 0), rsCorrect (flitWord f 1), rsCorrect (flitWord f 2), rsCorrect (flitWord f 3) with
  | some (a, na), some (b, nb), some (c, nc), some (d, nd) =>
    let body := (numsFrom 0 240).map (fun i =>
      BitVec.ofNat 8 (nth (if i % 4 = 0 then a else if i % 4 = 1 then b else if i % 4 = 2 then c else d) (i / 4)))
    if crc32c (body.take 236) = fieldAt body 236 4 then some (body, na + nb + nc + nd) else none
  | _, _, _, _ => none

/-- A flit of Table 18-1. -/
def flitEncode (slots : List Byte) (ftype seq ack : Nat) (cr : List Nat) : List Byte :=
  let body := slots.take 224 ++ leBytes (224 - slots.length) 0 ++ leBytes 1 ftype ++ leBytes 3 (seq % 4096 + ack % 4096 * 4096)
    ++ (numsFrom 0 4).flatMap (fun v => leBytes 2 (nth cr v))
  let body := body ++ leBytes 4 (crc32c body)
  let par := (numsFrom 0 4).map (fun k => rsParity ((numsFrom 0 60).map (fun i => fieldAt body (4 * i + k) 1)))
  body ++ (numsFrom 0 4).flatMap (fun i => (numsFrom 0 4).flatMap (fun k => leBytes 1 (nth ((par[k]?).getD []) i)))

/-! ### Registers and state of a port -/

def peerR (n off : Nat) : Nat := C (0x90000 + 0x4000 * n + off)
def fLkPresent (n : Nat) : Fld := ⟨0x9C, 8 * n + 7, 8 * n + 7⟩
def fLkState (n : Nat) : Fld := ⟨0x9C, 8 * n + 6, 8 * n + 4⟩
def fLkRole (n : Nat) : Fld := ⟨0x9C, 8 * n + 3, 8 * n + 3⟩
def fLkLoop (n : Nat) : Fld := ⟨0x9C, 8 * n + 2, 8 * n + 2⟩
def fLkErr (n : Nat) : Fld := ⟨0x9C, 8 * n + 1, 8 * n + 1⟩
def fLcEnable (n : Nat) : Fld := ⟨0xA0, 8 * n + 7, 8 * n + 7⟩
def fLcRole (n : Nat) : Fld := ⟨0xA0, 8 * n + 6, 8 * n + 6⟩
def fLcLoop (n : Nat) : Fld := ⟨0xA0, 8 * n + 5, 8 * n + 5⟩
def fLcAuto (n : Nat) : Fld := ⟨0xA0, 8 * n + 4, 8 * n + 4⟩
def fRetryMax (n : Nat) : Fld := ⟨peerR n 0, 31, 24⟩
def fErrThresh (n : Nat) : Fld := ⟨peerR n 0, 15, 4⟩
def fTrainResult (n : Nat) : Fld := ⟨peerR n 8, 31, 28⟩
def fBadLanes (n : Nat) : Fld := ⟨peerR n 8, 27, 20⟩
def fPeerQuiesced (n : Nat) : Fld := ⟨peerR n 8, 19, 19⟩
def fFastEq (n : Nat) : Fld := ⟨peerR n 8, 18, 18⟩
def fOutTags (n : Nat) : Fld := ⟨peerR n 8, 12, 0⟩
def fCredit (n v : Nat) : Fld := ⟨peerR n (0x70 + 4 * v), 15, 0⟩

def peerAt (s : State) (n : Nat) : PeerPort := (s.peer.ports[n]?).getD .empty
def setPeer (n : Nat) (p : PeerPort) (s : State) : State := { s with peer := { ports := setAt s.peer.ports n p } }

/-- Count in port counter i (Table 18-8). -/
def bumpPeer (n i k : Nat) (s : State) : State := bump (s.flag ⟨peerR n 0, 0, 0⟩) (0x90100 + 0x4000 * n + 8 * i) k s

def partner (n : Nat) : Nat := if n % 2 = 0 then n + 1 else n - 1
/-- The port is joined to its partner inside the device (R413). -/
def looped (s : State) (n : Nat) : Bool := s.flag (fLcLoop n) && s.flag (fLcLoop (partner n))

/-- The link carries packets: up or quiesced. -/
def linkLive (s : State) (n : Nat) : Bool := s.fld (fLkState n) = 2 || s.fld (fLkState n) = 3

/-! ### Packets (R399-R403) -/

/-- The virtual channel of a PTYPE: 0 REQUEST, 1 RESPONSE, 2 MESSAGE, 3 MANAGEMENT; none for an unlisted one (Table 18-2). -/
def ptypeVc (t : Nat) : Option Nat :=
  if t = 1 || t = 2 || t = 3 then some 0 else if t = 0x81 then some 1 else if t = 0x41 then some 2
  else if 0xC1 ≤ t && t ≤ 0xC6 then some 3 else none

/-- Slots that hold n bytes. -/
def slotsFor (n : Nat) : Nat := (n + 15) / 16

/-- The PTYPE of the request a completion's tag belongs to. -/
def tagKind (p : PeerPort) (tag : Nat) : Option Nat :=
  match p.tags.find? (fun t => t.tag = tag) with
  | some t => some (fieldAt t.packet 0 1)
  | none => (p.heldTags.find? (fun t => t.1 = tag)).map (fun t => t.2)

/-- Slots of a packet by its header (Table 18-2). The data slots of a completion for a tag that nothing of this port names
cannot be told; it counts as its header. -/
def packetSlots (p : PeerPort) (h : List Byte) : Nat :=
  let t := fieldAt h 0 1
  if t = 2 then 1 + slotsFor (bitsN (fieldAt h 1 1) 5 0 + 1)
  else if t = 3 then 2
  else if t = 0x81 && fieldAt h 1 1 = 0 then
    match tagKind p (fieldAt h 2 2 % 4096) with
    | some 1 => 1 + slotsFor (fieldAt h 4 1 + 1)
    | some 3 => 2
    | _ => 1
  else 1

/-- Cut a slot stream into packets: packets, unlisted headers met, and the bytes of a packet not complete yet. -/
def cutPackets (p : PeerPort) : Nat → List Byte → List InPkt × Nat × List Byte
  | 0, bs => ([], 0, bs)
  | n + 1, bs =>
    if bs.length < 16 then ([], 0, bs)
    else
      let h := bs.take 16
      if h.all (fun b => b = 0#8) then cutPackets p n (bs.drop 16)
      else if (ptypeVc (fieldAt h 0 1)).isNone then
        let (l, u, r) := cutPackets p n (bs.drop 16)
        (l, u + 1, r)
      else
        let k := 16 * packetSlots p h
        if bs.length < k then ([], 0, bs)
        else
          let (l, u, r) := cutPackets p n (bs.drop k)
          (⟨bs.take k⟩ :: l, u, r)

/-- Move packets whose virtual channel has credit for all their slots to the slots ready for flits (R400); a channel whose oldest
packet must wait lets no later one of it pass. -/
def pumpGo (n : Nat) : List (Nat × List Byte) → List Nat → State → List (Nat × List Byte) × State
  | [], _, s => ([], s)
  | (v, bs) :: t, blocked, s =>
    let k := bs.length / 16
    if !blocked.contains v && k ≤ s.fld (fCredit n v) then
      let s := s.setFld (fCredit n v) (s.fld (fCredit n v) - k)
      let p := peerAt s n
      pumpGo n t blocked (setPeer n { p with ready := p.ready ++ bs } s)
    else
      let (l, s) := pumpGo n t (v :: blocked) s
      ((v, bs) :: l, s)

def pump (n : Nat) (s : State) : State :=
  let (l, s) := pumpGo n (peerAt s n).waiting [] s
  setPeer n { peerAt s n with waiting := l } s

/-- Send a packet, whole slots, on its virtual channel (R399, R400). -/
def sendPacket (n v : Nat) (bs : List Byte) (s : State) : State :=
  let p := peerAt s n
  pump n (setPeer n { p with waiting := p.waiting ++ [(v, bs ++ leBytes (slotsFor bs.length * 16 - bs.length) 0)] } s)

/-- A 16-byte management packet or message: PTYPE, and a 64-bit VALUE in bytes 15:8. -/
def shortPacket (ptype code source value : Nat) : List Byte :=
  leBytes 1 ptype ++ leBytes 1 code ++ leBytes 2 source ++ leBytes 4 0 ++ leBytes 8 value

/-- A completion (Table 18-4). -/
def answer (n : Nat) (hdr : List Byte) (status : Nat) (data : List Byte) (s : State) : State :=
  sendPacket n 1 (leBytes 1 0x81 ++ leBytes 1 status ++ leBytes 2 (fieldAt hdr 2 2) ++ leBytes 1 (fieldAt hdr 1 1) ++ leBytes 11 0 ++ data) s

/-! ### Link state -/

/-- STATE changes: INT_STATUS.LINK, and an event with its cause (R412, R414, Table 21-3). -/
def setLink (n st cause : Nat) (s : State) : State :=
  let old := s.fld (fLkState n)
  if old = st then s
  else raiseInt iLink (logEvent 5 0x1A1 0 n (cause + st * 2 ^ 4 + old * 2 ^ 8) (s.setFld (fLkState n) st))

/-- An outgoing request ends with a status: its tag is free, a failure is counted and logged, the engine finds the result (R406). -/
def endRequest (n : Nat) (t : PeerTag) (status : Nat) (data : List Byte) (s : State) : State :=
  let p := peerAt s n
  let p := { p with tags := p.tags.filter (fun x => x.tag ≠ t.tag) }
  let p := if t.owner = [2] then p else { p with ended := p.ended ++ [⟨t.owner, status, data⟩] }
  let s := (setPeer n p s).setFld (fOutTags n) p.tags.length
  let s := if 0x10 ≤ status then bumpPeer n 6 1 s else s
  if status = 0 then s else logEvent 5 0x1A3 0 n (status + t.tag * 2 ^ 16) s

/-- Every outstanding request completes with PEER_LOST (R414). -/
def loseRequests (n : Nat) : List PeerTag → State → State
  | [], s => s
  | t :: r, s => loseRequests n r (endRequest n t 0x10 [] s)

/-- The link goes down (R414): lanes idle, requests lost, requests not issued dropped, credits, replay buffer and tags zeroed. -/
def linkDown (n cause : Nat) (s : State) : State :=
  if s.fld (fLkState n) = 0 then s
  else
    let s := loseRequests n (peerAt s n).tags s
    let p := peerAt s n
    let s := setPeer n { PeerPort.empty with ended := p.ended, msgs := p.msgs, bad := p.bad, downWait := true } s
    let s := s.setFlds ((numsFrom 0 4).map (fun v => (fCredit n v, 0)))
    bumpPeer n 3 1 (setLink n 0 cause s)

/-- The port may train: ENABLE, and the peer present; a loopback pair needs both ports enabled and looped with different roles
(R412, R413). -/
def canTrain (s : State) (n : Nat) : Bool :=
  s.flag (fLcEnable n) && !quiescing s
    && (if s.flag (fLcLoop n) then
        s.flag (fLcLoop (partner n)) && s.flag (fLcEnable (partner n)) && s.fld (fLcRole n) ≠ s.fld (fLcRole (partner n))
      else s.flag (fLkPresent n))

/-- Training starts at Detect, in loopback at Align; MANAGEMENT holds 4 slots of credit, the other channels none (R400, R412,
R413). -/
def trainStart (n : Nat) (s : State) : State :=
  let s := setLink n 1 0 s
  let s := s.setFlds ([(fTrainResult n, 0), (fBadLanes n, 0), (fFastEq n, 0)] ++ (numsFrom 0 4).map (fun v => (fCredit n v, if v = 3 then 4 else 0)))
  let p := peerAt s n
  setPeer n { PeerPort.empty with ended := p.ended, msgs := p.msgs, bad := p.bad, advert := [0, 0, 0, 4], step := if s.flag (fLcLoop n) then 3 else 1 } s

/-- Train where the port is down and may; a loopback pair trains together. -/
def tryTrain (n : Nat) (s : State) : State :=
  if s.fld (fLkState n) = 0 && canTrain s n then
    let s := trainStart n s
    if s.flag (fLcLoop n) && s.fld (fLkState (partner n)) = 0 then trainStart (partner n) s else s
  else s

/-- Training fails: STATE down, the step and lanes recorded, logged (R412). -/
def trainFail (n result lanes : Nat) (s : State) : State :=
  let p := peerAt s n
  let s := setPeer n { PeerPort.empty with ended := p.ended, msgs := p.msgs, bad := p.bad } s
  let s := s.setFlds ([(fLkState n, 0), (fTrainResult n, result), (fBadLanes n, lanes)] ++ (numsFrom 0 4).map (fun v => (fCredit n v, 0)))
  raiseInt iLink (logEvent 5 0x1A2 0 n (result + lanes * 2 ^ 8) s)

/-! ### Receiving flits (R396, R397) -/

/-- The position of a SEQ within the window after ACK: 0 for one already covered. -/
def covered (ack seq : Nat) : Bool := (ack + 4096 - seq) % 4096 < 2048

/-- Receive slots this device advertises, by virtual channel (R400). -/
def receiveCap (v : Nat) : Nat := nth [2048, 2048, 64, 16] v

/-- Receive slots of a virtual channel that packets not yet consumed occupy (Table 20-1). -/
def slotsTaken (p : PeerPort) (v : Nat) : Nat :=
  let own := fun (b : List Byte) => ptypeVc (fieldAt b 0 1) = some v
  p.inbox.foldl (fun a k => if own k.bytes then a + k.bytes.length / 16 else a) (if own p.part then p.part.length / 16 else 0)

/-- A failed ledger 0-31 takes the port's link down with cause credit (R444). -/
def creditFailure (i cap free held : Nat) (s : State) : State :=
  linkDown (i % 16 / 4) 3 (ledgerFailure i cap free held 0 s)

/-- A good flit's ACK and credit counts. A count that returns more slots than were spent is a ledger failure (R444). -/
def takeControl (n : Nat) (b : List Byte) (s : State) : State :=
  let p := peerAt s n
  let ack := fieldAt b 225 3 / 4096
  let replay := p.replay.filter (fun r => !covered ack r.seq)
  let resend := match p.resend with
    | some q => if replay.any (fun r => r.seq = q) then some q else replay.head?.map (fun r => r.seq)
    | none => none
  let cr := (numsFrom 0 4).map (fun v => fieldAt b (228 + 2 * v) 2)
  let now := fun v => s.fld (fCredit n v) + (nth cr v + 65536 - nth p.seen v) % 65536
  match (numsFrom 0 4).find? (fun v => nth p.advert v < now v) with
  | some v => creditFailure (16 + 4 * n + v) (nth p.advert v) (now v) 0 s
  | none =>
    let s := s.setFlds ((numsFrom 0 4).map (fun v => (fCredit n v, now v)))
    pump n (setPeer n { peerAt s n with replay := replay, resend := resend, seen := cr } s)

/-- A flit is discarded: the first of a run makes a NAK due (R397). -/
def discardFlit (n : Nat) (s : State) : State :=
  let p := peerAt s n
  if p.skipping then s else setPeer n { p with skipping := true, nakDue := true } s

/-- A virtual channel whose received packets need more slots than this device advertised (R444). -/
def overfull (p : PeerPort) : Option Nat := (numsFrom 0 4).find? (fun v => receiveCap v < slotsTaken p v)

/-- The port receives packets: its link is up or quiesced, or it trains at Credit. -/
def portLive (s : State) (n : Nat) : Bool := linkLive s n || (s.fld (fLkState n) = 1 && (peerAt s n).step = 4)

/-- One flit at a port whose link is up, or that trains at Credit. -/
def flitReceive (n : Nat) (f : List Byte) (s : State) : State :=
  match flitDecode f with
  | none =>
    let s := bumpPeer n 1 1 s
    discardFlit n (setPeer n { peerAt s n with bad := (peerAt s n).bad + 1 } s)
  | some (b, fixed) =>
    let s := takeControl n b (bumpPeer n 0 fixed s)
    let p := peerAt s n
    let ftype := fieldAt b 224 1
    if !portLive s n then s
    else if ftype = 0 then
      let seq := fieldAt b 225 3 % 4096
      if seq = (p.ack + 1) % 4096 then
        let stream := p.part ++ b.take 224
        let (pk, bad, rest) := cutPackets p (stream.length / 16 + 1) stream
        let q := { p with ack := seq, skipping := false, part := rest, inbox := p.inbox ++ pk }
        match overfull q with
        | some v => creditFailure (4 * n + v) (receiveCap v) (receiveCap v - slotsTaken p v) (slotsTaken q v) s
        | none => bumpPeer n 7 bad (setPeer n q s)
      else discardFlit n s
    else if ftype = 2 then setPeer n { p with nakGot := true } s
    else s

/-- The port receives flits: its link is up or quiesced, or it trains at Credit. -/
def receives (s : State) (n : Nat) : Bool := running s && portLive s n

/-- FLIT_RECEIVE. -/
def execFlitReceive (port : Fin 4) (flit : List Byte) (s : State) : Res :=
  done (onlyIf (receives s port && flit.length = 256) (flitReceive port flit) s)

/-- Replay from ACK + 1; a flit already replayed 8 times takes the link down (R397). -/
def startReplay (n : Nat) (s : State) : State :=
  let p := peerAt s n
  match p.replay with
  | [] => setPeer n { p with nakGot := false } s
  | r :: _ =>
    if 8 ≤ r.times then linkDown n 2 (s.setFld (fTrainResult n) 7)
    else bumpPeer n 2 1 (setPeer n { p with nakGot := false, resend := some r.seq } s)

/-- NAK_RECEIVED. -/
def execNakReceived (port : Fin 4) (s : State) : Res :=
  done (onlyIf (receives s port && (peerAt s port).nakGot) (startReplay port) s)

/-- REPLAY_TIMEOUT: 1 microsecond without ACK progress while the buffer holds flits (R397). -/
def execReplayTimeout (port : Fin 4) (s : State) : Res :=
  done (onlyIf (receives s port && !(peerAt s port).replay.isEmpty) (startReplay port) s)

/-- LINK_SILENCE: no good flit for 2 microseconds (R398). -/
def execLinkSilence (port : Fin 4) (s : State) : Res :=
  done (onlyIf (running s && linkLive s port) (linkDown port 1) s)

/-! ### Sending flits -/

/-- The flit the port sends in this cycle, and the port after it: a NAK that is due, a replayed flit, new slots, or idle (R396,
R397). -/
def nextFlit (p : PeerPort) : List Byte × PeerPort :=
  if p.nakDue then (flitEncode [] 2 p.seq p.ack p.freed, { p with nakDue := false })
  else
    match p.resend with
    | some q =>
      (match p.replay.find? (fun r => r.seq = q) with
      | some r =>
        let next := p.replay.find? (fun x => x.seq = (q + 1) % 4096)
        (flitEncode r.slots 0 q p.ack p.freed,
          { p with resend := next.map (fun x => x.seq)
                   replay := p.replay.map (fun x => if x.seq = q then { x with times := x.times + 1 } else x) })
      | none => (flitEncode [] 1 p.seq p.ack p.freed, { p with resend := none }))
    | none =>
      if p.ready.isEmpty || 256 ≤ p.replay.length then (flitEncode [] 1 p.seq p.ack p.freed, p)
      else
        let q := (p.seq + 1) % 4096
        let slots := p.ready.take 224
        (flitEncode slots 0 q p.ack p.freed,
          { p with seq := q, ready := p.ready.drop 224, replay := p.replay ++ [⟨q, slots, 0⟩] })

/-- The port sends one flit; in loopback its partner receives it (R393, R413). -/
def transmit (n : Nat) (s : State) : State :=
  if receives s n then
    let (f, p) := nextFlit (peerAt s n)
    let s := setPeer n { p with tx := some f } s
    if looped s n && receives s (partner n) then flitReceive (partner n) f s else s
  else s

/-- One MCLK cycle of every port. -/
def transmitAll (s : State) : State := (numsFrom 0 4).foldl (fun s n => transmit n s) s

/-! ### Training (R412) -/

/-- Every equalisation word of the port is valid (R412, R417). -/
def eqValid (s : State) (n : Nat) : Bool :=
  (numsFrom (8 * n) 8).all (fun i => bitN (trimWord s 0x0B i).toNat 31 && bitN (trimWord s 0x0C i).toNat 31)

/-- Write a live trim word (R107). -/
def setTrim (item inst : Nat) (v : W32) (s : State) : State :=
  { s with trim := { s.trim with live := Sparse.insert s.trim.live (item * 64 + inst) v } }

/-- A full equalisation's values become the port's live trim words, VALID = 1: the eight TX words, then the eight RX words. -/
def learnEq (n : Nat) (learned : List W32) (s : State) : State :=
  (numsFrom 0 8).foldl (fun s i =>
    setTrim 0x0C (8 * n + i) (((learned[8 + i]?).getD 0#32) ||| 0x80000000#32)
      (setTrim 0x0B (8 * n + i) (((learned[i]?).getD 0#32) ||| 0x80000000#32) s)) s

/-- The CREDIT_ADVERT this device sends (R400). -/
def creditAdvert : List Byte := leBytes 2 0xC1 ++ leBytes 2 2048 ++ leBytes 2 2048 ++ leBytes 2 64 ++ leBytes 2 16 ++ leBytes 6 0

/-- TRAIN_STEP_DONE: a step completes and the next begins, or training fails; a failed fast equalisation is done again in full
(R412). learned: what a full equalisation found. -/
def execTrainStepDone (port : Fin 4) (r : TrainStep) (learned : List W32) (s : State) : Res :=
  let n := port.val
  let p := peerAt s n
  done (onlyIf (running s && s.fld (fLkState n) = 1 && 1 ≤ p.step && p.step ≤ 3) (fun s =>
    match r with
    | .roleConflict => trainFail n 5 0 s
    | .failed lanes =>
      if p.step = 2 && s.flag (fFastEq n) then s.setFld (fFastEq n) 0 else trainFail n p.step lanes.toNat s
    | .ok =>
      if p.step = 1 then setPeer n { p with step := 2 } (s.setFlag (fFastEq n) (eqValid s n))
      else if p.step = 2 then
        let s := if s.flag (fFastEq n) then s else learnEq n learned s
        setPeer n { p with step := 3 } s
      else sendPacket n 3 creditAdvert (setPeer n { p with step := 4 } s)) s)

/-- NO_LEAD: two responders; Detect ends after 100 ms (R412). -/
def execNoLead (port : Fin 4) (s : State) : Res :=
  done (onlyIf (running s && s.fld (fLkState port) = 1 && (peerAt s port).step = 1 && s.flag (fLcRole port)) (trainFail port 6 0) s)

/-- AUTO_RETRAIN_START: 100 microseconds after the link went down (R414). -/
def execAutoRetrainStart (port : Fin 4) (s : State) : Res :=
  done (onlyIf (running s && (peerAt s port).downWait && s.flag (fLcAuto port)) (tryTrain port) s)

/-- LINK_CTRL.ENABLE is set (R412). -/
def linkEnable (n : Nat) (s : State) : State := tryTrain n (s.setFld (fLcEnable n) 1)

/-- LINK_ENABLE. A port whose ENABLE is set already waits for software to clear it first (R414). -/
def execLinkEnable (port : Fin 4) (s : State) : Res := done (onlyIf (running s && !s.flag (fLcEnable port)) (linkEnable port) s)

/-- LINK_CTRL.ENABLE is cleared: DETACH is sent where the link is up or quiesced, then the link goes down (R415). -/
def linkDisable (n : Nat) (s : State) : State :=
  let s := s.setFld (fLcEnable n) 0
  let s := if linkLive s n then transmit n (sendPacket n 3 (shortPacket 0xC6 0 0 0) s) else s
  let s := linkDown n 0 s
  setPeer n { peerAt s n with downWait := false, msgs := 0 } s

/-- LINK_DISABLE. -/
def execLinkDisable (port : Fin 4) (s : State) : Res := done (onlyIf (running s && s.flag (fLcEnable port)) (linkDisable port) s)

/-- One byte of a LINK_CTRL write: ROLE, LOOP and AUTO_RETRAIN, then ENABLE; LOOP cleared while looped takes both links down
(R413, Table 18-8a). -/
def linkCtrlByte (n v : Nat) (s : State) : State :=
  let was := looped s n && (s.fld (fLkState n) ≠ 0)
  let s := s.setFlds [(fLcRole n, bitsN v 6 6), (fLcLoop n, bitsN v 5 5), (fLcAuto n, bitsN v 4 4)]
  let s := if was && !bitN v 5 then linkDown (partner n) 0 (linkDown n 0 s) else s
  if bitN v 7 then (if s.flag (fLcEnable n) then s else linkEnable n s)
  else if s.flag (fLcEnable n) then linkDisable n s else s

/-- An accepted presence change: PRESENT, and training or the end of a link (R53, R415). -/
def presentChange (n : Nat) (b : Bool) (s : State) : State :=
  let s := s.setFlag (fLkPresent n) b
  if s.flag (fLcLoop n) then s
  else if b then tryTrain n s
  else if s.fld (fLkState n) = 1 then trainFail n (peerAt s n).step 0 s
  else linkDown n 5 s

/-! ### Outgoing requests (R404-R406) -/

/-- The tag of a new request: which free one is a free value. -/
def freeTag (n : Nat) (s : State) : Option Nat × State :=
  let p := peerAt s n
  let used := fun t => p.tags.any (fun x => x.tag = t) || p.heldTags.any (fun x => x.1 = t)
  let (k, s) := takeFree 4096 s
  (((numsFrom k 4096).map (fun t => t % 4096)).find? (fun t => !used t), s)

/-- Issue a request through the peer window of port n (R401, R404): PTYPE, bytes, window offset, SUB and TYPE of an atomic, data
slots. False where no tag is free or new requests are not issued. -/
def issueRequest (n ptype len off sub type : Nat) (data : List Byte) (owner : List Nat) (s : State) : Bool × State :=
  if !(peerOpen s n off) || (peerAt s n).quiescing then (false, s)
  else
    match freeTag n s with
    | (none, s) => (false, s)
    | (some tag, s) =>
      let map := (s.reg (peerR n (0x10 + 4 * (off / 2 ^ 40 % 4)))).toNat
      let addr := off % 2 ^ 40 + map % 256 * 2 ^ 40
      let hdr := leBytes 1 ptype ++ leBytes 1 (len - 1) ++ leBytes 2 tag ++ leBytes 1 (bitsN map 30 30 + bitsN map 27 24 * 2)
        ++ leBytes 1 (sub + type * 16) ++ leBytes 6 addr ++ leBytes 4 0
      let packet := hdr ++ data ++ leBytes (slotsFor data.length * 16 - data.length) 0
      let p := peerAt s n
      let s := setPeer n { p with tags := p.tags ++ [⟨tag, owner, packet, 0, false⟩] } s
      (true, sendPacket n 0 packet (s.setFld (fOutTags n) (p.tags.length + 1)))

/-- A request of an owner is outstanding, at any port. -/
def outstanding (s : State) (owner : List Nat) : Bool := s.peer.ports.any (fun p => p.tags.any (fun t => t.owner = owner))

/-- The result an owner's request ended with, if it has ended. -/
def resultOf (s : State) (owner : List Nat) : Option PeerDone :=
  (s.peer.ports.flatMap (fun p => p.ended)).find? (fun d => d.owner = owner)

/-- The engine takes its results. -/
def dropResults (f : List Nat → Bool) (s : State) : State :=
  { s with peer := { ports := s.peer.ports.map (fun p => { p with ended := p.ended.filter (fun d => !f d.owner) }) } }

/-- Post one write through a peer window, for which no engine waits: one WRITE for each 64-byte line (R401, R405). -/
def postWrite (n off : Nat) (bs : List Byte) (s : State) : State :=
  (splitLines (bs.length + 1) off bs).foldl (fun s e => (issueRequest n 2 e.2.length e.1 0 0 e.2 [2] s).2) s

/-- The first packet in the inbox that p accepts is taken; its slots are free again (R396). -/
def takePacket (n : Nat) (f : List Byte → Bool) (s : State) : Option (List Byte × State) :=
  let p := peerAt s n
  match p.inbox.find? (fun k => f k.bytes) with
  | none => none
  | some k =>
    let v := (ptypeVc (fieldAt k.bytes 0 1)).getD 0
    let freed := setAt p.freed v ((nth p.freed v + k.bytes.length / 16) % 65536)
    some (k.bytes, setPeer n { p with inbox := p.inbox.erase k, freed := freed } s)

/-- Act on the first packet of a PTYPE. -/
def onPacketType (n t : Nat) (f : List Byte → State → State) (s : State) : State :=
  match takePacket n (fun b => fieldAt b 0 1 = t) s with
  | none => s
  | some (b, s) => f b s

/-- COMPLETION: for an outgoing request: it ends, or BUSY_RETRY delays its next issue; an unassigned tag is counted as STRAY
(R402, R406). -/
def execCompletion (port : Fin 4) (s : State) : Res :=
  let n := port.val
  done (onlyIf (receives s n) (onPacketType n 0x81 (fun b s =>
    let p := peerAt s n
    match p.tags.find? (fun t => t.tag = fieldAt b 2 2 % 4096) with
    | none => bumpPeer n 7 1 s
    | some t =>
      if fieldAt b 1 1 = 1 then
        let s := bumpPeer n 5 1 s
        if s.fld (fRetryMax n) ≤ t.retry then endRequest n t 0x12 [] s
        else setPeer n { p with tags := p.tags.map (fun x => if x.tag = t.tag then { x with delayed := true } else x) } s
      else endRequest n t (fieldAt b 1 1) (b.drop 16) s)) s)

/-- PEER_REQUEST_REISSUE: RETRY_DELAY after BUSY_RETRY, with the same TAG and RETRY incremented (R406). -/
def execPeerRequestReissue (port : Fin 4) (tag : BitVec 12) (s : State) : Res :=
  let n := port.val
  let p := peerAt s n
  done (onlyIf (running s && linkLive s n) (fun s =>
    match p.tags.find? (fun t => t.tag = tag.toNat && t.delayed) with
    | none => s
    | some t =>
      let packet := t.packet.take 12 ++ leBytes 1 (satN 255 (t.retry + 1)) ++ t.packet.drop 13
      let t' := { t with retry := t.retry + 1, delayed := false, packet := packet }
      sendPacket n 0 packet (setPeer n { p with tags := p.tags.map (fun x => if x.tag = t.tag then t' else x) } s)) s)

/-- PEER_REQUEST_TIMEOUT: no completion 8 microseconds after the latest issue; the tag rests (R406). -/
def execPeerRequestTimeout (port : Fin 4) (tag : BitVec 12) (s : State) : Res :=
  let n := port.val
  done (onlyIf (running s) (fun s =>
    match (peerAt s n).tags.find? (fun t => t.tag = tag.toNat && !t.delayed) with
    | none => s
    | some t =>
      let s := endRequest n t 0x11 [] s
      let p := peerAt s n
      setPeer n { p with heldTags := p.heldTags ++ [(t.tag, fieldAt t.packet 0 1)] } s) s)

/-- TAG_HOLD_EXPIRY: 1 ms after a TIMEOUT its tag may be used again (R406). -/
def execTagHoldExpiry (port : Fin 4) (tag : BitVec 12) (s : State) : Res :=
  let n := port.val
  done (onlyIf (running s) (fun s =>
    let p := peerAt s n
    setPeer n { p with heldTags := p.heldTags.filter (fun t => t.1 ≠ tag.toNat) } s) s)

/-! ### Messages and management (R403, R411, R415, R416) -/

/-- Send a MSG; without a link it is not sent and counts as MSG_DROP (R411, Table 18-8a). -/
def sendMsg (n code source value : Nat) (s : State) : State :=
  if linkLive s n then sendPacket n 2 (shortPacket 0x41 code source value) s else bumpPeer n 7 1 s

/-- MSG_SEND_CTRL.GO. -/
def msgSend (n : Nat) (s : State) : State :=
  sendMsg n 0 0 ((s.reg (peerR n 0x40)).toNat + (s.reg (peerR n 0x44)).toNat * 2 ^ 32) s

/-- MSG_SEND. -/
def execMsgSend (port : Fin 4) (s : State) : Res := done (onlyIf (running s) (msgSend port) s)

/-- An INTERRUPT packet of context c is forwarded by every port whose MSG_FWD names it (R411). -/
def msgForward (c : Nat) (s : State) : State :=
  (numsFrom 0 4).foldl (fun s n => if bitN (s.reg (peerR n 0x4C)).toNat c then sendMsg n 1 c 0 s else s) s

/-- MSG: an incoming message goes to the ring, then its count (R411). -/
def execMsg (port : Fin 4) (s : State) : Res :=
  let n := port.val
  done (onlyIf (receives s n) (onPacketType n 0x41 (fun b s =>
    let entries := bitsOf (s.reg (peerR n 0x58)) 15 0
    if entries = 0 then bumpPeer n 7 1 s
    else
      let p := peerAt s n
      let ring := addr48 s (peerR n 0x50) (peerR n 0x54) 4
      let s := directWrite (ring + (p.msgs % entries) * 16) b s
      let s := directWrite (addr48 s (peerR n 0x5C) (peerR n 0x60) 3) (leBytes 8 (p.msgs + 1)) s
      setPeer n { peerAt s n with msgs := p.msgs + 1 } s)) s)

/-- CREDIT_ADVERT: the peer's slots; the link becomes up (R400, R412). -/
def execCreditAdvert (port : Fin 4) (s : State) : Res :=
  let n := port.val
  done (onlyIf (receives s n && (peerAt s n).step = 4) (onPacketType n 0xC1 (fun b s =>
    let adv := (numsFrom 0 4).map (fun v => fieldAt b (2 + 2 * v) 2)
    let s := s.setFlds ((numsFrom 0 3).map (fun v => (fCredit n v, nth adv v)) ++ [(fCredit n 3, s.fld (fCredit n 3) + nth adv 3 - 4)])
    let s := (s.setFlag (fLkRole n) (s.flag (fLcRole n))).setFlag (fLkLoop n) (s.flag (fLcLoop n))
    let s := setPeer n { peerAt s n with step := 0, advert := adv } s
    pump n (setLink n 2 7 s))) s)

/-- PING: answered with a PONG of the same VALUE (R403). -/
def execPing (port : Fin 4) (s : State) : Res :=
  let n := port.val
  done (onlyIf (receives s n) (onPacketType n 0xC2 (fun b s => sendPacket n 3 (shortPacket 0xC3 0 0 (fieldAt b 8 8)) s)) s)

/-- PONG: PING_RTT gets the cycles since the PING (R416). -/
def execPong (port : Fin 4) (s : State) : Res :=
  let n := port.val
  done (onlyIf (receives s n) (onPacketType n 0xC3 (fun _ s =>
    s.setReg (peerR n 0x68) (BitVec.ofNat 32 (s.core.timebase.toNat - (peerAt s n).pingAt)))) s)

/-- PING_CTRL.GO (R416); which VALUE a PING carries is not stated. -/
def pingSend (n : Nat) (s : State) : State :=
  if linkLive s n then
    let (v, s) := takeFree (2 ^ 64) s
    sendPacket n 3 (shortPacket 0xC2 0 0 v) (setPeer n { peerAt s n with pingAt := s.core.timebase.toNat } s)
  else s

/-- PING_SEND. -/
def execPingSend (port : Fin 4) (s : State) : Res := done (onlyIf (running s) (pingSend port) s)

/-- QUIESCE: the peer issues no new requests (R415). -/
def execQuiesce (port : Fin 4) (s : State) : Res :=
  done (onlyIf (receives s port) (onPacketType port 0xC4 (fun _ s => s.setFld (fPeerQuiesced port) 1)) s)

/-- RESUME (R415). -/
def execResume (port : Fin 4) (s : State) : Res :=
  done (onlyIf (receives s port) (onPacketType port 0xC5 (fun _ s => s.setFld (fPeerQuiesced port) 0)) s)

/-- DETACH: the link goes down at once (R414). -/
def execDetach (port : Fin 4) (s : State) : Res :=
  done (onlyIf (receives s port) (onPacketType port 0xC6 (fun _ s => linkDown port 4 s)) s)

/-- LINK_ERR_WINDOW: at each millisecond ERR follows the bad flits of the last one (R420). -/
def execLinkErrWindow (port : Fin 4) (s : State) : Res :=
  let n := port.val
  done (onlyIf (running s) (fun s =>
    let p := peerAt s n
    let t := s.fld (fErrThresh n)
    setPeer n { p with bad := 0 } (s.setFlag (fLkErr n) (t ≠ 0 && t ≤ p.bad))) s)

/-- A quiesce begins: QUIESCE goes to each peer and no new request is issued (R415, Table 4-11). -/
def peerQuiesce (s : State) : State :=
  (numsFrom 0 4).foldl (fun s n =>
    if s.fld (fLkState n) = 2 && !(peerAt s n).quiescing then
      let s := sendPacket n 3 (shortPacket 0xC4 0 0 0) s
      setPeer n { peerAt s n with quiescing := true } s
    else s) s

/-- A quiescing port whose last request has ended is quiesced: STATE 0b011 (Table 4-11). -/
def peerQuiesceSettle (s : State) : State :=
  (numsFrom 0 4).foldl (fun s n =>
    if s.fld (fLkState n) = 2 && (peerAt s n).quiescing && (peerAt s n).tags.isEmpty then setLink n 3 0 s else s) s

/-- The quiesce ends: RESUME is sent, STATE returns to up (R415). -/
def peerUnquiesce (s : State) : State :=
  (numsFrom 0 4).foldl (fun s n =>
    if (peerAt s n).quiescing then
      let s := setPeer n { peerAt s n with quiescing := false } s
      if linkLive s n then setLink n 2 0 (sendPacket n 3 (shortPacket 0xC5 0 0 0) s) else tryTrain n s
    else if s.fld (fLkState n) = 0 && !(peerAt s n).downWait then tryTrain n s
    else s) s

/-- RESET_CTRL.PEERn: the link goes down, Table 18-6 returns to reset; LINK_CTRL is kept (Table 18-8a). -/
def resetPeer (n : Nat) (s : State) : State :=
  let s := if s.fld (fLkState n) = 1 then trainFail n (peerAt s n).step 0 s else linkDown n 6 s
  let ended := (peerAt s n).ended
  setPeer n { PeerPort.empty with ended := ended } ((resetRange (peerR n 0) 0x4000 s).setFld (fLkErr n) 0)

/-- After a thaw each link is down (Table 18-8a). -/
def peerThaw (s : State) : State :=
  (numsFrom 0 4).foldl (fun s n =>
    if s.fld (fLkState n) = 1 then trainFail n (peerAt s n).step 0 s else linkDown n 1 s) s

/-- A freeze stops transmission: lanes idle. -/
def peerFreeze (s : State) : State :=
  { s with peer := { ports := s.peer.ports.map (fun p => { p with tx := none }) } }

end Sys2Proof.Machine
end

