-- ==== Sys2Proof/Machine/ReelChain.lean ====
section
/-! DEFINITION. Reel chains: descriptors, cursors, starts and ends, preemption, quiesce and reset (chapter 19). The transfer of a
segment, which can reach the control space and the peer windows, is in Machine/ReelRun.lean. -/

namespace Sys2Proof.Machine

open Sys2Proof

/-! ### Descriptor (Table 19-1) -/

def rdOp (d : List Byte) : Nat := fieldAt d 0 1
def rdDims (d : List Byte) : Nat := bitsN (fieldAt d 1 1) 1 0
def rdX (d : List Byte) : Nat := fieldAt d 4 4
def rdSrc (d : List Byte) : Nat := fieldAt d 8 6
def rdDst (d : List Byte) : Nat := fieldAt d 16 6
def rdY (d : List Byte) : Nat := if rdDims d = 0 then 1 else fieldAt d 24 2
def rdZ (d : List Byte) : Nat := if rdDims d < 2 then 1 else fieldAt d 26 2
def rdSrcY (d : List Byte) : Nat := fieldAt d 28 4
def rdDstY (d : List Byte) : Nat := fieldAt d 32 4
def rdSrcZ (d : List Byte) : Nat := fieldAt d 36 4
def rdDstZ (d : List Byte) : Nat := fieldAt d 40 4
def rdSrcHdr (d : List Byte) : Nat := fieldAt d 48 6
def rdDstHdr (d : List Byte) : Nat := fieldAt d 56 6
def rdFill (d : List Byte) : Bool := rdOp d = 2
def rdUmz (d : List Byte) : Bool := rdOp d = 3

/-- The checks of R430. -/
def reelBad (d : List Byte) : Bool :=
  rdOp d = 0 || 3 < rdOp d || rdDims d = 3 || rdX d = 0 || rdY d = 0 || rdZ d = 0
    || (rdUmz d && (rdSrc d % 256 ≠ 0 || rdDst d % 256 ≠ 0 || rdSrcHdr d % 4 ≠ 0 || rdDstHdr d % 4 ≠ 0
        || rdSrcY d < rdX d || rdDstY d < rdX d))

/-- Rows of the box; for UMZ_COPY, blocks. -/
def rdRows (d : List Byte) : Nat := if rdUmz d then rdX d * rdY d * rdZ d else rdY d * rdZ d

/-- Plane, row and, for UMZ_COPY, block within the row, of a row number. -/
def rdPlace (d : List Byte) (row : Nat) : Nat × Nat × Nat :=
  if rdUmz d then (row / (rdX d * rdY d), row / rdX d % rdY d, row % rdX d) else (row / rdY d, row % rdY d, 0)

/-- First byte of a row in the destination and in the source; for UMZ_COPY, of a block's slot (R424, R427). Addresses are 48 bits. -/
def rdRowDst (d : List Byte) (row : Nat) : Nat :=
  let (z, y, x) := rdPlace d row
  (rdDst d + z * rdDstZ d + (if rdUmz d then (y * rdDstY d + x) * 256 else y * rdDstY d)) % 2 ^ 48
def rdRowSrc (d : List Byte) (row : Nat) : Nat :=
  let (z, y, x) := rdPlace d row
  (rdSrc d + z * rdSrcZ d + (if rdUmz d then (y * rdSrcY d + x) * 256 else y * rdSrcY d)) % 2 ^ 48

/-- Header addresses of a block. -/
def rdHdrDst (d : List Byte) (row : Nat) : Nat :=
  let (z, y, x) := rdPlace d row
  (rdDstHdr d + z * rdDstZ d + (y * rdDstY d + x) * 4) % 2 ^ 48
def rdHdrSrc (d : List Byte) (row : Nat) : Nat :=
  let (z, y, x) := rdPlace d row
  (rdSrcHdr d + z * rdSrcZ d + (y * rdSrcY d + x) * 4) % 2 ^ 48

/-! ### Segments -/

/-- The header of a block under way. -/
def Chain.hdr (c : Chain) (row : Nat) : Nat := Sparse.get (fun _ => 0) c.hdrs row

/-- Segments of a row; of a block, its sector pairs and its header, once the header has been read (R427). -/
def Chain.segs (c : Chain) (d : List Byte) (row : Nat) : Nat :=
  if rdUmz d then (umzBytes (c.hdr row) + 63) / 64 + 1
  else (rdRowDst d row % 64 + rdX d + 63) / 64

/-- The segment after a place. -/
def Chain.after (c : Chain) (d : List Byte) (row seg : Nat) : Nat × Nat :=
  if seg + 1 < c.segs d row then (row, seg + 1) else (row + 1, 0)

/-- Source address, destination address and length of a segment. -/
def Chain.span (c : Chain) (d : List Byte) (row seg : Nat) : Nat × Nat × Nat :=
  if rdUmz d then
    if seg + 1 = c.segs d row then (rdHdrSrc d row, rdHdrDst d row, 4)
    else
      let n := umzBytes (c.hdr row) - 64 * seg
      (rdRowSrc d row + 64 * seg, rdRowDst d row + 64 * seg, if n < 64 then n else 64)
  else
    let a := rdRowDst d row
    let o := if seg = 0 then 0 else 64 * seg - a % 64
    let room := 64 - (a + o) % 64
    (rdRowSrc d row + o, a + o, if rdX d - o < room then rdX d - o else room)

/-- The cursor moves past every completed segment (R425); headers of blocks it has left go. -/
def Chain.slide : Nat → List Byte → Chain → Chain
  | 0, _, c => c
  | n + 1, d, c =>
    let (r, g) := c.after d c.curRow c.curSeg
    let c' := { c with cursor := c.cursor + 1, curRow := r, curSeg := g, mask := c.mask / 2, hdrs := c.hdrs.filter (fun e => r ≤ e.1) }
    if c.mask % 2 = 1 then Chain.slide n d c' else c'

/-- Segment n's write has completed. -/
def Chain.complete (c : Chain) (d : List Byte) (n : Nat) : Chain :=
  if n = c.cursor then Chain.slide 33 d c else { c with mask := c.mask ||| 2 ^ (n - c.cursor - 1) }

/-- The segment was completed before: it is marked in the mask (R425). -/
def Chain.isDone (c : Chain) (n : Nat) : Bool := n < c.cursor || (c.cursor < n && bitN c.mask (n - c.cursor - 1))

/-- Issue starts again at the cursor; what was in flight is forgotten. -/
def Chain.rewound (c : Chain) : Chain :=
  { c with flight := [], next := c.cursor, nextRow := c.curRow, nextSeg := c.curSeg }

/-! ### Channels -/

def reelR (ch off : Nat) : Nat := C (0xA0000 + 0x40 * ch + off)
def fReel15Busy : Fld := ⟨C 0xA081C, 31, 31⟩
def fReel15Result : Fld := ⟨C 0xA081C, 15, 0⟩

/-- The chain a channel holds. -/
def chainOf (s : State) (ch : Nat) : Option Chain := Sparse.find s.reel.chains ch

/-- Quiesce stops channels 0-14 (Table 19-5). -/
def reelQuiet (s : State) (ch : Nat) : Bool := ch ≠ 15 && quiescing s

/-- Count in a channel counter (Table 19-2). -/
def bumpReel (ch i n : Nat) (s : State) : State := bump (s.flag ⟨C 0xA0800, 0, 0⟩) (0xA0010 + 0x40 * ch + 8 * i) n s

/-- REEL_STAT, REEL_CUR_ZY, REEL_CUR_X and REEL_DONE_MASK of a channel (Table 19-2). -/
def syncReel (ch : Nat) (s : State) : State :=
  match chainOf s ch with
  | none => (((s.setReg (reelR ch 0) 0#32).setReg (reelR ch 4) 0#32).setReg (reelR ch 8) 0#32).setReg (reelR ch 0xC) 0#32
  | some c =>
    let st :=
      if reelQuiet s ch then (if c.flight.isEmpty then 4 else 3)
      else if c.stop = 1 then 2 else if c.stop = 2 || c.stop = 3 then 3 else 1
    let (z, y, x) := (c.desc.map (fun d => rdPlace d c.curRow)).getD (0, 0, 0)
    let umz := (c.desc.map rdUmz).getD false
    let s := s.setFlds
      [ (⟨reelR ch 0, 31, 31⟩, 1), (⟨reelR ch 0, 30, 28⟩, st), (⟨reelR ch 0, 27, 24⟩, c.ctx)
      , (⟨reelR ch 0, 23, 23⟩, if c.index.isNone then 1 else 0), (⟨reelR ch 0, 15, 0⟩, c.cur)
      , (⟨reelR ch 4, 31, 16⟩, z), (⟨reelR ch 4, 15, 0⟩, y)
      , (⟨reelR ch 8, 31, 0⟩, if umz then x * 8 + c.curSeg else c.curSeg) ]
    s.setReg (reelR ch 0xC) (BitVec.ofNat 32 c.mask)

/-- Store a channel's chain. -/
def putChain (ch : Nat) (c : Chain) (s : State) : State :=
  syncReel ch { s with reel := { s.reel with chains := Sparse.insert s.reel.chains ch c } }

/-- Nobody waits any more for the peer requests of the owners that f picks. -/
def orphan (f : List Nat → Bool) (s : State) : State :=
  { s with peer := { ports := s.peer.ports.map (fun p =>
    { p with tags := p.tags.map (fun t => if f t.owner then { t with owner := [2] } else t)
             ended := p.ended.filter (fun d => !f d.owner) }) } }

/-- Owners of a channel's peer requests. -/
def reelOwner (ch : Nat) (o : List Nat) : Bool := o.take 2 = [1, ch]

/-- A chain from its first descriptor. -/
def Chain.fresh (c : Nat) (index : Option Nat) (addr count : Nat) : Chain :=
  { ctx := c, index := index, addr := addr, count := count, cur := 0, desc := none, cursor := 0, curRow := 0, curSeg := 0
    mask := 0, next := 0, nextRow := 0, nextSeg := 0, flight := [], hdrs := [], malformed := 0, stop := 0, status := 0 }

/-- A packet's chain starts on a free channel (R422). -/
def reelStart (ch c index addr count : Nat) (s : State) : State := putChain ch (.fresh c (some index) addr count) s

/-- The channel waits for no record any more. -/
def reelUnwait (ch : Nat) (s : State) : State :=
  let f := fun (r : FaultRec) => { r with waiters := r.waiters.filter (fun w => w ≠ .reel ch) }
  { s with mmu := { s.mmu with recs := s.mmu.recs.map (fun (e : Nat × FaultRec) => (e.1, f e.2)), held := s.mmu.held.map f } }

/-- The chain of a channel goes. -/
def reelFree (ch : Nat) (s : State) : State :=
  let s := reelUnwait ch s
  let s := { orphan (reelOwner ch) s with reel := { s.reel with chains := Sparse.erase s.reel.chains ch } }
  let s := syncReel ch s
  if ch ≠ 15 then s
  else
    -- a host-started chain that waits takes the channel ahead of any packet (R432)
    match s.reel.host with
    | none => { s with reel := { s.reel with direct := false } }
    | some (a, n) =>
      putChain 15 (.fresh 0 none a n) { s with reel := { s.reel with host := none, direct := true } }

/-- A chain ends: its packet has ended with a status, or RESULT is written and BUSY clears (R423, R432). -/
def chainEnd (ch : Nat) (c : Chain) (status : Nat) (s : State) : State :=
  let s := match c.index with
    | some i => onPacket c.ctx i (fun p => { p with ended := true }) (packetStatus c.ctx i status s)
    | none => s.setFlds [(fReel15Busy, 0), (fReel15Result, status)]
  reelFree ch s

/-- A chain that stops for good ends once nothing is in flight. -/
def settleChain (ch : Nat) (s : State) : State :=
  match chainOf s ch with
  | none => s
  | some c => if c.stop = 3 && c.flight.isEmpty then chainEnd ch c c.status s else syncReel ch s

/-- A channel meets a fault: it waits, or its chain ends with FAULT_ABORTED (Table 19-5). -/
def reelFault (ch va cause lv : Nat) (a : Access) (s : State) : State :=
  match chainOf s ch with
  | none => s
  | some c =>
    let (waits, s) := raiseFault c.ctx va cause lv a 4 ch (.reel ch) s
    if waits then putChain ch { c with stop := if c.stop = 0 then 1 else c.stop } s
    else settleChain ch (putChain ch { c with stop := 3, status := mergeStatus c.status 1 } s)

/-- A channel meets uncorrectable data: its descriptor ends after what is in flight (R435). -/
def reelUe (ch pa : Nat) (s : State) : State :=
  match chainOf s ch with
  | none => s
  | some c =>
    let s := raiseInt iErrUncorr (logEvent 2 0x1DE c.ctx ch pa s)
    settleChain ch (putChain ch { c with stop := 3, status := mergeStatus c.status 6 } s)

/-- A rejected descriptor halts the ring, or ends a host-started chain with RESULT 0x0005 (R430). -/
def reelReject (ch : Nat) (s : State) : State :=
  match chainOf s ch with
  | none => s
  | some c =>
    match c.index with
    | some i => haltRing c.ctx 2 i (putChain ch { c with desc := none, stop := 4 } s)
    | none => chainEnd ch c 5 s

/-- A descriptor completes: the next is read, or the chain ends (R423); its malformed headers are logged once (R427). -/
def descDone (ch : Nat) (c : Chain) (s : State) : State :=
  let s := if c.malformed = 0 then s else logEvent 5 0x1C1 c.ctx ch c.malformed s
  let s := bumpReel ch 1 1 s
  if c.cur + 1 < c.count then
    putChain ch { Chain.fresh c.ctx c.index c.addr c.count with cur := c.cur + 1, stop := c.stop, status := c.status } s
  else chainEnd ch c c.status s

/-- The channel may go on: it holds a chain that nothing stops, and its context runs. -/
def reelGoes (s : State) (ch : Nat) : Option Chain :=
  match chainOf s ch with
  | none => none
  | some c => if c.stop = 0 && !reelQuiet s ch && (c.index.isNone || ctxRuns s c.ctx) then some c else none

/-- REEL_DESCRIPTOR_READ: the next descriptor is read as one coherent 64-byte read, and checked (R423, R430). -/
def execReelDescriptorRead (channel : Fin 16) (e : Ecc) (s : State) : Res :=
  let ch := channel.val
  done (onlyIf (running s) (fun s =>
    match reelGoes s ch with
    | none => s
    | some c =>
      if c.desc.isSome then s
      else
        let va := (c.addr + 64 * c.cur) % 2 ^ 48
        match vread .reel c.ctx va 64 .read (e = .uncorrectable) s with
        | (.fault cause lv, s) => reelFault ch va cause lv .read s
        | (.ue, s) => reelUe ch va s
        | (.ok d, s) =>
          if reelBad d then reelReject ch s
          else syncReel ch (putChain ch { c with desc := some d } s)) s)

/-! ### Host-started chains (R432) -/

/-- REEL15_CTRL with a correct KEY, GO and a nonzero COUNT, while BUSY = 0. -/
def reel15Go (count : Nat) (s : State) : State :=
  if count = 0 || s.flag fReel15Busy then s
  else
    let a := addr48 s (C 0xA0810) (C 0xA0814) 6
    let s := leaveIdle (s.setFld fReel15Busy 1)
    if (chainOf s 15).isSome then { s with reel := { s.reel with host := some (a, count) } }
    else putChain 15 (.fresh 0 none a count) { s with reel := { s.reel with direct := true } }

/-- REEL15_GO. -/
def execReel15Go (count : BitVec 15) (s : State) : Res := done (onlyIf (running s) (reel15Go count.toNat) s)

/-! ### Preemption, context stop, reset (Table 19-5) -/

/-- A preemption of a context begins: no new segment of it is issued. -/
def reelPreempt (c : Nat) (s : State) : State :=
  s.reel.chains.foldl (fun s e =>
    if e.2.ctx = c && e.2.index.isSome && e.2.stop < 2 then putChain e.1 { e.2 with stop := 2 } s else s) s

/-- Every chain of a context has nothing in flight. -/
def reelStill (s : State) (c : Nat) : Bool := s.reel.chains.all (fun e => e.2.ctx ≠ c || e.2.index.isNone || e.2.flight.isEmpty)

/-- The chains of a preempted context are kept and their channels free. -/
def reelSave (c : Nat) (s : State) : State :=
  let mine := s.reel.chains.filter (fun e => e.2.ctx = c && e.2.index.isSome)
  let s := { s with reel := { s.reel with saved := s.reel.saved ++ mine.map (fun e => (c, e.2)) } }
  mine.foldl (fun s e => reelFree e.1 s) s

/-- Channels a packet's CHANNEL byte allows: 0xFF any of 0-14 (Table 7-4). -/
def reelAllowed (channel : Nat) : List Nat := if channel = 0xFF then numsFrom 0 15 else [channel]

/-- A free channel that a packet may take; the manual does not say which of several. -/
def reelFreeChannel (channel : Nat) (s : State) : Option Nat × State :=
  let l := (reelAllowed channel).filter (fun ch => (chainOf s ch).isNone && (ch ≠ 15 || s.reel.host.isNone))
  if l.length ≤ 1 then (l.head?, s)
  else
    let (k, s) := takeFree l.length s
    (l[k]?, s)

/-- Saved chains of a context whose work runs again resume on free channels their packets allow (Table 19-5). -/
def reelRestore (c : Nat) (s : State) : State :=
  (s.reel.saved.filter (fun e => e.1 = c)).foldl (fun s e =>
    let channel := match e.2.index with
      | some i => ((packetOf s c i).map (fun p => pktNat p 28 1)).getD 0xFF
      | none => 0xFF
    match reelFreeChannel channel s with
    | (none, s) => s
    | (some ch, s) =>
      let chain := { e.2.rewound with stop := if e.2.stop = 4 then 4 else 0 }
      putChain ch chain { s with reel := { s.reel with saved := s.reel.saved.erase e } }) s

/-- Chains of a context are discarded: what is in flight is discarded whole (Table 19-5). -/
def reelDrop (c : Nat) (s : State) : State :=
  let s := { s with reel := { s.reel with saved := s.reel.saved.filter (fun e => e.1 ≠ c) } }
  (s.reel.chains.filter (fun e => e.2.ctx = c && e.2.index.isSome)).foldl (fun s e => reelFree e.1 s) s

/-- A retried fault: the channel goes on from its cursor (R425); an aborted one ends its chain (Table 19-5). -/
def reelAnswer (ch : Nat) (retry : Bool) (s : State) : State :=
  match chainOf s ch with
  | none => s
  | some c =>
    if c.stop ≠ 1 then s
    else if retry then
      putChain ch { c.rewound with flight := c.flight, stop := 0 } s
    else settleChain ch (putChain ch { c with stop := 3, status := mergeStatus c.status 1 } s)

/-- The ring resumes at a rejected descriptor, or skips its packet (R430). -/
def reelUnhalt (c index : Nat) (skip : Bool) (s : State) : State :=
  match s.reel.chains.find? (fun e => e.2.ctx = c && e.2.index = some index && e.2.stop = 4) with
  | none => s
  | some e => if skip then chainEnd e.1 e.2 5 s else putChain e.1 { e.2 with stop := 0 } s

/-- RESET_CTRL.REEL: channels 0-14 end their chains with FUNCTION_RESET and their registers return to reset (Table 19-5). -/
def resetReel (s : State) : State :=
  let s := (s.reel.chains.filter (fun e => e.1 ≠ 15)).foldl (fun s e => chainEnd e.1 e.2 3 s) s
  resetRange (reelR 0 0) (15 * 0x40) s

/-- Every channel shows its state (quiesce begins or ends). -/
def syncReels (s : State) : State := s.reel.chains.foldl (fun s e => syncReel e.1 s) s

end Sys2Proof.Machine
end

