-- ==== Sys2Proof/Machine/QueueCore.lean ====
section
/-! DEFINITION. The queue engine's states: doorbells, enabling with the pinning check, stopping, preemption, saving and restoring,
halted rings, and the host's answers to faults (chapter 7, R132, R135, R137). -/

namespace Sys2Proof.Machine

open Sys2Proof

/-- The flyer forgets packets, passes and batches of which nothing is left, so that an index used again counts as new (R216). -/
def forgetSource (c index : Nat) (s : State) : State :=
  { s with fly := { s.fly with seen := s.fly.seen.filter (fun e => !(e.2.1 = c && e.2.2 % 2 ^ 20 = index)) } }

/-! ### Registers of a context (Table 7-1) -/

def rqR (c off : Nat) : Nat := C (0x20000 + 0x40 * c + off)
def fRead (c : Nat) : Fld := ⟨rqR c 0xC, 19, 0⟩
def fWrite (c : Nat) : Fld := ⟨rqR c 0x10, 19, 0⟩
def fSizeLog (c : Nat) : Fld := ⟨rqR c 8, 3, 0⟩
def fGrace (c : Nat) : Fld := ⟨rqR c 8, 23, 16⟩
def fPeerDb (c : Nat) : Fld := ⟨rqR c 8, 31, 31⟩

def ringBase (s : State) (c : Nat) : Nat := addr48 s (rqR c 0) (rqR c 4) 12
def saveBase (s : State) (c : Nat) : Nat := addr48 s (rqR c 0x14) (rqR c 0x18) 16
def fBudget (c : Nat) : Fld := ⟨rqR c 0x1C, 6, 0⟩

/-- Address of the packet with an index (R143). -/
def slotVa (s : State) (c i : Nat) : Nat := (ringBase s c + (i % 2 ^ s.fld (fSizeLog c)) * 64) % 2 ^ 48

/-- The distance from one 20-bit index to another. -/
def idxSub (a b : Nat) : Nat := (a + 2 ^ 20 - b % 2 ^ 20) % 2 ^ 20

/-- IN_FLIGHT, and IDLE or RUNNING, follow from the ring and its packets (R142). -/
def syncQ (c : Nat) (s : State) : State :=
  let q := ctxQ s c
  let n := q.flight.length + (q.saved.map (fun w => w.packets.length)).getD 0
  let s := s.setFld (fQFlight c) n
  let st := s.fld (fQState c)
  let s :=
    if st = 1 || st = 2 then
      s.setFld (fQState c) (if s.fld (fRead c) = s.fld (fWrite c) && n = 0 && q.fetched.isNone then 1 else 2)
    else s
  syncCtx c s

/-! ### Doorbells (R80, R144) -/

/-- The doorbell word (Table 3-12). -/
def doorbellWord (c index : Nat) : Nat := index + c * 2 ^ 28

/-- A completed packet leaves the ring's books. -/
def packetGone (c index : Nat) (s : State) : State :=
  let q := ctxQ s c
  let s := setCtxQ c { q with flight := q.flight.filter (fun p => p.index ≠ index), doneWaiting := q.doneWaiting.filter (fun i => i ≠ index) } s
  syncQ c (forgetSource c index s)

/-- A completion record that was not written is lost (R158). -/
def recordLost (c : Nat) (p : Packet) (s : State) : State := logEvent 2 0x082 c 0 (fieldAt p.bytes 8 6) s

/-- A doorbell from the host (src 0) or from peer port n (src n + 1), once READY. -/
def doorbellNow (src c index : Nat) (s : State) : State :=
  let reject := fun (s : State) => logEvent 4 0x042 c src (doorbellWord c index) s
  if !s.flag (fCtxEn c) || (src ≠ 0 && !s.flag (fPeerDb c)) then raiseInt iDoorbellReject (reject s)
  else
    let r := s.fld (fRead c)
    let w := s.fld (fWrite c)
    let size := 2 ^ s.fld (fSizeLog c)
    if index = w then s
    else if 0 < idxSub index r && idxSub index r ≤ size && idxSub index w ≤ size - idxSub w r then
      syncQ c (leaveIdle (s.setFld (fWrite c) index))
    else reject (s.setFld (fQReject c) 1)

/-- A doorbell; before READY it is held (Table 4-10). -/
def doorbell (src c index : Nat) (s : State) : State :=
  if ready s then doorbellNow src c index s
  else { s with boot := { s.boot with doorbells := s.boot.doorbells ++ [(src, c, index)] } }

/-- READY: the held doorbells are acted on in order (Table 4-10). -/
def releaseDoorbells (s : State) : State :=
  let l := s.boot.doorbells
  l.foldl (fun s d => doorbellNow d.1 d.2.1 d.2.2 s) { s with boot := { s.boot with doorbells := [] } }

/-- HOST_DOORBELL. -/
def execHostDoorbell (c : Fin 16) (index : BitVec 20) (s : State) : Res :=
  done (onlyIf (interior s) (doorbell 0 c index.toNat) s)

/-- PEER_DOORBELL (R144): a peer's write arrives over a link that carries packets. -/
def execPeerDoorbell (port : Fin 4) (c : Fin 16) (index : BitVec 20) (s : State) : Res :=
  done (onlyIf (running s && linkLive s port) (doorbell (1 + port.val) c index.toNat) s)

/-! ### Enabling (R155) -/

/-- The physical page behind a page of the save area, if it passes the pinning check: a PINNED lea, or a page entry with V, W and PIN. -/
def pinnedPage (s : State) (c va : Nat) : Option Nat :=
  let lea : Nat → Bool := fun pa => match target s pa with
    | .skein off => roleOf s (off / 65536) = 3
    | _ => false
  if !s.flag (fXlate c) then (if lea va then some va else none)
  else
    match walkFrom s va 4 (ctxRoot s c) with
    | .page _ e level =>
      let pa := pagePa e level va
      if lea pa then some pa
      else if pteW e && ptePin e && mapped s pa then some pa
      else none
    | .fault _ _ _ => none

/-- All of them, or none. -/
def allSome {α : Type} : List (Option α) → Option (List α)
  | [] => some []
  | none :: _ => none
  | some a :: t => (allSome t).map (fun l => a :: l)

/-- Pages of the save area (R154). -/
def savePageCount (s : State) (c : Nat) : Nat := (s.fld (fBudget c) + 3) * 16

/-- ERROR 0x3 or 0x5 with the context OFF (R141). -/
def queueOffError (c code : Nat) (s : State) : State :=
  let s := (s.setFld (fCtxEn c) 0).setFlds [(fQError c, code), (fQState c, 0), (⟨C 0x20408, c, c⟩, 1)]
  syncCtx c (logEvent 4 0x081 c code (s.fld (fRead c)) s)

/-- CTX_ENABLE goes from 0 to 1: the pages of the save area are checked; STATE becomes IDLE, or the bit clears with ERROR 0x3 (R155).
While the context is STOPPING the bit is kept and the check waits for OFF. -/
def ctxEnable (c : Nat) (s : State) : State :=
  if c = 0 || s.flag (fCtxEn c) then s
  else
    let s := s.setFld (fCtxEn c) 1
    if s.fld (fQState c) ≠ 0 then s else check c s
where
  /-- The pinning check of an OFF context. -/
  check (c : Nat) (s : State) : State :=
    match allSome ((numsFrom 0 (savePageCount s c)).map (fun i => pinnedPage s c ((saveBase s c + 4096 * i) % 2 ^ 48))) with
    | none => queueOffError c 3 s
    | some pages =>
      let s := s.setFlds [(fQError c, 0), (fQReject c, 0), (fQHeld c, 0), (fQState c, 1)]
      syncQ c (setCtxQ c { CtxQ.empty with savePages := pages } s)

/-- CTX_ENABLE_SET. -/
def execCtxEnableSet (c : Fin 16) (s : State) : Res := done (onlyIf (running s) (ctxEnable c) s)

/-- CTX_ENABLE_CLEAR (R157). -/
def execCtxEnableClear (c : Fin 16) (s : State) : Res := done (onlyIf (running s && c ≠ 0) (ctxStop c) s)

/-- CTX_ENABLE as the host writes it. -/
def ctxEnableWrite (v : Nat) (s : State) : State :=
  (numsFrom 1 15).foldl (fun s c =>
    if bitN v c then ctxEnable c s else if s.flag (fCtxEn c) then ctxStop c s else s) s

/-! ### Preemption (R149, R150, R152) -/

/-- A preemption begins: STATE is PREEMPTING and no engine starts more of the context's work. -/
def preemptBegin (c : Nat) (s : State) : State :=
  let s := { s with q := { s.q with busy := some c } }
  syncCtx c (reelPreempt c (s.setFld (fQState c) 3))

/-- The queue engine is free again: the next trigger whose context still runs is acted on (R149). -/
def preemptNext (s : State) : State :=
  if s.q.busy.isSome then s
  else
    match s.q.triggers.find? (fun c => ctxRuns s c) with
    | none => { s with q := { s.q with triggers := [] } }
    | some c => preemptBegin c { s with q := { s.q with triggers := s.q.triggers.erase c } }

/-- Trigger a preemption of a context: at once, or when the one that runs ends. -/
def preemptTrigger (c : Nat) (s : State) : State :=
  if s.q.triggers.contains c then s else preemptNext { s with q := { s.q with triggers := s.q.triggers ++ [c] } }

/-! ### The save area (R154, Table 7-9) -/

/-- Saved rays of a context: every ray in a slot, and every allotment no ray sits in (R293). -/
def rayRecords (s : State) (c : Nat) : Nat := ctxSlots s c

/-- The 64 bytes of the header. -/
def saveHeader (s : State) (c : Nat) (saved : Bool) (inFlight plyBytes rayBytes : Nat) : List Byte :=
  leBytes 2 1 ++ leBytes 1 (if saved then 1 else 0) ++ leBytes 1 c ++ leBytes 4 0 ++ leBytes 8 s.core.timebase.toNat
    ++ leBytes 4 (s.fld (fRead c)) ++ leBytes 4 inFlight ++ leBytes 4 plyBytes ++ leBytes 4 rayBytes ++ leBytes 32 0

/-- One page of the save area: the header and packet copies, and device-defined content, which nothing fixes. -/
def savePage (seq : Nat) (head : List Byte) (page : Nat) : List Byte :=
  let own := (head.drop (4096 * page)).take 4096
  own ++ (numsFrom (4096 * page + own.length) (4096 - own.length)).map
    (fun o => BitVec.ofNat 8 (Config.unstated "save area" [seq, o]))

/-- Write the pages that a save uses: header and cursors, records, and those of plies over the budget. -/
def writeSave (c : Nat) (head : List Byte) (bytes extra : Nat) (s : State) : State :=
  let pages := (ctxQ s c).savePages
  let last := pages.length - 32
  let used := numsFrom 0 (16 + (bytes + 4095) / 4096) ++ numsFrom last ((extra + 4095) / 4096)
  let (seq, s) := (s.free, { s with free := s.free + 1 })
  used.foldl (fun s i => match pages[i]? with
    | some pa => memWrite false pa (savePage seq head i) s
    | none => s) s

/-- Every engine has brought the context's work to its preemption point (Table 7-8): no load, store or atomic that has an address
is outstanding, and no segment is in flight. -/
def atPoints (s : State) (c : Nat) : Bool :=
  s.fly.plies.all (fun e => e.2.owner.ctx ≠ c || e.2.mem.all (fun o => o.todo.all (fun a => a.pa.isNone)))
    && reelStill s c

/-- A context's rays leave their slots (R293). -/
def saveRays (c : Nat) (s : State) : State :=
  let mine := s.ray.rays.filter (fun r => r.ctx = c && !r.saved)
  let links := (s.ray.groups.filter (fun g => g.key.ctx = c)).flatMap (fun g =>
    g.rays.map (fun e => (g.key, g.code, g.vregs, e.1, e.2)))
  let late := s.ray.overflow.filter (fun x => x.1.ctx = c)
  let place := fun (p : RayPlace) => match p with
    | .filed _ | .unfiled | .toMove | .parked 0 => RayPlace.toMove
    | .parked _ | .ended => .ended
    | p => p
  let s := { s with ray := { s.ray with
    rays := s.ray.rays.map (fun r => if r.ctx = c then { r with saved := true, place := place r.place } else r)
    hanks := s.ray.hanks.filter (fun h => h.ctx ≠ c)
    groups := s.ray.groups.filter (fun g => g.key.ctx ≠ c)
    overflow := s.ray.overflow.filter (fun x => x.1.ctx ≠ c)
    spooled := s.ray.spooled ++ links ++ late } }
  (mine.map (fun r => r.sp)).dedup.foldl (fun s sp => fileOverflow sp (fileWaiting sp (syncCard sp s))) s

/-- Everything of a context that has stopped is saved, and its resources are returned (R152, Table 7-8). -/
def saveAll (c : Nat) (s : State) : State :=
  let q := ctxQ s c
  let mine := s.fly.plies.filter (fun e => e.2.owner.ctx = c)
  let plyBytes := mine.foldl (fun a e => a + e.2.bytes) 0
  let extra := mine.foldl (fun a e => if e.2.extra then a + e.2.bytes else a) 0
  let rayBytes := 128 * rayRecords s c
  let head := saveHeader s c true q.flight.length plyBytes rayBytes ++ q.flight.flatMap (fun p => p.bytes)
    ++ leBytes (512 - 64 * q.flight.length) 0
  let s := passSuspend c s
  let s := saveRays c s
  let s := { s with fly := { s.fly with plies := s.fly.plies.filter (fun e => e.2.owner.ctx ≠ c) } }
  let s := (mine.map (fun e => flyOf e.1)).dedup.foldl (fun s f => syncFly f s) s
  let s := (mine.flatMap (fun e => e.2.allot.map (fun a => a.2.1))).dedup.foldl (fun s sp => syncCard sp s) s
  let ops := s.weft.queue.filter (fun e => e.2.ctx = c)
  let run := s.weft.running.filter (fun e => e.2.ctx = c)
  let s := { s with weft := { s.weft with
                              queue := s.weft.queue.filter (fun e => e.2.ctx ≠ c)
                              running := s.weft.running.filter (fun e => e.2.ctx ≠ c)
                              saved := s.weft.saved ++ run ++ ops } }
  let s := ((run ++ ops).map (fun e => e.1)).dedup.foldl (fun s sp => syncWeft sp s) s
  let s := reelSave c s
  let work : SavedWork := { plies := mine, packets := q.flight, plyBytes := plyBytes, rayBytes := rayBytes }
  let s := setCtxQ c { ctxQ s c with flight := [], saved := some work } s
  syncDbg (syncResident c (writeSave c head (plyBytes + rayBytes) extra s))

/-- STATE becomes SAVED: PREEMPTS counts, and a host request is done with HELD and INT_STATUS.PREEMPT (R150, R153). -/
def savedState (c : Nat) (s : State) : State :=
  let held := (ctxQ s c).hold
  let s := setCtxQ c { ctxQ s c with hold := false } s
  let s := (s.setFld (fQState c) 4).addSat (fQPreempts c) 1
  let s := if held then raiseInt iPreempt ((s.setFld (fQHeld c) 1).setFld fPreBusy 0) else s
  syncQ c s

/-- PREEMPTION_SAVED (R152, R153). -/
def execPreemptionSaved (c : Fin 16) (s : State) : Res :=
  done (onlyIf (running s && s.q.busy = some c.val && s.fld (fQState c) = 3 && atPoints s c) (fun s =>
    let s := savedState c (saveAll c s)
    preemptNext { s with q := { s.q with busy := none } }) s)

/-- PREEMPT_CTRL.REQUEST (R150, Table 7-11). -/
def preemptRequest (c : Nat) (s : State) : State :=
  if s.flag fPreBusy then s
  else
    let s := s.setFld fPreCtx c
    let st := s.fld (fQState c)
    if c = 0 || st = 0 || st = 7 then logEvent 4 0x044 c 0 c s
    else
      let s := setCtxQ c { ctxQ s c with hold := true } s
      if st = 1 then savedState c (saveAll c s)
      else if st = 4 then raiseInt iPreempt (setCtxQ c { ctxQ s c with hold := false } (s.setFld (fQHeld c) 1))
      else if st = 3 then s.setFld fPreBusy 1
      else preemptTrigger c (s.setFld fPreBusy 1)

/-- PREEMPT_REQUEST. -/
def execPreemptRequest (c : Fin 16) (s : State) : Res := done (onlyIf (running s) (preemptRequest c) s)

/-! ### Restore (R137, R153, R293) -/

/-- Free slots of all slices. -/
def allSlotsFree (s : State) : Nat := (numsFrom 0 64).foldl (fun a sp => a + slotsFree s sp) 0

/-- Seat saved plies one after the other on the spindles they were on; none where one finds no place. -/
def reseat : List (Nat × Ply) → State → Option State
  | [], s => some s
  | (k, y) :: t, s =>
    match bestFlyer s (spOf k) y.units y.spool with
    | none => none
    | some f => reseat t (l1Invalidate f (seatPly f (refresh y) s))
where
  /-- A restored ply tries again what it waited for. -/
  refresh (y : Ply) : Ply := { y with fetchFault := false, stalled := false }

/-- The rays and allotments a context has saved need this many slots. -/
def savedSlots (s : State) (c : Nat) : Nat :=
  (s.ray.rays.filter (fun r => r.ctx = c && r.saved && !r.inAllot)).length
    + ((ctxQ s c).saved.map (fun w => w.plies.foldl (fun a e => a + e.2.allot.length) 0)).getD 0

/-- Slots and places for everything saved are free now. -/
def canRestore (s : State) (c : Nat) : Bool :=
  match (ctxQ s c).saved with
  | none => true
  | some w => (reseat w.plies s).isSome && savedSlots s c ≤ allSlotsFree s

/-- RESTORE_START: a SAVED context that is not HELD, with the queue engine and enough slots free (R149, R293). -/
def execRestoreStart (c : Fin 16) (s : State) : Res :=
  done (onlyIf (running s && s.q.busy.isNone && s.fld (fQState c) = 4 && !s.flag (fQHeld c) && canRestore s c) (fun s =>
    syncCtx c { (s.setFld (fQState c) 5) with q := { s.q with busy := some c.val } }) s)

/-- A slice with a free slot: a wished one, else one of the others; the manual does not say which. -/
def anySlice (wish : Nat) (s : State) : Nat × State :=
  if slotsFree s wish ≠ 0 then (wish, s)
  else
    let l := (numsFrom 0 64).filter (fun sp => slotsFree s sp ≠ 0)
    let (k, s) := if l.isEmpty then (0, s) else takeFree l.length s
    ((l[k]?).getD wish, s)

/-- Allotments get slots again with their plies; a ray that sits in one goes with it (R293). -/
def placeAllots (y : Ply) (s : State) : State :=
  y.allot.foldl (fun s a =>
    let (sp, s) := anySlice a.2.1 s
    let s := onUid y.uid (fun y => { y with allot := y.allot.map (fun b => if b.1 = a.1 then (b.1, sp, b.2.2) else b) }) s
    syncCard sp { s with ray := { s.ray with rays := s.ray.rays.map (fun r =>
      if r.inAllot && r.thread = some (y.uid, a.1) then { r with sp := sp } else r) } }) s

/-- A saved ray gets a slot: at its home if one is free there, else elsewhere, where it stays and fetches (R293). -/
def placeRay (r : Ray) (s : State) : State :=
  let (wish, s) :=
    if r.place = .toMove then
      match rayHomeOf r s with
      | (some h, s) => (h, s)
      | (none, s) => (r.sp, s)
    else (r.sp, s)
  let (sp, s) := if r.inAllot then (r.sp, s) else anySlice wish s
  match rayOf s r.id with
  | none => s
  | some r =>
    let r := { r with sp := sp, saved := false }
    let s := putRay r s
    if r.place = .toMove && !r.todo.isEmpty then fileRay r s else syncCard sp s
where
  /-- The home of the treelet it must enter, if it can be looked up. -/
  rayHomeOf (r : Ray) (s : State) : Option Nat × State :=
    match r.todo with
    | [] => (none, s)
    | d :: _ =>
      match lookHome r.sp r.ctx d.hdr s with
      | (.at h, s) => (some h, s)
      | (_, s) => (none, s)

/-- The context's rays return, and those of spool groups are linked again (R293). -/
def restoreRays (c : Nat) (s : State) : State :=
  let s := (s.ray.rays.filter (fun r => r.ctx = c && r.saved)).foldl (fun s r => placeRay r s) s
  let mine := s.ray.spooled.filter (fun x => x.1.ctx = c)
  let s := { s with ray := { s.ray with spooled := s.ray.spooled.filter (fun x => x.1.ctx ≠ c) } }
  mine.foldl (fun s x => joinSpool x.1 ⟨x.2.1, x.2.2.1⟩ x.2.2.2.1 x.2.2.2.2 s) s

/-- Lanes of a ply's memory instructions that wait on a fault walk again (R135, R137). -/
def rewalkPly (k : Nat) (s : State) : State :=
  match plyAt s k with
  | none => s
  | some y =>
    if !y.mem.any (fun o => o.faulted) then s
    else
      let acc := fun (o : MemOp) => if wOp o.w = 0x70 then Access.read else if wOp o.w = 0x72 then .write else .atomic
      let (ops, aborted, s) := y.mem.foldl (fun (t : List MemOp × Bool × State) (o : MemOp) =>
        if !o.faulted then (t.1 ++ [o], t.2.1, t.2.2)
        else
          let open' := o.todo.filter (fun a => a.pa.isNone)
          let (ls, waits, ab, s) := translateLanes k y.uid y.owner.ctx (acc o) (open'.map (fun a => (a.lane, a.va))) t.2.2
          let put := fun (a : LaneAcc) => match ls.find? (fun x => x.lane = a.lane) with
            | some x => { a with pa := x.pa }
            | none => a
          (t.1 ++ [{ o with todo := o.todo.map put, faulted := waits }], t.2.1 || ab, s)) ([], false, s)
      let s := match plyAt s k with
        | some y => putPly k { y with mem := ops } s
        | none => s
      if aborted then endPly k 1 s else s

/-- The suspended pass of a context takes the front end again where it is free (R315, R318). -/
def resumePass (c : Nat) (s : State) : State :=
  if (activePass s).isSome then s
  else
    match s.ras.passes.find? (fun p => p.ctx = c && p.suspended) with
    | none => s
    | some p => putPass { p with suspended := false } s

/-- Weft ops re-enter the queue of their spindle (Table 11-8). -/
def restoreWeft (c : Nat) (s : State) : State :=
  let mine := s.weft.saved.filter (fun e => e.1 < 64 && e.2.ctx = c)
  let s := { s with weft := { s.weft with queue := s.weft.queue ++ mine, saved := s.weft.saved.filter (fun e => e.2.ctx ≠ c) } }
  (mine.map (fun e => e.1)).dedup.foldl (fun s sp => syncWeft sp s) s

/-- The saved area cannot be read: every saved packet ends UNCORRECTABLE, the context goes OFF with ERROR 0x5 (R158). What the packets
were saved with goes; their completion records are written by PACKET_COMPLETE. -/
def dropSaved (c : Nat) (s : State) : State :=
  let s := dropTraces (fun t => t.ctx = c) 6 s
  let s := dropPasses (fun p => p.ctx = c) 6 s
  let s := reelDrop c s
  let s := { s with weft := { s.weft with saved := s.weft.saved.filter (fun e => e.2.ctx ≠ c) } }
  let q := ctxQ s c
  let lost := (q.saved.map (fun w => w.packets)).getD []
  setCtxQ c { q with saved := none, flight := lost.map (fun p => { p with ended := true, status := mergeStatus p.status 6 }) } s

/-- RESTORE_DONE: saved work returns where it stopped; STATE is RUNNING, or HALTED where the ring is halted (R153, Table 7-8). -/
def execRestoreDone (c : Fin 16) (e : Ecc) (s : State) : Res :=
  done (onlyIf (running s && s.q.busy = some c.val && s.fld (fQState c) = 5 && canRestore s c) (fun s =>
    let q := ctxQ s c
    let used := q.savePages.take (16 + ((q.saved.map (fun w => w.plyBytes + w.rayBytes)).getD 0 + 4095) / 4096)
    match used.find? (fun pa => e = .uncorrectable || poisoned s pa 4096) with
    | some pa =>
      let s := raiseInt iErrUncorr (logEvent 2 0x09E c 0 pa (noteUe pa s))
      let s := queueOffError c 5 (dropSaved c s)
      preemptNext (syncQ c { s with q := { s.q with busy := none } })
    | none =>
      let w := q.saved.getD { plies := [], packets := [], plyBytes := 0, rayBytes := 0 }
      let s := setCtxQ c { q with saved := none, flight := w.packets, faulted := false, restored := some s.core.timebase.toNat } s
      let s := s.setFld (fQState c) (if q.halted.isEmpty then 2 else 6)
      let s := (reseat w.plies s).getD s
      let s := w.plies.foldl (fun s e => placeAllots e.2 s) s
      let s := restoreRays c s
      let s := w.plies.foldl (fun s e => match placeOf s e.2.uid with
        | some k => rewalkPly k s
        | none => s) s
      let s := resumePass c (restoreWeft c (reelRestore c s))
      let s := match q.savePages.head? with
        | some pa => memWrite false (pa + 2) [0#8] s
        | none => s
      let s := syncDbg (syncResident c (syncQ c { s with q := { s.q with busy := none } }))
      if (ctxQ s c).hold then preemptTrigger c s else preemptNext s) s)

/-! ### Packet fields (Tables 7-3 to 7-5) -/

/-- A grid of a DISPATCH: threads and group size in X, Y and Z. -/
def dpGrid (p : Packet) : Nat × Nat × Nat := (pktNat p 32 4, pktNat p 36 2, pktNat p 38 2)
def dpGroup (p : Packet) : Nat × Nat × Nat := (pktNat p 40 2, pktNat p 42 1, pktNat p 43 1)

/-- Threads of a group. -/
def dpThreads (p : Packet) : Nat := (dpGroup p).1 * (dpGroup p).2.1 * (dpGroup p).2.2

/-- A packet field holds an unlisted value (ERROR 0x2): what can be told from the packet alone. -/
def pktBad (c : Nat) (p : Packet) : Bool :=
  let a := pktNat p 16 6
  pktNat p 8 6 % 16 ≠ 0 ||
  match p.op with
  | 1 =>
    let g := dpGrid p
    let h := dpGroup p
    a % 8 ≠ 0 || pktNat p 22 1 = 0 || 16 < pktNat p 22 1 || pktNat p 24 6 % 64 ≠ 0
      || g.1 = 0 || g.2.1 = 0 || g.2.2 = 0
      || dpThreads p = 0 || dpThreads p % 32 ≠ 0 || 512 < dpThreads p
      || g.1 % h.1 ≠ 0 || g.2.1 % h.2.1 ≠ 0 || g.2.2 % h.2.2 ≠ 0
  | 2 =>
    a % 64 ≠ 0 || pktNat p 24 6 % 32 ≠ 0 || 2 < pktNat p 30 1 || pktNat p 32 6 % 64 ≠ 0 || pktNat p 40 4 = 0
      || pktNat p 48 6 % 32 ≠ 0
  | 4 => a % 64 ≠ 0 || pktNat p 24 4 = 0 || 63 < pktNat p 28 1
  | 5 =>
    let ch := pktNat p 28 1
    a % 64 ≠ 0 || pktNat p 24 4 = 0 || !(ch < 15 || ch = 0xFF || (ch = 15 && c = 0))
  | 6 | 8 => a % 8 ≠ 0
  | 7 => a % 8 ≠ 0 || 1 < pktNat p 32 1
  | _ => false

/-! ### Halted rings (R139) -/

/-- The ring leaves HALTED, or shows the next packet it is halted at. -/
def leaveHalt (c : Nat) (s : State) : State :=
  if s.fld (fQState c) ≠ 6 then s
  else match (ctxQ s c).halted with
  | [] => syncQ c ((s.setFld (fQError c) 0).setFld (fQState c) 2)
  | (_, code) :: _ => syncQ c (s.setFld (fQError c) code)

/-- QUEUE_CTRL.SKIP: the halted packet completes with BAD_PACKET, and the ring goes on. A WAIT that timed out has completed already,
and a packet that could not be read has no record. -/
def queueSkip (c : Nat) (s : State) : State :=
  if s.fld (fQState c) ≠ 6 then s
  else
    let q := ctxQ s c
    match q.halted with
    | [] => leaveHalt c s
    | (i, _) :: rest =>
      let s := setCtxQ c { q with halted := rest } s
      let s := match q.fetched with
        | some p =>
          if p.index = i then
            setCtxQ c { ctxQ s c with fetched := none, flight := q.flight ++ [{ p with ended := true, status := 5 }] } s
          else s
        | none => s
      let s := match q.flight.find? (fun p => p.index = i && !p.ended) with
        | some _ =>
          let s := reelUnhalt c i true s
          onPacket c i (fun p => { p with ended := true, status := mergeStatus p.status 5 }) s
        | none => s
      leaveHalt c s

/-- A halted RENDER_PASS is read again where it stands in flight, later packets having started. -/
def rereadPass (c : Nat) (p : Packet) (s : State) : State :=
  match vread .queue c (slotVa s c p.index) 64 .queue false s with
  | (.fault cause lv, s) => queueFault c (slotVa s c p.index) cause lv p.index s
  | (.ue, s) => haltRing c (Config.unstated "QSTAT.ERROR" [c, p.index] % 16) p.index (raiseInt iErrUncorr s)
  | (.ok b, s) =>
    let p' := { p with bytes := b }
    let s := onPacket c p.index (fun x => { x with bytes := b }) s
    if fieldAt b 0 1 ≠ 3 || pktBad c p' then haltRing c (if 9 < fieldAt b 0 1 then 1 else 2) p.index s else s

/-- QUEUE_CTRL.RESUME: in HALTED the halted packet is read again, or goes on at the rejected descriptor (R249, R430); while HELD the
context may be restored. -/
def queueResume (c : Nat) (s : State) : State :=
  if s.flag (fQHeld c) && s.fld (fQState c) = 4 then s.setFld (fQHeld c) 0
  else if s.fld (fQState c) ≠ 6 then s
  else
    let q := ctxQ s c
    match q.halted with
    | [] => leaveHalt c s
    | (i, _) :: rest =>
      let s := setCtxQ c { q with halted := rest } s
      let reread := fun (s : State) => (setCtxQ c { ctxQ s c with fetched := none } s).setFld (fRead c) i
      let s := match q.flight.find? (fun p => p.index = i && !p.ended) with
        | some p =>
          if p.op = 4 then weftNext c i s
          else if p.op = 5 then reelUnhalt c i false s
          else rereadPass c p s
        | none => reread s
      leaveHalt c s

/-- QUEUE_SKIP. -/
def execQueueSkip (c : Fin 16) (s : State) : Res := done (onlyIf (running s) (queueSkip c) s)

/-- QUEUE_RESUME. -/
def execQueueResume (c : Fin 16) (s : State) : Res := done (onlyIf (running s) (queueResume c) s)

/-! ### Answers to faults (R132, R135) -/

/-- A parked ray after its answer (Table 6-12, R275). -/
def answerRay (id : Nat) (retry : Bool) (s : State) : State :=
  match rayOf s id with
  | none => s
  | some r =>
    match r.place with
    | .parked why =>
      if r.saved then s
      else if why = 0 then (if retry then fileRay r s else endRay r 2 s)
      else if retry then putRay { r with place := .ended } s
      else
        let s := match traceOf s r.trace with
          | some t => noteStatus t 2 s
          | none => s
        if why = 1 then putRay { r with place := .ended, recDone := true } s
        else if r.status = 0 then putRay { r with place := .ended, status := 2, best := none } s
        else putRay { r with place := .ended, status := 2, noShade := true } s
    | _ => s

/-- A saved ply that an answer ends: it returns only to end. -/
def Ply.aborted (y : Ply) : Ply :=
  { y with exited := y.present, ended := true, mem := [], twaits := [], atBar := 0#32, fetchFault := false, stalled := false, allot := []
           status := mergeStatus y.status 1 }

/-- The packet a queue access waits for: one read and not started, a WAIT or TIMESTAMP in flight, or the next in the ring. -/
def waitingIndex (s : State) (c : Nat) : Nat :=
  let q := ctxQ s c
  match q.fetched, q.flight.find? (fun p => (p.op = 7 || p.op = 8) && !p.ended) with
  | some p, _ => p.index
  | none, some p => p.index
  | none, none => s.fld (fRead c)

/-- Work that waited on a record hears the answer (Table 6-12). -/
def answerWaiter (c : Nat) (retry : Bool) (w : Waiter) (s : State) : State :=
  match w with
  | .ply uid =>
    (match placeOf s uid with
    | none => if retry then s else dropAllot uid (fun _ => true) (onUid uid Ply.aborted s)
    | some k =>
      if !retry then endPly k 1 s
      else
        rewalkPly k (match plyAt s k with
          | some y => putPly k { y with fetchFault := false } s
          | none => s))
  | .plyFetch uid =>
    (match placeOf s uid with
    | none => s
    | some k => if retry then (match plyAt s k with
        | some y => putPly k { y with fetchFault := false } s
        | none => s) else endPly k 1 s)
  | .ray id => answerRay id retry s
  | .reel ch => reelAnswer ch retry s
  | .tile _ => if retry then s else (match s.ras.passes.find? (fun p => p.ctx = c && !p.suspended) with
      | some p => passEnd p 1 s
      | none => s)
  | .frontEnd =>
    if retry then s
    else
      match s.ras.passes.find? (fun p => p.ctx = c && !p.suspended) with
      | some p => passEnd p 1 s
      | none =>
        match (ctxQ s c).flight.find? (fun p => p.op = 3 && !p.ended && !s.ras.passes.any (fun x => x.ctx = c && x.index = p.index)) with
        | some p => onPacket c p.index (fun p => { p with ended := true }) (packetStatus c p.index 1 s)
        | none => s
  | .queue c =>
    let q := ctxQ s c
    let s := setCtxQ c { q with faulted := false, doneWaiting := [] } s
    if retry then s
    else
      match q.doneWaiting with
      | [] => queueAborted c (waitingIndex s c) s
      | l =>
        -- the unwritten records are lost (R158)
        l.foldl (fun s i => match packetOf s c i with
          | some p =>
            packetGone c i (recordLost c p s)
          | none => s) s

/-- An answer to a record: the first one acts; any other is ignored and logged (R132). -/
def faultAnswer (slot resp : Nat) (s : State) : State :=
  let s := settleSlots (s.setFld fRecord slot)
  if resp = 0 then s
  else
    match (Sparse.find s.mmu.recs slot).filter (fun r => r.inUse && r.needAnswer && !r.answered) with
    | none => logEvent 4 0x043 0 0 (slot + resp * 256) s
    | some r =>
      if resp = 3 && r.ctx ≠ 0 then ctxStop r.ctx s
      else
        let s := { s with mmu := { s.mmu with
          recs := Sparse.insert s.mmu.recs slot { r with answered := true, waiters := [] } } }
        let s := if resp = 1 then s else s.addSat (fAborted r.ctx) r.waiters.length
        let s := r.waiters.foldl (fun s w => answerWaiter r.ctx (resp = 1) w s) s
        syncCtx r.ctx (settleSlots s)

/-- FAULT_RETRY. -/
def execFaultRetry (record : BitVec 8) (s : State) : Res := done (onlyIf (running s) (faultAnswer record.toNat 1) s)

/-- FAULT_ABORT_WORK. -/
def execFaultAbortWork (record : BitVec 8) (s : State) : Res := done (onlyIf (running s) (faultAnswer record.toNat 2) s)

/-- FAULT_ABORT_CONTEXT. -/
def execFaultAbortContext (record : BitVec 8) (s : State) : Res := done (onlyIf (running s) (faultAnswer record.toNat 3) s)

/-- A function reset of a unit whose work waits on records: those records count as answered, and other units' accesses joined to them
walk again (Table 6-13). mine tells the unit's own waiters. -/
def resetFaults (mine : Waiter → Bool) (s : State) : State :=
  let hit := s.mmu.recs.filter (fun e => e.2.inUse && !e.2.answered && e.2.waiters.any mine)
  let s := { s with mmu := { s.mmu with
    recs := s.mmu.recs.map (fun (e : Nat × FaultRec) =>
      if e.2.inUse && !e.2.answered && e.2.waiters.any mine then (e.1, { e.2 with answered := true, waiters := [] }) else e)
    held := s.mmu.held.map (fun (r : FaultRec) => { r with waiters := r.waiters.filter (fun w => !mine w) }) } }
  let s := hit.foldl (fun s e =>
    (e.2.waiters.filter (fun w => !mine w)).foldl (fun s w => answerWaiter e.2.ctx true w s) s) s
  (hit.map (fun e => e.2.ctx)).dedup.foldl (fun s c => syncCtx c s) (settleSlots s)

end Sys2Proof.Machine
end

