-- ==== Sys2Proof/Machine/Queue.lean ====
section
/-! DEFINITION. Packets: reading, starting, placing groups, arbitration and grace (R143-R149, R160-R162), and the end of a ply. What
stores to memory (FENCE, TIMESTAMP, WAIT's read, completion records) is in Machine/QueueStore.lean. -/

namespace Sys2Proof.Machine

open Sys2Proof

/-! ### Reading the ring (R143) -/

/-- PACKET_FETCH: the next packet is read, and RING_READ advances; an unlisted opcode or field halts the ring (R143, Table 7-2). -/
def execPacketFetch (c : Fin 16) (s : State) : Res :=
  let c := c.val
  let q := ctxQ s c
  let i := s.fld (fRead c)
  done (onlyIf (running s && s.fld (fQState c) = 2 && q.fetched.isNone && !q.faulted && i ≠ s.fld (fWrite c)) (fun s =>
    match vread .queue c (slotVa s c i) 64 .queue false s with
    | (.fault cause lv, s) => queueFault c (slotVa s c i) cause lv i s
    | (.ue, s) =>
      haltRing c (Config.unstated "QSTAT.ERROR" [c, i] % 16) i
        (raiseInt iErrUncorr (logEvent 2 0x09E c 0 (slotVa s c i) (s.setFld (fRead c) ((i + 1) % 2 ^ 20))))
    | (.ok b, s) =>
      let p : Packet := { index := i, op := fieldAt b 0 1, bytes := b, cursor := 0, lastSp := 63, ended := false
                          readAt := s.core.timebase.toNat, status := 0 }
      let s := setCtxQ c { q with fetched := some p } (s.setFld (fRead c) ((i + 1) % 2 ^ 20))
      if 9 < p.op then haltRing c 1 i s
      else if pktBad c p then haltRing c 2 i s
      else syncQ c s) s)

/-- The packet read and not started, if it has an opcode and may start now: the ring runs, fewer than 8 packets are in flight, no WAIT
blocks, and a BARRIER's or FENCE's earlier packets have all completed (R145, R146). -/
def startable (s : State) (c op : Nat) : Option Packet :=
  let q := ctxQ s c
  match q.fetched with
  | none => none
  | some p =>
    if p.op = op && s.fld (fQState c) = 2 && !q.faulted && q.flight.length < 8
        && !(q.flight.any (fun x => x.index = p.index || (x.op = 7 && !x.ended)))
        && (!(bitN (pktNat p 1 1) 0 || op = 6) || q.flight.isEmpty) then some p
    else none

/-- The packet starts: it is in flight. -/
def startPacket (c : Nat) (p : Packet) (s : State) : State :=
  let q := ctxQ s c
  syncQ c (setCtxQ c { q with fetched := none, flight := q.flight ++ [p] } s)

/-- Start a packet of an opcode, if it may start. -/
def onStart (c op : Nat) (f : Packet → State → State) (s : State) : State :=
  if !running s then s
  else match startable s c op with
    | none => s
    | some p => f p (startPacket c p s)

/-- The packet's work is over. -/
def endPacket (c index : Nat) (s : State) : State := onPacket c index (fun p => { p with ended := true }) s

/-- PKT_NOP: completes at once (R146). -/
def execPktNop (c : Fin 16) (s : State) : Res := done (onStart c 0 (fun p s => endPacket c p.index s) s)

/-! ### Arbitration (R148) -/

/-- The context took a resource just now. -/
def noteGrant (r : Resource) (c : Nat) (s : State) : State :=
  { s with q := { s.q with grants := (r, c) :: s.q.grants.filter (fun g => g ≠ (r, c)) } }

/-- How long ago a context took a resource: the greater, the longer. -/
def grantAge (s : State) (r : Resource) (c : Nat) : Nat :=
  let l := (s.q.grants.filter (fun g => g.1 = r)).map (fun g => g.2)
  l.idxOf c

/-- The packet that gets a resource first: highest rank, then the context that took it least recently, then ring order. -/
def firstServed (s : State) (r : Resource) : List (Nat × Packet) → Option (Nat × Packet)
  | [] => none
  | a :: t => match firstServed s r t with
    | none => some a
    | some b =>
      if rankOf s a.1 < rankOf s b.1 then some b
      else if rankOf s a.1 = rankOf s b.1 && a.1 ≠ b.1 && grantAge s r a.1 < grantAge s r b.1 then some b
      else some a

/-- Packets in flight of all contexts whose work runs, in ring order. -/
def livePackets (s : State) : List (Nat × Packet) :=
  s.q.ctxs.flatMap (fun e => if ctxRuns s e.1 then e.2.flight.map (fun p => (e.1, p)) else [])

/-- The ring is halted at this packet. -/
def haltedAt (s : State) (c index : Nat) : Bool := (ctxQ s c).halted.any (fun h => h.1 = index)

/-! ### Groups of a dispatch (R160-R162) -/

/-- Groups of the grid. -/
def dpGroups (p : Packet) : Nat :=
  let g := dpGrid p
  let h := dpGroup p
  (g.1 / h.1) * (g.2.1 / h.2.1) * (g.2.2 / h.2.2)

/-- VREGS of a dispatch, in registers. -/
def dpVregs (p : Packet) : Nat := 8 * pktNat p 22 1

/-- Ply k of group g with its initial registers (Table 8-1). -/
def dispatchPly (c : Nat) (p : Packet) (g k uid : Nat) : Ply :=
  let (gr, h) := (dpGrid p, dpGroup p)
  let nx := gr.1 / h.1
  let ny := gr.2.1 / h.2.1
  let arg := pktNat p 24 6
  let y := Ply.fresh { ctx := c, source := 0, packet := p.index, group := g } uid (dpVregs p) (bitN (pktNat p 23 1) 0)
    (pktNat p 16 6) (BitVec.allOnes 32)
  let y := ([(0, g % nx), (1, g / nx % ny), (2, g / (nx * ny)), (3, k), (4, arg % 2 ^ 32), (5, arg / 2 ^ 32), (6, pktNat p 4 4), (7, c)]).foldl
    (fun (y : Ply) (e : Nat × Nat) => y.sset e.1 e.2) y
  (numsFrom 0 32).foldl (fun (y : Ply) l =>
    let t := 32 * k + l
    (((y.vset 0 l t).vset 1 l (t % h.1)).vset 2 l (t / h.1 % h.2.1)).vset 3 l (t / (h.1 * h.2.1))) y

/-- Admit plies k and on of a group on one spindle, all of them or none. -/
def admitGroup (sp c : Nat) (p : Packet) (g : Nat) : Nat → Nat → State → Option State
  | 0, _, s => some s
  | n + 1, k, s =>
    match admitPly sp (fun uid => dispatchPly c p g k uid) s with
    | none => none
    | some s => admitGroup sp c p g n (k + 1) s

/-- The next group of a DISPATCH goes whole onto the first spindle, round-robin, that can admit it within the budget (R161, R151). -/
def placeGroup (c : Nat) (p : Packet) (s : State) : Option State :=
  let n := dpThreads p / 32
  if p.op ≠ 1 || p.ended || dpGroups p ≤ p.cursor || !withinBudget s c (n * (1024 + dpVregs p * 128)) then none
  else
    (afterLast (maskSpindles (pktNat p 48 8)) (some p.lastSp)).findSome? (fun sp =>
      (admitGroup sp c p p.cursor n 0 s).map (fun s =>
        noteGrant .plySlots c (onPacket c p.index (fun p => { p with cursor := p.cursor + 1, lastSp := sp }) s)))

/-- GROUP_PLACE: the next group of a DISPATCH, or the next ply of a RENDER_PASS, is placed, unless a dispatch of a higher-ranked
context waits that could take the place (R148, R161). -/
def execGroupPlace (c : Fin 16) (index : BitVec 20) (s : State) : Res :=
  done (onlyIf (running s && ctxRuns s c) (fun s =>
    match packetOf s c index.toNat with
    | none => s
    | some p =>
      if p.op = 3 then
        match s.ras.passes.find? (fun x => x.ctx = c.val && x.index = p.index && !x.suspended) with
        | some pass => placeRaster pass s
        | none => s
      else if (livePackets s).any (fun e => rankOf s c < rankOf s e.1 && (placeGroup e.1 e.2 s).isSome) then s
      else (placeGroup c p s).getD s) s)

/-- PKT_DISPATCH: the grid is cut into groups, which then wait for places (R160). Its start is an acquire and needs nothing else. -/
def execPktDispatch (c : Fin 16) (s : State) : Res := done (onStart c 1 (fun _ s => s) s)

/-! ### Other work packets -/

/-- PKT_TRACE_BATCH: its rays wait for slots (R263). -/
def execPktTraceBatch (c : Fin 16) (s : State) : Res :=
  done (onStart c 2 (fun p s =>
    let (id, s) := freshId s
    let t : Trace :=
      { id := id, ctx := c, owner := .packet c p.index, packet := p.index, tag := pktNat p 4 4, sp := 0, mode := pktNat p 30 1
        root := pktNat p 32 6, table := pktNat p 48 6, ret := false, todo := [], next := 0, count := pktNat p 40 4
        rayAddr := pktNat p 16 6, hitAddr := pktNat p 24 6, mask := 0#32, pc := 0, ue := false, aborted := false, cut := false
        logged := [], told := false }
    { s with ray := { s.ray with traces := s.ray.traces ++ [t] } }) s)

/-- A RENDER_PASS tries to take the front end. -/
def tryPass (c : Nat) (p : Packet) (s : State) : State :=
  if p.ended || haltedAt s c p.index || frontWaits s c || s.ras.passes.any (fun x => x.ctx = c && x.index = p.index) then s
  else
    match passStart c p s with
    | .started s => noteGrant .rasterFrontEnd c s
    | .waits s => s
    | .over st s => endPacket c p.index (packetStatus c p.index st s)
    | .bad s => haltRing c 2 p.index s

/-- PKT_RENDER_PASS: it takes the front end if that is free, else waits for it (R148, R301). -/
def execPktRenderPass (c : Fin 16) (s : State) : Res := done (onStart c 3 (fun p s => tryPass c p s) s)

/-- An op of the packet is queued, running or saved. -/
def weftBusy (s : State) (c index : Nat) : Bool :=
  let mine := fun (o : WeftOp) => o.owner = .packet c index
  s.weft.queue.any (fun e => mine e.2) || s.weft.running.any (fun e => mine e.2) || s.weft.saved.any (fun e => mine e.2)

/-- PKT_WEFT_PROGRAM: its first descriptor is presented to the spindle's weft queue (R249). -/
def execPktWeftProgram (c : Fin 16) (s : State) : Res := done (onStart c 4 (fun p s => weftNext c p.index s) s)

/-- A DMA packet takes a channel its CHANNEL allows (R422). -/
def tryReel (c : Nat) (p : Packet) (s : State) : State :=
  if p.ended || s.reel.chains.any (fun e => e.2.ctx = c && e.2.index = some p.index)
      || s.reel.saved.any (fun e => e.1 = c && e.2.index = some p.index) then s
  else
    match reelFreeChannel (pktNat p 28 1) s with
    | (none, s) => s
    | (some ch, s) => noteGrant .reelChannel c (reelStart ch c p.index (pktNat p 16 6) (pktNat p 24 4) s)

/-- PKT_DMA: the chain starts on a free channel, or waits for one (R422). -/
def execPktDma (c : Fin 16) (s : State) : Res := done (onStart c 5 (fun p s => tryReel c p s) s)

/-! ### Grants and grace (R148, R149) -/

/-- The packet waits for a resource. -/
def wantsRes (s : State) (r : Resource) (c : Nat) (p : Packet) : Bool :=
  !p.ended && !haltedAt s c p.index &&
  match r with
  | .plySlots => p.op = 1 && p.cursor < dpGroups p
  | .rasterFrontEnd => p.op = 3 && !s.ras.passes.any (fun x => x.ctx = c && x.index = p.index && !x.suspended)
  | .bobbins sp => p.op = 4 && pktNat p 28 1 = sp.val && !s.weft.running.any (fun e => e.2.owner = .packet c p.index)
  | .reelChannel => p.op = 5 && !s.reel.chains.any (fun e => e.2.ctx = c && e.2.index = some p.index)
  | .hankSlots => p.op = 2 && s.ray.traces.any (fun t => t.owner = .packet c p.index && !t.admitted)

/-- RESOURCE_GRANT: the waiting packet that comes first takes what it waits for, if that is free (R148). -/
def execResourceGrant (r : Resource) (s : State) : Res :=
  done (onlyIf (running s) (fun s =>
    let waiting := (livePackets s).filter (fun e => wantsRes s r e.1 e.2)
    match r with
    | .plySlots =>
      (match firstServed s r (waiting.filter (fun e => (placeGroup e.1 e.2 s).isSome)) with
      | some (c, p) => (placeGroup c p s).getD s
      | none => s)
    | .rasterFrontEnd =>
      if (activePass s).isSome then s
      else
        (match firstServed s r waiting with
        | some (c, p) => if s.ras.passes.any (fun x => x.ctx = c && x.index = p.index) then noteGrant r c (resumePass c s)
            else tryPass c p s
        | none => s)
    | .bobbins sp =>
      (match firstServed s r (waiting.filter (fun e => !weftBusy s e.1 e.2.index)) with
      | some (c, p) => if weftFull s sp then s else noteGrant r c (weftNext c p.index s)
      | none => s)
    | .reelChannel =>
      (match firstServed s r waiting with
      | some (c, p) =>
        if s.reel.saved.any (fun e => e.1 = c && e.2.index = some p.index) then noteGrant r c (reelRestore c s) else tryReel c p s
      | none => s)
    | .hankSlots =>
      (match firstServed s r waiting with
      | some (c, p) =>
        (match s.ray.traces.find? (fun t => t.owner = .packet c p.index && !t.admitted) with
        | some t => if (ctxQ s c).faulted then s else noteGrant r c (admitBatch t c s)
        | none => s)
      | none => s)) s)

/-- Contexts that hold a resource (R149); for ply slots, on the spindles the waiting packet may use. -/
def holdersOf (s : State) (r : Resource) (p : Packet) : List Nat :=
  (numsFrom 1 15).filter (fun c => match r with
    | .plySlots => s.fly.plies.any (fun e => e.2.owner.ctx = c && (maskSpindles (pktNat p 48 8)).contains (spOf e.1))
    | .rasterFrontEnd => (activePass s).any (fun x => x.ctx = c)
    | .bobbins sp => (Sparse.find s.weft.running sp).any (fun o => o.ctx = c)
    | .reelChannel => s.reel.chains.any (fun e => e.2.ctx = c && e.2.index.isSome && (reelAllowed (pktNat p 28 1)).contains e.1)
    | .hankSlots => 0 < ctxSlots s c)

/-- The holder was not restored within the last 200 microseconds: 100,000 cycles. -/
def restedSince (s : State) (c : Nat) : Bool :=
  match (ctxQ s c).restored with
  | none => true
  | some t => t + 100000 ≤ s.core.timebase.toNat

/-- a is preempted before b: lower rank, then smaller RESIDENT. -/
def preemptsFirst (s : State) (a b : Nat) : Bool :=
  rankOf s a < rankOf s b || (rankOf s a = rankOf s b && residentOf s a < residentOf s b)

/-- GRACE_EXPIRY: a started packet has waited GRACE microseconds for a resource: the lowest-ranked eligible holder is preempted (R149).
Which of holders equal in rank and RESIDENT goes is a free value. -/
def execGraceExpiry (c : Fin 16) (r : Resource) (s : State) : Res :=
  let c := c.val
  done (onlyIf (running s && ctxRuns s c && s.fld (fGrace c) ≠ 0) (fun s =>
    match (ctxQ s c).flight.find? (fun p => wantsRes s r c p) with
    | none => s
    | some p =>
      let l := (holdersOf s r p).filter (fun h => rankOf s h < rankOf s c && ctxRuns s h && restedSince s h)
      let best := l.filter (fun a => !l.any (fun b => preemptsFirst s b a))
      let (k, s) := if best.length ≤ 1 then (0, s) else takeFree best.length s
      match best[k]? with
      | none => s
      | some h => preemptTrigger h s) s)

/-! ### The end of a ply (R162, R197) -/

/-- All threads have exited, or the ply ended by exception or fault. -/
def Ply.over' (y : Ply) : Bool := y.ended || (y.present &&& ~~~y.exited) = 0#32

/-- PLY_END: no thread is left, no access is outstanding and every token is done: the slot and units are free, callbacks without a
verdict reject, and the packet gets the ply's status (R162, R174, R197, R206, R270). -/
def execPlyEnd (p : PlyId) (s : State) : Res :=
  let k := plyKey p
  done (onlyIf (running s) (fun s =>
    match plyAt s k with
    | none => s
    | some y =>
      if !y.over' || !y.mem.isEmpty || y.tokens.any (fun t => t.busy) || y.tracing.isSome then s
      else
        let s := shadeExit y (fun _ => true) false (verdicts y (fun _ => true) false s)
        let s := dropAllot y.uid (fun _ => true) s
        let s := { s with fly := { s.fly with plies := s.fly.plies.filter (fun e => e.1 ≠ k) } }
        let s := if y.status = 0 then s else packetStatus y.owner.ctx y.owner.packet y.status s
        let s := (y.allot.map (fun a => a.2.1)).dedup.foldl (fun s sp => syncCard sp s) s
        syncDbg (syncFly (flyOf k) (syncResident y.owner.ctx s))) s)

/-! ### Completion conditions (R147, R285) -/

/-- Plies or rays that count for a packet are left. -/
def workLeft (s : State) (c index : Nat) : Bool :=
  let mine := fun (y : Ply) => y.owner.ctx = c && y.owner.packet = index
  s.fly.plies.any (fun e => mine e.2) || ((ctxQ s c).saved.any (fun w => w.plies.any (fun e => mine e.2)))
    || s.ray.traces.any (fun t => t.ctx = c && t.packet = index)

/-- The packet has nothing left to do. -/
def pktDone (s : State) (c : Nat) (p : Packet) : Bool :=
  (p.ended || (p.op = 1 && dpGroups p ≤ p.cursor)) && !workLeft s c p.index

end Sys2Proof.Machine
end

