-- ==== Sys2Proof/Machine/Caches.lean ====
section
/-! DEFINITION. Instruction fetch and the instruction caches, counter clears, lea roles, merge buffers, patrol scrub and DRAM
training (R171-R175, R209-R214, R231, R478). -/

namespace Sys2Proof.Machine

open Sys2Proof

/-! ### Instruction fetch (R171, R172) -/

/-- The line of a spindle's instruction cache at a physical address. -/
def icFind (s : State) (sp pa : Nat) : Option IcLine := s.fly.ic.find? (fun l => l.sp = sp && l.pa = pa / 64 * 64)

/-- Install a line; which line a full cache of 512 gives up is a free value. -/
def icPut (sp pa : Nat) (bs : List Byte) (s : State) : State :=
  let new : IcLine := { sp := sp, pa := pa / 64 * 64, words := (numsFrom 0 8).map (fun i => BitVec.ofNat 64 (fieldAt bs (8 * i) 8)) }
  let mine := s.fly.ic.filter (fun l => l.sp = sp)
  if mine.length < 512 then { s with fly := { s.fly with ic := new :: s.fly.ic } }
  else
    let (k, s) := takeFree 512 s
    match mine[k]? with
    | some v => { s with fly := { s.fly with ic := new :: s.fly.ic.filter (fun l => l ≠ v) } }
    | none => s

/-- Counter i of a spindle (Table 8-3). -/
def icCount (sp i : Nat) (s : State) : State := bumpSp sp (0x40 + 8 * i) 1 s

/-- DEMAND_FETCH: the line that holds the PC the ply would choose; a hit fetches nothing. A fault makes the ply wait or ends it;
uncorrectable data ends it (R135, R164, R171, R179). -/
def execDemandFetch (p : PlyId) (e : Ecc) (s : State) : Res :=
  let k := plyKey p
  let sp := spOf k
  done (onlyIf (running s) (fun s =>
    match plyAt s k with
    | none => s
    | some y =>
      if !ctxRuns s y.owner.ctx || y.ended then s
      else
        match y.choose with
        | none => s
        | some pc =>
          match translate (flyUnit k) y.owner.ctx pc .fetch false s with
          | (.fault cause lv, s) =>
            let (waits, s) := raiseFault y.owner.ctx pc cause lv .fetch 0 (plySrc k) (.plyFetch y.uid) s
            if waits then toPending k (putPly k { y with fetchFault := true } s) else endPly k 1 s
          | (.ok pa un, s) =>
            let line := pa / 64 * 64
            if (icFind s sp pa).isSome then icCount sp 0 s
            else
              let s := lookup true un line (icCount sp 1 s)
              let s := if e = .corrected then noteCe line s else s
              if poisoned s line 64 then uncorrectablePly k (noteUe line s)
              else if e = .uncorrectable then uncorrectablePly k (noteUe line (markUe line s))
              else icPut sp line (memRead s line 64) s) s)

/-- A speculative fetch gets its line: a translation that is at hand, X, not uncached, DRAM or skein (R172). -/
def specLine (s : State) (k c va : Nat) : Option Nat :=
  let inMemory : Nat → Option Nat := fun pa => match target s pa with
    | .dram _ | .skein _ => some (pa / 64 * 64)
    | _ => none
  if !s.flag (fXlate c) then inMemory va
  else
    match tlbFind s (flyUnit k) c va with
    | some t => if t.x && !t.uncached then inMemory (t.pa + va % 2 ^ t.size) else none
    | none => none

/-- SPECULATIVE_FETCH: it may fill the instruction cache and CACHE leas; a drop is only counted (R171, R172). -/
def execSpeculativeFetch (p : PlyId) (va : BitVec 48) (e : Ecc) (s : State) : Res :=
  let k := plyKey p
  let sp := spOf k
  done (onlyIf (running s && s.flag ⟨C (0x100000 + sp * 0x1000), 0, 0⟩) (fun s =>
    match plyAt s k with
    | none => s
    | some y =>
      if !ctxRuns s y.owner.ctx then s
      else
        match specLine s k y.owner.ctx va.toNat with
        | none => icCount sp 3 s
        | some line =>
          if (icFind s sp line).isSome then s
          else if e = .uncorrectable || poisoned s line 64 then s
          else icCount sp 2 (icPut sp line (memRead s line 64) (lookup true false line s))) s)

/-! ### Instruction cache invalidation (R173, R175) -/

def fIcBusy (sp : Nat) : Fld := ⟨C (0x100004 + sp * 0x1000), 31, 31⟩
def fIcAllBusy : Fld := ⟨C 0x200, 31, 31⟩

/-- IC_INVAL_ALL.BUSY: some spindle's invalidation is in progress. -/
def syncIc (s : State) : State := s.setFlag fIcAllBusy (!s.fly.icBusy.isEmpty)

/-- IC_INVAL.GO on a spindle; ignored while it is BUSY. -/
def icInvalGo (sp : Nat) (s : State) : State :=
  if s.fly.icBusy.contains sp then s
  else syncIc { (s.setFld (fIcBusy sp) 1) with fly := { s.fly with icBusy := s.fly.icBusy ++ [sp] } }

/-- IC_INVAL_ALL.GO; ignored while BUSY. -/
def icInvalAllGo (s : State) : State :=
  if s.flag fIcAllBusy then s else (numsFrom 0 64).foldl (fun s sp => icInvalGo sp s) s

/-- IC_INVAL. -/
def execIcInval (sp : Fin 64) (s : State) : Res := done (onlyIf (running s) (icInvalGo sp) s)

/-- IC_INVAL_ALL. -/
def execIcInvalAll (s : State) : Res := done (onlyIf (running s) icInvalAllGo s)

/-- IC_INVAL_DONE: the invalidations in progress complete: their spindles' caches are empty and BUSY returns to 0. -/
def execIcInvalDone (s : State) : Res :=
  done (onlyIf (running s) (fun s =>
    let busy := s.fly.icBusy
    let s := busy.foldl (fun s sp => s.setFld (fIcBusy sp) 0) s
    syncIc { s with fly := { s.fly with ic := s.fly.ic.filter (fun l => !busy.contains l.sp), icBusy := [] } }) s)

/-! ### Counters (R175, R478) -/

/-- The counters of a unit, as runs of registers: first register and length in bytes. -/
def counterRuns : CounterUnit → List (Nat × Nat)
  | .spindle sp =>
    let b := 0x100000 + sp.val * 0x1000
    [(C (b + 0x40), 0x20), (C (b + 0x100), 0x100), (C (b + 0x200), 0x40), (C (b + 0x340), 0x20), (C (b + 0x400), 0x40),
      (C (b + 0x500), 0x40)]
  | .raster => [(C 0x40100, 88)]
  | .peer n => [(C (0x90100 + 0x4000 * n.val), 0x40)]
  | .reel => (numsFrom 0 16).map (fun ch => (C (0xA0010 + 0x40 * ch), 24))

/-- Clear runs of registers. -/
def clearRuns (l : List (Nat × Nat)) (s : State) : State := l.foldl (fun s r => resetRange r.1 r.2 s) s

/-- CNT_CLR of a unit. -/
def counterClear (u : CounterUnit) (s : State) : State :=
  let s := clearRuns (counterRuns u) s
  match u with
  | .spindle sp => { s with weft := { s.weft with macs := Sparse.put (fun _ => 0) s.weft.macs sp 0 } }
  | _ => s

/-- CNT_CLR. -/
def execCntClr (u : CounterUnit) (s : State) : Res := done (onlyIf (running s) (counterClear u) s)

/-- DBG_CNT.CLR_ALL: every counter of Table 22-6. -/
def clearAllCounters (s : State) : State :=
  let units := (numsFrom 0 64).map (fun sp => CounterUnit.spindle (Fin.ofNat 64 sp)) ++ [.raster, .reel]
    ++ (numsFrom 0 4).map (fun n => CounterUnit.peer (Fin.ofNat 4 n))
  let pipes := (numsFrom 0 4).map (fun n => (C (0x5011C + 0x4000 * n), 16))
  let s := clearRuns (units.flatMap counterRuns ++ pipes) s
  { s with weft := { s.weft with macs := [] } }

/-- CLR_ALL. -/
def execClrAll (s : State) : Res := done (onlyIf (running s) clearAllCounters s)

/-! ### Lea roles (R210, R211) -/

/-- Leas of the aperture that hold a page of the kept save area of an enabled context. -/
def keptLeas (s : State) : List Nat :=
  s.q.ctxs.flatMap (fun e =>
    if s.flag (fCtxEn e.1) then
      e.2.savePages.filterMap (fun pa => match target s pa with
        | .skein off => some (off / 65536)
        | _ => none)
    else [])

/-- Leas that a region of an op touches. -/
def regionLeas (lea off n : Nat) : List Nat := numsFrom lea ((off + (n - 1)) / 65536 + 1)

/-- Leas that a weft op names: its panels' and those of X, Y and Q (R211). -/
def opLeas (sp : Nat) (d : List Byte) : List Nat :=
  ((numsFrom 0 8).filter (fun l => bitN (wfMask d) l)).map (fun l => sp * 8 + l)
    ++ regionLeas (wfXlea d) (wfXoff d) (wfXblock d * wfBlocks d) ++ regionLeas (wfYlea d) (wfYoff d) (wfYblock d * wfBlocks d)
    ++ (if wfQt d then regionLeas (wfQlea d) (wfQoff d) (8 * wfM d) else [])

/-- Leas named by weft ops that are queued, running or saved. -/
def weftLeas (s : State) : List Nat :=
  (s.weft.queue ++ s.weft.running ++ s.weft.saved).flatMap (fun e => opLeas e.1 e.2.desc)

/-- Leas held by passes in progress or suspended (R315). -/
def passLeas (s : State) : List Nat := s.ras.passes.flatMap (fun p => p.reserve)

/-- Why an apply is rejected, with the lowest lea concerned (R211). -/
def roleReject (s : State) (new : Sparse Nat) : Option (Nat × Nat) :=
  let leaves : Nat → List Nat → Bool := fun l roles => roleIn new l ≠ roleOf s l && roles.contains (roleOf s l)
  let first : List Nat → List Nat → Option Nat := fun used roles =>
    (numsFrom 0 512).find? (fun l => used.contains l && leaves l roles)
  match first (keptLeas s) [3] with
  | some l => some (1, l)
  | none =>
    match first (passLeas s) [2] with
    | some l => some (2, l)
    | none => (first (weftLeas s) [0, 3]).map (fun l => (3, l))

/-- ROLE_CTRL.APPLY with the correct KEY; ignored while BUSY = 1 (R210, R211). -/
def roleApply (s : State) : State :=
  if s.mem.applying.isSome then s
  else
    let new := stagedRoles s
    match roleReject s new with
    | some (code, lea) => s.setFlds [(fRoleResult, code), (fRoleBlocker, lea)]
    | none => { (s.setFld fRoleBusy 1) with mem := { s.mem with applying := some new } }

/-- ROLE_APPLY. -/
def execRoleApply (s : State) : Res := done (onlyIf (running s) roleApply s)

/-- An access that has its address is in flight. -/
def accessInFlight (s : State) : Bool :=
  s.fly.plies.any (fun e => e.2.mem.any (fun o => !o.faulted && o.todo.any (fun a => a.pa.isSome)))
    || s.reel.chains.any (fun e => !e.2.flight.isEmpty)

/-- ROLE_APPLY_COMPLETE: the accesses in flight have finished, and the new roles become active (R211). -/
def execRoleApplyComplete (s : State) : Res :=
  done (onlyIf (running s && s.mem.applying.isSome && !accessInFlight s) settleApply s)

/-! ### Merge buffers, scrub and training (R212, R231) -/

/-- MERGE_LINE_DRAIN: a line of the spindle's merge buffer that has been idle goes to DRAM (R212). -/
def execMergeLineDrain (sp : Fin 64) (line : BitVec 42) (s : State) : Res :=
  done (onlyIf (running s && s.mem.merge.any (fun l => l.sp = sp.val && l.line = line.toNat)) (drainLine line.toNat) s)

/-- The i-th line of a DRAM port in ascending physical address, and the number of a port's lines below the check store. -/
def portLine (port i : Nat) : Nat := i / 4 * 2048 + port * 256 + i % 4 * 64
def portLines (s : State) : Nat := dramBytes s / 32 * 31 / 512

def fScrubEn : Fld := ⟨C 0xE0000, 1, 1⟩

/-- PATROL_SCRUB: the port's next line is read; what it finds is counted, corrected or left, and nothing else (R231). -/
def execPatrolScrub (port : Fin 8) (e : Ecc) (s : State) : Res :=
  done (onlyIf (running s && s.flag fDramReady && s.flag fScrubEn) (fun s =>
    let i := Sparse.get (fun _ => 0) s.mem.scrub port.val
    let pa := portLine port i
    let next := if i + 1 < portLines s then i + 1 else 0
    let s := { s with mem := { s.mem with scrub := Sparse.put (fun _ => 0) s.mem.scrub port.val next } }
    if poisoned s pa 64 then s.addSat ⟨C 0xE0018, 31, 16⟩ 1
    else match e with
      | .clean => s
      | .corrected => s.addSat ⟨C 0xE0018, 15, 0⟩ 1
      | .uncorrectable => markUe pa (s.addSat ⟨C 0xE0018, 31, 16⟩ 1)) s)

def fDramBusy : Fld := ⟨C 0xE0004, 31, 31⟩
def fDramResult : Fld := ⟨C 0xE0004, 30, 28⟩
def fDramChannel : Fld := ⟨C 0xE0004, 27, 24⟩

def fTotalGib : Fld := ⟨C 0xE0000, 23, 16⟩

/-- DRAM is trained: DRAM_READY, DRAM_GIB, and scrub starts at the lowest lines (R98, R231). -/
def dramUp (gib : Nat) (s : State) : State :=
  let s := s.setFlds [(fDramReady, 1), (fDramGib, gib)]
  { s with mem := { s.mem with scrub := [] }, boot := { s.boot with fullTrain := false } }

/-- DRAM_CTRL.TRAIN, accepted only while DRAM_READY = 0; one training runs at a time. -/
def dramTrain (s : State) : State := if s.flag fDramReady || s.flag fDramBusy then s else s.setFld fDramBusy 1

/-- TRAIN. -/
def execTrain (s : State) : Res := done (onlyIf (running s) dramTrain s)

/-- DRAM_TRAIN_DONE (R231). -/
def execDramTrainDone (r : TrainResult) (s : State) : Res :=
  done (onlyIf (running s && s.flag fDramBusy) (fun s =>
    let s := s.setFld fDramBusy 0
    match r with
    | .trained gib => if gib.toNat = s.fld fTotalGib then dramUp gib.toNat (s.setFld fDramResult 0) else s.setFld fDramResult 2
    | .failed ch => s.setFlds [(fDramResult, 1), (fDramChannel, ch.toNat)]
    | .mismatch => s.setFld fDramResult 2) s)

/-- DRAM_CTRL.CLR_CNT. -/
def dramCntClear (s : State) : State := resetRegs [C 0xE0008, C 0xE0018] s

/-- CLR_CNT. -/
def execClrCnt (s : State) : Res := done (onlyIf (running s) dramCntClear s)

end Sys2Proof.Machine
end

