-- ==== Sys2Proof/Machine/LogOps.lean ====
section
/-! DEFINITION. The event log as the host drains it and as the units fill it (R64, R448, R449, R454). -/

namespace Sys2Proof.Machine

open Sys2Proof

/-- The log runs from the end of phase SRAM_INIT on, while the interior does (chapter 21.6). -/
def logRuns (s : State) : Bool := interior s && 2 ≤ s.fld fPhase

/-- The unit whose queue is written next, round-robin (R448). -/
def nextUnit (s : State) : Option Nat :=
  ((numsFrom (s.log.lastUnit + 1) 16).map (fun u => u % 16)).find? (fun u => s.log.queued.any (fun q => q.1 = u))

/-- The log writes one entry whole (R448). -/
def logWriteNext (s : State) : State :=
  match nextUnit s with
  | none => s
  | some u =>
    match s.log.queued.find? (fun q => q.1 = u) with
    | none => s
    | some q => ringWrite q.2 { s with log := { s.log with queued := s.log.queued.erase q, lastUnit := u } }

/-- LOG_ENTRY_WRITE. -/
def execLogEntryWrite (s : State) : Res := done (onlyIf (logRuns s) logWriteNext s)

/-- CE_WINDOW: a millisecond window of the timebase begins and every unit's allowance renews (R449). -/
def execCeWindow (s : State) : Res := done (onlyIf (logRuns s) (fun s => { s with log := { s.log with ceSpent := [] } }) s)

/-- ERR_CTRL.CLR: the four counters of Table 21-4. -/
def errClear (s : State) : State := resetRange (C 0xC0004) 16 s

/-- ERR_CLR. -/
def execErrClr (s : State) : Res := done (onlyIf (running s) errClear s)

/-- The entry of a sequence number as it is copied into a page; an uncorrectable one is replaced (R454). -/
def pageEntry (s : State) (seq : Nat) (bad : Bool) : List W32 :=
  if bad then LogEntry.words { cls := 2, ctx := 0, code := 0x1E2, src := 0, time := 0, arg := seq % 65536 }
  else ((Sparse.find s.log.ring (seq % 4096)).map LogEntry.words).getD [0#32, 0#32, 0#32, 0#32]

/-- A parity error in READ_SEQ, WRITE_SEQ or LOST_COUNT (R454). -/
def pointerParity (s : State) : State :=
  raiseInt iLogLost ((s.addSat fLost (undelivered s)).setFld fReadSeq (s.fld fWriteSeq))

/-- A log page is copied: N = min(A, 256) entries from READ_SEQ on (R64). -/
def takeLogPage (damage : LogDamage) (s : State) : State :=
  let first := s.fld fReadSeq
  let n := satN 256 (undelivered s)
  if n = 0 then s
  else
    let bad := match damage with
      | .entry i => some i.toNat
      | _ => none
    let words := (numsFrom 0 n).flatMap (fun i => pageEntry s ((first + i) % 65536) (bad = some i))
    let hit := bad.any (fun i => i < n)
    let s := if hit then raiseInt iErrUncorr (s.addSat ⟨C 0xC0008, 31, 0⟩ 1) else s
    let s := s.setFlds [(fReadSeq, (first + n) % 65536), (fPageCount, n), (fPageHeld, 1), (fWordIndex, 0)]
    { s with host := { s.host with logPage := some ⟨first, n, words⟩ } }

/-- The next word of the held log page; the page ends after its last (R62, R64). -/
def logPageWord (s : State) : W32 × State :=
  match s.host.logPage with
  | none => (0#32, s)
  | some p =>
    let i := s.fld fWordIndex
    let w := (p.words[i]?).getD 0#32
    if i < 1023 then (w, s.setFld fWordIndex (i + 1))
    else (w, { s.setFlds [(fWordIndex, 0), (fPageCount, 0), (fPageHeld, 0)] with host := { s.host with logPage := none } })

/-- A read of LOG_DATA: the next word of the held page; with none held a page is taken first. A freeze takes no page (R82). -/
def logRead (damage : LogDamage) (s : State) : W32 × State :=
  if s.host.logPage.isSome then logPageWord s
  else if s.flag fFrozen then (0#32, s)
  else
    match damage with
    | .pointers => (0#32, pointerParity s)
    | _ => logPageWord (takeLogPage damage s)

/-- LOG_CTRL.CLR_LOST. -/
def clearLost (s : State) : State := s.setFld fLost 0

/-- A write of LOG_CTRL: THRESH, then REWIND, then CLR_LOST (R64). -/
def logCtrlWrite (v : W32) (s : State) : State :=
  let s := plainWrite 0x70 v s
  let s := if bitN v.toNat 1 then rewindLog s else s
  if bitN v.toNat 2 then clearLost s else s

end Sys2Proof.Machine
end

