-- ==== Sys2Proof/Machine/Ledger.lean ====
section
/-! DEFINITION. The ledgers: the terms of the 710 books, the snapshot and the continuous check (chapter 20). -/

namespace Sys2Proof.Machine

open Sys2Proof

/-- The terms of a ledger, and whether its equation held and every term lay in its range (R436, R437). -/
structure Terms where
  cap : Nat
  free : Nat
  held : Nat
  transit : Nat
  ok : Bool
deriving DecidableEq, Repr

/-- The book of a resource whose free units are those neither held nor in transit. -/
def Terms.book (cap held transit : Nat) : Terms := ⟨cap, cap - held - transit, held, transit, held + transit ≤ cap⟩

/-- Bytes of the prefetch buffer of a plane: capacity, and those received and not yet shown (Table 20-1). -/
def prefetchBytes (s : State) (k : Nat) : Nat × Nat × Bool :=
  match (pipeAt s (k / 3)).planes[k % 3]? with
  | some a => if plEn a.words then (plRoom a.words, heldBytes a, fetchLeft a) else (0, 0, false)
  | none => (0, 0, false)

/-- The terms of a ledger. Bytes requested from DRAM and not yet arrived are a free value t: no rule says when a pipe requests
them. Every other transit begins and ends within one step of this model. -/
def ledgerTerms (s : State) (t : Nat → Nat) (i : Nat) : Terms :=
  if i < 16 then
    if linkLive s (i / 4) then .book (receiveCap (i % 4)) (slotsTaken (peerAt s (i / 4)) (i % 4)) 0 else .book 0 0 0
  else if i < 32 then
    let n := (i - 16) / 4
    let cap := nth (peerAt s n).advert (i % 4)
    let free := s.fld (fCredit n (i % 4))
    ⟨cap, free, cap - free, 0, free ≤ cap⟩
  else if i < 96 then .book 1024 (slotsHeld s (i - 32)) 0
  else if i < 352 then .book 16 (flyPlies s (i - 96)).length 0
  else if i < 608 then .book 64 ((flyPlies s (i - 352)).foldl (fun a e => a + e.2.units) 0) 0
  else if i = 608 then .book 512 (((activePass s).map (fun p => p.pages)).getD 0) 0
  else if i = 609 then .book 512 (leasIn s.mem.roles 1 ++ leasIn s.mem.roles 2).length 0
  else if i = 610 then .book (leasIn s.mem.roles 2).length (passLeas s).length 0
  else if i = 611 then
    let st := (numsFrom 0 16).map (fun c => if s.flag ⟨reelR c 0, 31, 31⟩ then s.fld ⟨reelR c 0, 30, 28⟩ else 0)
    .book 16 (st.filter (fun x => x = 1 || x = 2 || x = 4)).length (st.filter (fun x => x = 3)).length
  else if i < 628 then .book 32 (((chainOf s (i - 612)).map (fun c => c.flight.length)).getD 0) 0
  else if i = 628 then
    let b := Terms.book 256 (slotsInUse s) 0
    { b with ok := b.ok && slotsInUseUser s ≤ 240 && (s.fld fTail + 512 - s.fld fHead) % 512 ≤ 256 }
  else if i < 693 then .book 2 ((s.ras.passes.flatMap (fun p => p.bufs)).filter (fun b => b.sp = i - 629)).length 0
  else if i < 697 then
    .book 8 ((pipeAt s (i - 693)).planes.foldl (fun a p => if plEn p.words then a + plUnits p.words else a) 0) 0
  else if i < 709 then
    let (cap, held, more) := prefetchBytes s (i - 697)
    .book cap held (if more then t (i - 697) % (cap - held + 1) else 0)
  else .book 64 s.touch.fifo.length 0

/-- Free values for the twelve transits of the prefetch ledgers. -/
def freeTransits (s : State) : (Nat → Nat) × State :=
  let base := s.free
  (fun k => Config.freeNat (base + k), { s with free := base + 12 })

/-- A ledger fails: it is reported; a failed ledger 0-31 takes its port's link down with cause credit (R441, R444). -/
def ledgerFail (i : Nat) (t : Terms) (s : State) : State :=
  let s := ledgerFailure i t.cap t.free t.held t.transit s
  if i < 32 then linkDown (i % 16 / 4) 3 s else s

/-- Every ledger that does not balance fails. -/
def checkLedgers (s : State) : State :=
  ((numsFrom 0 710).map (fun i => (i, ledgerTerms s (fun _ => 0) i))).foldl
    (fun s (e : Nat × Terms) => if e.2.ok then s else ledgerFail e.1 e.2 s) s

def fCheckEn : Fld := ⟨C 0xC0800, 1, 1⟩

/-- AUDIT_CTRL.SNAP: every ledger is latched at this cycle; ignored while BUSY = 1 (R440, R441). -/
def auditSnap (s : State) : State :=
  if s.flag fAuditBusy then s
  else
    let (t, s) := freeTransits s
    let terms := (numsFrom 0 710).map (fun i => (i, ledgerTerms s t i))
    let s := { s with log := { s.log with
      snap := terms.map (fun (e : Nat × Terms) => (e.1, e.2.cap, e.2.free, e.2.held, e.2.transit, e.2.ok)) } }
    let s := s.setFlds [(fAuditBusy, 1), (fSnaps, (s.fld fSnaps + 1) % 65536)]
    let s := setCounter 0xC0808 s.core.timebase.toNat s
    if s.flag fCheckEn then checkLedgers s else s

/-- SNAP. -/
def execSnap (s : State) : Res := done (onlyIf (running s) auditSnap s)

/-- The four words of an audit entry (Table 20-3). -/
def putEntry (e : Nat × Nat × Nat × Nat × Nat × Bool) (s : State) : State :=
  let r := C (0xC1000 + 16 * e.1)
  let w : Nat → W32 := fun n => BitVec.ofNat 32 (satN 0xFFFFFFFF n)
  let s := ((s.setReg r (w e.2.1)).setReg (r + 4) (w e.2.2.1)).setReg (r + 8) (w e.2.2.2.1)
  s.setReg (r + 12) (BitVec.ofNat 32 (satN 65535 e.2.2.2.2.1 + bitVal e.2.2.2.2.2 31))

/-- SNAP_DONE: the entries are written and BUSY returns to 0 (R440). -/
def execSnapDone (s : State) : Res :=
  done (onlyIf (running s && s.flag fAuditBusy) (fun s =>
    let s := s.log.snap.foldl (fun s e => putEntry e s) s
    { (s.setFld fAuditBusy 0) with log := { s.log with snap := [] } }) s)

/-- AUDIT_CHECK: the device evaluates every ledger; hw: the terms a hardware error has left in one ledger's counters (R437,
R441). -/
def execAuditCheck (hw : Option LedgerTerms) (s : State) : Res :=
  done (onlyIf (running s && s.flag fCheckEn) (fun s =>
    let s := checkLedgers s
    match hw with
    | none => s
    | some h =>
      let t : Terms :=
        { cap := h.cap.toNat, free := h.free.toNat, held := h.held.toNat, transit := h.transit.toNat
          ok := h.cap.toNat = h.free.toNat + h.held.toNat + h.transit.toNat }
      if t.ok then s else ledgerFail h.index.val t s) s)

/-- A write of AUDIT_CTRL: CHECK_EN, then SNAP (Table 20-2). -/
def auditCtrlWrite (v : W32) (s : State) : State :=
  let s := plainWrite (C 0xC0800) v s
  if bitN v.toNat 0 then auditSnap s else s

/-- A write of AUDIT_STATUS: MISMATCH cleared lets every failed ledger be logged again (R441). -/
def auditStatusWrite (v : W32) (s : State) : State :=
  let s := plainWrite (C 0xC0804) v s
  if bitN v.toNat 30 then { s with log := { s.log with failed := [] } } else s

end Sys2Proof.Machine
end

