-- ==== Sys2Proof/Machine/Trim.lean ====
section
/-! DEFINITION. The trim journal: the live set, the selection rule, re-apply, defaults and the store (chapter 5). -/

namespace Sys2Proof.Machine

open Sys2Proof

/-- Instances of a trim item (Table 5-1); 0 for an unlisted one. -/
def trimCount (item : Nat) : Nat := nth [0, 1, 64, 8, 8, 4, 4, 64, 64, 64, 2, 32, 32] item

/-- Every item and instance, ascending. -/
def trimItems : List (Nat × Nat) := (numsFrom 1 12).flatMap (fun i => (numsFrom 0 (trimCount i)).map (fun n => (i, n)))

/-! ### Records (R108, R109) -/

def recGen (b : List Byte) : Nat := fieldAt b 8 4
def recLength (b : List Byte) : Nat := fieldAt b 12 4

/-- A slot is valid (R109). -/
def slotValid (im : SlotImage) : Bool :=
  let b := im.body
  let len := recLength b
  fieldAt b 0 4 = 0x4C4E5254 && fieldAt b 4 2 = 1 && 1 ≤ recGen b && recGen b ≤ 0xFFFFFFFE
    && len = fieldAt b 6 2 * 8 && 32 + len ≤ 0xFFFC && 32 + len ≤ b.length
    && fieldAt b 16 4 = crc32c (b.take 16 ++ (b.drop 32).take len) && im.commit = 0xA55A0FF0#32

/-- GENERATION of a valid slot, else 0 (Table 5-4). -/
def slotGen (im : SlotImage) : Nat := if slotValid im then recGen im.body else 0

/-- The selected slot: the higher generation, slot 0 on a tie, none if neither is valid (R110). -/
def selectSlot (g0 g1 : Nat) : Option Nat := if g0 = 0 && g1 = 0 then none else if g1 ≤ g0 then some 0 else some 1

/-- The payload entries of a record: item, instance, value. -/
def recEntries (b : List Byte) : List (Nat × Nat × W32) :=
  (numsFrom 0 (recLength b / 8)).map (fun k =>
    let e := (b.drop (32 + 8 * k)).take 8
    (fieldAt e 0 2, fieldAt e 2 1, BitVec.ofNat 32 (fieldAt e 4 4)))

/-- Every live word holds its fused default (R107, R110). -/
def fusedTrims (s : State) : State := { s with trim := { s.trim with live := [] } }

/-- Write entries in order; an unlisted item or an instance out of range is ignored (R110). -/
def applyEntries (es : List (Nat × Nat × W32)) (s : State) : State :=
  es.foldl (fun s e => if e.2.1 < trimCount e.1 then setTrim e.1 e.2.1 e.2.2 s else s) s

/-- CAL_STATUS and DEV_STATUS report the record in use, or the fused defaults (R110). -/
def reportTrim (use : Option (Nat × Nat)) (s : State) : State :=
  match use with
  | none => s.setFlds [(fCalDefaults, 1), (fCalSlot, 0), (fCalGen, 0), (fTrimDefaults, 1)]
  | some (slot, gen) => s.setFlds [(fCalDefaults, 0), (fCalSlot, slot), (fCalGen, gen % 2 ^ 24), (fTrimDefaults, 0)]

def setJournalGen (slot gen : Nat) (s : State) : State := s.setReg (C (0xF0000 + 4 * slot)) (BitVec.ofNat 32 gen)
def journalGen (s : State) (slot : Nat) : Nat := (s.reg (C (0xF0000 + 4 * slot))).toNat

/-- Run the selection rule and apply its result; whether a record was applied (R110, R111). -/
def selectTrims (i0 i1 : SlotImage) (s : State) : Bool × State :=
  let g0 := slotGen i0
  let g1 := slotGen i1
  let s := fusedTrims (setJournalGen 1 g1 (setJournalGen 0 g0 s))
  match selectSlot g0 g1 with
  | none => (false, reportTrim none s)
  | some k => (true, reportTrim (some (k, if k = 0 then g0 else g1)) (applyEntries (recEntries (if k = 0 then i0 else i1).body) s))

/-- TRIM_PHASE_DONE: phase TRIM of a cold start ends (Table 4-1, R110). -/
def execTrimPhaseDone (slot0 slot1 : SlotImage) (s : State) : Res :=
  done (onlyIf (interior s && s.fld fPhase = 3) (fun s => (selectTrims slot0 slot1 s).2.setFld fPhase 4) s)

/-! ### Commands (R111, R112) -/

/-- A command ends: RESULT, INT_STATUS.CAL, and an event unless it succeeded (R112). -/
def calEnd (cmd result : Nat) (s : State) : State :=
  let s := raiseInt iCal (s.setFlds [(fCalBusy, 0), (fCalResult, result), (fStoreStep, 0)])
  let s := { s with trim := { s.trim with store := none, reapply := false } }
  if result = 0 then s else logEvent 4 0x022 0 0 (result + cmd * 16) s

/-- The slot a store writes and the generation it gives (R111). -/
def storeTarget (s : State) : Nat × Nat :=
  let g0 := journalGen s 0
  let g1 := journalGen s 1
  match selectSlot g0 g1 with
  | none => (0, 1)
  | some 0 => (1, g0 + 1)
  | some _ => (0, g1 + 1)

/-- CMD 0x1: the live set is copied, the target's JOURNAL_GEN is 0 and the erase begins; at the last generation it is rejected
with nothing changed (R111). -/
def storeStart (s : State) : State :=
  let (target, gen) := storeTarget s
  if 0xFFFFFFFE < gen then calEnd 1 3 s
  else
    let s := setJournalGen target 0 (s.setFlds [(fCalBusy, 1), (fStoreStep, 1)])
    let st : StoreSt := { copy := trimItems.map (fun e => (e.1, e.2, trimWord s e.1 e.2)), target := target, gen := gen }
    { s with trim := { s.trim with store := some st } }

/-- CMD 0x3: fused defaults (R112). -/
def calDefaults (s : State) : State := calEnd 3 0 (reportTrim none (fusedTrims s))

/-- A CAL_CTRL command with the correct KEY: ignored while BUSY, rejected before READY and while QSPI_RELEASE = 1; an unlisted CMD
names no action (Table 3-19, R97, R102). -/
def calCommand (cmd : Nat) (s : State) : State :=
  if cmd = 0 || 3 < cmd || s.flag fCalBusy then s
  else if !ready s || s.flag fQspiRelease then calEnd cmd 3 s
  else if cmd = 1 then storeStart s
  else if cmd = 2 then { (s.setFld fCalBusy 1) with trim := { s.trim with reapply := true } }
  else calDefaults s

/-- TRIM_STORE. -/
def execTrimStore (s : State) : Res := done (onlyIf (interior s) (calCommand 1) s)

/-- TRIM_REAPPLY. -/
def execTrimReapply (s : State) : Res := done (onlyIf (interior s) (calCommand 2) s)

/-- TRIM_DEFAULTS. -/
def execTrimDefaults (s : State) : Res := done (onlyIf (interior s) (calCommand 3) s)

/-- A flash operation of the store ends: erase, program and commit by status polling, the two read-backs by comparison (R111,
R117). -/
def storeStep (st : StoreSt) (r : FlashResult) (s : State) : State :=
  let k := s.fld fStoreStep
  let verify : Bool := k = 3 || k = 5
  match r with
  | .failed => if verify then s else calEnd 1 1 s
  | .differs => if verify then calEnd 1 2 s else s
  | .good =>
    if k = 5 then calEnd 1 0 (reportTrim (some (st.target, st.gen)) (setJournalGen st.target st.gen s))
    else s.setFld fStoreStep (k + 1)

/-- STORE_FLASH_OP_DONE. -/
def execStoreFlashOpDone (r : FlashResult) (s : State) : Res :=
  done (onlyIf (interior s) (fun s => match s.trim.store with
    | some st => storeStep st r s
    | none => s) s)

/-- STORE_TIMEOUT: the 300 ms are spent while a flash operation is busy (R114). -/
def execStoreTimeout (s : State) : Res := done (onlyIf (interior s && s.trim.store.isSome) (calEnd 1 1) s)

/-- REAPPLY_DONE: CMD 0x2 has read both slots (R112). -/
def execReapplyDone (slot0 slot1 : SlotImage) (s : State) : Res :=
  done (onlyIf (interior s && s.trim.reapply) (fun s =>
    let (ok, s) := selectTrims slot0 slot1 s
    calEnd 2 (if ok then 0 else 4) s) s)

end Sys2Proof.Machine
end

