-- ==== Sys2Proof/Machine/Freeze.lean ====
section
/-! DEFINITION. Freeze and thaw, the doff scan, and the test port but for its control access (chapter 22). -/

namespace Sys2Proof.Machine

open Sys2Proof

/-! ### Freeze and thaw (R456-R459) -/

/-- A TAP instruction that holds the pins: EXTEST, HIGHZ or CLAMP (R469). -/
def tapHolds (s : State) : Bool := s.dbg.ir = 3 || s.dbg.ir = 4 || s.dbg.ir = 5

/-- A freeze request is taken: no freeze, reset or clock stop is in force, phase CLOCK is over, and no power transition runs (R51,
R456, Tables 4-10 and 23-5). -/
def freezable (s : State) : Bool := interior s && s.fld fPhase ≠ 0 && !s.flag fPwrBusy

/-- Host registers that accept writes during a freeze (Table 3-3). -/
def freezeWrites (r : Nat) : Bool := [0x10, 0x18, 0x1C, 0x20, 0x70, 0x88, 0x8C, 0xAC, 0xB4].contains r

/-- Every gated branch stops at this cycle (R456): posted writes to other registers are discarded (Table 3-24), illuminators go low
and peers fall silent (Table 22-1). -/
def freezeTake (pin : Bool) (s : State) : State :=
  if !freezable s then s
  else
    let s := peerFreeze (cameraFreeze s)
    let s := raiseInt iFrozen ((s.setFlag fHardFrozen (!s.flag fQuiesced || tapHolds s)).setFlag fSourcePin pin)
    let s := { s with
      host := { s.host with posted := s.host.posted.filter (fun w => freezeWrites w.1) }
      dbg := { s.dbg with freezeSeed := s.free }, free := s.free + 1 }
    s.setFld fFrozen 1

/-- Any readout ends and its page is discarded. -/
def doffEnd (s : State) : State :=
  { (s.setFlds [(fDoffActive, 0), (fDoffPage, 0)]) with dbg := { s.dbg with doff := none } }

/-- No freeze is in force any more; what a reset that ends one does too (R51, R458). -/
def freezeClear (s : State) : State :=
  (doffEnd s).setFlds [(fJtagOwns, 0), (fFrozen, 0), (fHardFrozen, 0), (fSourcePin, 0)]

/-- An accepted change of RMREQ# (R103): only its assertion is an event of INT_STATUS. -/
def rmreqSet (b : Bool) (s : State) : State :=
  let s := s.setFlag fRmreq b
  if b then raiseInt iRmreq s else s

/-- Events held during a freeze are logged, stamped at the thaw (R453). Registers held their values meanwhile (R73), so a change of
RMREQ# shows now. -/
def logHeld (s : State) : State :=
  let now := s.core.timebase.toNat % 2 ^ 48
  let es := s.log.later
  es.foldl (fun s e =>
    let s := if e.2.code = 5 then rmreqSet (e.2.arg = 1) s else s
    reportEvent { e.2 with time := now } s) { s with log := { s.log with later := [] } }

/-- LINK_STATUS.PRESENT follows the accepted pin levels (R53). -/
def presenceSync (s : State) : State :=
  (numsFrom 0 4).foldl (fun s n =>
    let b := (s.core.prsnt[n]?).getD false
    if s.flag (fLkPresent n) = b then s else presentChange n b s) s

/-- A thaw request: only a quiet freeze, and only with the FREEZE pin low (R458). -/
def thawTake (s : State) : State :=
  if s.flag fFrozen && !s.flag fHardFrozen && !s.core.freezePin then
    presenceSync (logHeld (peerThaw (cameraThaw (freezeClear s))))
  else s

/-- FREEZE_PIN_RISE; held: the pin stays high after its edge. -/
def execFreezePinRise (held : Bool) (s : State) : Res :=
  done (freezeTake true { s with core := { s.core with freezePin := held } })

/-- FREEZE_REQUEST: a write of FREEZE_CTRL with KEY and FREEZE = 1. -/
def execFreezeRequest (s : State) : Res := done (freezeTake false s)

/-- THAW. -/
def execThaw (s : State) : Res := done (thawTake s)

/-- A write of FREEZE_CTRL: with both bits, THAW acts when a freeze is in force and FREEZE when none is (Table 3-18). -/
def freezeCtrlWrite (v : W32) (s : State) : State :=
  if bitsOf v 31 24 ≠ 0x5A then s
  else if s.flag fFrozen then (if bitN v.toNat 1 then thawTake s else s)
  else if bitN v.toNat 0 then freezeTake false s
  else s

/-! ### Doff chains (R460-R463) -/

/-- Data pages of a chain, 0 for an empty one (Table 22-2); a count that only the directory gives is Config's, at least one. -/
def doffData (c : Nat) : Nat :=
  let own := 1 + Config.chainPages c % 16383
  if c = 0 then 1
  else if c ≤ 3 then own
  else if c = 4 then 16
  else if c = 5 then 512
  else if c = 6 then 120
  else if c = 7 then own
  else if 0x40 ≤ c && c < 0x80 then own
  else if 0x80 ≤ c && c < 0xC0 then 128
  else if 0xC0 ≤ c && c < 0x100 then 124
  else 0

/-- KIND of a chain (R461). -/
def doffKind (c : Nat) : Nat :=
  if c = 0 then 3
  else if c ≤ 3 || (0x40 ≤ c && c < 0x80) then 2
  else if doffData c = 0 then 0
  else 1

/-- Check pages: one byte for each eight of a memory chain's data (R462). -/
def doffCheck (c : Nat) : Nat := if doffKind c = 1 then (doffData c + 7) / 8 else 0

/-- An entry of the directory (R461). -/
def dirEntry (c : Nat) : List Byte :=
  if doffKind c = 0 then leBytes 16 0
  else
    leBytes 1 c ++ leBytes 1 (doffKind c) ++ leBytes 2 (doffData c) ++ leBytes 2 (doffCheck c)
      ++ leBytes 2 (if doffKind c = 2 then Config.mapId c else 0) ++ leBytes 8 0

/-- A data word of a chain. The log ring and the skeins are given; the order of flip-flops and the raw form of the other arrays are
not, and their words are free values of this freeze. -/
def doffDataWord (s : State) (c k : Nat) : W32 :=
  if c = 0 then BitVec.ofNat 32 (fieldAt (dirEntry (k / 4)) (4 * (k % 4)) 4)
  else if c = 4 then (((Sparse.find s.log.ring (k / 4)).map LogEntry.words).bind (fun l => l[k % 4]?)).getD 0#32
  else if 0x80 ≤ c && c < 0xC0 then BitVec.ofNat 32 (leNat (getBytes noByte s.mem.skein ((c - 0x80) * 0x80000 + 4 * k) 4))
  else Config.logicWord c k s.dbg.freezeSeed

/-- The 64-bit granule j of a memory chain's data. -/
def doffGranule (s : State) (c j : Nat) : W64 :=
  BitVec.ofNat 64 ((doffDataWord s c (2 * j)).toNat + (doffDataWord s c (2 * j + 1)).toNat * 2 ^ 32)

/-- Word k of a chain: data pages, then check pages (R462). -/
def doffWord (s : State) (c k : Nat) : W32 :=
  let n := doffData c * 1024
  if k < n then doffDataWord s c k
  else
    let j := 4 * (k - n)
    BitVec.ofNat 32 (leNat ((numsFrom j 4).map (fun i => if 8 * i < 4 * n then Config.secded (doffGranule s c i) else 0#8)))

/-! ### Readout (R464, R65) -/

/-- A readout of a chain starts at page 0; an empty chain leaves none. -/
def doffStart (c : Nat) (s : State) : State :=
  let pages := doffData c + doffCheck c
  if pages = 0 then doffEnd s
  else { (s.setFlds [(fDoffActive, 1), (fDoffPage, 0)]) with dbg := { s.dbg with doff := some ⟨c, 0, pages⟩ } }

/-- The word a readout delivers next. -/
def doffPeek (s : State) : W32 := match s.dbg.doff with
  | some d => doffWord s d.chain d.word
  | none => 0#32

/-- It has been delivered: the next word, or the end of the readout. -/
def doffNext (s : State) : State :=
  match s.dbg.doff with
  | none => s
  | some d =>
    if d.pages * 1024 ≤ d.word + 1 then doffEnd s
    else { (s.setFld fDoffPage ((d.word + 1) / 1024)) with dbg := { s.dbg with doff := some { d with word := d.word + 1 } } }

/-- DOFF_CTRL.START of the host: ignored unless frozen, and while a JTAG readout holds the scan. -/
def hostDoffStart (c : Nat) (s : State) : State := if s.flag fFrozen && !s.flag fJtagOwns then doffStart c s else s

/-- DOFF_CTRL.ABANDON of the host. -/
def hostDoffAbandon (s : State) : State := if s.flag fJtagOwns then s else doffEnd s

/-- A write of DOFF_CTRL: CHAIN, then ABANDON, then START (Table 3-18). -/
def doffCtrlWrite (v : W32) (s : State) : State :=
  let s := plainWrite 0x8C v s
  let s := if bitN v.toNat 1 then hostDoffAbandon s else s
  if bitN v.toNat 0 then hostDoffStart (bitsOf v 15 8) s else s

/-- DOFF_START: a write of DOFF_CTRL with START = 1. -/
def execDoffStart (chain : BitVec 8) (s : State) : Res :=
  done (doffCtrlWrite (BitVec.ofNat 32 (chain.toNat * 256 + 1)) s)

/-- DOFF_ABANDON. -/
def execDoffAbandon (s : State) : Res := done (hostDoffAbandon s)

/-- A read of DOFF_DATA: the next word, or zero with no readout of the host's (R65). -/
def doffRead (s : State) : W32 × State := if s.flag fJtagOwns then (0#32, s) else (doffPeek s, doffNext s)

/-! ### Test port (R466-R469) -/

/-- The TAP works: power-on reset is released. -/
def tapWorks (s : State) : Bool := !s.core.porstLow

/-- Load an instruction, and the word its data register gives. -/
def tapLoad (ir : Nat) (out : W64) (s : State) : State := { s with dbg := { s.dbg with ir := ir, tdo := out } }

/-- EXTEST, HIGHZ and CLAMP take effect only during a freeze or in PHASE 0xF; they make a freeze hard (R459, R469). -/
def tapTakes (s : State) : Bool := s.flag fFrozen || s.fld fPhase = 15
def tapHarden (s : State) : State := if s.flag fFrozen then s.setFld fHardFrozen 1 else s

/-- TAP_RESET: TRST# low, PORST# low, or five TCK cycles with TMS high. -/
def execTapReset (s : State) : Res := done (tapLoad 1 0xB10407AB#64 s)

/-- BYPASS. -/
def execBypass (s : State) : Res := done (onlyIf (tapWorks s) (tapLoad 0xFF 0#64) s)

/-- IDCODE (R467). -/
def execIdcode (s : State) : Res := done (onlyIf (tapWorks s) (tapLoad 1 0xB10407AB#64) s)

/-- The boundary register captures the pins and takes what is shifted in (R469). -/
def boundaryScan (pins load : List Bool) (s : State) : State := { s with dbg := { s.dbg with captured := pins, boundary := load } }

/-- SAMPLE_PRELOAD. -/
def execSamplePreload (pins load : List Bool) (s : State) : Res :=
  done (onlyIf (tapWorks s) (fun s => boundaryScan pins load (tapLoad 2 0#64 s)) s)

/-- EXTEST; outside a freeze and PHASE 0xF it acts as BYPASS. -/
def execExtest (pins load : List Bool) (s : State) : Res :=
  done (onlyIf (tapWorks s) (fun s =>
    let s := tapLoad 3 0#64 s
    if tapTakes s then tapHarden (boundaryScan pins load s) else s) s)

/-- HIGHZ. -/
def execHighz (s : State) : Res :=
  done (onlyIf (tapWorks s) (fun s => if tapTakes s then tapHarden (tapLoad 4 0#64 s) else tapLoad 4 0#64 s) s)

/-- CLAMP. -/
def execClamp (s : State) : Res :=
  done (onlyIf (tapWorks s) (fun s => if tapTakes s then tapHarden (tapLoad 5 0#64 s) else tapLoad 5 0#64 s) s)

/-- FREEZE_REQ: captures FROZEN and HARD_FROZEN, then requests a freeze or a thaw (Table 22-3). -/
def execFreezeReq (v : BitVec 2) (s : State) : Res :=
  done (onlyIf (tapWorks s) (fun s =>
    let s := tapLoad 0x10 (BitVec.ofNat 64 (bitVal (s.flag fFrozen) 0 + bitVal (s.flag fHardFrozen) 1)) s
    if s.flag fFrozen then (if bitN v.toNat 1 then thawTake s else s)
    else if bitN v.toNat 0 then freezeTake false s
    else s) s)

/-- DOFF_SELECT: captures ACTIVE and the chain; ignored while the host reads (Table 22-3). -/
def execDoffSelect (v : BitVec 9) (s : State) : Res :=
  done (onlyIf (tapWorks s) (fun s =>
    let chain := (s.dbg.doff.map (fun d => d.chain)).getD (s.fld fDoffChain)
    let s := tapLoad 0x11 (BitVec.ofNat 64 (bitVal (s.flag fDoffActive) 8 + chain)) s
    if s.flag fDoffActive && !s.flag fJtagOwns then s
    else if v.toNat < 256 then (if s.flag fJtagOwns then (doffEnd s).setFld fJtagOwns 0 else s)
    else if s.flag fFrozen then doffStart (v.toNat % 256) (s.setFld fJtagOwns 1)
    else s) s)

/-- DOFF_READ: the next word of a JTAG readout; delivered only if at least 32 shifts precede the next Update-DR (Table 22-3). -/
def execDoffRead (shifts : BitVec 8) (s : State) : Res :=
  done (onlyIf (tapWorks s) (fun s =>
    let w := if s.flag fJtagOwns then doffPeek s else 0#32
    let s := tapLoad 0x12 (BitVec.ofNat 64 w.toNat) s
    if s.flag fJtagOwns && 32 ≤ shifts.toNat then doffNext s else s) s)

end Sys2Proof.Machine
end

