-- ==== Sys2Proof/Machine/Resets.lean ====
section
/-! DEFINITION. Quiesce, the reset kinds of Table 4-9, function resets, rails and clocks (chapters 2, 3 and 4). -/

namespace Sys2Proof.Machine

open Sys2Proof

/-! ### Quiesce (R103, Table 4-11) -/

/-- Every external interface has stopped. -/
def quiet (s : State) : Bool :=
  (numsFrom 0 4).all (fun n => s.fld (fLkState n) = 0 || s.fld (fLkState n) = 3)
    && (numsFrom 0 4).all (fun n => !s.flag (fPipeActive n))
    && s.cam.cams.all (fun c => c.frame.isNone)
    && !s.touch.scanning
    && (numsFrom 0 15).all (fun ch => ((chainOf s ch).map (fun c => c.flight.isEmpty)).getD true)

/-- The quiesce actions begin: peers are told, illuminators go low, channels stop. -/
def quiesceStart (s : State) : State := syncReels (cameraQuiesce (peerQuiesce s))

/-- What has come to its end shows it. -/
def quiesceSettle (s : State) : State := syncReels (peerQuiesceSettle (peerQuiesce s))

/-- Once quiet, the converters' outputs are high-impedance and the TDM port has stopped. -/
def audioQuiet (s : State) : State := { s with aud := { s.aud with dacs := [], tdms := [] } }

/-- A write of DEV_CONTROL.QUIESCE = 1. -/
def quiesceSet (s : State) : State := if s.flag fQuiesce then s else quiesceStart (s.setFld fQuiesce 1)

/-- QUIESCE_SET. -/
def execQuiesceSet (s : State) : Res := done (onlyIf (interior s) quiesceSet s)

/-- QUIESCE_COMPLETE: the last action has completed: QUIESCED. -/
def execQuiesceComplete (s : State) : Res :=
  done (onlyIf (interior s && s.flag fQuiesce && !s.flag fQuiesced) (fun s =>
    let s := quiesceSettle s
    if quiet s then audioQuiet (s.setFld fQuiesced 1) else s) s)

/-- A write of DEV_CONTROL.QUIESCE = 0: the interfaces resume (R103, R415). -/
def quiesceClear (s : State) : State :=
  if !s.flag fQuiesce then s
  else
    let s := s.setFlds [(fQuiesce, 0), (fQuiesced, 0)]
    if s.core.entryQuiesce then s else syncReels (audioResume (cameraResume (peerUnquiesce s)))

/-- QUIESCE_CLEAR. -/
def execQuiesceClear (s : State) : Res := done (onlyIf (interior s) quiesceClear s)

/-- A write of DEV_CONTROL.RM_ACK: 1 only while QUIESCED = 1 (R103). -/
def rmAckWrite (on : Bool) (s : State) : State :=
  if on && !s.flag fQuiesced then s else { (s.setFlag fRmAck on) with core := { s.core with rmack := on } }

/-- RM_ACK. -/
def execRmAck (on : Bool) (s : State) : Res := done (onlyIf (interior s) (rmAckWrite on) s)

/-- A write of DEV_CONTROL: RM_ACK, then QUIESCE. -/
def devControlWrite (v : W32) (s : State) : State :=
  let s := rmAckWrite (bitN v.toNat 1) s
  if bitN v.toNat 0 then quiesceSet s else quiesceClear s

/-- An interface that comes alive while QUIESCE = 1 is quiesced, and QUIESCED reads 0 until that has completed (Table 4-10). -/
def quiesceAgain (s : State) : State :=
  if s.flag fQuiesce && s.flag fQuiesced && !quiet s then quiesceStart (s.setFld fQuiesced 0) else s

/-- RMREQ_ACCEPTED: a debounced change of RMREQ# (R103). In a freeze it waits, as registers hold their values. -/
def execRmreqAccepted (asserted : Bool) (s : State) : Res :=
  done (onlyIf (!s.core.porstLow) (fun s =>
    let s := logEvent 7 0x005 0 0 (if asserted then 1 else 0) s
    if s.flag fFrozen then s else rmreqSet asserted s) s)

/-- PRSNT_CHANGE: an accepted change of PRSNTn# (R53): LINK_STATUS and the link follow where the interior runs; it is a wake event in
DOZE and during its entry (R485). -/
def execPrsntChange (port : Fin 4) (present : Bool) (s : State) : Res :=
  done (onlyIf (!s.core.porstLow) (fun s =>
    let s := { s with core := { s.core with prsnt := setAt s.core.prsnt port.val present } }
    let s := if interior s then presentChange port.val present s else s
    if bitN (s.reg 0x80).toNat 1 && (inDoze s || s.core.entryCode = some 1#2) then wakeEvent 1 s else s) s)

/-! ### What a reset keeps (R99, R484) -/

/-- Registers a warm reset keeps whole. -/
def keptWarm (r : Nat) : Bool :=
  [0x14, 0x64, 0x68, 0x70, 0x98, 0xAC].contains r || (C 0xC0004 ≤ r && r < C 0xC0014) || r = C 0xF0000 || r = C 0xF0004

/-- Fields of other registers that a warm reset keeps: DRAM_GIB, TRIM_DEFAULTS, the VSEL strap, and the levels of RMREQ# and PRSNTn#. -/
def keptFields : List Fld :=
  [fDramGib, fTrimDefaults, fRmreq, ⟨0xB4, 7, 7⟩] ++ (numsFrom 0 4).map fLkPresent

/-- All interior state is lost, but for the registers that keep picks and what every warm start keeps: the log, the trims, DRAM and its
code, the timebase, pins and the TAP. -/
def interiorLost (keep : Nat → Bool) (s : State) : State :=
  let r := State.reset
  let n : State :=
    { r with
      pending := s.pending, free := s.free
      regs := s.regs.filter (fun e => keep e.1)
      core := { r.core with
        freezePin := s.core.freezePin, rails := s.core.rails, pwrreq := s.core.pwrreq, railWait := s.core.railWait
        mclk := s.core.mclk, ttrip := s.core.ttrip, prsnt := s.core.prsnt, audclkLost := s.core.audclkLost
        timebase := s.core.timebase, carryC := s.core.carryC, carryA := s.core.carryA }
      trim := { r.trim with live := s.trim.live }
      log := { r.log with ring := s.log.ring, count := s.log.count }
      mem := { r.mem with lost := s.mem.lost, dram := s.mem.dram, dramUe := s.mem.dramUe }
      dbg := { s.dbg with doff := none } }
  (n.setFlds (keptFields.map (fun f => (f, s.fld f)))).setFlds [(fFuncBusy, 0), (fCalBusy, 0), (fCalResult, 0)]

/-- DRAM's content is undefined from now on (R98). -/
def dramLost (s : State) : State :=
  { s with mem := { s.mem with lost := s.free + 1, dram := [], dramUe := [] }, free := s.free + 1 }

/-- A warm reset (R99, R82, R102): the log is rewound, PWRREQ keeps its code or, from DOZE or an entry, returns to 0b11. A clock loss,
and a cold start cut short before its training, need full training; a clock loss has lost DRAM's content (R100). -/
def warmReset (cause : Nat) (s : State) : State :=
  if s.core.porstLow || s.core.critical then s
  else
    let s := rewindLog s
    let full := s.boot.fullTrain || cause = 5
    let n := (interiorLost keptWarm s).setFld fCause cause
    let on := s.core.pwrreq = some 3#2
    let n := { n with
      boot := { n.boot with warm := true, fullTrain := full }
      core := { n.core with
        mclk := s.core.mclk && on && s.core.clockLost.isNone
        pwrreq := if s.core.railWait then s.core.pwrreq else some 3#2
        railWait := s.core.railWait || !on } }
    if cause = 5 then dramLost n else n

/-- WRST_ASSERT: a clock-loss stop absorbs it (R51, R55, R99). -/
def execWrstAssert (s : State) : Res := done (onlyIf s.core.clockLost.isNone (warmReset 2) s)

/-- The host register block answers: MCLK runs and no clock or critical stop is in force, or the always-on domain serves it in DOZE
(R55, R59, R73, R491). A freeze does not stop it (Table 22-1). -/
def hostServed (s : State) : Bool :=
  (s.core.mclk && !s.core.porstLow && s.core.clockLost.isNone && !s.core.critical) || inDoze s

/-- WARM: RESET_CTRL.WARM. -/
def execWarm (s : State) : Res := done (onlyIf (hostServed s) (warmReset 3) s)

/-- Everything is cleared, the always-on domain included: the state after power-on reset (R99). The pins' own levels, the strap and the
model's own counter stay. -/
def powerOn (s : State) : State :=
  let r := State.reset
  let n : State :=
    { r with pending := s.pending, free := s.free, core := { r.core with freezePin := s.core.freezePin, rails := s.core.rails } }
  dramLost (n.setFld ⟨0xB4, 7, 7⟩ (s.fld ⟨0xB4, 7, 7⟩))

/-- PORST# is low: outputs are high-impedance (R56). -/
def porstState (s : State) : State := let n := powerOn s; { n with core := { n.core with porstLow := true, pwrreq := none } }

/-- PORST_ASSERT. -/
def execPorstAssert (s : State) : Res := done (porstState s)

/-- PORST_RELEASE: start-up begins in phase CLOCK; the board holds PORST# low until every rail is good (R46, R89). -/
def execPorstRelease (s : State) : Res :=
  done (onlyIf s.core.porstLow (fun s =>
    { s with core := { s.core with porstLow := false, pwrreq := some 3#2, rails := .allGood } }) s)

/-! ### Rails (R50, R52) -/

/-- A rail-good input's level. -/
def setRail (r : Rail) (b : Bool) (s : State) : State :=
  let x := s.core.rails
  let x := match r with
    | .io => { x with io := b }
    | .aon => { x with aon := b }
    | .ana => { x with ana := b }
    | .sram => { x with sram := b }
    | .core => { x with core := b }
    | .serdes => { x with serdes := b }
  { s with core := { s.core with rails := x } }

/-- PWRREQ requests the rail (Table 2-5). -/
def railAsked (s : State) (r : Rail) : Bool :=
  match s.core.pwrreq with
  | some 3#2 => true
  | some 1#2 => r = .io || r = .aon || r = .ana
  | _ => false

/-- The PG_FELL bit of a rail; a fall of PG_AON leaves no record (R50). -/
def railBit : Rail → Option Nat
  | .io => some 27
  | .aon => none
  | .ana => some 26
  | .sram => some 25
  | .core => some 24
  | .serdes => some 23

/-- RAIL_GOOD_FALL: of a requested rail, an internal power-on reset, recorded with the rail that fell; the device then waits for the
rails (R50). -/
def execRailGoodFall (r : Rail) (s : State) : Res :=
  done (onlyIf (!s.core.porstLow) (fun s =>
    let s := setRail r false s
    if !railAsked s r then s
    else
      let fell := s.fld fPgFell
      let n := powerOn s
      let n := { n with core := { n.core with railWait := true } }
      match railBit r with
      | none => n
      | some b => ((n.setFld fPgFell fell).setFld ⟨0x14, b, b⟩ 1).setFld fCause 1) s)

/-! ### Clocks (R54, R55) -/

/-- REFCLK_LOSS: every MCLK branch stops, as in a hard freeze; nothing is lost before MCLK runs (R54). -/
def execRefclkLoss (what : ClockLoss) (s : State) : Res :=
  done (onlyIf (!s.core.porstLow && !s.core.critical && s.core.mclk && s.core.clockLost.isNone) (fun s =>
    let s := peerFreeze (cameraFreeze s)
    { s with core := { s.core with clockLost := some what }, host := { s.host with wait := false, hd := 0#32 } }) s)

/-- CLOCK_LOSS_WARM_RESET: the clock is back (R55). -/
def execClockLossWarmReset (s : State) : Res := done (onlyIf s.core.clockLost.isSome (warmReset 5) s)

/-! ### Function resets (R76, Table 21-6) -/

/-- Uids of the plies that p picks. -/
def plyUids (s : State) (p : Ply → Bool) : List Nat := (s.fly.plies.filter (fun e => p e.2)).map (fun e => e.2.uid)

/-- A waiter that is one of some plies. -/
def Waiter.isPly (us : List Nat) : Waiter → Bool
  | .ply u | .plyFetch u => us.contains u
  | _ => false

/-- RAY: rays, hanks, groups and allotments go, callback plies are discarded (R275, R294). -/
def resetRay (s : State) : State :=
  let call : Ply → Bool := fun y => !y.cbs.isEmpty
  let us := plyUids s call
  let s := resetFaults (fun w => match w with
    | .ray _ => true
    | w => w.isPly us) s
  dropPlies call (rayReset s)

/-- RASTER: passes end, raster plies are discarded (R318). -/
def resetRaster (s : State) : State :=
  let mine : Ply → Bool := fun y => y.owner.source = 1
  let us := plyUids s mine
  let s := resetFaults (fun w => match w with
    | .tile _ | .frontEnd => true
    | w => w.isPly us) s
  syncRas (dropPlies mine (dropPasses (fun _ => true) 3 s))

/-- REEL: channels 0-14 (R434). -/
def reelResets (s : State) : State :=
  resetReel (resetFaults (fun w => match w with
    | .reel ch => ch ≠ 15
    | _ => false) s)

/-- The function reset of a RESET_CTRL bit (Table 3-7). -/
def functionReset (b : Nat) (s : State) : State :=
  if b = 0 then resetRay s
  else if b = 1 then resetRaster s
  else if b ≤ 5 then Sys2Proof.Machine.resetPipe (b - 2) s
  else if b = 6 then Sys2Proof.Machine.resetTouch s
  else if b = 7 then Sys2Proof.Machine.resetCamera s
  else if b = 8 then Sys2Proof.Machine.resetAudio s
  else if b ≤ 12 then Sys2Proof.Machine.resetPeer (b - 9) s
  else if b = 13 then reelResets s
  else s

/-- Function bits start their resets: ignored before READY and during a freeze; bits already busy are ignored (R86, R453, Table 4-10). -/
def functionResets (bits : Nat) (s : State) : State :=
  if !(interior s && ready s) then s
  else
    (numsFrom 0 14).foldl (fun s b =>
      if bitN bits b && !funcBusy s b then (functionReset b s).setFld ⟨0x14, b, b⟩ 1 else s) s

/-- RESET_RAY. -/
def execResetRay (s : State) : Res := done (functionResets (2 ^ 0) s)
/-- RESET_RASTER. -/
def execResetRaster (s : State) : Res := done (functionResets (2 ^ 1) s)
/-- RESET_PIPE. -/
def execResetPipe (pipe : Fin 4) (s : State) : Res := done (functionResets (2 ^ (2 + pipe.val)) s)
/-- RESET_TOUCH. -/
def execResetTouch (s : State) : Res := done (functionResets (2 ^ 6) s)
/-- RESET_CAMERA. -/
def execResetCamera (s : State) : Res := done (functionResets (2 ^ 7) s)
/-- RESET_AUDIO. -/
def execResetAudio (s : State) : Res := done (functionResets (2 ^ 8) s)
/-- RESET_PEER. -/
def execResetPeer (port : Fin 4) (s : State) : Res := done (functionResets (2 ^ (9 + port.val)) s)
/-- RESET_REEL. -/
def execResetReel (s : State) : Res := done (functionResets (2 ^ 13) s)

/-- FUNCTION_RESET_DONE: every reset in progress completes; a reset peer port retrains where LINK_CTRL lets it (R76, Table 18-8a). -/
def execFunctionResetDone (s : State) : Res :=
  done (onlyIf (interior s && s.fld fFuncBusy ≠ 0) (fun s =>
    let was := s.fld fFuncBusy
    let s := raiseInt iResetDone (s.setFld fFuncBusy 0)
    (numsFrom 0 4).foldl (fun s n => if bitN was (9 + n) then tryTrain n s else s) s) s)

end Sys2Proof.Machine
end

