-- ==== Sys2Proof/Machine/Power.lean ====
section
/-! DEFINITION. Power states, thermal zones, throttling, energy, and the watchdog (chapter 23, R84). -/

namespace Sys2Proof.Machine

open Sys2Proof

/-! ### IDLE, DOZE and OFF (R482-R485) -/

/-- Every context 1-15 is OFF. -/
def contextsOff (s : State) : Bool := (numsFrom 1 15).all (fun c => s.fld (fQState c) = 0)

/-- A write of POWER_STATE.TARGET: in DOZE, RUN is a wake event; while BUSY it is ignored and logged; before READY it is held; DOZE and
OFF need every context 1-15 OFF (R482, R483, R485, Tables 4-10 and 23-5). Another target than RUN in DOZE changes nothing. -/
def targetWrite (t : Nat) (s : State) : State :=
  if s.flag fPwrBusy then logIgnored 0x74 s
  else if inDoze s then (if t = 0 then wakeEvent 3 (s.setFld fTarget 0) else logIgnored 0x74 s)
  else if !ready s then { s with boot := { s.boot with target := some t } }
  else if t = 0 then leaveIdle (s.setFld fTarget 0)
  else if t = 1 then s.setFld fTarget 1
  else if !contextsOff s then logIgnored 0x74 s
  else
    { (s.setFlds [(fTarget, t), (fPwrBusy, 1)]) with
      core := { s.core with entryCode := some (if t = 2 then 1#2 else 0#2), entryQuiesce := false } }

/-- POWER_STATE takes writes while the interior runs and in DOZE (Table 3-3). -/
def powerServed (s : State) : Bool := interior s || inDoze s

/-- POWER_TARGET_RUN. -/
def execPowerTargetRun (s : State) : Res := done (onlyIf (powerServed s) (targetWrite 0) s)
/-- POWER_TARGET_IDLE. -/
def execPowerTargetIdle (s : State) : Res := done (onlyIf (powerServed s) (targetWrite 1) s)
/-- POWER_TARGET_DOZE. -/
def execPowerTargetDoze (s : State) : Res := done (onlyIf (powerServed s) (targetWrite 2) s)
/-- POWER_TARGET_OFF. -/
def execPowerTargetOff (s : State) : Res := done (onlyIf (powerServed s) (targetWrite 3) s)

/-- No packet of any context is in flight and no ply is resident (R482). -/
def allQuiet (s : State) : Bool :=
  s.fly.plies.isEmpty && s.q.ctxs.all (fun e => e.2.flight.isEmpty && e.2.fetched.isNone)

/-- IDLE_ENTRY. -/
def execIdleEntry (s : State) : Res :=
  done (onlyIf (running s && s.fld fTarget = 1 && s.fld fCurrent = 0 && allQuiet s) (powerState 1) s)

/-- RESET_CTRL.POWER_CYCLE, and watchdog ACTION 0b11: a freeze ends; quiesce, drain, then PWRREQ 0b10 (R483). Once the rails have been
asked for anything but 0b11 and have not followed, nothing changes. -/
def powerCycle (s : State) : State :=
  if s.core.porstLow || s.core.critical || s.core.clockLost.isSome || s.core.railWait then s
  else
    let s := if s.flag fFrozen then freezeClear s else s
    { (s.setFld fPwrBusy 1) with core := { s.core with entryCode := some 2#2, entryQuiesce := false } }

/-- POWER_CYCLE. -/
def execPowerCycle (s : State) : Res := done (onlyIf (hostServed s) powerCycle s)

/-- A write of RESET_CTRL with the correct KEY: POWER_CYCLE before WARM, WARM before the function bits (R75, R76). -/
def resetCtrlWrite (v : W32) (s : State) : State :=
  if bitsOf v 31 24 ≠ 0xA5 then s
  else if bitN v.toNat 18 then powerCycle s
  else if bitN v.toNat 16 then warmReset 3 s
  else functionResets (bitsOf v 13 0) s

/-- Step 1 of an entry: no trim store and no channel-15 chain (R483); a power cycle does not wait. -/
def entryMay (s : State) (code : BitVec 2) : Bool :=
  code = 2#2 || (!s.flag fCalBusy && (chainOf s 15).isNone && s.reel.host.isNone)

/-- Steps 3 to 5: merge buffers drain, the log is rewound, the timebase is carried, PWRREQ is driven and MCLK stops (R483, R486). -/
def entryDrive (code : BitVec 2) (s : State) : State :=
  let s := rewindLog (if interior s then drainAll s else s)
  let s := if code = 0#2 then s.setFld fCurrent 3 else s
  let tb := s.core.timebase
  { s with core := { s.core with
    pwrreq := some code, railWait := true, mclk := false
    carryC := if s.core.mclk then tb &&& ~~~0x7F#64 else s.core.carryC
    carryA := if s.core.mclk then tb.toNat % 128 else s.core.carryA } }

/-- POWER_ENTRY_PROCEED: the entry takes its next step: step 1 and the start of the quiesce, then, once that is complete, the rest. -/
def execPowerEntryProceed (s : State) : Res :=
  done (onlyIf ((interior s || inDoze s) && !s.core.railWait) (fun s =>
    match s.core.entryCode with
    | none => s
    | some code =>
      if !s.core.entryQuiesce then
        if entryMay s code then quiesceStart { s with core := { s.core with entryQuiesce := true } } else s
      else
        let s := quiesceSettle s
        if quiet s then entryDrive code (audioQuiet s) else s) s)

/-- QUIESCE_FORCE: 50 ms after the request what has not stopped is stopped (R483). -/
def execQuiesceForce (s : State) : Res :=
  done (onlyIf (interior s && s.core.entryQuiesce && !s.core.railWait) (fun s =>
    let s := (numsFrom 0 4).foldl (fun s n => if s.flag (fPipeActive n) then stopPipe n s else s) s
    let s := (numsFrom 0 4).foldl (fun s n => if s.fld (fLkState n) = 1 then trainFail n (peerAt s n).step 0 s else linkDown n 0 s) s
    let s := audioQuiet s
    let s := { s with
      cam := { s.cam with cams := s.cam.cams.map (fun c => { c with frame := none }) }
      touch := { s.touch with scanning := false }
      reel := { s.reel with chains := s.reel.chains.map (fun e => if e.1 = 15 then e else (e.1, e.2.rewound)) } }
    syncReels s) s)

/-- Registers DOZE keeps beside those of a warm reset (R484). -/
def keptDoze (r : Nat) : Bool :=
  keptWarm r || [0x18, 0x1C, 0x74, 0x7C, 0x80, 0x84, 0xA8, 0xB4].contains r || (C 0x60000 ≤ r && r < C 0x70000)

/-- Records a held WIN0 page took from a drain region and the host has not read are counted as dropped (R67). -/
def dropTaken (s : State) : State :=
  let n := (s.host.drainTaken + 3) / 4
  if n = 0 then s
  else
    let s := (s.addSat fDropCount n).setFld fTouchDropped ((s.fld fTouchDropped + n) % 256)
    { s with host := { s.host with drainTaken := 0 } }

/-- The DOZE rails have fallen: CURRENT = DOZE, AON_ONLY, and everything the always-on domain does not keep is lost (R483, R484). -/
def dozeEnter (s : State) : State :=
  let s := dropTaken s
  let n := interiorLost keptDoze s
  let n := { n with
    touch := s.touch
    boot := { n.boot with warm := true, fullTrain := s.boot.fullTrain }
    core := { n.core with mclk := false, railWait := false, rails := { Rails.allGood with sram := false, core := false, serdes := false } } }
  touchDozeEnter (n.setFlds [(fCurrent, 2), (fPwrBusy, 0), (fAonOnly, 1)])

/-- A wake event that was held during the entry acts (Table 23-5). -/
def wakeStart (s : State) : State :=
  { (s.setFld fPwrBusy 1) with
    core := { s.core with pwrreq := some 3#2, railWait := true, wakeHeld := false }, boot := { s.boot with wake := true } }

/-- RAIL_GOOD_MATCH: the rail-good inputs match PWRREQ (R52). With 0b11 start-up may go on; with 0b01 DOZE begins, or, where a warm
reset ended the entry, 0b11 is driven; with 0b00 and 0b10 the rails are gone. -/
def execRailGoodMatch (s : State) : Res :=
  done (onlyIf (s.core.railWait && !s.core.porstLow) (fun s =>
    match s.core.pwrreq with
    | some 3#2 => { s with core := { s.core with railWait := false, rails := .allGood } }
    | some 1#2 =>
      if s.core.entryCode = some 1#2 then
        let held := s.core.wakeHeld
        let s := dozeEnter s
        if held then wakeStart s else s
      else
        { s with core := { s.core with
          pwrreq := some 3#2, rails := { Rails.allGood with sram := false, core := false, serdes := false } } }
    | some _ =>
      let n := porstState s
      { n with core := { n.core with rails := ⟨false, false, false, false, false, false⟩ } }
    | none => s) s)

/-- WAKE_TIMER_EXPIRY: TIMER ms in DOZE with TIMER_EN = 1 (R485). -/
def execWakeTimerExpiry (s : State) : Res := done (onlyIf (inDoze s && bitN (s.reg 0x80).toNat 2) (wakeEvent 2) s)

/-- AONCLK periods until the accumulator carries once (R486). -/
def aonCarry (s : State) : State :=
  let a := s.core.carryA
  let a := if a < 3 then a + 250 else a + 125
  { s with core := { s.core with carryA := a - 128, carryC := s.core.carryC + 128#64 } }

/-- TIMEBASE_CARRY. -/
def execTimebaseCarry (s : State) : Res := done (onlyIf (inDoze s) aonCarry s)

/-! ### Throttling (R487, R488, R490) -/

def spinThrot (sp : Nat) : Nat := C (0xB0100 + 4 * sp)

/-- The zone floor. -/
def zoneFloor (s : State) : Nat :=
  if s.fld fZone = 0 then 0 else if s.fld fZone = 1 then s.fld ⟨C 0xB0000, 19, 16⟩ else s.fld ⟨C 0xB0000, 23, 20⟩

/-- SPIN_THROT.LEVEL of every spindle: the largest of cap level, zone floor and FLOOR (R487). -/
def syncThrottle (s : State) : State :=
  (numsFrom 0 64).foldl (fun s sp =>
    let cap := Sparse.get (fun _ => 0) s.pwr.caps sp
    s.setFld ⟨spinThrot sp, 3, 0⟩ (Nat.max cap (Nat.max (zoneFloor s) (s.fld ⟨spinThrot sp, 19, 16⟩)))) s

/-- Add to an energy counter (R489). -/
def addEnergy (i : Nat) (uj : W32) (s : State) : State :=
  setCounter (0xB0200 + 8 * i) ((counter s (0xB0200 + 8 * i) + uj.toNat) % 2 ^ 64) s

/-- POWER_CAP_WINDOW: a 10 µs window ends with an estimate, and the energy of the window (R488, R489). -/
def execPowerCapWindow (est : BitVec 12) (uj : EnergyStep) (s : State) : Res :=
  done (onlyIf (running s) (fun s =>
    let s := addEnergy 4 uj.pins (addEnergy 3 uj.skein (addEnergy 2 uj.flyers (addEnergy 1 uj.twist (addEnergy 0 uj.device s))))
    let cap := s.fld ⟨0x78, 11, 0⟩
    let on := s.flag ⟨0x78, 31, 31⟩
    let e := est.toNat
    let lvl := fun sp => Sparse.get (fun _ => 0) s.pwr.caps sp
    let next : Nat → Nat := fun sp =>
      if !on then 0
      else if cap < e then (if s.pwr.issued.contains sp then satN 15 (lvl sp + 1) else lvl sp)
      else if e * 20 < cap * 19 then lvl sp - 1
      else lvl sp
    let caps := Sparse.putAll (fun _ => 0) [] ((numsFrom 0 64).map (fun sp => (sp, next sp)))
    let s := if on then s.setFlds [(⟨C 0xB0004, 31, 31⟩, if cap < e then 1 else 0), (⟨C 0xB0004, 11, 0⟩, e)] else s
    syncThrottle { s with pwr := { s.pwr with caps := caps, issued := [] } }) s)

/-! ### Sensors and zones (R490, R491, R495) -/

/-- A reading in whole degrees: the raw value and THERM_OFFSET in quarter degrees, to the nearest; a tie, and a value that eight bits
cannot hold, are not stated. -/
def sensorTemp (s : State) (n : Nat) (raw : BitVec 12) : Int :=
  let q := raw.toInt + signedN 8 (trimWord s 2 n).toNat
  let t := if q % 4 = 2 then q / 4 + ((Config.unstated "sensor tie" [n, raw.toNat] % 2 : Nat) : Int) else (q + 2) / 4
  if t < -128 || 127 < t then signedN 8 (Config.unstated "sensor range" [n, raw.toNat]) else t

def sensorReg (n : Nat) : Nat := C (0xB0400 + 4 * n)

/-- Sensor n is sampled; a failed conversion is logged once until a valid reading returns (R495). -/
def sampleSensor (n : Nat) (raw : Option (BitVec 12)) (s : State) : State :=
  match raw with
  | some r =>
    let s := s.setFlds [(⟨sensorReg n, 31, 31⟩, 1), (⟨sensorReg n, 7, 0⟩, wrapN 8 (sensorTemp s n r))]
    { s with pwr := { s.pwr with badLogged := s.pwr.badLogged.filter (fun k => k ≠ n) } }
  | none =>
    let s := s.setFld ⟨sensorReg n, 31, 31⟩ 0
    if s.pwr.badLogged.contains n then s
    else logEvent 4 0x01D 0 n (regPa (sensorReg n)) { s with pwr := { s.pwr with badLogged := n :: s.pwr.badLogged } }

/-- Valid sensors with their readings. -/
def validTemps (s : State) : List (Nat × Int) :=
  ((numsFrom 0 64).filter (fun n => s.flag ⟨sensorReg n, 31, 31⟩)).map (fun n => (n, signedN 8 (s.fld ⟨sensorReg n, 7, 0⟩)))

/-- The highest reading. -/
def hottestOf : List (Nat × Int) → Option Int
  | [] => none
  | (_, t) :: r => match hottestOf r with
    | none => some t
    | some m => some (if m < t then t else m)

/-- The trip point of a zone (Table 23-3). -/
def zoneTrip (s : State) (z : Nat) : Int :=
  if z = 1 then s.fld ⟨C 0xB0000, 7, 0⟩ else if z = 2 then s.fld ⟨C 0xB0000, 15, 8⟩ else 125

/-- The zone after a sample: up at once, down only 3 degrees below the point that was crossed (R490). -/
def zoneNext (s : State) (old : Nat) (t : Int) : Nat :=
  let up := (numsFrom 1 3).foldl (fun a z => if zoneTrip s z ≤ t then z else a) 0
  let stay := (numsFrom 1 3).foldl (fun a z => if z ≤ old && zoneTrip s z < t + 3 then z else a) 0
  Nat.max up stay

/-- The critical zone (R491): the entry is written, every branch stops, TTRIP# is asserted and PWRREQ 0b00 driven. -/
def criticalStop (e : LogEntry) (s : State) : State :=
  let s := ringWrite e s
  { s with core := { s.core with critical := true, ttrip := true, pwrreq := some 0#2, railWait := true, rmack := false } }

/-- The entry of a zone change. -/
def thermalEntry (s : State) (sensor z : Nat) : LogEntry :=
  { cls := 7, ctx := 0, code := 0x003, src := sensor, time := s.core.timebase.toNat % 2 ^ 48, arg := s.fld fHottest + z * 2 ^ 16 }

/-- HOTTEST, SENSOR and ZONE after the sensors were sampled; which of equally hot sensors SENSOR names is a free value. -/
def zoneUpdate (s : State) : State :=
  let l := validTemps s
  let bad := 64 - l.length
  let old := s.fld fZone
  match hottestOf l with
  | none => if old < 2 then raiseInt iThermal (reportEvent (thermalEntry s (s.fld fSensorIx) 2) (s.setFld fZone 2)) else s
  | some t =>
    let tied := l.filter (fun e => e.2 = t)
    let (k, s) := if tied.length ≤ 1 then (0, s) else takeFree tied.length s
    let n := ((tied[k]?).map (fun e => e.1)).getD 0
    let s := s.setFlds [(fHottest, wrapN 8 t), (fSensorIx, n)]
    let z := zoneNext s old t
    let z := if 4 < bad then Nat.max z 2 else z
    if z = old then s
    else
      let e := thermalEntry s n z
      let s := raiseInt iThermal (s.setFld fZone z)
      if z = 3 then criticalStop e s else reportEvent e s

/-- THERMAL_SAMPLE: the sensors are sampled, every 100 µs. While the interior is stopped with its rails on, only a critical reading acts
(Table 23-5). -/
def execThermalSample (raw : List (Option (BitVec 12))) (s : State) : Res :=
  done (onlyIf (s.boot.released && !s.core.porstLow && !s.core.critical) (fun s =>
    let n := zoneUpdate ((numsFrom 0 64).foldl (fun s k => sampleSensor k ((raw[k]?).getD none) s) s)
    if running s then (if n.core.critical then n else syncThrottle n)
    else if n.core.critical then n
    else s) s)

/-! ### Watchdog (R84) -/

/-- REMAIN is loaded with PERIOD x 16. -/
def watchdogReload (s : State) : State := s.setFld fWdRemain (s.fld fWdPeriod * 16)

/-- KICK = 0x00: PERIOD, ACTION and LOCK are set unless LOCK is 1, and REMAIN reloads. -/
def watchdogSet (period action lock : Nat) (s : State) : State :=
  watchdogReload (if s.flag fWdLock then s else s.setFlds [(fWdPeriod, period), (fWdAction, action), (fWdLock, lock)])

/-- A write of WATCHDOG. -/
def watchdogWrite (v : W32) (s : State) : State :=
  if bitsOf v 7 0 = 0x6B then watchdogReload s
  else if bitsOf v 7 0 = 0 then watchdogSet (bitsOf v 19 12) (bitsOf v 11 10) (bitsOf v 9 9) s
  else s

/-- WATCHDOG_KICK. -/
def execWatchdogKick (s : State) : Res := done (onlyIf (interior s) watchdogReload s)

/-- WATCHDOG_CONFIG. -/
def execWatchdogConfig (period : BitVec 8) (action : BitVec 2) (lock : Bool) (s : State) : Res :=
  done (onlyIf (interior s) (watchdogSet period.toNat action.toNat (if lock then 1 else 0)) s)

/-- REMAIN is at half of PERIOD x 16. -/
def watchdogHalf (s : State) : State := raiseInt iWdogWarn (s.setFld fWdRemain (s.fld fWdPeriod * 8))

/-- WATCHDOG_HALF. -/
def execWatchdogHalf (s : State) : Res := done (onlyIf (interior s && s.fld fWdPeriod ≠ 0) watchdogHalf s)

/-- REMAIN is zero: ACTION is taken and REMAIN reloads. -/
def watchdogExpiry (s : State) : State :=
  let a := s.fld fWdAction
  let s := logEvent 7 0x004 0 0 a (watchdogReload s)
  if a = 1 then raiseInt iWdogWarn s
  else if a = 2 then warmReset 4 s
  else if a = 3 then powerCycle s
  else s

/-- WATCHDOG_EXPIRY. -/
def execWatchdogExpiry (s : State) : Res := done (onlyIf (interior s && s.fld fWdPeriod ≠ 0) watchdogExpiry s)

/-- A millisecond of the timebase has passed (R84). -/
def watchdogTick (s : State) : State :=
  if s.fld fWdPeriod = 0 then s
  else
    let s := s.setFld fWdRemain (s.fld fWdRemain - 1)
    if s.fld fWdRemain = 0 then watchdogExpiry s
    else if s.fld fWdRemain = s.fld fWdPeriod * 8 then watchdogHalf s
    else s

end Sys2Proof.Machine
end

