-- ==== Sys2Proof/Machine/Start.lean ====
section
/-! DEFINITION. The start-up sequencer but for its boot table (chapter 4). -/

namespace Sys2Proof.Machine

open Sys2Proof

/-! ### Phases CLOCK and SRAM_INIT -/

/-- Phase CLOCK may end: 0b11 is requested and answered, the clocks are there and no wait or stop is in force (R43, R52, R89). -/
def mayLock (s : State) : Bool :=
  s.fld fPhase = 0 && !s.core.porstLow && !s.core.railWait && s.core.clockLost.isNone && !s.core.critical
    && s.core.pwrreq = some 3#2 && (!s.flag fAonOnly || s.boot.wake)

/-- PLL_LOCKED: MCLK runs and SRAM_INIT begins; an access held until now completes; at a wake the timebase takes the carried time
(R43, R59, R486). -/
def execPllLocked (s : State) : Res :=
  done (onlyIf (mayLock s) (fun s =>
    let tb := if s.boot.wake then s.core.carryC + BitVec.ofNat 64 s.core.carryA else s.core.timebase
    let s := s.setFld fPhase 1
    presenceSync { s with core := { s.core with mclk := true, timebase := tb }, host := { s.host with wait := false } }) s)

/-- The RESET entry that a warm start-up writes before any other (Table 21-7). -/
def resetEntry (s : State) : LogEntry :=
  { cls := 7, ctx := 0, code := 0x001, src := 0, time := s.core.timebase.toNat % 2 ^ 48, arg := (s.reg 0x14).toNat }

/-- SRAM_INIT_DONE: phase HEADER begins; the event log runs from here on (Tables 4-1 and 4-6). -/
def execSramInitDone (s : State) : Res :=
  done (onlyIf (interior s && s.fld fPhase = 1) (fun s =>
    let s := s.setFld fPhase 2
    if s.boot.warm && !s.boot.wake then ringWrite (resetEntry s) s else s) s)

/-! ### Failure and resume (R105, R106) -/

/-- A phase fails: BOOT_STATUS, PHASE 0xF, an event and ERR_UNCORR. -/
def bootFail (phase reason entry channel : Nat) (s : State) : State :=
  let s := s.setFlds [(⟨C 0x100, 31, 28⟩, phase), (⟨C 0x100, 27, 24⟩, reason), (⟨C 0x100, 23, 12⟩, entry),
    (⟨C 0x100, 11, 8⟩, channel), (fPhase, 15)]
  raiseInt iErrUncorr (logEvent 7 0x021 0 0 (s.reg (C 0x100)).toNat s)

/-- A wake start-up is at READY: CURRENT is RUN, BUSY and AON_ONLY clear, and what DOZE held is logged after the POWER entry (R485). -/
def wakeDone (s : State) : State :=
  let s := (powerState 0 s).setFlds [(fPwrBusy, 0), (fAonOnly, 0)]
  let es := s.log.later
  let s := { s with log := { s.log with later := [] }, boot := { s.boot with wake := false } }
  touchDozeExit (es.foldl (fun s e => reportEvent e.2 s) s)

/-- READY: held doorbells and a held TARGET act (Tables 4-1 and 4-10). -/
def readyNow (s : State) : State :=
  let s := raiseInt iStartDone (s.setFlds [(fPhase, 7), (fReady, 1)])
  let s := if s.boot.wake then wakeDone s else s
  let s := releaseDoorbells s
  match s.boot.target with
  | none => s
  | some t => targetWrite t { s with boot := { s.boot with target := none } }

/-- BOOT_CTRL.RESUME in PHASE 0xF (Table 4-12). -/
def bootResume (s : State) : State :=
  if s.fld fPhase ≠ 15 then s
  else
    let failed := s.fld ⟨C 0x100, 31, 28⟩
    let s := s.setFld fResumed 1
    if failed = 2 then { (s.setFld fPhase 5) with boot := { s.boot with hdr := none } }
    else if failed = 4 then s.setFld fPhase 5
    else readyNow s

/-- QSPI_RELEASE changes only in PHASE 0x7 or 0xF while CAL_STATUS.BUSY = 0 (Table 4-8). -/
def qspiRelease (b : Bool) (s : State) : State :=
  if (s.fld fPhase = 7 || s.fld fPhase = 15) && !s.flag fCalBusy then s.setFlag fQspiRelease b else s

/-- A write of BOOT_CTRL: QSPI_RELEASE, then RESUME (R75). -/
def bootCtrlWrite (v : W32) (s : State) : State :=
  if bitsOf v 31 24 ≠ 0x3C then s
  else
    let s := qspiRelease (bitN v.toNat 1) s
    if bitN v.toNat 0 then bootResume s else s

/-- BOOT_RESUME. -/
def execBootResume (s : State) : Res := done (onlyIf (interior s) bootResume s)

/-- QSPI_RELEASE. -/
def execQspiRelease (on : Bool) (s : State) : Res := done (onlyIf (interior s) (qspiRelease on) s)

/-! ### Phase HEADER (R91-R93) -/

/-- The fields of a header. -/
def headerOf (b : List Byte) : BootHdr :=
  { mode := fieldAt b 6 1, dummy := fieldAt b 7 1, div := fieldAt b 8 1, dramCfg := fieldAt b 12 4, tableOffset := fieldAt b 16 4
    tableLength := fieldAt b 20 4, tableCrc := fieldAt b 24 4 }

def dramTotal (cfg : Nat) : Nat := bitsN cfg 15 8

/-- Every field holds a listed value (Tables 4-3 and 4-4). -/
def headerListed (h : BootHdr) : Bool :=
  h.mode ≤ 2 && h.dummy ≤ 15 && (h.mode ≠ 0 || h.dummy = 0)
    && h.div % 2 = 0 && 4 ≤ h.div && h.div ≤ 64 && (h.mode ≠ 0 || 20 ≤ h.div)
    && [4, 8, 16, 32].contains (dramTotal h.dramCfg) && bitsN h.dramCfg 3 0 ≤ 2
    && h.tableOffset % 16 = 0 && h.tableLength % 16 = 0 && h.tableLength ≤ 65536
    && (h.tableLength = 0 || (0x30000 ≤ h.tableOffset && h.tableOffset + h.tableLength ≤ 0x1000000))

/-- REASON of a header that is not valid, 0 of a valid one (Table 4-7). -/
def headerReason (b : List Byte) : Nat :=
  if b.all (fun x => x = 0xFF#8) then 4
  else if fieldAt b 0 4 ≠ 0x464A3130 || fieldAt b 4 2 ≠ 1 then 1
  else if fieldAt b 28 4 ≠ crc32c (b.take 28) then 2
  else if !headerListed (headerOf b) then 3
  else 0

/-- HEADER_READ_DONE: the 32 bytes of the header are checked; a failure applies the fused trims (R93, R105). -/
def execHeaderReadDone (header : List Byte) (s : State) : Res :=
  let b := header.take 32
  done (onlyIf (interior s && s.fld fPhase = 2) (fun s =>
    let reason := headerReason b
    if reason ≠ 0 then bootFail 2 reason 0 0 (reportTrim none (fusedTrims s))
    else
      let h := headerOf b
      let s := s.setFlds [(fTotalGib, dramTotal h.dramCfg), (⟨C 0xE0000, 12, 12⟩, bitsN h.dramCfg 16 16),
        (⟨C 0xE0000, 11, 8⟩, bitsN h.dramCfg 3 0), (fPhase, if s.boot.warm then 4 else 3)]
      { s with boot := { s.boot with hdr := some h } }) s)

/-! ### Phases DRAM and RELEASE -/

/-- DRAM_PHASE_DONE: training, or the exit from self-refresh, ends (R98, R100, R231). -/
def execDramPhaseDone (r : TrainResult) (s : State) : Res :=
  done (onlyIf (interior s && s.fld fPhase = 4) (fun s =>
    let size := s.fld fTotalGib
    match r with
    | .trained gib =>
      if s.boot.fullTrain && gib.toNat ≠ size then bootFail 4 6 0 0 s else (dramUp size s).setFld fPhase 5
    | .failed ch => bootFail 4 5 0 ch.toNat s
    | .mismatch => bootFail 4 6 0 0 s) s)

/-- The boot table has entries. -/
def hasTable (s : State) : Bool := s.boot.hdr.any (fun h => h.tableLength ≠ 0)

/-- RELEASE_PHASE_DONE: every function is released in its reset state; with no table to run READY follows (R96, Table 4-12). -/
def execReleasePhaseDone (s : State) : Res :=
  done (onlyIf (interior s && s.fld fPhase = 5) (fun s =>
    let s := { s with boot := { s.boot with released := true } }
    if hasTable s then s.setFld fPhase 6 else readyNow s) s)

end Sys2Proof.Machine
end

