-- ==== Sys2Proof/Machine/Debug.lean ====
section
/-! DEFINITION. The ply debugger (R471-R477). -/

namespace Sys2Proof.Machine

open Sys2Proof

/-- The place that DBG_SEL selects. -/
def dbgSel (s : State) : Nat :=
  let sel := s.reg (C 0xD0000)
  (bitsOf sel 5 0 * 4 + bitsOf sel 9 8) * 16 + bitsOf sel 15 12

/-- Change the selected ply, where there is one. -/
def onSel (f : Nat → Ply → State → State) (s : State) : State :=
  match plyAt s (dbgSel s) with
  | some y => f (dbgSel s) y s
  | none => s

/-! ### Halt, resume, step, stop-world -/

/-- HALT: no further instruction issues; a ply that waits on a fault halts at once (R472). -/
def dbgHalt (s : State) : State :=
  onSel (fun k y s =>
    if y.halted || y.halting || y.ended then s
    else if y.faulted then haltPly k 1 0 s
    else putPly k { y with halting := true, stepping := false } s) s

/-- RESUME: HALTED and REASON clear; the breakpoint or the BKPT the ply stands at is passed (R477). -/
def dbgResume (s : State) : State :=
  onSel (fun k y s =>
    if !y.halted then s
    else
      let here := y.choose
      syncDbg (putPly k { y with
        halted := false, haltReason := 0, haltIndex := 0
        passBp := if y.haltReason = 2 || y.haltReason = 4 then here else none
        passBkpt := if y.haltReason = 4 then here else none } s)) s

/-- STEP: exactly one issue is allowed to a halted ply (R474). -/
def dbgStep (s : State) : State :=
  onSel (fun k y s =>
    if !y.halted then s
    else syncDbg (putPly k { y with halted := false, haltReason := 0, haltIndex := 0, stepping := true } s)) s

/-- STOP_WORLD and RUN_WORLD (R475). -/
def setWorld (b : Bool) (s : State) : State := s.setFlag ⟨C 0xD0008, 29, 29⟩ b

/-- A write of DBG_CMD; a CMD that Table 22-4 does not list names no action. -/
def dbgCmdWrite (v : W32) (s : State) : State :=
  if bitsOf v 31 24 ≠ 0xD6 then s
  else
    match bitsOf v 3 0 with
    | 1 => dbgHalt s
    | 2 => dbgResume s
    | 3 => dbgStep s
    | 4 => setWorld true s
    | 5 => setWorld false s
    | _ => s

/-- HALT. -/
def execHalt (s : State) : Res := done (onlyIf (running s) dbgHalt s)

/-- HALT_COMPLETE: every register write of the instructions issued has completed (R472). -/
def execHaltComplete (p : PlyId) (s : State) : Res :=
  done (onlyIf (running s) (fun s =>
    match plyAt s (plyKey p) with
    | none => s
    | some y =>
      if y.halting && !y.ended && y.mem.all (fun o => wOp o.w = 0x72 && !o.step) then haltPly (plyKey p) 1 0 s else s) s)

/-- DBG_RESUME. -/
def execDbgResume (s : State) : Res := done (onlyIf (running s) dbgResume s)

/-- STEP. -/
def execStep (s : State) : Res := done (onlyIf (running s) dbgStep s)

/-- STOP_WORLD. -/
def execStopWorld (s : State) : Res := done (onlyIf (running s) (setWorld true) s)

/-- RUN_WORLD. -/
def execRunWorld (s : State) : Res := done (onlyIf (running s) (setWorld false) s)

/-- BREAKPOINT_HIT: the PC a ply chooses matches a breakpoint of its flyer; it halts before issue (R476). -/
def execBreakpointHit (p : PlyId) (s : State) : Res :=
  let k := plyKey p
  done (onlyIf (running s) (fun s =>
    match plyAt s k with
    | none => s
    | some y =>
      if !y.mayIssue s || y.stepping then s
      else
        match y.choose with
        | none => s
        | some pc =>
          if y.passBp = some pc then s
          else match bpMatch s k pc y.owner.ctx with
            | some b => haltPly k 2 b s
            | none => s) s)

/-! ### Elements (R473) -/

def dbgClass (s : State) : Nat := s.fld ⟨C 0xD000C, 31, 28⟩
def dbgIndex (s : State) : Nat := s.fld ⟨C 0xD000C, 15, 8⟩
def dbgLane (s : State) : Nat := s.fld ⟨C 0xD000C, 4, 0⟩

/-- The element of the selected ply that DBG_ACC names. What is read where no ply or no such register is, is not stated. -/
def dbgElement (s : State) : Nat :=
  let ix := dbgIndex s
  let l := dbgLane s
  let none' := Config.unstated "DBG_DATA" [dbgSel s, dbgClass s, ix, l] % 2 ^ 48
  match plyAt s (dbgSel s) with
  | none => none'
  | some y =>
    match dbgClass s with
    | 0 => if ix < y.vregs then y.vget ix l else none' % 2 ^ 32
    | 1 => if ix < 32 then y.sget ix else none' % 2 ^ 32
    | 2 => if ix < 8 then (if (y.pget ix).getLsbD l then 1 else 0) else none' % 2 ^ 32
    | 3 => y.pcOf l
    | 4 => y.fpflags.toNat
    | 5 => (y.tokens.zipIdx.map (fun e => bitVal e.1.busy e.2)).foldl (fun a b => a + b) 0
    | _ => y.skipOf l

/-- The debugger's write of a register clears its pending scoreboard state. -/
def clearPending (r : Nat) (y : Ply) : Ply := { y with mem := y.mem.map (fun o => { o with cleared := r :: o.cleared }) }

/-- The ply after a write of DBG_DATA_LO: the element, or the low 32 bits of a PC. -/
def dbgWriteLo (c ix l : Nat) (v : W32) (y : Ply) : Ply :=
  let thread := y.present.getLsbD l && !y.exited.getLsbD l
  match c with
  | 0 => if ix < y.vregs && thread then clearPending ix (y.vset ix l v.toNat) else y
  | 1 => if ix < 32 then clearPending (0x80 + ix) (y.sset ix v.toNat) else y
  | 2 =>
    if ix < 8 && thread then
      let m := y.pget ix
      y.pset ix (if bitN v.toNat 0 then m ||| BitVec.ofNat 32 (2 ^ l) else m &&& ~~~(BitVec.ofNat 32 (2 ^ l)))
    else y
  | 3 =>
    if thread && v.toNat % 8 = 0 then { y with pcs := setAt y.pcs l (y.pcOf l / 2 ^ 32 * 2 ^ 32 + v.toNat) } else y
  | 4 => { y with fpflags := BitVec.ofNat 5 v.toNat }
  | _ => y

/-- The ply after a write of DBG_DATA_HI: bits 47:32 of a PC, unless a bit above is set. -/
def dbgWriteHi (c l : Nat) (v : W32) (y : Ply) : Ply :=
  if c = 3 && y.present.getLsbD l && !y.exited.getLsbD l && v.toNat < 65536 then
    { y with pcs := setAt y.pcs l (y.pcOf l % 2 ^ 32 + v.toNat * 2 ^ 32) }
  else y

/-- A write of DBG_DATA, which takes effect only while HALTED = 1. -/
def dbgDataWrite (high : Bool) (v : W32) (s : State) : State :=
  onSel (fun k y s =>
    if !y.halted then s
    else if high then putPly k (dbgWriteHi (dbgClass s) (dbgLane s) v y) s
    else putPly k (dbgWriteLo (dbgClass s) (dbgIndex s) (dbgLane s) v y) s) s

/-- DBG_DATA_WRITE. -/
def execDbgDataWrite (high : Bool) (v : W32) (s : State) : Res := done (onlyIf (running s) (dbgDataWrite high v) s)

end Sys2Proof.Machine
end

