-- ==== Sys2Proof/Machine/RegWrite.lean ====
section
/-! DEFINITION. The internal control space as a target: which offsets answer, what a read returns and what a write does, for whoever
makes the access (R8-R11, R119, R176). -/

namespace Sys2Proof.Machine

open Sys2Proof

/-! ### Which offsets answer -/

/-- A live trim word's item and instance (R107). -/
def trimAt (off : Nat) : Option (Nat × Nat) :=
  let o := off - 0xF1000
  if 0xF1000 ≤ off && off < 0xF2000 && o % 256 / 4 < trimCount (o / 256) then some (o / 256, o % 256 / 4) else none

/-- The fault queue's memory, and the touch report drain region. -/
def inFaultMem (off : Nat) : Bool := 0x18000 ≤ off && off < 0x1A000
def inDrain (off : Nat) : Bool := 0x61000 ≤ off && off < 0x62000

/-- A word of the control space that some chapter lists (R119). -/
def ctlListed (off : Nat) : Bool :=
  off % 4 = 0 && ((regRow (C off)).isSome || inFaultMem off || inDrain off || (trimAt off).isSome)

/-- The RESET_CTRL bit of the block an offset lies in, if a function reset stops it. -/
def ctlFunc (off : Nat) : Option Nat :=
  let k := off / 0x10000
  if k = 3 then some 0
  else if k = 4 then some 1
  else if k = 5 then (if off % 0x4000 < 0x3000 then some (2 + off % 0x10000 / 0x4000) else none)
  else if k = 6 then some 6
  else if k = 7 then some 7
  else if k = 8 then some 8
  else if k = 9 then some (9 + off % 0x10000 / 0x4000)
  else if k = 10 then some 13
  else if 0x100000 ≤ off && 0x400 ≤ off % 0x1000 && off % 0x1000 < 0x600 then some 0
  else none

/-- Blocks that answer before phase RELEASE: the start-up registers, the event log once it runs, the DRAM controller and the trim
journal. -/
def ctlEarly (s : State) (off : Nat) : Bool :=
  off < 0x200 || off / 0x10000 = 14 || off / 0x10000 = 15 || (off / 0x10000 = 12 && 2 ≤ s.fld fPhase)

/-- Why an access to the control space fails, as R79 codes it: 0 it does not, 1 not mapped, 3 unavailable. -/
def ctlErr (s : State) (off : Nat) : Nat :=
  if !ctlListed off then 1
  else if !interior s || !(s.boot.released || ctlEarly s off) then 3
  else if (ctlFunc off).any (fun b => funcBusy s b) then 3
  else 0

/-! ### Reading -/

/-- The 64-bit counters of R176, by row. -/
def counterRows : List String :=
  ["SPINDLE_CNT", "FLYER_CNT", "SLICE_CNT", "WEFT_CNT", "WHORL_CNT", "CARD_CNT", "RAS_CNT", "PORT_CNT", "REEL_CNT", "ENERGY"]

/-- A word of a 64-bit counter. -/
def isCounter (off : Nat) : Bool := (regRow (C off)).any (fun r => counterRows.contains r.name)

/-- A read of a counter's low word latches its high word (R176). -/
def counterLatch (off : Nat) (s : State) : State :=
  if isCounter off && off % 8 = 0 then
    { s with host := { s.host with latches := Sparse.put (fun _ => 0#32) s.host.latches (off + 4) (s.reg (C (off + 4))) } }
  else s

/-- The word a read of a listed offset returns (Table 0-2, R67, R473). -/
def ctlPeek (s : State) (off : Nat) : W32 :=
  match trimAt off with
  | some (i, n) => trimWord s i n
  | none =>
    if inFaultMem off then faultWord s (off - 0x18000)
    else if off = 0xD0010 then BitVec.ofNat 32 (dbgElement s)
    else if off = 0xD0014 then BitVec.ofNat 32 (dbgElement s / 2 ^ 32)
    else if isCounter off && off % 8 = 4 then Sparse.get (fun _ => 0#32) s.host.latches off
    else ((regRow (C off)).map (fun r => readFields r.flds (s.reg (C off)))).getD 0#32

/-- A read of the control space. -/
def ctlRead (off : Nat) (s : State) : W32 × State := (ctlPeek s off, counterLatch off s)

/-! ### Writing -/

/-- A register with an action: nothing happens where a field gets an unlisted encoding (R11); else its fields are written and the
action follows. -/
def writeThen (r : Nat) (v : W32) (act : State → State) (s : State) : State :=
  match regRow r with
  | none => s
  | some row => if fieldsListed row.flds v then act (s.setReg r (writeFields row.flds (s.reg r) v)) else logIgnored r s

/-- A word with bits hi:lo as the register holds them. -/
def keepOld (s : State) (r hi lo : Nat) (v : W32) : W32 := withBits v hi lo (bitsOf (s.reg r) hi lo)

/-- A write taken only at some times; at others it is ignored and logged. -/
def writeWhile (may : Bool) (r : Nat) (v : W32) (s : State) : State := if may then plainWrite r v s else logIgnored r s

/-- A register with an ENABLE bit 31 whose other fields in the given ranges take changes only while ENABLE = 0: such a change at another
time is ignored and logged, and ENABLE itself acts through on and off (R329, R387). -/
def writeEnable (r : Nat) (fixed : List (Nat × Nat)) (v : W32) (on off : State → State) (s : State) : State :=
  match regRow r with
  | none => s
  | some row =>
    if !fieldsListed row.flds v then logIgnored r s
    else
      let old := s.reg r
      let en := bitsOf old 31 31 = 1
      let changed := fixed.any (fun f => bitsOf v f.1 f.2 ≠ bitsOf old f.1 f.2)
      let v' := if en then fixed.foldl (fun w f => withBits w f.1 f.2 (bitsOf old f.1 f.2)) v else v
      let s := if en && changed then logIgnored r s else s
      let s := s.setReg r (writeFields row.flds (s.reg r) (withBits v' 31 31 (bitsOf old 31 31)))
      if bitsOf v 31 31 = 1 then (if en then s else on s) else if en then off s else s

/-- The context's translation settings change: no cache holds an entry of it (R126). -/
def dropTranslations (c : Nat) (s : State) : State :=
  { s with mmu := { s.mmu with tlb := s.mmu.tlb.filter (fun e => e.ctx ≠ c), walkCache := s.mmu.walkCache.filter (fun e => e.ctx ≠ c) } }

/-- The MMU block (R126, R128). -/
def mmuWrite (off : Nat) (v : W32) (s : State) : State :=
  let r := C off
  if off < 0x10400 then
    let c := (off - 0x10000) / 0x40
    let k := off % 0x40
    let may : Bool := s.fld (fCtxState c) ≤ 1
    if k = 0 || k = 4 then (if may then dropTranslations c (plainWrite r v s) else logIgnored r s)
    else if k = 8 then
      if may then dropTranslations c (plainWrite r v s) else logIgnored r (plainWrite r (keepOld s r 2 2 v) s)
    else plainWrite r v s
  else if off = 0x10808 then
    if bitsOf v 23 22 = 0 && bitsOf v 20 1 = 0 then logIgnored r s
    else
      writeThen r v (fun s =>
        if bitN v.toNat 0 then
          invalStart (bitsOf v 23 22) (bitsOf v 27 24)
            (s.fld ⟨C 0x10800, 31, 12⟩ * 4096 + s.fld ⟨C 0x10804, 15, 0⟩ * 2 ^ 32) (bitsOf v 20 1) s
        else s) s
  else plainWrite r v s

/-- RING_BASE, SIZE_LOG2 and the SAVE registers of a context take writes (R140). -/
def ringOpen (s : State) (c : Nat) : Bool :=
  if c = 0 then s.fld (fQState 0) = 1 && s.fld (fRead 0) = s.fld (fWrite 0) else !s.flag (fCtxEn c)

/-- The queue engine block (R139, R140, R144). src: 0, or 1 + the port of the peer that writes. -/
def queueWrite (src off : Nat) (v : W32) (s : State) : State :=
  let r := C off
  if off < 0x20400 then
    let c := (off - 0x20000) / 0x40
    let k := off % 0x40
    if k = 0 || k = 4 || k = 0x14 || k = 0x18 || k = 0x1C then writeWhile (ringOpen s c) r v s
    else if k = 8 then
      writeThen r v (fun n => if ringOpen s c then n else logIgnored r (n.setFld ⟨r, 3, 0⟩ (s.fld ⟨r, 3, 0⟩))) s
    else if k = 0x24 then
      if bitN v.toNat 1 && s.fld (fQState c) = 6 then queueSkip c s else if bitN v.toNat 0 then queueResume c s else s
    else plainWrite r v s
  else if off = 0x20400 then doorbell src (bitsOf v 31 28) (bitsOf v 19 0) s
  else plainWrite r v s

/-- The display block (R322, R329, R330, R333, R334). -/
def displayWrite (off : Nat) (v : W32) (s : State) : State :=
  let r := C off
  let n := (off - 0x50000) / 0x4000
  let k := (off - 0x50000) % 0x4000
  if k = 0 then
    let listed := ((regRow r).map (fun x => fieldsListed x.flds v)).getD false
    let s := writeEnable r [(29, 28), (27, 26), (25, 25)] v (pipeEnable n) (pipeDisable n) s
    if listed && bitN v.toNat 30 then pipeApply n s else s
  else if k = 0x100 then flipCommit n (bitsOf v 15 0) s
  else if k = 0x3000 then writeEnable r [] v (portEnable n) (portDisable n) s
  else if k = 0x3010 && bitN v.toNat 31 then auxGo n v s
  else if k = 0x3030 && bitN v.toNat 31 then dsiCmd n v s
  else plainWrite r v s

/-- The touch block (R341, R349, R356). -/
def touchWrite (off : Nat) (v : W32) (s : State) : State :=
  let r := C off
  let k := off - 0x60000
  if k = 0 then
    let s := writeEnable r [] v touchEnable touchDisable s
    if bitN v.toNat 26 then touchRecal s else s
  else if (0x10 ≤ k && k < 0x30) || (0x100 ≤ k && k < 0x300) || (0x350 ≤ k && k < 0x35C) then
    writeWhile (!s.flag fTchEn) r v s
  else plainWrite r v s

/-- The cameras block (R369, R373, R376, R387). -/
def cameraWrite (off : Nat) (v : W32) (s : State) : State :=
  let r := C off
  let o := off - 0x70000
  if o < 0x200 then
    let n := o / 0x100
    let k := o % 0x100
    if k = 0 then writeEnable r [(27, 24), (21, 20), (16, 16), (8, 8)] v (cameraEnable n) (cameraDisable n) s
    else if k < 0x2C then writeWhile (!s.flag (fCamEn n)) r v s
    else if k = 0x2C then camRelease n (bitsOf v 3 0) s
    else plainWrite r v s
  else if o = 0x200 then fsyncCtrl v s
  else if o = 0x308 then illStatWrite 0 v s
  else if o = 0x318 then illStatWrite 1 v s
  else plainWrite r v s

/-- The audio block (R380, R386, R387). -/
def audioWrite (off : Nat) (v : W32) (s : State) : State :=
  let r := C off
  let k := off - 0x80000
  let on := s.flag fAudEn
  if k = 0 then writeEnable r [(30, 30), (29, 29), (28, 28), (27, 27)] v audioEnable audioDisable s
  else if k = 0xC then
    if on then
      let old := bitsOf (s.reg r) 3 0
      let s := if bitsOf v 3 0 = old then s else logIgnored r s
      startRamps (plainWrite r (withBits v 3 0 old) s)
    else plainWrite r v s
  else if k = 0x58 then playLimitSet v s
  else if k = 8 || k = 0x54 || 0x60 ≤ k then plainWrite r v s
  else writeWhile (!on) r v s

/-- The peer blocks (R411, R416). -/
def peerWriteReg (off : Nat) (v : W32) (s : State) : State :=
  let r := C off
  let n := (off - 0x90000) / 0x4000
  let k := (off - 0x90000) % 0x4000
  if k = 0 then writeThen r v (fun s => if bitN v.toNat 1 then counterClear (.peer (Fin.ofNat 4 n)) s else s) s
  else if k = 4 || (0x10 ≤ k && k < 0x20) || (0x50 ≤ k && k < 0x64) then writeWhile (!s.flag (fLcEnable n)) r v s
  else if k = 0x48 then (if bitN v.toNat 0 then msgSend n s else s)
  else if k = 0x64 then (if bitN v.toNat 31 then pingSend n s else s)
  else plainWrite r v s

/-- THERM_CFG: THROTTLE_C below HOT_C below 125, else the write is ignored whole (R492). -/
def thermWrite (v : W32) (s : State) : State :=
  if bitsOf v 15 8 ≤ bitsOf v 7 0 || 125 ≤ bitsOf v 15 8 then logIgnored (C 0xB0000) s
  else syncThrottle (plainWrite (C 0xB0000) v s)

/-- DRAM_CTRL: CLR_CNT, SCRUB_EN and TRAIN (R231). -/
def dramCtrlWrite (v : W32) (s : State) : State :=
  let was := s.flag fScrubEn
  writeThen (C 0xE0000) v (fun s =>
    let s := if bitN v.toNat 2 then dramCntClear s else s
    let s := if !was && s.flag fScrubEn then { s with mem := { s.mem with scrub := [] } } else s
    if bitN v.toNat 0 then dramTrain s else s) s

/-- Debug block (R471-R478). -/
def debugWrite (off : Nat) (v : W32) (s : State) : State :=
  let r := C off
  if off = 0xD0000 then syncSel (plainWrite r v s)
  else if off = 0xD0004 then dbgCmdWrite v s
  else if off = 0xD0010 then dbgDataWrite false v s
  else if off = 0xD0014 then dbgDataWrite true v s
  else if off = 0xD0040 then
    let s := plainWrite r v s
    if bitN v.toNat 1 then clearAllCounters s else s
  else plainWrite r v s

/-- A write of a listed offset whose block answers. -/
def ctlWriteBlock (src off : Nat) (v : W32) (s : State) : State :=
  let r := C off
  match trimAt off with
  | some (i, n) => setTrim i n v s
  | none =>
    if 0x100000 ≤ off then
      let sp := (off - 0x100000) / 0x1000
      let k := off % 0x1000
      if k = 0 then writeThen r v (fun s => if bitN v.toNat 2 then counterClear (.spindle (Fin.ofNat 64 sp)) s else s) s
      else if k = 4 then (if bitN v.toNat 0 then icInvalGo sp s else s)
      else plainWrite r v s
    else
      match off / 0x10000 with
      | 0 =>
        if off = 0x104 then bootCtrlWrite v s
        else if off = 0x200 then (if bitN v.toNat 0 then icInvalAllGo s else s)
        else if off = 0x480 then (if bitsOf v 31 24 = 0x96 && bitN v.toNat 0 then roleApply s else s)
        else syncPending (plainWrite r v s)
      | 1 => mmuWrite off v s
      | 2 => queueWrite src off v s
      | 3 => if off = 0x30F00 then (if bitN v.toNat 0 then nodeInvalGo s else s) else plainWrite r v s
      | 4 =>
        if off = 0x40004 then writeThen r v (fun s => if bitN v.toNat 1 then counterClear .raster s else s) s else plainWrite r v s
      | 5 => displayWrite off v s
      | 6 => touchWrite off v s
      | 7 => cameraWrite off v s
      | 8 => audioWrite off v s
      | 9 => peerWriteReg off v s
      | 10 =>
        if off = 0xA0800 then writeThen r v (fun s => if bitN v.toNat 1 then counterClear .reel s else s) s
        else if off = 0xA0818 then
          if bitsOf v 31 24 = 0x69 && bitN v.toNat 0 then reel15Go (bitsOf v 15 1) s else s
        else plainWrite r v s
      | 11 => if off = 0xB0000 then thermWrite v s else syncThrottle (plainWrite r v s)
      | 12 =>
        if off = 0xC0000 then writeThen r v (fun s => if bitN v.toNat 30 then errClear s else s) s
        else if off = 0xC0800 then auditCtrlWrite v s
        else if off = 0xC0804 then auditStatusWrite v s
        else plainWrite r v s
      | 13 => debugWrite off v s
      | 14 => if off = 0xE0000 then dramCtrlWrite v s else plainWrite r v s
      | _ => plainWrite r v s

/-- A write of the control space; what it enabled while a quiesce is in force is quiesced (Table 4-10). -/
def ctlWrite (src off : Nat) (v : W32) (s : State) : State := quiesceAgain (ctlWriteBlock src off v s)

/-! ### Accesses of several words (R119) -/

/-- The access covers whole aligned words only, each of them listed. -/
def ctlWhole (off n : Nat) : Bool :=
  off % 4 = 0 && n % 4 = 0 && n ≠ 0 && (numsFrom 0 (n / 4)).all (fun i => ctlListed (off + 4 * i))

/-- An engine's read of a word; what it gets from a block in function reset is not stated. -/
def ctlEngineRead (off : Nat) (s : State) : W32 × State :=
  if ctlErr s off = 0 then ctlRead off s
  else
    let (v, s) := takeFree (2 ^ 32) s
    (BitVec.ofNat 32 v, s)

/-- Read n bytes, word by word in ascending order. -/
def ctlReadBytes (off n : Nat) (s : State) : List Byte × State :=
  (numsFrom 0 (n / 4)).foldl (fun (a : List Byte × State) i =>
    let (w, s) := ctlEngineRead (off + 4 * i) a.2
    (a.1 ++ leBytes 4 w.toNat, s)) ([], s)

/-- Write bytes, word by word in ascending order; a word whose block does not answer now is discarded. -/
def ctlWriteBytes (src off : Nat) (bs : List Byte) (s : State) : State :=
  (numsFrom 0 (bs.length / 4)).foldl (fun s i =>
    if ctlErr s (off + 4 * i) = 0 then ctlWrite src (off + 4 * i) (BitVec.ofNat 32 (fieldAt bs (4 * i) 4)) s else s) s

end Sys2Proof.Machine
end

