-- ==== Sys2Proof/Machine/Boot.lean ====
section
/-! DEFINITION. Phase BOOT_TABLE (R94, R95). -/

namespace Sys2Proof.Machine

open Sys2Proof

/-- Phase BOOT_TABLE runs. -/
def bootRuns (s : State) : Bool := interior s && s.fld fPhase = 6

/-- The 16-byte entries of a table (Table 4-5). -/
def bootEntries (b : List Byte) : List BootEntry :=
  (numsFrom 0 (b.length / 16)).map (fun i =>
    let e := (b.drop (16 * i)).take 16
    { addr := fieldAt e 0 6, op := fieldAt e 6 1, value := BitVec.ofNat 32 (fieldAt e 8 4), mask := BitVec.ofNat 32 (fieldAt e 12 4) })

/-- ADDR of WRITE, RMW and POLL: an aligned word of the control space, BOOT_STATUS and BOOT_CTRL excluded (R95). -/
def bootAddrOk (a : Nat) : Bool :=
  0x110000000000 ≤ a && a < 0x110001000000 && a % 4 = 0 && a ≠ 0x110000000100 && a ≠ 0x110000000104

/-- The entry that is current. -/
def bootEntry (s : State) : Option BootEntry := s.boot.table[s.boot.idx]?

/-- An entry becomes current: one with an unlisted OP or a forbidden ADDR fails the phase (Table 4-7). -/
def bootCheck (s : State) : State :=
  match bootEntry s with
  | none => s
  | some e =>
    if 4 < e.op then bootFail 6 8 s.boot.idx 0 s
    else if 1 ≤ e.op && e.op ≤ 3 && !bootAddrOk e.addr then bootFail 6 9 s.boot.idx 0 s
    else s

/-- The current entry is done, and the next becomes current. -/
def bootNext (s : State) : State := bootCheck { s with boot := { s.boot with idx := s.boot.idx + 1 } }

/-- BOOT_TABLE_READ_DONE: TABLE_CRC is checked before any entry is executed (R94). -/
def execBootTableReadDone (bytes : List Byte) (s : State) : Res :=
  done (onlyIf (bootRuns s && !s.boot.tableRead) (fun s =>
    match s.boot.hdr with
    | none => s
    | some h =>
      let b := bytes.take h.tableLength
      if crc32c b ≠ h.tableCrc then bootFail 6 7 0 0 s
      else bootCheck { s with boot := { s.boot with table := bootEntries b, tableRead := true, idx := 0 } }) s)

/-- The phase is at an entry with an OP. -/
def bootAt (s : State) (op : Nat) : Option BootEntry :=
  if bootRuns s && s.boot.tableRead then (bootEntry s).filter (fun e => e.op = op) else none

/-- The control-space offset of an entry, and the word there; a word no chapter lists reads as zero. -/
def bootOff (e : BootEntry) : Nat := e.addr - 0x110000000000
def bootRead (e : BootEntry) (s : State) : W32 × State := if ctlErr s (bootOff e) = 0 then ctlRead (bootOff e) s else (0#32, s)

/-- Store a word and go on (R60). -/
def bootStore (e : BootEntry) (v : W32) (s : State) : State :=
  bootNext (if ctlErr s (bootOff e) = 0 then ctlWrite 0 (bootOff e) v s else s)

/-- BOOT_WRITE. -/
def execBootWrite (s : State) : Res :=
  done (match bootAt s 1 with
    | some e => bootStore e e.value s
    | none => s)

/-- BOOT_RMW: (old AND NOT MASK) OR (VALUE AND MASK). -/
def execBootRmw (s : State) : Res :=
  done (match bootAt s 2 with
    | some e =>
      let (old, s) := bootRead e s
      bootStore e ((old &&& ~~~e.mask) ||| (e.value &&& e.mask)) s
    | none => s)

/-- The masked word of a POLL equals VALUE. -/
def pollMet (e : BootEntry) (s : State) : Bool := ((bootRead e s).1 &&& e.mask) = e.value

/-- BOOT_POLL: one read of the word. -/
def execBootPoll (s : State) : Res :=
  done (match bootAt s 3 with
    | some e => if pollMet e s then bootNext (bootRead e s).2 else (bootRead e s).2
    | none => s)

/-- BOOT_POLL_TIMEOUT: 1 ms without the value (R95). -/
def execBootPollTimeout (s : State) : Res :=
  done (match bootAt s 3 with
    | some e => if pollMet e s then s else bootFail 6 10 s.boot.idx 0 s
    | none => s)

/-- BOOT_DELAY: VALUE microseconds have passed. -/
def execBootDelay (s : State) : Res :=
  done (match bootAt s 4 with
    | some _ => bootNext s
    | none => s)

/-- BOOT_END: an END entry, or TABLE_LENGTH bytes, end the table: READY. -/
def execBootEnd (s : State) : Res :=
  done (onlyIf (bootRuns s && s.boot.tableRead) (fun s =>
    match bootEntry s with
    | some e => if e.op = 0 then readyNow s else s
    | none => readyNow s) s)

/-- BOOT_TABLE_TIMEOUT: the phase, reading included, took more than 12 ms (R95). -/
def execBootTableTimeout (s : State) : Res := done (onlyIf (bootRuns s) (fun s => bootFail 6 11 s.boot.idx 0 s) s)

end Sys2Proof.Machine
end

