-- ==== Sys2Proof/Machine/Window.lean ====
section
/-! DEFINITION. The two windows and the page drain of WIN0 (R61, R62, R66, R67, R79). -/

namespace Sys2Proof.Machine

open Sys2Proof

def winLo (w : Nat) : Nat := if w = 0 then 0x2C else 0x3C
def winHi (w : Nat) : Nat := if w = 0 then 0x30 else 0x40

/-- The address of a window. -/
def winAddr (s : State) (w : Nat) : Nat := s.fld ⟨winLo w, 31, 2⟩ * 4 + s.fld ⟨winHi w, 15, 0⟩ * 2 ^ 32

/-- The address moves to the next word; the addition carries into the high register (R61). -/
def winStep (w : Nat) (s : State) : State :=
  let a := (winAddr s w + 4) % 2 ^ 48
  s.setFlds [(⟨winLo w, 31, 2⟩, a / 4), (⟨winHi w, 15, 0⟩, a / 2 ^ 32)]

/-- An access fails with an ERR code: the first one is kept, and WIN_ERR is set (R79). -/
def winError (w code : Nat) (s : State) : State :=
  raiseInt iWinErr (if s.fld (fWinErr w) = 0 then s.setFld (fWinErr w) code else s)

/-- Why an access at an address fails, as R79 codes it; 0 if it does not. Skein answers once its slices are released. -/
def winFail (s : State) (pa : Nat) : Nat :=
  if !interior s then 3
  else if pa < 0x800000000 then
    if !s.flag fDramReady then 3
    else match target s pa with
      | .dram _ => 0
      | _ => 1
  else match target s pa with
    | .skein _ => if s.boot.released then 0 else 3
    | .ctl off => ctlErr s off
    | _ => 1

/-- A read of the word at an address, with the ERR code it gives; e is what the code of the data says. -/
def winFetch (pa : Nat) (e : Ecc) (s : State) : Nat × W32 × State :=
  let s := settleApply s
  let fail := winFail s pa
  if fail ≠ 0 then (fail, 0#32, s)
  else
    match target s pa with
    | .ctl off =>
      if inDrain off then (0, 0#32, s)
      else
        let (v, s) := ctlRead off s
        (0, v, s)
    | _ =>
      let bad := e = .uncorrectable || poisoned s pa 4
      let s := lookup true false pa s
      let s := if e = .corrected then noteCe pa s else s
      if bad then (4, 0#32, noteUe pa (if poisoned s pa 4 then s else markUe pa s))
      else (0, BitVec.ofNat 32 (leNat (memRead s pa 4)), s)

/-- A read through WINx_DATA. -/
def winRead (w : Nat) (e : Ecc) (s : State) : W32 × State :=
  let (code, v, s) := winFetch (winAddr s w) e s
  (v, if code = 0 then s else winError w code s)

/-- A write through WINx_DATA: performed, or discarded with an ERR code. -/
def winWrite (w : Nat) (v : W32) (s : State) : State :=
  let s := settleApply s
  let pa := winAddr s w
  let fail := winFail s pa
  if fail ≠ 0 then winError w fail s
  else
    match target s pa with
    | .ctl off => ctlWrite 0 off v s
    | _ => memWrite false pa (leBytes 4 v.toNat) s

/-- A write through WIN0_DATA_INC: the word, then the address moves (R61). -/
def winIncWrite (v : W32) (s : State) : State :=
  let s' := winWrite 0 v s
  if interior s then winStep 0 s' else s'

/-- A held WIN0 page is abandoned: reports in it count as dropped (R66, R67). -/
def winAbandon (s : State) : State :=
  let s := dropTaken s
  { s with host := { s.host with win0 := none } }

/-- A write of a window's address register: ERR clears, and WIN0's page is abandoned (R66, Table 3-11). -/
def winAddrWrite (w : Nat) (high : Bool) (v : W32) (s : State) : State :=
  let s := if w = 0 then winAbandon s else s
  let s := if high then s.setFld ⟨winHi w, 15, 0⟩ (bitsOf v 15 0) else s.setFld ⟨winLo w, 31, 2⟩ (bitsOf v 31 2)
  s.setFld (fWinErr w) 0

/-- A page of the touch report drain region: as many whole reports as there are and fit, oldest first, then zeros (R67). -/
def drainPage (n : Nat) (s : State) : List W32 × State :=
  let take := s.touch.fifo.take (n / 4)
  let bytes := take.flatMap id
  let words := (numsFrom 0 n).map (fun i => BitVec.ofNat 32 (fieldAt bytes (4 * i) 4))
  let s := { s with
    touch := { s.touch with fifo := s.touch.fifo.drop (n / 4) }
    host := { s.host with drainTaken := 4 * take.length } }
  (words, syncTouch s)

/-- A page copy from the current address to the end of its 4 KiB page. The words after the first that fail read as zero, and the first
of them gives ERR; e is the code of the first word's data (R66). -/
def winPage (e : Ecc) (s : State) : List W32 × State :=
  let a := winAddr s 0
  let n := (4096 - a % 4096) / 4
  match target s a with
  | .ctl off =>
    if inDrain off then drainPage n s
    else go a n e s
  | _ => go a n e s
where
  /-- Word by word, ascending. -/
  go (a n : Nat) (e : Ecc) (s : State) : List W32 × State :=
    (numsFrom 0 n).foldl (fun (t : List W32 × State) i =>
      let (code, v, s) := winFetch (a + 4 * i) (if i = 0 then e else .clean) t.2
      (t.1 ++ [v], if code = 0 then s else winError 0 code s)) ([], s)

/-- The next word of the held page; an uncorrectable error in the page buffer gives zero for it (R62, R88). -/
def winHeldWord (e : Ecc) (ws : List W32) (s : State) : W32 × State :=
  let s := match e with
    | .clean => s
    | .corrected => logEvent 1 0x05F 0 0 (Config.unstated "page buffer row" [s.free]) s
    | .uncorrectable => raiseInt iErrUncorr (logEvent 2 0x05E 0 0 (Config.unstated "page buffer row" [s.free]) s)
  let v := if e = .uncorrectable then 0#32 else ws.headD 0#32
  let rest := ws.drop 1
  let s := { s with host := { s.host with
    win0 := if rest.isEmpty then none else some rest, drainTaken := s.host.drainTaken - 1 } }
  (v, winStep 0 s)

/-- A read of WIN0_DATA_INC: the next word of the held page, which is taken first if none is held (R66). A first word that fails leaves
no page. -/
def winIncRead (e : Ecc) (s : State) : W32 × State :=
  if !interior s then (0#32, winError 0 3 s)
  else
    match s.host.win0 with
    | some ws => winHeldWord e ws s
    | none =>
      let s := settleApply s
      let fail := winFail s (winAddr s 0)
      if fail ≠ 0 then (0#32, winStep 0 (winError 0 fail s))
      else
        let (ws, s) := winPage e s
        winHeldWord .clean ws s

end Sys2Proof.Machine
end

