-- ==== Sys2Proof/Machine/HostBus.lean ====
section
/-! DEFINITION. The host bus and the writes and reads of the host register block (chapter 3). -/

namespace Sys2Proof.Machine

open Sys2Proof

/-! ### Writes taking effect -/

/-- Host registers the always-on domain serves in DOZE (Table 3-3). -/
def dozeServes (r : Nat) : Bool :=
  [0x00, 0x04, 0x08, 0x10, 0x14, 0x18, 0x1C, 0x20, 0x24, 0x28, 0x74, 0x7C, 0x80, 0x84, 0xAC, 0xB4].contains r

/-- INT_FORCE: bits of INT_STATUS are set (R77). -/
def intForce (v : W32) (s : State) : State := s.setReg 0x18 (s.reg 0x18 ||| (v &&& 0x3FFFFF#32))

/-- A write of LINK_CTRL: a byte for each port (Table 3-20). -/
def linkCtrlWrite (v : W32) (s : State) : State :=
  (numsFrom 0 4).foldl (fun s n => linkCtrlByte n (bitsOf v (8 * n + 7) (8 * n)) s) s

/-- What a write of a host register does (Tables 3-4 to 3-22). -/
def hostReg (r : Nat) (v : W32) (s : State) : State :=
  match r with
  | 0x0C => devControlWrite v s
  | 0x10 => resetCtrlWrite v s
  | 0x20 => intForce v s
  | 0x2C => winAddrWrite 0 false v s
  | 0x30 => winAddrWrite 0 true v s
  | 0x34 => winWrite 0 v s
  | 0x38 => winIncWrite v s
  | 0x3C => winAddrWrite 1 false v s
  | 0x40 => winAddrWrite 1 true v s
  | 0x44 => winWrite 1 v s
  | 0x48 => doorbell 0 (bitsOf v 31 28) (bitsOf v 19 0) s
  | 0x4C => ctxEnableWrite v.toNat s
  | 0x54 =>
    let s := s.setFld fPreCtx (bitsOf v 19 16)
    if bitN v.toNat 0 then preemptRequest (bitsOf v 19 16) s else s
  | 0x58 => faultHeadWrite (bitsOf v 8 0) s
  | 0x60 => faultAnswer (bitsOf v 23 16) (bitsOf v 1 0) s
  | 0x70 => logCtrlWrite v s
  | 0x74 => targetWrite (bitsOf v 1 0) s
  | 0x88 => freezeCtrlWrite v s
  | 0x8C => doffCtrlWrite v s
  | 0x94 => if bitsOf v 31 24 = 0xC3 then calCommand (bitsOf v 3 0) s else s
  | 0xA0 => linkCtrlWrite v s
  | 0xB0 => watchdogWrite v s
  | _ => plainWrite r v s

/-- A window's data registers. -/
def winOf (r : Nat) : Option Nat := if r = 0x34 || r = 0x38 then some 0 else if r = 0x44 then some 1 else none

/-- A write of a host register takes effect: in DOZE and in a freeze only the registers of Table 3-3 take it, and a window access ends as
unavailable (R73, R79); with no clock it is lost (R55). -/
def hostApply (r : Nat) (v : W32) (s : State) : State :=
  if !hostServed s then s
  else if (inDoze s && !dozeServes r) || (s.flag fFrozen && !freezeWrites r) then
    match winOf r with
    | some w => winError w 3 s
    | none => s
  else quiesceAgain (hostReg r v s)

/-- The oldest posted write takes effect; an access held because the buffer was full may end (R60). -/
def drainPosted (s : State) : State :=
  match s.host.posted with
  | [] => s
  | (r, v) :: rest => hostApply r v { s with host := { s.host with posted := rest, wait := false } }

/-- Every write issued so far takes effect, in order (R60). -/
def drainHost (s : State) : State := go s.host.posted.length s
where
  /-- At most n of them. -/
  go : Nat → State → State
    | 0, s => s
    | n + 1, s => go n (drainPosted s)

/-! ### Bus cycles -/

/-- The offset of a word slot. -/
def slotReg (slot : Fin 64) : Nat := 4 * slot.val

/-- A write is accepted into the buffer; WAIT# holds it while eight are there or until MCLK runs (R59, R60). In DOZE it takes effect at
once. In a clock-loss stop the cycle ends and nothing is written (R55). -/
def postWriteHost (r : Nat) (v : W32) (s : State) : State :=
  if s.core.porstLow || s.core.critical || s.core.clockLost.isSome || s.host.wait then s
  else if inDoze s then hostApply r v s
  else
    let full : Bool := 8 ≤ s.host.posted.length || !s.core.mclk
    { s with host := { s.host with posted := s.host.posted ++ [(r, v)], wait := full } }

/-- HOST_WRITE. -/
def execHostWrite (slot : Fin 64) (v : W32) (s : State) : Res := done (postWriteHost (slotReg slot) v s)

/-- A read of a host register completes only after every earlier write; it ends with its word on HD (R60). One that the block cannot
answer now is held by WAIT#, or in a clock-loss stop reads zero. -/
def hostRead (f : State → W32 × State) (s : State) : State :=
  if s.core.clockLost.isSome then { s with host := { s.host with hd := 0#32 } }
  else if !hostServed s then s
  else
    let (v, s) := f (drainHost s)
    { s with host := { s.host with hd := v } }

/-- TIMEBASE_LO: the low word, with the high word latched; in DOZE the carried count (R78). -/
def timebaseRead (s : State) : W32 × State :=
  let t := if inDoze s then s.core.carryC else s.core.timebase
  (BitVec.ofNat 32 t.toNat, { s with core := { s.core with tbShadow := BitVec.ofNat 32 (t.toNat / 2 ^ 32) } })

/-- TIMEBASE_LO_READ. -/
def execTimebaseLoRead (s : State) : Res := done (hostRead timebaseRead s)

/-- COUNTER_LO_READ: whoever reads it, a counter's low word latches its high word (R176). -/
def execCounterLoRead (off : BitVec 24) (s : State) : Res := done (onlyIf (ctlErr s off.toNat = 0) (counterLatch off.toNat) s)

/-- WIN_DATA_READ. -/
def execWinDataRead (win : Fin 2) (e : Ecc) (s : State) : Res := done (hostRead (winRead win e) s)

/-- WIN0_DATA_INC_READ. -/
def execWin0DataIncRead (e : Ecc) (s : State) : Res := done (hostRead (winIncRead e) s)

/-- LOG_DATA_READ: a register of Table 3-3 that DOZE does not serve. -/
def execLogDataRead (damage : LogDamage) (s : State) : Res :=
  done (hostRead (fun s => if inDoze s then (0#32, s) else logRead damage s) s)

/-- DOFF_DATA_READ. -/
def execDoffDataRead (s : State) : Res := done (hostRead doffRead s)

/-- WIN_DATA_WRITE. -/
def execWinDataWrite (win : Fin 2) (v : W32) (s : State) : Res := done (hostApply (if win = 0 then 0x34 else 0x44) v s)

/-- WIN0_DATA_INC_WRITE. -/
def execWin0DataIncWrite (v : W32) (s : State) : Res := done (hostApply 0x38 v s)

/-- WIN_ADDR_WRITE. -/
def execWinAddrWrite (win : Fin 2) (high : Bool) (v : W32) (s : State) : Res :=
  done (hostApply (if win = 0 then (if high then 0x30 else 0x2C) else (if high then 0x40 else 0x3C)) v s)

/-- WIN_TIMEOUT: a target that could answer did not within 10 microseconds; a read returns zero (R79). -/
def execWinTimeout (win : Fin 2) (write : Bool) (s : State) : Res :=
  done (onlyIf (interior s && winFail s (winAddr s win) = 0) (fun s =>
    let s := winError win 2 s
    if write then s else { s with host := { s.host with hd := 0#32 } }) s)

/-- REWIND: a write of LOG_CTRL with REWIND = 1; LOG_CTRL takes writes in a freeze but not in DOZE. -/
def execRewind (s : State) : Res := done (onlyIf (hostServed s && !inDoze s) rewindLog s)

/-- CLR_LOST. -/
def execClrLost (s : State) : Res := done (onlyIf (hostServed s && !inDoze s) clearLost s)

/-- INT_STATUS_CLEAR: a write of INT_STATUS (R70). -/
def execIntStatusClear (v : W32) (s : State) : Res := done (hostApply 0x18 v s)

/-- INT_FORCE. -/
def execIntForce (v : W32) (s : State) : Res := done (hostApply 0x20 v s)

/-- SYNC_MODE_SWITCH: a write of HOST_BUS_CFG.SYNC acts after every earlier write (R58, Table 3-24). -/
def execSyncModeSwitch (sync : Bool) (s : State) : Res :=
  done (onlyIf (hostServed s) (fun s => (drainHost s).setFlag fSync sync) s)

/-- HOST_STROBE_ABORT: the host ends a strobe while WAIT# is low: a write is applied; a read is discarded and no drain advances (R87). -/
def execHostStrobeAbort (write : Bool) (slot : Fin 64) (v : W32) (s : State) : Res :=
  done (onlyIf (hostServed s) (fun s => if write then hostApply (slotReg slot) v (drainHost s) else drainHost s) s)

/-- REGISTER_WRITE: a write of any register of the host block or the control space takes effect, field by field by its access code
(R8), with what else its table gives the write. -/
def execRegisterWrite (reg : BitVec 25) (v : W32) (s : State) : Res :=
  let r := reg.toNat
  done (if r < ctlBase then (if r < 0x100 && r % 4 = 0 then hostApply r v s else s)
    else if ctlErr s (r - ctlBase) = 0 then ctlWrite 0 (r - ctlBase) v s
    else s)

/-! ### Control-space access of the test port (R470) -/

/-- CTRL_ACCESS: captures data and status, then, with bit 63, makes the access; it fails wherever a window access would. -/
def execCtrlAccess (v : W64) (s : State) : Res :=
  done (onlyIf (tapWorks s) (fun s =>
    let s := tapLoad 0x13 (BitVec.ofNat 64 (s.dbg.ctrlData.toNat * 2 ^ 24 + s.dbg.ctrlStatus * 2 ^ 60)) s
    let off := bitsOf v 23 0
    if !bitN v.toNat 63 then s
    else if winFail s (0x110000000000 + off) ≠ 0 then { s with dbg := { s.dbg with ctrlStatus := 2 } }
    else if bitN v.toNat 62 then
      let s := ctlWrite 0 off (BitVec.ofNat 32 (bitsOf v 55 24)) s
      { s with dbg := { s.dbg with ctrlStatus := 0 } }
    else
      let (w, s) := ctlRead off s
      { s with dbg := { s.dbg with ctrlData := w, ctrlStatus := 0 } }) s)

end Sys2Proof.Machine
end

