-- ==== Sys2Proof/Machine/QueueStore.lean ====
section
/-! DEFINITION. Packets that store or watch a word, which may lie in memory, in the control space or behind a peer window: FENCE, WAIT,
TIMESTAMP and INTERRUPT (R146), completion records (R147, R158), and the end of a context's stop (R157). -/

namespace Sys2Proof.Machine

open Sys2Proof

/-! ### Words of the queue engine -/

/-- How an access of the queue engine goes: done, sent to a peer, not possible now, or a fault. -/
inductive QAcc
  | ok (bs : List Byte)
  | sent
  | held
  | ue
  | fault (cause level : Nat)
deriving DecidableEq, Repr

/-- The walk level that a fault behind a translation names: 0 without a walk (Table 6-8). -/
def faultLevel (s : State) (c va : Nat) : Nat :=
  if !s.flag (fXlate c) then 0
  else match walkFrom s va 4 (ctxRoot s c) with
    | .page _ _ lv => lv
    | .fault _ lv _ => lv

/-- Who waits for a peer request of a packet. -/
def packetOwner (c index : Nat) : List Nat := [3, c, index]

/-- A store of the queue engine: memory, whole words of the control space (R119), or one request through a peer window (R405). -/
def qwrite (c va : Nat) (bs : List Byte) (owner : List Nat) (s : State) : QAcc × State :=
  match translate .queue c va .queue true s with
  | (.fault cause lv, s) => (.fault cause lv, s)
  | (.ok pa un, s) =>
    match target s pa with
    | .ctl off =>
      if ctlWhole off bs.length then (.ok [], ctlWriteBytes 0 off bs s) else (.fault 8 (faultLevel s c va), s)
    | .peer n off =>
      match issueRequest n 2 bs.length off 0 0 bs owner s with
      | (true, s) => (.sent, s)
      | (false, _) => (.held, s)
    | _ => (.ok [], memWrite un pa bs s)

/-- A load of the queue engine; one through a peer window is asked for first and found ended later. -/
def qread (c va n : Nat) (owner : List Nat) (s : State) : QAcc × State :=
  match resultOf s owner with
  | some d => (if d.status = 0 then .ok (d.data.take n) else .ue, dropResults (fun o => o = owner) s)
  | none =>
    match translate .queue c va .queue false s with
    | (.fault cause lv, s) => (.fault cause lv, s)
    | (.ok pa un, s) =>
      match target s pa with
      | .ctl off =>
        if ctlWhole off n then
          let (b, s) := ctlReadBytes off n s
          (.ok b, s)
        else (.fault 8 (faultLevel s c va), s)
      | .peer port off => if outstanding s owner then (.held, s) else (.sent, (issueRequest port 1 n off 0 0 [] owner s).2)
      | _ =>
        if poisoned s pa n then (.ue, raiseInt iErrUncorr (noteUe pa s))
        else (.ok (memRead s pa n), (linesOf pa n).foldl (fun s a => lookup true un a s) s)

/-- The packet's address field ADDR (Table 7-5). -/
def pktAddr (p : Packet) : Nat := pktNat p 16 6

/-- The queue engine may make an access for a context. -/
def queueActs (s : State) (c : Nat) : Bool := ctxRuns s c && !(ctxQ s c).faulted

/-- Every earlier packet of the ring has completed. -/
def priorDone (s : State) (c : Nat) (p : Packet) : Bool := ((ctxQ s c).flight.head?.map (fun x => x.index)).any (fun i => i = p.index)

/-- Nothing was sent to a peer for the packet. -/
def unsent (s : State) (c : Nat) (p : Packet) : Bool :=
  !outstanding s (packetOwner c p.index) && (resultOf s (packetOwner c p.index)).isNone

/-- The packet's one store: made, sent, put off or faulted. enter puts the packet in flight where it was not. -/
def packetStore (c : Nat) (p : Packet) (bs : List Byte) (enter : State → State) (s : State) : State :=
  match qwrite c (pktAddr p) bs (packetOwner c p.index) s with
  | (.ok _, s) => endPacket c p.index (enter s)
  | (.sent, s) => enter s
  | (.fault cause lv, s) => queueFault c (pktAddr p) cause lv p.index s
  | (_, s) => s

/-- PKT_FENCE: every earlier packet has completed, its writes are visible at device scope, and VALUE is written as one 8-byte store; at
FLIP_COMMIT that flips a frame (R146, R323). -/
def execPktFence (c : Fin 16) (s : State) : Res :=
  done (onlyIf (running s) (fun s =>
    match startable s c 6 with
    | none => s
    | some p => packetStore c p ((p.bytes.drop 24).take 8) (startPacket c p) s) s)

/-! ### WAIT (R146) -/

/-- A word satisfies a WAIT (Table 7-5). -/
def waitHolds (p : Packet) (word : Nat) : Bool := if pktNat p 32 1 = 1 then word = pktNat p 24 8 else pktNat p 24 8 ≤ word

/-- Evaluate a WAIT. enter puts the packet in flight where it was not. Uncorrectable data ends it with that status. -/
def waitEval (c : Nat) (p : Packet) (enter : State → State) (s : State) : State :=
  match qread c (pktAddr p) 8 (packetOwner c p.index) s with
  | (.ok b, s) => if waitHolds p (fieldAt b 0 8) then endPacket c p.index (enter s) else enter s
  | (.fault cause lv, s) => queueFault c (pktAddr p) cause lv p.index s
  | (.ue, s) => endPacket c p.index (packetStatus c p.index 6 (enter s))
  | (_, s) => enter s

/-- PKT_WAIT: it starts, blocks every later packet of its ring, and is evaluated (R146). -/
def execPktWait (c : Fin 16) (s : State) : Res :=
  done (onlyIf (running s) (fun s =>
    match startable s c 7 with
    | none => s
    | some p => waitEval c p (startPacket c p) s) s)

/-- The WAIT a ring is at. -/
def openWait (s : State) (c : Nat) : Option Packet := (ctxQ s c).flight.find? (fun p => p.op = 7 && !p.ended)

/-- WAIT_CONDITION_MET: an evaluation of the WAIT; it completes if its condition holds (R146). -/
def execWaitConditionMet (c : Fin 16) (s : State) : Res :=
  done (onlyIf (running s && queueActs s c) (fun s =>
    match openWait s c with
    | none => s
    | some p => waitEval c p (fun s => s) s) s)

/-- WAIT_TIMEOUT: the ring halts with ERROR 0x4, and the WAIT completes with WAIT_TIMEOUT (R146). -/
def execWaitTimeout (c : Fin 16) (s : State) : Res :=
  done (onlyIf (running s && ctxRuns s c) (fun s =>
    match openWait s c with
    | none => s
    | some p =>
      if pktNat p 36 4 = 0 then s
      else haltRing c 4 p.index (endPacket c p.index (packetStatus c p.index 7 (orphan (fun o => o = packetOwner c p.index) s)))) s)

/-! ### TIMESTAMP and INTERRUPT (R146) -/

/-- A packet in flight that waited for every earlier one and may act now. -/
def dueAfter (s : State) (c op : Nat) : Option Packet :=
  match (ctxQ s c).flight.find? (fun p => p.op = op && !p.ended) with
  | some p => if queueActs s c && priorDone s c p && unsent s c p then some p else none
  | none => none

/-- A TIMESTAMP or INTERRUPT acts now: one that waited for earlier packets, or one that starts; with AFTER_PRIOR it starts and waits
while an earlier packet is in flight. -/
def afterPrior (c op off : Nat) (act : Packet → (State → State) → State → State) (s : State) : State :=
  match dueAfter s c op with
  | some p => act p (fun s => s) s
  | none =>
    match startable s c op with
    | none => s
    | some p =>
      if bitN (pktNat p off 1) 0 && !(ctxQ s c).flight.isEmpty then startPacket c p s else act p (startPacket c p) s

/-- PKT_TIMESTAMP: the timebase is written as one 8-byte store: as of the packet's read, or of now with AFTER_PRIOR (Table 7-5). -/
def execPktTimestamp (c : Fin 16) (s : State) : Res :=
  done (onlyIf (running s)
    (afterPrior c 8 24 (fun p enter s =>
      packetStore c p (leBytes 8 (if bitN (pktNat p 24 1) 0 then s.core.timebase.toNat else p.readAt)) enter s)) s)

/-- PKT_INTERRUPT: QINT_STATUS bit c and INT_STATUS.QUEUE, forwarded where MSG_FWD names the context (R146, R411). -/
def execPktInterrupt (c : Fin 16) (s : State) : Res :=
  done (onlyIf (running s)
    (afterPrior c 9 16 (fun p enter s =>
      msgForward c (raiseInt iQueue ((endPacket c p.index (enter s)).setFld ⟨C 0x20404, c, c⟩ 1)))) s)

/-! ### Completion (R147, R158) -/

/-- A packet whose store went to a peer has its answer. -/
def takePeerStore (c index : Nat) (s : State) : State :=
  match packetOf s c index, resultOf s (packetOwner c index) with
  | some p, some d =>
    if (p.op = 6 || p.op = 8) && !p.ended then
      endPacket c index (packetStatus c index (if d.status = 0 then 0 else 6) (dropResults (fun o => o = packetOwner c index) s))
    else s
  | _, _ => s

/-- The two halves of a completion record, in the order they are written (Table 7-6). -/
def recordHalves (p : Packet) (status now : Nat) : List (Nat × List Byte) :=
  [(fieldAt p.bytes 8 6 + 8, leBytes 2 status ++ leBytes 2 0 ++ (p.bytes.drop 4).take 4), (fieldAt p.bytes 8 6, leBytes 8 now)]

/-- Write a completion record: bytes 15:8, then bytes 7:0. Answers the fault that stopped it: address, cause and level. -/
def writeHalves (c : Nat) : List (Nat × List Byte) → State → Option (Nat × Nat × Nat) × State
  | [], s => (none, s)
  | (va, bs) :: t, s =>
    match qwrite c va bs [2] s with
    | (.fault cause lv, s) => (some (va, cause, lv), s)
    | (_, s) => writeHalves c t s

/-- PACKET_COMPLETE: all work of the packet has ended; its record is written, and it leaves the ring (R145, R147, R158). -/
def execPacketComplete (c : Fin 16) (index : BitVec 20) (s : State) : Res :=
  let c := c.val
  let i := index.toNat
  done (onlyIf (running s && s.fld (fQState c) ≠ 7) (fun s =>
    let s := takePeerStore c i s
    match packetOf s c i with
    | none => s
    | some p =>
      if !pktDone s c p then s
      else if fieldAt p.bytes 8 6 = 0 then packetGone c i s
      else if (ctxQ s c).faulted then s
      else
        match writeHalves c (recordHalves p p.status s.core.timebase.toNat) s with
        | (none, s) => packetGone c i s
        | (some (va, cause, lv), s) =>
          let (waits, s) := raiseFault c va cause lv .queue 6 0 (.queue c) s
          if waits then setCtxQ c { ctxQ s c with faulted := true, doneWaiting := [i] } s
          else packetGone c i (recordLost c p s)) s)

/-! ### The end of a context's stop (R157) -/

/-- A packet of a stopped context completes with CONTEXT_STOPPED. Nothing of the context can wait: a record that faults is lost, and its
fault is recorded for information. -/
def stopPacket (c : Nat) (p : Packet) (s : State) : State :=
  let va := fieldAt p.bytes 8 6
  if va = 0 then s
  else
    match writeHalves c (recordHalves p (mergeStatus p.status 2) s.core.timebase.toNat) s with
    | (none, s) => s
    | (some (va, cause, lv), s) => recordLost c p (infoFault c va cause lv .queue 6 0 s)

/-- Everything a context still has in the engines is discarded. -/
def discardWork (c : Nat) (s : State) : State :=
  let s := dropTraces (fun t => t.ctx = c) 2 s
  let s := dropPasses (fun p => p.ctx = c) 2 s
  let s := dropPlies (fun y => y.owner.ctx = c) s
  let ops := s.weft.queue.filter (fun e => e.2.ctx = c) ++ s.weft.running.filter (fun e => e.2.ctx = c)
  let s := { s with weft := { s.weft with
                              queue := s.weft.queue.filter (fun e => e.2.ctx ≠ c)
                              running := s.weft.running.filter (fun e => e.2.ctx ≠ c)
                              saved := s.weft.saved.filter (fun e => e.2.ctx ≠ c) } }
  let s := (ops.map (fun e => e.1)).dedup.foldl (fun s sp => syncWeft sp s) s
  orphan (fun o => o.take 2 = [3, c]) (reelDrop c s)

/-- Every packet of the context has completed; unread ones are dropped. -/
def stopPackets (c : Nat) (s : State) : State :=
  let q := ctxQ s c
  let packets := q.flight ++ (q.saved.map (fun w => w.packets)).getD []
  let s := packets.foldl (fun s p => forgetSource c p.index (stopPacket c p s)) s
  let s := if q.hold then s.setFld fPreBusy 0 else s
  setCtxQ c CtxQ.empty (s.setFld (fRead c) (s.fld (fWrite c)))

/-- A save or restore of the context is abandoned, and so is a trigger for it. -/
def abandonSave (c : Nat) (s : State) : State :=
  { s with q := { s.q with triggers := s.q.triggers.filter (fun x => x ≠ c), busy := if s.q.busy = some c then none else s.q.busy } }

/-- STATE becomes OFF: every packet has completed, unread ones are dropped, a save or restore in progress is abandoned; a context that
was enabled again meanwhile is checked now (R155, R157). -/
def stopDone (c : Nat) (s : State) : State :=
  let s := stopPackets c (discardWork c s)
  let s := ((s.setFld (fQState c) 0).setFld (fQHeld c) 0).setFld (fQFlight c) 0
  let s := preemptNext (syncDbg (syncResident c (syncCtx c (abandonSave c s))))
  if s.flag (fCtxEn c) then ctxEnable.check c s else s

/-- CONTEXT_STOP_DONE: every engine has stopped the context's work at its point and discards it (R157, Table 7-11). -/
def execContextStopDone (c : Fin 16) (s : State) : Res :=
  done (onlyIf (running s && s.fld (fQState c) = 7 && atPoints s c) (stopDone c) s)

end Sys2Proof.Machine
end

