-- ==== Sys2Proof/Machine/MemResponse.lean ====
section
/-! DEFINITION. MEMORY_RESPONSE: one line request of a ply's load, store or atomic is performed in memory, in the control space or
behind a peer window (R119, R170, R404-R406). -/

namespace Sys2Proof.Machine

open Sys2Proof

/-- What kind of access a memory instruction makes. -/
def opAccess (w : W64) : Access := if wOp w = 0x70 then .read else if wOp w = 0x72 then .write else .atomic

/-- A lane of instruction n meets an unmapped access: the instruction waits, or the ply is aborted (R119, R135). -/
def laneFault (k n : Nat) (o : MemOp) (a : LaneAcc) (s : State) : State :=
  match plyAt s k with
  | none => s
  | some y =>
    let (waits, s) := raiseFault y.owner.ctx a.va 8 (faultLevel s y.owner.ctx a.va) (opAccess o.w) 0 (plySrc k) (.ply y.uid) s
    match plyAt s k with
    | none => s
    | some y =>
      let mark := fun (o : MemOp) =>
        { o with faulted := true, todo := o.todo.map (fun x => if x.lane = a.lane then { x with pa := none } else x) }
      let s := putPly k { y with mem := y.mem.zipIdx.map (fun e => if e.2 = n then mark e.1 else e.1) } s
      if waits then toPending k s else endPly k 1 s

/-- A loaded lane's bytes go to the destination (R184, R195). -/
def laneLoaded (k : Nat) (o : MemOp) (lane : Nat) (bs : List Byte) (s : State) : State :=
  match plyAt s k with
  | none => s
  | some y => if takesResult o.w o.first lane then putPly k (loadLane y o.w lane bs) s else s

/-! ### The control space (R119) -/

/-- One lane's access of the control space: whole listed words, one by one; anything else, and every atomic, is unmapped. -/
def laneControl (k n : Nat) (o : MemOp) (off : Nat) (a : LaneAcc) (s : State) : State :=
  if !ctlWhole off o.size || opAccess o.w = .atomic then laneFault k n o a s
  else
    let s := if opAccess o.w = .read then
        let (bs, s) := ctlReadBytes off o.size s
        laneLoaded k o a.lane bs s
      else ctlWriteBytes 0 off a.data s
    completeLanes k n [a] s

/-! ### Peer windows (R405, R406) -/

/-- One request of a line: who waits, PTYPE, offset in the line, bytes and data. -/
structure LineReq where
  key : Nat
  ptype : Nat
  off : Nat
  len : Nat
  data : List Byte
deriving DecidableEq, Repr

/-- The bytes a line of stores writes: lanes in ascending order, the last value of a byte stands. -/
def storeMap (ls : List LaneAcc) : Sparse Byte :=
  ls.foldl (fun m a => a.data.zipIdx.foldl (fun m e => Sparse.insert m (a.va % 64 + e.2) e.1) m) []

/-- Contiguous runs of bytes: where each starts, and its bytes. -/
def byteRuns : List (Nat × Byte) → List (Nat × List Byte)
  | [] => []
  | (a, b) :: t =>
    match byteRuns t with
    | (a', bs) :: r => if a' = a + 1 then (a, b :: bs) :: r else (a, [b]) :: (a', bs) :: r
    | [] => [(a, [b])]

/-- The requests of one line (R405): one READ of the bytes touched, one WRITE for each run of bytes, or one ATOMIC for each lane. -/
def lineReqs (o : MemOp) (ls : List LaneAcc) : List LineReq :=
  match opAccess o.w with
  | .read =>
    let lo := (leastOf (ls.map (fun a => a.va % 64))).getD 0
    let hi := ls.foldl (fun h a => if h < a.va % 64 + o.size then a.va % 64 + o.size else h) 0
    [⟨0, 1, lo, hi - lo, []⟩]
  | .write => (byteRuns (storeMap ls)).map (fun r => ⟨r.1, 2, r.1, r.2.length, r.2⟩)
  | _ => ls.map (fun a => ⟨a.lane, 3, a.va % 64, o.size, leBytes 8 a.b ++ leBytes 8 a.c⟩)

/-- Who waits for a request of a memory instruction. -/
def plyOwner (uid pc key : Nat) : List Nat := [0, uid, pc, key]

/-- Requests not sent yet are sent, where the window is open; base is the line's offset in it. -/
def sendLine (at? : Option (Nat × Nat)) (uid : Nat) (o : MemOp) (rs : List LineReq) (s : State) : State :=
  match at? with
  | none => s
  | some (port, base) =>
    rs.foldl (fun s r =>
      let own := plyOwner uid o.pc r.key
      if outstanding s own || (resultOf s own).isSome then s
      else (issueRequest port r.ptype r.len (base + r.off) (mSub (wMod o.w)) (wType o.w) r.data own s).2) s

/-- What the peer answered reaches the registers (R195, R226, R192). -/
def lineAnswered (k : Nat) (o : MemOp) (ls : List LaneAcc) (rs : List LineReq) (data : Nat → List Byte) (s : State) : State :=
  match opAccess o.w with
  | .read =>
    let lo := ((rs.head?).map (fun r => r.off)).getD 0
    ls.foldl (fun s a => laneLoaded k o a.lane (((data 0).drop (a.va % 64 - lo)).take o.size) s) s
  | .write => s
  | _ =>
    ls.foldl (fun s a =>
      let old := fieldAt (data a.lane) 0 o.size
      match plyAt s k with
      | none => s
      | some y =>
        let y := if takesResult o.w o.first a.lane then y.wrT (wType o.w) (wD o.w) a.lane old else y
        putPly k (y.orFlags (atomFlags (wType o.w) (mSub (wMod o.w)) old a.b)) s) s

/-- How the requests of a line have ended so far, by key. -/
def lineEnds (s : State) (uid : Nat) (o : MemOp) (ls : List LaneAcc) : List (Nat × PeerDone) :=
  (lineReqs o ls).filterMap (fun r => (resultOf s (plyOwner uid o.pc r.key)).map (fun d => (r.key, d)))

/-- A line of a peer window: its requests are sent; once all have ended, the lanes complete; where one has failed, the data is
uncorrectable (R406). -/
def linePeer (k n : Nat) (at? : Option (Nat × Nat)) (uid : Nat) (o : MemOp) (ls : List LaneAcc) (s : State) : State :=
  let rs := lineReqs o ls
  let mine := fun (w : List Nat) => rs.any (fun r => w = plyOwner uid o.pc r.key)
  let s := sendLine at? uid o rs s
  let ends := lineEnds s uid o ls
  if ends.any (fun e => e.2.status ≠ 0) then uncorrectablePly k (forgetLanes k n ls (orphan mine s))
  else if ends.length < rs.length then s
  else
    let data := fun key => ((ends.find? (fun e => e.1 = key)).map (fun e => e.2.data)).getD []
    acquireDone k o.w (completeLanes k n ls (lineAnswered k o ls rs data (dropResults mine s)))

/-! ### MEMORY_RESPONSE -/

/-- The line waits for a peer's answer and none has come. -/
def lineWaits (s : State) (uid : Nat) (o : MemOp) : Bool :=
  let ls := nextLine o
  match ls.head?.bind (fun a => a.pa) with
  | some (pa, _) =>
    (match target s pa with
    | .peer _ _ => (lineReqs o ls).any (fun r => outstanding s (plyOwner uid o.pc r.key))
    | _ => false)
  | none => true

/-- The instruction whose next line completes: the oldest that has one, does not wait for a peer, and does not share its PC with an
older one (the peer's answers are told apart by PC). -/
def nextOp (s : State) (y : Ply) : Option (MemOp × Nat) :=
  y.mem.zipIdx.find? (fun e => !lineWaits s y.uid e.1 && !(y.mem.take e.2).any (fun o => o.pc = e.1.pc))

/-- MEMORY_RESPONSE: the next line request of a memory instruction of the ply is performed at its point of coherence; a lea that has
left SCRATCH and PINNED since its translation is unmapped (R119, R170, R233, R405). -/
def execMemoryResponse (p : PlyId) (e : Ecc) (s : State) : Res :=
  let k := plyKey p
  done (onlyIf (running s) (fun s =>
    match plyAt s k with
    | none => s
    | some y =>
      match nextOp s y with
      | none => s
      | some (o, n) =>
        let ls := nextLine o
        match ls with
        | [] => s
        | a :: _ =>
          let (pa, un) := a.pa.getD (0, false)
          match target s pa with
          | .dram _ | .skein _ => memLine k n o ls pa un e s
          | .ctl off => laneControl k n o off a s
          | .peer port off => linePeer k n (some (port, off / 64 * 64)) y.uid o ls s
          | .unmapped =>
            -- a window that has closed still answers what was sent through it
            if (lineEnds s y.uid o ls).isEmpty then laneFault k n o a s else linePeer k n none y.uid o ls s) s)

end Sys2Proof.Machine
end

