-- ==== Sys2Proof/Machine/PeerIn.lean ====
section
/-! DEFINITION. Incoming requests of the peer ports: the checks of R407, their performance and their answers (R136, R402, R407-R410). -/

namespace Sys2Proof.Machine

open Sys2Proof

/-! ### The request header (Table 18-3) -/

def rqType (h : List Byte) : Nat := fieldAt h 0 1
def rqBytes (h : List Byte) : Nat := bitsN (fieldAt h 1 1) 5 0 + 1
def rqVirtual (h : List Byte) : Bool := bitN (fieldAt h 4 1) 0
def rqCtx (h : List Byte) : Nat := bitsN (fieldAt h 4 1) 4 1
def rqSub (h : List Byte) : Nat := bitsN (fieldAt h 5 1) 2 0
def rqAtomType (h : List Byte) : Nat := bitsN (fieldAt h 5 1) 6 4
def rqAddr (h : List Byte) : Nat := fieldAt h 6 6

/-- Check 1: reserved bits and the line rule; LEN, SUB and TYPE of an ATOMIC (R407). -/
def rqWellFormed (h : List Byte) : Bool :=
  let t := rqAtomType h
  fieldAt h 1 1 < 64 && fieldAt h 2 2 < 4096 && fieldAt h 4 1 < 32 && !bitN (fieldAt h 5 1) 3 && !bitN (fieldAt h 5 1) 7
    && fieldAt h 13 3 = 0 && rqAddr h % 64 + rqBytes h ≤ 64
    && (rqType h ≠ 3 || ([0, 1, 2, 4, 5].contains t && rqBytes h = (if is64 t then 8 else 4) && atomSubOk t (rqSub h)))

def fPhysEn (n : Nat) : Fld := ⟨peerR n 4, 31, 31⟩
def fCtrlEn (n : Nat) : Fld := ⟨peerR n 4, 30, 30⟩
def fPeerLimit : Fld := ⟨C 0x10810, 15, 0⟩

/-- The address is in the internal control space. -/
def inControl (pa : Nat) : Bool := 0x110000000000 ≤ pa && pa < 0x110001000000

/-- Check 2: the port accepts the request (R407). -/
def rqAccepted (s : State) (n : Nat) (h : List Byte) : Bool :=
  if rqVirtual h then bitN (s.reg (peerR n 4)).toNat (rqCtx h)
  else s.flag (fPhysEn n) && (!inControl (rqAddr h) || s.flag (fCtrlEn n))

/-! ### Faults of incoming requests (R136) -/

/-- BUSY_RETRY is answered, and counted (Table 18-8). -/
def busyRetry (n : Nat) (h : List Byte) (s : State) : State := bumpPeer n 4 1 (answer n h 1 [] s)

/-- The busy answers of the record that a request to a page would join. -/
def joinedBusy (s : State) (c va : Nat) : Option Nat :=
  match s.mmu.recs.find? (fun e => e.2.inUse && e.2.joinable c va) with
  | some e => some e.2.busy
  | none => (s.mmu.held.find? (fun r => r.joinable c va)).map (fun r => r.busy)

/-- One more busy answer on the record of a page. -/
def countBusy (c va : Nat) (s : State) : State :=
  let one := fun (r : FaultRec) => if r.joinable c va then { r with busy := r.busy + 1 } else r
  { s with mmu := { s.mmu with
    recs := s.mmu.recs.map (fun (e : Nat × FaultRec) => if e.2.inUse then (e.1, one e.2) else e)
    held := s.mmu.held.map one } }

/-- A virtual request faults: with CAUSE 0x01 in WAIT mode it joins or raises a record and is answered BUSY_RETRY, until the record has
had LIMIT of them; every other fault is recorded for information and answered ACCESS_FAULT (R136). -/
def requestFault (n : Nat) (h : List Byte) (cause lv : Nat) (a : Access) (s : State) : State :=
  let c := rqCtx h
  let va := rqAddr h
  let denied := answer n h 2 []
  if s.flag (fFaultMode c) || cause ≠ 1 then denied (infoFault c va cause lv a 5 n s)
  else
    let limit := s.fld fPeerLimit
    match joinedBusy s c va with
    | some k =>
      if limit ≤ k then denied s
      else busyRetry n h (countBusy c va ((joinFault c va [] s).getD s))
    | none =>
      let s := recordFault
        { ctx := c, va := va, cause := cause, access := accCode a, level := lv, source := 5, sourceId := n, time := 0, joins := 0
          seq := 0, needAnswer := true, mode := 0, answered := false, inUse := false, busy := 0, waiters := [] } s
      if limit = 0 then denied s else busyRetry n h (countBusy c va s)

/-! ### Performing (R408-R410) -/

/-- The data behind an address is uncorrectable, by its code or as the read finds it. -/
def rqBad (pa n : Nat) (e : Ecc) (s : State) : Bool := e = .uncorrectable || poisoned s pa n

/-- An incoming READ of memory. -/
def readMemory (n : Nat) (h : List Byte) (pa : Nat) (un : Bool) (e : Ecc) (s : State) : State :=
  let s := lookup true un pa s
  let k := rqBytes h
  if rqBad pa k e s then answer n h 4 [] (noteUe pa (if poisoned s pa k then s else markUe pa s))
  else
    let s := if e = .corrected then noteCe pa s else s
    answer n h 0 (memRead s pa k) s

/-- An incoming ATOMIC on memory: one update by one lane (R410). -/
def atomicMemory (n : Nat) (h : List Byte) (pa : Nat) (un : Bool) (body : List Byte) (e : Ecc) (s : State) : State :=
  let s := lookup true un pa s
  let k := rqBytes h
  if rqBad pa k e s then answer n h 4 [] (noteUe pa (if poisoned s pa k then s else markUe pa s))
  else
    let s := if e = .corrected then noteCe pa s else s
    let old := leNat (memRead s pa k)
    let new := atomUpdate (rqAtomType h) (rqSub h) old (fieldAt body 0 k) (fieldAt body 8 k)
    let s := memPut un pa (leBytes k new) s
    let sp := match target s pa with
      | .skein off => some (off / 0x80000)
      | _ => (homeLea s pa).map (fun l => l / 8)
    let s := match sp with
      | none => s
      | some sp => bumpSp sp (if 6 ≤ rqSub h then 0x228 else 0x220) 1 s
    answer n h 0 (leBytes 8 old) s

/-- An access of the control space: whole listed words, no atomic; a block in function reset does not answer (R119, R407). -/
def requestControl (n : Nat) (h : List Byte) (off : Nat) (body : List Byte) (s : State) : State :=
  let k := rqBytes h
  if rqType h = 3 || !ctlWhole off k then answer n h 3 [] s
  else if (numsFrom 0 (k / 4)).any (fun i => ctlErr s (off + 4 * i) ≠ 0) then answer n h 6 [] s
  else if rqType h = 1 then
    let (bs, s) := ctlReadBytes off k s
    answer n h 0 bs s
  else answer n h 0 [] (ctlWriteBytes (1 + n) off (body.take k) s)

/-- An accepted request at its physical address. A peer window lets nothing through. -/
def requestAt (n : Nat) (h : List Byte) (pa : Nat) (un : Bool) (body : List Byte) (e : Ecc) (s : State) : State :=
  match target s pa with
  | .ctl off => requestControl n h off body s
  | .peer _ _ | .unmapped => answer n h 3 [] s
  | _ =>
    if rqType h = 1 then readMemory n h pa un e s
    else if rqType h = 2 then answer n h 0 [] (memWrite un pa (body.take (rqBytes h)) s)
    else atomicMemory n h pa un body e s

/-- A request from the port's inbox is checked, issued and answered (R407). -/
def request (n : Nat) (b : List Byte) (e : Ecc) (s : State) : State :=
  let h := b.take 16
  let body := b.drop 16
  if !rqWellFormed h || !rqAccepted s n h then answer n h 5 [] s
  else if !rqVirtual h then requestAt n h (rqAddr h) false body e (settleApply s)
  else if !s.flag (fCtxEn (rqCtx h)) then answer n h 6 [] s
  else
    let a : Access := if rqType h = 1 then .peerRead else .peerWrite
    match translate .peer (rqCtx h) (rqAddr h) a false s with
    | (.fault cause lv, s) => requestFault n h cause lv a s
    | (.ok pa un, s) => requestAt n h pa un body e s

/-- Act on the oldest request in the inbox, if it has the PTYPE: requests are performed in their order of arrival (R409). -/
def onRequest (n t : Nat) (f : List Byte → State → State) (s : State) : State :=
  match takePacket n (fun b => ptypeVc (fieldAt b 0 1) = some 0) s with
  | none => s
  | some (b, s') => if t = 0 || fieldAt b 0 1 = t then f b s' else s

/-- PEER_READ. -/
def execPeerRead (port : Fin 4) (e : Ecc) (s : State) : Res :=
  done (onlyIf (receives s port) (onRequest port 1 (fun b s => request port b e s)) s)

/-- PEER_WRITE. -/
def execPeerWrite (port : Fin 4) (s : State) : Res :=
  done (onlyIf (receives s port) (onRequest port 2 (fun b s => request port b .clean s)) s)

/-- PEER_ATOMIC. -/
def execPeerAtomic (port : Fin 4) (e : Ecc) (s : State) : Res :=
  done (onlyIf (receives s port) (onRequest port 3 (fun b s => request port b e s)) s)

/-- PEER_ISSUE_DEADLINE: a request that could not be issued or translated within 4 microseconds of its arrival is answered BUSY_RETRY and
never performed (R136, R408). -/
def execPeerIssueDeadline (port : Fin 4) (s : State) : Res :=
  done (onlyIf (receives s port) (onRequest port 0 (fun b s => busyRetry port (b.take 16) s)) s)

end Sys2Proof.Machine
end

