-- ==== Sys2Proof/Machine/ReelRun.lean ====
section
/-! DEFINITION. The transfer of reel segments: reads from memory, the control space, drain regions and peer windows, and their writes
(R424-R428, R435). -/

namespace Sys2Proof.Machine

open Sys2Proof

/-! ### The parts of a source -/

/-- A run of at most 64 bytes, cut at the line end: address and length of each part. -/
def lineParts (va n : Nat) : List (Nat × Nat) :=
  let k := 64 - va % 64
  if n ≤ k then [(va, n)] else [(va, k), ((va + k) % 2 ^ 48, n - k)]

/-- A part with its physical address. -/
structure ReelPart where
  va : Nat
  n : Nat
  pa : Nat
  uncached : Bool
deriving DecidableEq, Repr

/-- A part may be accessed: in the control space it must be whole listed words (R428). -/
def partOk (s : State) (p : ReelPart) : Bool :=
  match target s p.pa with
  | .ctl off => ctlWhole off p.n
  | .unmapped => false
  | _ => true

/-- Translate parts for a read or a write: all of them, or the first fault with its address. -/
def reelParts (c : Nat) (a : Access) : List (Nat × Nat) → State → Except (Nat × Nat × Nat) (List ReelPart) × State
  | [], s => (.ok [], s)
  | (va, n) :: t, s =>
    match translate .reel c va a false s with
    | (.fault cause lv, s) => (.error (va, cause, lv), s)
    | (.ok pa un, s) =>
      let p : ReelPart := ⟨va, n, pa, un⟩
      if !partOk s p then (.error (va, 8, faultLevel s c va), s)
      else
        match reelParts c a t s with
        | (.ok r, s) => (.ok (p :: r), s)
        | (.error e, s) => (.error e, s)

/-- Words of the control space as a reel reads them: a drain region reads zero and loses nothing (R67, R428). -/
def reelControl (off n : Nat) (s : State) : List Byte × State :=
  if inDrain off then (leBytes n 0, s) else ctlReadBytes off n s

/-- How the read of a part goes: its bytes, none yet, or uncorrectable data. -/
inductive PartRead
  | bytes (b : List Byte)
  | later
  | bad
deriving DecidableEq, Repr

/-- Who waits for a peer request of a segment; part 100 is its write. -/
def segOwner (ch n part : Nat) : List Nat := [1, ch, n, part]

/-- Read one part of segment n, or ask a peer for it. -/
def readPart (ch n part : Nat) (p : ReelPart) (e : Ecc) (s : State) : PartRead × State :=
  match target s p.pa with
  | .ctl off =>
    let (b, s) := reelControl off p.n s
    (.bytes b, s)
  | .peer port off =>
    let own := segOwner ch n part
    if outstanding s own || (resultOf s own).isSome then (.later, s) else (.later, (issueRequest port 1 p.n off 0 0 [] own s).2)
  | _ =>
    if poisoned s p.pa p.n then (.bad, noteUe p.pa s)
    else if e = .uncorrectable then (.bad, noteUe p.pa (markUe p.pa s))
    else
      let s := if e = .corrected then noteCe p.pa s else s
      (.bytes (memRead s p.pa p.n), lookup true p.uncached p.pa s)

/-- What a peer has answered for a part. -/
def partAnswer (ch n part : Nat) (s : State) : Option (PartRead × State) :=
  let own := segOwner ch n part
  (resultOf s own).map (fun d => (if d.status = 0 then .bytes d.data else .bad, dropResults (fun o => o = own) s))

/-- Read parts in ascending order; none for those a peer has still to answer. False where some data is uncorrectable. -/
def readParts (ch n : Nat) (e : Ecc) : List (Nat × ReelPart) → State → Bool × List (Option (List Byte)) × State
  | [], s => (true, [], s)
  | (i, p) :: t, s =>
    match readPart ch n i p e s with
    | (.bad, s) => (false, [], s)
    | (.later, s) =>
      let (ok, r, s) := readParts ch n e t s
      (ok, none :: r, s)
    | (.bytes b, s) =>
      let (ok, r, s) := readParts ch n e t s
      (ok, some b :: r, s)

/-! ### Issue (R424) -/

/-- The segment needs no issue: completed before, or in flight. -/
def Chain.hasSeg (c : Chain) (n : Nat) : Bool := c.isDone n || c.flight.any (fun f => f.n = n)

/-- The place issued next, past the segments that need none. -/
def Chain.skipped (d : List Byte) : Nat → Chain → Chain
  | 0, c => c
  | k + 1, c =>
    if c.nextRow < rdRows d && c.hasSeg c.next then
      let (r, g) := c.after d c.nextRow c.nextSeg
      Chain.skipped d k { c with next := c.next + 1, nextRow := r, nextSeg := g }
    else c

/-- The header of the next block is known (R427). -/
def Chain.hasHdr (c : Chain) (d : List Byte) : Bool := !rdUmz d || (Sparse.find c.hdrs c.nextRow).isSome

/-- The header of a block has been read: kept until its copy is done; a malformed one is counted (R427, Table 19-2). -/
def noteHeader (ch : Nat) (c : Chain) (h : Nat) (s : State) : Chain × State :=
  let c := { c with hdrs := Sparse.insert c.hdrs c.nextRow h }
  if umzMalformed h then ({ c with malformed := c.malformed + 1 }, bumpReel ch 2 1 s) else (c, s)

/-- FILL: the bytes of a segment (R427). -/
def fillBytes (d : List Byte) (va n : Nat) : List Byte :=
  (numsFrom va n).map (fun a => BitVec.ofNat 8 (fieldAt d (8 + a % 8) 1))

/-- The segment at the chain's next place enters flight with its source bytes. -/
def enterFlight (ch : Nat) (c : Chain) (d : List Byte) (parts : List (Option (List Byte))) (s : State) : State :=
  let (r, g) := c.after d c.nextRow c.nextSeg
  let f : SegFly := { n := c.next, row := c.nextRow, seg := c.nextSeg, parts := parts, sent := false }
  putChain ch { c with flight := c.flight ++ [f], next := c.next + 1, nextRow := r, nextSeg := g } s

/-- Issue the segment at the chain's next place, whose header is known. Both ends are translated before anything is read, so that a
segment that cannot be performed whole does nothing (R424, R428). -/
def issueSegment (ch : Nat) (c : Chain) (d : List Byte) (e : Ecc) (s : State) : State :=
  let (src, dst, n) := c.span d c.nextRow c.nextSeg
  let s := putChain ch c s
  match reelParts c.ctx .write (lineParts dst n) s with
  | (.error (va, cause, lv), s) => reelFault ch va cause lv .write s
  | (.ok _, s) =>
    if rdFill d then enterFlight ch c d [some (fillBytes d dst n)] s
    else if rdUmz d && c.nextSeg + 1 = c.segs d c.nextRow then enterFlight ch c d [some (leBytes 4 (c.hdr c.nextRow))] s
    else
      match reelParts c.ctx .read (lineParts src n) s with
      | (.error (va, cause, lv), s) => reelFault ch va cause lv .read s
      | (.ok ps, s) =>
        match readParts ch c.next e (ps.zipIdx.map (fun p => (p.2, p.1))) s with
        | (false, _, s) => reelUe ch src s
        | (true, parts, s) => enterFlight ch c d parts s

/-- The header of the next block has been read: its first segment is issued. -/
def headerRead (ch : Nat) (c : Chain) (d : List Byte) (b : List Byte) (s : State) : State :=
  let (c, s) := noteHeader ch c (fieldAt b 0 4) s
  issueSegment ch c d .clean s

/-- Read the header of the next block; part 99 names its request at a peer. -/
def issueHeader (ch : Nat) (c : Chain) (d : List Byte) (e : Ecc) (s : State) : State :=
  let va := rdHdrSrc d c.nextRow
  let s := putChain ch c s
  match partAnswer ch c.next 99 s with
  | some (.bytes b, s) => headerRead ch c d b s
  | some (_, s) => reelUe ch va s
  | none =>
    match reelParts c.ctx .read [(va, 4)] s with
    | (.error (va, cause, lv), s) => reelFault ch va cause lv .read s
    | (.ok ps, s) =>
      match readParts ch c.next e (ps.map (fun p => (99, p))) s with
      | (false, _, s) => reelUe ch va s
      | (true, [some b], s) => headerRead ch c d b s
      | (true, _, s) => s

/-- SEGMENT_ISSUE: the channel's next segment, while fewer than 32 are in flight and the mask can hold it (R424, R425). -/
def execSegmentIssue (channel : Fin 16) (e : Ecc) (s : State) : Res :=
  let ch := channel.val
  done (onlyIf (running s) (fun s =>
    match reelGoes s ch with
    | none => s
    | some c =>
      match c.desc with
      | none => s
      | some d =>
        let c := c.skipped d 65
        if rdRows d ≤ c.nextRow || 32 ≤ c.flight.length || c.cursor + 32 < c.next then s
        else if c.hasHdr d then issueSegment ch c d e s
        else issueHeader ch c d e s) s)

/-! ### Completion (R425, R435) -/

/-- The segment leaves flight without a write. -/
def Chain.without (c : Chain) (n : Nat) : Chain := { c with flight := c.flight.filter (fun f => f.n ≠ n) }

/-- Parts that a peer had still to answer are filled in, or asked for again where no request went out. False where one failed. -/
def gatherParts (ch : Nat) (c : Chain) (d : List Byte) (f : SegFly) (s : State) : Bool × List (Option (List Byte)) × State :=
  let (src, _, n) := c.span d f.row f.seg
  (f.parts.zip (lineParts src n)).zipIdx.foldl (fun (t : Bool × List (Option (List Byte)) × State) p =>
    match p.1.1 with
    | some b => (t.1, t.2.1 ++ [some b], t.2.2)
    | none =>
      match partAnswer ch f.n p.2 t.2.2 with
      | some (.bytes b, s) => (t.1, t.2.1 ++ [some (b.take p.1.2.2)], s)
      | some (_, s) => (false, t.2.1 ++ [none], s)
      | none =>
        match reelParts c.ctx .read [p.1.2] t.2.2 with
        | (.ok (q :: _), s) => (t.1, t.2.1 ++ [none], (readPart ch f.n p.2 q .clean s).2)
        | (_, s) => (t.1, t.2.1 ++ [none], s)) (true, [], s)

/-- The write of a segment is complete: the cursor and the mask advance, and the descriptor is done past its last one (R425). -/
def segmentDone (ch : Nat) (c : Chain) (d : List Byte) (f : SegFly) (bytes : Nat) (s : State) : State :=
  let s := bumpReel ch 0 bytes s
  let c := (c.without f.n).complete d f.n
  if rdRows d ≤ c.curRow then descDone ch c s else settleChain ch (putChain ch c s)

/-- A segment's data is uncorrectable: it is not written, and the descriptor ends after what is in flight (R435). -/
def segmentBad (ch : Nat) (c : Chain) (f : SegFly) (va : Nat) (s : State) : State := reelUe ch va (putChain ch (c.without f.n) s)

/-- Write a segment whose source bytes are all there; through a peer window the write is sent, and completes with its answer. -/
def writeSegment (ch : Nat) (c : Chain) (d : List Byte) (f : SegFly) (bs : List Byte) (s : State) : State :=
  let (_, dst, n) := c.span d f.row f.seg
  match partAnswer ch f.n 100 s with
  | some (.bad, s) => segmentBad ch c f dst s
  | some (_, s) => segmentDone ch c d f n s
  | none =>
    if outstanding s (segOwner ch f.n 100) then s
    else
      match reelParts c.ctx .write (lineParts dst n) s with
      | (.error (va, cause, lv), s) => reelFault ch va cause lv .write (putChain ch (c.without f.n) s)
      | (.ok (p :: _), s) =>
        (match target s p.pa with
        | .ctl off => segmentDone ch c d f n (ctlWriteBytes 0 off bs s)
        | .peer port off =>
          let (sent, s) := issueRequest port 2 n off 0 0 bs (segOwner ch f.n 100) s
          putChain ch { c with flight := c.flight.map (fun x => if x.n = f.n then { x with sent := sent } else x) } s
        | _ => segmentDone ch c d f n (memWrite p.uncached p.pa bs s))
      | (.ok [], s) => s

/-- The segment may be written now: the header of a block is written after the rest of its block (R427). -/
def mayWrite (c : Chain) (d : List Byte) (f : SegFly) : Bool :=
  !rdUmz d || f.seg + 1 ≠ c.segs d f.row || !c.flight.any (fun x => x.row = f.row && x.n < f.n)

/-- SEGMENT_COMPLETE: the write of the k-th segment in flight; writes may complete in any order (R424, R425). -/
def execSegmentComplete (channel : Fin 16) (k : Fin 32) (s : State) : Res :=
  let ch := channel.val
  done (onlyIf (running s) (fun s =>
    match chainOf s ch with
    | none => s
    | some c =>
      match c.desc, c.flight[k.val]? with
      | some d, some f =>
        if !mayWrite c d f then s
        else
          match gatherParts ch c d f s with
          | (false, _, s) => segmentBad ch c f (c.span d f.row f.seg).1 s
          | (true, parts, s) =>
            let f' := { f with parts := parts }
            let c := { c with flight := c.flight.map (fun x => if x.n = f.n then f' else x) }
            let s := putChain ch c s
            if parts.all (fun p => p.isSome) then writeSegment ch c d f' (parts.flatMap (fun p => p.getD [])) s else s
      | _, _ => s) s)

end Sys2Proof.Machine
end

