-- ==== Sys2Proof/Machine/Dispatch.lean ====
section
/-! DEFINITION. exec: one arm per command, each one direct call of the meaning of its row. -/

namespace Sys2Proof.Machine

open Sys2Proof

/-- The effect of a command on everything but the queue. -/
def exec (i : Instr) (s : State) : Host.Outcome State Fault Refusal :=
  match i with
  | .freezePinRise held => Sys2Proof.Machine.execFreezePinRise held s
  | .railGoodFall r => Sys2Proof.Machine.execRailGoodFall r s
  | .prsntChange port present => Sys2Proof.Machine.execPrsntChange port present s
  | .rmreqAccepted asserted => Sys2Proof.Machine.execRmreqAccepted asserted s
  | .refclkLoss what => Sys2Proof.Machine.execRefclkLoss what s
  | .pclkLockLost pipe => Sys2Proof.Machine.execPclkLockLost pipe s
  | .headerReadDone header => Sys2Proof.Machine.execHeaderReadDone header s
  | .trimPhaseDone slot0 slot1 => Sys2Proof.Machine.execTrimPhaseDone slot0 slot1 s
  | .dramPhaseDone r => Sys2Proof.Machine.execDramPhaseDone r s
  | .qspiRelease on => Sys2Proof.Machine.execQspiRelease on s
  | .hostWrite slot v => Sys2Proof.Machine.execHostWrite slot v s
  | .hostStrobeAbort write slot v => Sys2Proof.Machine.execHostStrobeAbort write slot v s
  | .registerWrite reg v => Sys2Proof.Machine.execRegisterWrite reg v s
  | .syncModeSwitch sync => Sys2Proof.Machine.execSyncModeSwitch sync s
  | .counterLoRead off => Sys2Proof.Machine.execCounterLoRead off s
  | .winDataRead win e => Sys2Proof.Machine.execWinDataRead win e s
  | .winDataWrite win v => Sys2Proof.Machine.execWinDataWrite win v s
  | .win0DataIncWrite v => Sys2Proof.Machine.execWin0DataIncWrite v s
  | .win0DataIncRead e => Sys2Proof.Machine.execWin0DataIncRead e s
  | .winAddrWrite win high v => Sys2Proof.Machine.execWinAddrWrite win high v s
  | .winTimeout win write => Sys2Proof.Machine.execWinTimeout win write s
  | .logDataRead damage => Sys2Proof.Machine.execLogDataRead damage s
  | .intStatusClear v => Sys2Proof.Machine.execIntStatusClear v s
  | .intForce v => Sys2Proof.Machine.execIntForce v s
  | .hostDoorbell c index => Sys2Proof.Machine.execHostDoorbell c index s
  | .peerDoorbell port c index => Sys2Proof.Machine.execPeerDoorbell port c index s
  | .ctxEnableSet c => Sys2Proof.Machine.execCtxEnableSet c s
  | .ctxEnableClear c => Sys2Proof.Machine.execCtxEnableClear c s
  | .contextStopDone c => Sys2Proof.Machine.execContextStopDone c s
  | .preemptRequest c => Sys2Proof.Machine.execPreemptRequest c s
  | .faultHeadWrite head => Sys2Proof.Machine.execFaultHeadWrite head s
  | .faultRetry record => Sys2Proof.Machine.execFaultRetry record s
  | .faultAbortWork record => Sys2Proof.Machine.execFaultAbortWork record s
  | .faultAbortContext record => Sys2Proof.Machine.execFaultAbortContext record s
  | .doffStart chain => Sys2Proof.Machine.execDoffStart chain s
  | .storeFlashOpDone r => Sys2Proof.Machine.execStoreFlashOpDone r s
  | .watchdogConfig period action lock => Sys2Proof.Machine.execWatchdogConfig period action lock s
  | .resetPipe pipe => Sys2Proof.Machine.execResetPipe pipe s
  | .resetPeer port => Sys2Proof.Machine.execResetPeer port s
  | .rmAck on => Sys2Proof.Machine.execRmAck on s
  | .walkDone u c va a => Sys2Proof.Machine.execWalkDone u c va a s
  | .invalRange c va count => Sys2Proof.Machine.execInvalRange c va count s
  | .invalContext c => Sys2Proof.Machine.execInvalContext c s
  | .packetFetch c => Sys2Proof.Machine.execPacketFetch c s
  | .pktNop c => Sys2Proof.Machine.execPktNop c s
  | .pktDispatch c => Sys2Proof.Machine.execPktDispatch c s
  | .pktTraceBatch c => Sys2Proof.Machine.execPktTraceBatch c s
  | .pktRenderPass c => Sys2Proof.Machine.execPktRenderPass c s
  | .pktWeftProgram c => Sys2Proof.Machine.execPktWeftProgram c s
  | .pktDma c => Sys2Proof.Machine.execPktDma c s
  | .pktFence c => Sys2Proof.Machine.execPktFence c s
  | .pktWait c => Sys2Proof.Machine.execPktWait c s
  | .waitConditionMet c => Sys2Proof.Machine.execWaitConditionMet c s
  | .waitTimeout c => Sys2Proof.Machine.execWaitTimeout c s
  | .pktTimestamp c => Sys2Proof.Machine.execPktTimestamp c s
  | .pktInterrupt c => Sys2Proof.Machine.execPktInterrupt c s
  | .packetComplete c index => Sys2Proof.Machine.execPacketComplete c index s
  | .resourceGrant r => Sys2Proof.Machine.execResourceGrant r s
  | .graceExpiry c r => Sys2Proof.Machine.execGraceExpiry c r s
  | .preemptionSaved c => Sys2Proof.Machine.execPreemptionSaved c s
  | .restoreStart c => Sys2Proof.Machine.execRestoreStart c s
  | .restoreDone c e => Sys2Proof.Machine.execRestoreDone c e s
  | .queueSkip c => Sys2Proof.Machine.execQueueSkip c s
  | .queueResume c => Sys2Proof.Machine.execQueueResume c s
  | .groupPlace c index => Sys2Proof.Machine.execGroupPlace c index s
  | .plyEnd p => Sys2Proof.Machine.execPlyEnd p s
  | .threadAgeOverride p => Sys2Proof.Machine.execThreadAgeOverride p s
  | .plyAgeOverride p => Sys2Proof.Machine.execPlyAgeOverride p s
  | .activeSetMove p => Sys2Proof.Machine.execActiveSetMove p s
  | .demandFetch p e => Sys2Proof.Machine.execDemandFetch p e s
  | .speculativeFetch p va e => Sys2Proof.Machine.execSpeculativeFetch p va e s
  | .memoryResponse p e => Sys2Proof.Machine.execMemoryResponse p e s
  | .icInval sp => Sys2Proof.Machine.execIcInval sp s
  | .cntClr u => Sys2Proof.Machine.execCntClr u s
  | .add p w => Sys2Proof.Machine.execAdd p w s
  | .sub p w => Sys2Proof.Machine.execSub p w s
  | .mul p w => Sys2Proof.Machine.execMul p w s
  | .mulhi p w => Sys2Proof.Machine.execMulhi p w s
  | .mad p w => Sys2Proof.Machine.execMad p w s
  | .min p w => Sys2Proof.Machine.execMin p w s
  | .max p w => Sys2Proof.Machine.execMax p w s
  | .and p w => Sys2Proof.Machine.execAnd p w s
  | .or p w => Sys2Proof.Machine.execOr p w s
  | .xor p w => Sys2Proof.Machine.execXor p w s
  | .shl p w => Sys2Proof.Machine.execShl p w s
  | .shr p w => Sys2Proof.Machine.execShr p w s
  | .bfe p w => Sys2Proof.Machine.execBfe p w s
  | .popc p w => Sys2Proof.Machine.execPopc p w s
  | .clz p w => Sys2Proof.Machine.execClz p w s
  | .brev p w => Sys2Proof.Machine.execBrev p w s
  | .sel p w => Sys2Proof.Machine.execSel p w s
  | .mov p w => Sys2Proof.Machine.execMov p w s
  | .fadd p w => Sys2Proof.Machine.execFadd p w s
  | .fmul p w => Sys2Proof.Machine.execFmul p w s
  | .ffma p w => Sys2Proof.Machine.execFfma p w s
  | .fmin p w => Sys2Proof.Machine.execFmin p w s
  | .fmax p w => Sys2Proof.Machine.execFmax p w s
  | .fdiv p w => Sys2Proof.Machine.execFdiv p w s
  | .fsqrt p w => Sys2Proof.Machine.execFsqrt p w s
  | .rcp p w => Sys2Proof.Machine.execRcp p w s
  | .rsq p w => Sys2Proof.Machine.execRsq p w s
  | .exp2 p w => Sys2Proof.Machine.execExp2 p w s
  | .log2 p w => Sys2Proof.Machine.execLog2 p w s
  | .sin p w => Sys2Proof.Machine.execSin p w s
  | .cos p w => Sys2Proof.Machine.execCos p w s
  | .cvt p w => Sys2Proof.Machine.execCvt p w s
  | .cvtf8Pack p w => Sys2Proof.Machine.execCvtf8Pack p w s
  | .cvtf8Unpack p w => Sys2Proof.Machine.execCvtf8Unpack p w s
  | .cvtbfPack p w => Sys2Proof.Machine.execCvtbfPack p w s
  | .cvtbfUnpack p w => Sys2Proof.Machine.execCvtbfUnpack p w s
  | .isetp p w => Sys2Proof.Machine.execIsetp p w s
  | .fsetp p w => Sys2Proof.Machine.execFsetp p w s
  | .plop p w => Sys2Proof.Machine.execPlop p w s
  | .voteAll p w => Sys2Proof.Machine.execVoteAll p w s
  | .voteAny p w => Sys2Proof.Machine.execVoteAny p w s
  | .voteBallot p w => Sys2Proof.Machine.execVoteBallot p w s
  | .shfl p w => Sys2Proof.Machine.execShfl p w s
  | .movsr p w => Sys2Proof.Machine.execMovsr p w s
  | .bra p w => Sys2Proof.Machine.execBra p w s
  | .jmp p w => Sys2Proof.Machine.execJmp p w s
  | .call p w => Sys2Proof.Machine.execCall p w s
  | .callr p w => Sys2Proof.Machine.execCallr p w s
  | .exit p w => Sys2Proof.Machine.execExit p w s
  | .nop p w => Sys2Proof.Machine.execNop p w s
  | .ld p w => Sys2Proof.Machine.execLd p w s
  | .st p w => Sys2Proof.Machine.execSt p w s
  | .atomAdd p w => Sys2Proof.Machine.execAtomAdd p w s
  | .atomMin p w => Sys2Proof.Machine.execAtomMin p w s
  | .atomMax p w => Sys2Proof.Machine.execAtomMax p w s
  | .atomAnd p w => Sys2Proof.Machine.execAtomAnd p w s
  | .atomOr p w => Sys2Proof.Machine.execAtomOr p w s
  | .atomXor p w => Sys2Proof.Machine.execAtomXor p w s
  | .exch p w => Sys2Proof.Machine.execExch p w s
  | .cas p w => Sys2Proof.Machine.execCas p w s
  | .bar p w => Sys2Proof.Machine.execBar p w s
  | .barRelease p => Sys2Proof.Machine.execBarRelease p s
  | .fence p w => Sys2Proof.Machine.execFence p w s
  | .twait p w => Sys2Proof.Machine.execTwait p w s
  | .twaitRelease p => Sys2Proof.Machine.execTwaitRelease p s
  | .trace p w => Sys2Proof.Machine.execTrace p w s
  | .weft p w => Sys2Proof.Machine.execWeft p w s
  | .bkpt p w => Sys2Proof.Machine.execBkpt p w s
  | .trap p w => Sys2Proof.Machine.execTrap p w s
  | .logev p w => Sys2Proof.Machine.execLogev p w s
  | .mergeLineDrain sp line => Sys2Proof.Machine.execMergeLineDrain sp line s
  | .patrolScrub port e => Sys2Proof.Machine.execPatrolScrub port e s
  | .dramTrainDone r => Sys2Proof.Machine.execDramTrainDone r s
  | .weftOpStart sp => Sys2Proof.Machine.execWeftOpStart sp s
  | .weftRowEnd sp parity => Sys2Proof.Machine.execWeftRowEnd sp parity s
  | .weftOpEnd sp => Sys2Proof.Machine.execWeftOpEnd sp s
  | .rayAdmit trace => Sys2Proof.Machine.execRayAdmit trace s
  | .rayMove ray => Sys2Proof.Machine.execRayMove ray s
  | .stayAndFetch ray => Sys2Proof.Machine.execStayAndFetch ray s
  | .hankAgeClose hank => Sys2Proof.Machine.execHankAgeClose hank s
  | .hankIdleClose hank => Sys2Proof.Machine.execHankIdleClose hank s
  | .whorlTakeHank sp => Sys2Proof.Machine.execWhorlTakeHank sp s
  | .blockFetchReturn ray e => Sys2Proof.Machine.execBlockFetchReturn ray e s
  | .rayDeliver ray => Sys2Proof.Machine.execRayDeliver ray s
  | .spoolFlushAge sp n => Sys2Proof.Machine.execSpoolFlushAge sp n s
  | .spoolPlyForm sp => Sys2Proof.Machine.execSpoolPlyForm sp s
  | .primitiveBin pages => Sys2Proof.Machine.execPrimitiveBin pages s
  | .tileStoreDone sp buffer => Sys2Proof.Machine.execTileStoreDone sp buffer s
  | .vblankStart pipe te => Sys2Proof.Machine.execVblankStart pipe te s
  | .flipCommit pipe seq => Sys2Proof.Machine.execFlipCommit pipe seq s
  | .apply pipe => Sys2Proof.Machine.execApply pipe s
  | .pipeEnable pipe => Sys2Proof.Machine.execPipeEnable pipe s
  | .pipeDisable pipe => Sys2Proof.Machine.execPipeDisable pipe s
  | .relockDone pipe => Sys2Proof.Machine.execRelockDone pipe s
  | .prefetchArrive pipe plane line e => Sys2Proof.Machine.execPrefetchArrive pipe plane line e s
  | .underrun pipe line => Sys2Proof.Machine.execUnderrun pipe line s
  | .portEnable port => Sys2Proof.Machine.execPortEnable port s
  | .portTrainDone port ok detail => Sys2Proof.Machine.execPortTrainDone port ok detail s
  | .portDisable port => Sys2Proof.Machine.execPortDisable port s
  | .auxGo port v => Sys2Proof.Machine.execAuxGo port v s
  | .auxReply port result data => Sys2Proof.Machine.execAuxReply port result data s
  | .dsiCmd port v => Sys2Proof.Machine.execDsiCmd port v s
  | .hpdChange port level irq => Sys2Proof.Machine.execHpdChange port level irq s
  | .touchScanEnd counts => Sys2Proof.Machine.execTouchScanEnd counts s
  | .stuckRecal sensor => Sys2Proof.Machine.execStuckRecal sensor s
  | .cameraEnable cam => Sys2Proof.Machine.execCameraEnable cam s
  | .frameStart cam vc number => Sys2Proof.Machine.execFrameStart cam vc number s
  | .linePacket cam vc dt payload crcOk full lost => Sys2Proof.Machine.execLinePacket cam vc dt payload crcOk full lost s
  | .frameEnd cam vc => Sys2Proof.Machine.execFrameEnd cam vc s
  | .frameTimeout cam => Sys2Proof.Machine.execFrameTimeout cam s
  | .camRelease cam index => Sys2Proof.Machine.execCamRelease cam index s
  | .fsyncPulse cam => Sys2Proof.Machine.execFsyncPulse cam s
  | .strobeRequest ill rested => Sys2Proof.Machine.execStrobeRequest ill rested s
  | .strobeEnd ill => Sys2Proof.Machine.execStrobeEnd ill s
  | .illFault ill low => Sys2Proof.Machine.execIllFault ill low s
  | .audioFrame adc tdm full => Sys2Proof.Machine.execAudioFrame adc tdm full s
  | .playLimitSet hi => Sys2Proof.Machine.execPlayLimitSet hi s
  | .flitReceive port flit => Sys2Proof.Machine.execFlitReceive port flit s
  | .nakReceived port => Sys2Proof.Machine.execNakReceived port s
  | .replayTimeout port => Sys2Proof.Machine.execReplayTimeout port s
  | .linkSilence port => Sys2Proof.Machine.execLinkSilence port s
  | .peerRead port e => Sys2Proof.Machine.execPeerRead port e s
  | .peerWrite port => Sys2Proof.Machine.execPeerWrite port s
  | .peerAtomic port e => Sys2Proof.Machine.execPeerAtomic port e s
  | .peerIssueDeadline port => Sys2Proof.Machine.execPeerIssueDeadline port s
  | .completion port => Sys2Proof.Machine.execCompletion port s
  | .peerRequestReissue port tag => Sys2Proof.Machine.execPeerRequestReissue port tag s
  | .peerRequestTimeout port tag => Sys2Proof.Machine.execPeerRequestTimeout port tag s
  | .msg port => Sys2Proof.Machine.execMsg port s
  | .creditAdvert port => Sys2Proof.Machine.execCreditAdvert port s
  | .ping port => Sys2Proof.Machine.execPing port s
  | .pong port => Sys2Proof.Machine.execPong port s
  | .quiesce port => Sys2Proof.Machine.execQuiesce port s
  | .resume port => Sys2Proof.Machine.execResume port s
  | .detach port => Sys2Proof.Machine.execDetach port s
  | .linkEnable port => Sys2Proof.Machine.execLinkEnable port s
  | .linkDisable port => Sys2Proof.Machine.execLinkDisable port s
  | .trainStepDone port r learned => Sys2Proof.Machine.execTrainStepDone port r learned s
  | .noLead port => Sys2Proof.Machine.execNoLead port s
  | .autoRetrainStart port => Sys2Proof.Machine.execAutoRetrainStart port s
  | .msgSend port => Sys2Proof.Machine.execMsgSend port s
  | .pingSend port => Sys2Proof.Machine.execPingSend port s
  | .linkErrWindow port => Sys2Proof.Machine.execLinkErrWindow port s
  | .reelDescriptorRead channel e => Sys2Proof.Machine.execReelDescriptorRead channel e s
  | .segmentIssue channel e => Sys2Proof.Machine.execSegmentIssue channel e s
  | .segmentComplete channel k => Sys2Proof.Machine.execSegmentComplete channel k s
  | .reel15Go count => Sys2Proof.Machine.execReel15Go count s
  | .auditCheck hw => Sys2Proof.Machine.execAuditCheck hw s
  | .samplePreload pins load => Sys2Proof.Machine.execSamplePreload pins load s
  | .extest pins load => Sys2Proof.Machine.execExtest pins load s
  | .freezeReq v => Sys2Proof.Machine.execFreezeReq v s
  | .doffSelect v => Sys2Proof.Machine.execDoffSelect v s
  | .doffRead shifts => Sys2Proof.Machine.execDoffRead shifts s
  | .ctrlAccess v => Sys2Proof.Machine.execCtrlAccess v s
  | .haltComplete p => Sys2Proof.Machine.execHaltComplete p s
  | .breakpointHit p => Sys2Proof.Machine.execBreakpointHit p s
  | .dbgDataWrite high v => Sys2Proof.Machine.execDbgDataWrite high v s
  | .powerCapWindow est uj => Sys2Proof.Machine.execPowerCapWindow est uj s
  | .thermalSample raw => Sys2Proof.Machine.execThermalSample raw s
  | .bootTableReadDone table => Sys2Proof.Machine.execBootTableReadDone table s
  | .reapplyDone slot0 slot1 => Sys2Proof.Machine.execReapplyDone slot0 slot1 s
  | .tagHoldExpiry port tag => Sys2Proof.Machine.execTagHoldExpiry port tag s
  | .tileLoadDone sp buffer => Sys2Proof.Machine.execTileLoadDone sp buffer s
  | .porstAssert => Sys2Proof.Machine.execPorstAssert s
  | .porstRelease => Sys2Proof.Machine.execPorstRelease s
  | .wrstAssert => Sys2Proof.Machine.execWrstAssert s
  | .railGoodMatch => Sys2Proof.Machine.execRailGoodMatch s
  | .clockLossWarmReset => Sys2Proof.Machine.execClockLossWarmReset s
  | .audclkLoss => Sys2Proof.Machine.execAudclkLoss s
  | .audclkResume => Sys2Proof.Machine.execAudclkResume s
  | .pllLocked => Sys2Proof.Machine.execPllLocked s
  | .sramInitDone => Sys2Proof.Machine.execSramInitDone s
  | .releasePhaseDone => Sys2Proof.Machine.execReleasePhaseDone s
  | .bootWrite => Sys2Proof.Machine.execBootWrite s
  | .bootRmw => Sys2Proof.Machine.execBootRmw s
  | .bootPoll => Sys2Proof.Machine.execBootPoll s
  | .bootPollTimeout => Sys2Proof.Machine.execBootPollTimeout s
  | .bootDelay => Sys2Proof.Machine.execBootDelay s
  | .bootEnd => Sys2Proof.Machine.execBootEnd s
  | .bootTableTimeout => Sys2Proof.Machine.execBootTableTimeout s
  | .bootResume => Sys2Proof.Machine.execBootResume s
  | .timebaseLoRead => Sys2Proof.Machine.execTimebaseLoRead s
  | .rewind => Sys2Proof.Machine.execRewind s
  | .clrLost => Sys2Proof.Machine.execClrLost s
  | .doffDataRead => Sys2Proof.Machine.execDoffDataRead s
  | .powerTargetIdle => Sys2Proof.Machine.execPowerTargetIdle s
  | .idleEntry => Sys2Proof.Machine.execIdleEntry s
  | .powerTargetRun => Sys2Proof.Machine.execPowerTargetRun s
  | .powerTargetDoze => Sys2Proof.Machine.execPowerTargetDoze s
  | .powerTargetOff => Sys2Proof.Machine.execPowerTargetOff s
  | .powerEntryProceed => Sys2Proof.Machine.execPowerEntryProceed s
  | .quiesceForce => Sys2Proof.Machine.execQuiesceForce s
  | .wakeTimerExpiry => Sys2Proof.Machine.execWakeTimerExpiry s
  | .timebaseCarry => Sys2Proof.Machine.execTimebaseCarry s
  | .freezeRequest => Sys2Proof.Machine.execFreezeRequest s
  | .thaw => Sys2Proof.Machine.execThaw s
  | .doffAbandon => Sys2Proof.Machine.execDoffAbandon s
  | .trimStore => Sys2Proof.Machine.execTrimStore s
  | .storeTimeout => Sys2Proof.Machine.execStoreTimeout s
  | .trimReapply => Sys2Proof.Machine.execTrimReapply s
  | .trimDefaults => Sys2Proof.Machine.execTrimDefaults s
  | .watchdogKick => Sys2Proof.Machine.execWatchdogKick s
  | .watchdogHalf => Sys2Proof.Machine.execWatchdogHalf s
  | .watchdogExpiry => Sys2Proof.Machine.execWatchdogExpiry s
  | .warm => Sys2Proof.Machine.execWarm s
  | .powerCycle => Sys2Proof.Machine.execPowerCycle s
  | .resetRay => Sys2Proof.Machine.execResetRay s
  | .resetRaster => Sys2Proof.Machine.execResetRaster s
  | .resetTouch => Sys2Proof.Machine.execResetTouch s
  | .resetCamera => Sys2Proof.Machine.execResetCamera s
  | .resetAudio => Sys2Proof.Machine.execResetAudio s
  | .resetReel => Sys2Proof.Machine.execResetReel s
  | .functionResetDone => Sys2Proof.Machine.execFunctionResetDone s
  | .quiesceSet => Sys2Proof.Machine.execQuiesceSet s
  | .quiesceComplete => Sys2Proof.Machine.execQuiesceComplete s
  | .quiesceClear => Sys2Proof.Machine.execQuiesceClear s
  | .faultRecordWrite => Sys2Proof.Machine.execFaultRecordWrite s
  | .invalAll => Sys2Proof.Machine.execInvalAll s
  | .invalidationDone => Sys2Proof.Machine.execInvalidationDone s
  | .icInvalAll => Sys2Proof.Machine.execIcInvalAll s
  | .roleApply => Sys2Proof.Machine.execRoleApply s
  | .roleApplyComplete => Sys2Proof.Machine.execRoleApplyComplete s
  | .train => Sys2Proof.Machine.execTrain s
  | .clrCnt => Sys2Proof.Machine.execClrCnt s
  | .nodeInval => Sys2Proof.Machine.execNodeInval s
  | .tileAssign => Sys2Proof.Machine.execTileAssign s
  | .immediatePrimitive => Sys2Proof.Machine.execImmediatePrimitive s
  | .touchEnable => Sys2Proof.Machine.execTouchEnable s
  | .touchDisable => Sys2Proof.Machine.execTouchDisable s
  | .touchRecal => Sys2Proof.Machine.execTouchRecal s
  | .touchScanStart => Sys2Proof.Machine.execTouchScanStart s
  | .touchScanOverrun => Sys2Proof.Machine.execTouchScanOverrun s
  | .touchRateStep => Sys2Proof.Machine.execTouchRateStep s
  | .audioEnable => Sys2Proof.Machine.execAudioEnable s
  | .snap => Sys2Proof.Machine.execSnap s
  | .logEntryWrite => Sys2Proof.Machine.execLogEntryWrite s
  | .ceWindow => Sys2Proof.Machine.execCeWindow s
  | .errClr => Sys2Proof.Machine.execErrClr s
  | .tapReset => Sys2Proof.Machine.execTapReset s
  | .bypass => Sys2Proof.Machine.execBypass s
  | .idcode => Sys2Proof.Machine.execIdcode s
  | .highz => Sys2Proof.Machine.execHighz s
  | .clamp => Sys2Proof.Machine.execClamp s
  | .halt => Sys2Proof.Machine.execHalt s
  | .dbgResume => Sys2Proof.Machine.execDbgResume s
  | .step => Sys2Proof.Machine.execStep s
  | .stopWorld => Sys2Proof.Machine.execStopWorld s
  | .runWorld => Sys2Proof.Machine.execRunWorld s
  | .clrAll => Sys2Proof.Machine.execClrAll s
  | .icInvalDone => Sys2Proof.Machine.execIcInvalDone s
  | .nodeInvalDone => Sys2Proof.Machine.execNodeInvalDone s
  | .snapDone => Sys2Proof.Machine.execSnapDone s

end Sys2Proof.Machine
end

