-- ==== Sys2Proof/Machine/Tick.lean ====
section
/-! DEFINITION. What time alone does: the step of the block while no command waits (DESIGN CHOICE, log entry 5). -/

namespace Sys2Proof.Machine

open Sys2Proof

/-- One MCLK cycle: TIMEBASE counts, each port sends a flit, and each millisecond of the timebase the watchdog counts down
(R78, R84, R393). -/
def mclkCycle (s : State) : State :=
  let s := { s with core := { s.core with timebase := s.core.timebase + 1#64 } }
  let s := transmitAll s
  if s.core.timebase.toNat % 500000 = 0 then watchdogTick s else s

/-- The oldest posted host write takes effect (R60); then one MCLK cycle passes where the interior runs, or, in DOZE, the carry accumulator
runs to its next carry (R486). Where no clock runs, nothing happens. -/
def tick (s : State) : State :=
  let s := onlyIf (hostServed s) drainPosted s
  if interior s then mclkCycle s else if inDoze s then aonCarry s else s

end Sys2Proof.Machine
end

