-- ==== Sys2Proof/Machine/Step.lean ====
section
/-! DEFINITION. The block takes its waiting commands one by one; with none waiting, time passes. -/

namespace Sys2Proof.Machine

open Sys2Proof

/-- With no command waiting the block does what time alone makes it do (DESIGN CHOICE, log entry 5): see Sys2Proof.Machine.tick. -/
def step (s : State) : Host.Outcome State Fault Refusal :=
  match s.pending with
  | [] => done (tick s)
  | c :: rest => exec c { s with pending := rest }

/-- The state with the command that a word spells at the front of its queue; no word spells one. -/
def State.withFetchWord (s : State) (nbits w : Nat) : State :=
  match decodeTableWord nbits w with
  | some c => { s with pending := c :: s.pending }
  | none => s

end Sys2Proof.Machine
end

