-- ==== Sys2Proof/Safety.lean ====
section
/-! DEFINITION. The terms that claims are stated in: what holds of every state a run passes through, when an instruction word issues, and
what an instruction that retires leaves of its ply and of the block. -/

namespace Sys2Proof.Safety

open Sys2Proof Sys2Proof.Machine

/-! ### Runs -/

/-- The event of a command does not stop the block: it answers a next state. -/
def Continues (c : Instr) (s : State) : Prop := ∃ t, exec c s = .next t

/-- R70: a condition source's INT_STATUS bit is set while its condition holds: fault records are undelivered (FAULT), undelivered log entries
have reached a THRESH other than 0 (LOG), an enabled PIPE_INT_STATUS bit is set (DISPLAY), a touch report waits (TOUCH), a context is in
QUEUE_ERROR (QUEUE_ERROR). -/
def ConditionsShown (s : State) : Prop :=
  (s.fld fHead ≠ s.fld fTail → bitN (s.reg 0x18).toNat 1 = true)
  ∧ (s.fld fThresh ≠ 0 ∧ s.fld fThresh ≤ (s.fld fWriteSeq + 65536 - s.fld fReadSeq) % 65536 → bitN (s.reg 0x18).toNat 2 = true)
  ∧ (∀ n < 4, (s.reg (C (0x50000 + 0x4000 * n + 0x12C)) &&& s.reg (C (0x50000 + 0x4000 * n + 0x130))) ≠ 0#32 →
      bitN (s.reg 0x18).toNat 10 = true)
  ∧ (s.fld ⟨0xA8, 31, 24⟩ ≠ 0 → bitN (s.reg 0x18).toNat 11 = true)
  ∧ (s.reg (C 0x20408) ≠ 0#32 → bitN (s.reg 0x18).toNat 21 = true)

/-- Memory is in its one canonical form. -/
def MemoryCanonical (s : State) : Prop := memWf s.mem = true

/-- The merge buffers are sound (R212): one line per address, each holding bytes of its own line once, and none where no lea is CACHE. -/
def MergeSound (s : State) : Prop :=
  (s.mem.merge.map (fun l => l.line)).Nodup
  ∧ (∀ l ∈ s.mem.merge, Sparse.sortedFrom 0 l.bytes = true ∧ ∀ e ∈ l.bytes, e.1 / 64 = l.line)
  ∧ (cacheLeas s = [] → s.mem.merge = [])

/-- What every state of a run meets. -/
def Safe (s : State) : Prop := MemoryCanonical s ∧ ConditionsShown s

/-! ### Frames -/

/-- No register but those of a list differs; where INT_STATUS is not listed, it has gained at most the bits of conditions that hold (R70). -/
def RegsKept (s t : State) (rs : List Nat) : Prop :=
  (∀ r, r ∉ rs → r ≠ 0x18 → t.reg r = s.reg r) ∧ (0x18 ∉ rs → t.reg 0x18 = s.reg 0x18 ||| conditions t)

/-- Everything but the registers is the same, and of the registers all but those of a list. -/
def OnlyRegs (s t : State) (rs : List Nat) : Prop := RegsKept s t rs ∧ { t with regs := s.regs } = s

/-- The command completes, in a state of which q holds. -/
def Ends (c : Instr) (s : State) (q : State → Prop) : Prop := ∃ t, exec c s = .next t ∧ q t

/-- The command completes and changes nothing (but that bits of conditions that hold show in INT_STATUS). -/
def Idle (c : Instr) (s : State) : Prop := Ends c s fun t => OnlyRegs s t []

/-- An event of another CLASS than 1 is queued by its unit, with the timebase of s (R448; Table 21-2), provided its queue has room. -/
def Logs (s u : State) (cls code ctx src arg : Nat) : Prop :=
  (s.log.queued.filter (fun q => q.1 = code / 32)).length < 8 →
    u.log = { s.log with queued := s.log.queued ++ [(code / 32,
      { cls := cls, ctx := ctx % 16, code := code, src := src % 65536, time := s.core.timebase.toNat % 2 ^ 48, arg := arg % 2 ^ 48 })] }

/-- The queue of the unit that owns a code has room for one more event (R448). -/
def Room (s : State) (code : Nat) : Prop := (s.log.queued.filter (fun q => q.1 = code / 32)).length < 8

/-- INT_STATUS has gained the bits of a list, and beside them only bits of conditions that hold (R70). -/
def Rings (s t : State) (bits : List Nat) : Prop :=
  t.reg 0x18 = bits.foldl (fun w b => w ||| 1#32 <<< b) (s.reg 0x18) ||| conditions t

/-- The interrupt bit is set in INT_STATUS. -/
def IntSet (s : State) (bit : Nat) : Prop := bitN (s.reg 0x18).toNat bit = true

/-! ### Instructions -/

/-- The word w issues now for the ply y at place p, at PC pc: its flyer runs, it may issue and chooses pc, no breakpoint takes the issue, the
scoreboard holds none of the registers of the fields the word uses, it is not being stepped, and the next PC is in range (R163-R166,
R169, R180, R472-R476). -/
def Issues (s : State) (p : PlyId) (w : W64) (uses : List Nat) (y : Ply) (pc : Nat) : Prop :=
  running s = true ∧ plyAt s (plyKey p) = some y ∧ y.mayIssue s = true ∧ y.stalled = false ∧ y.stepping = false
    ∧ y.choose = some pc ∧ (y.passBp = some pc ∨ bpMatch s (plyKey p) pc y.owner.ctx = none)
    ∧ (∀ r ∈ y.mem.flatMap MemOp.regs, r ∉ fieldRegs w uses) ∧ pc + 8 < 2 ^ 48

/-- The sixteen words of the eight counters of the flyer of a place (Table 8-3). -/
def flyerCounters (k : Nat) : List Nat :=
  (List.range 16).map (fun n => C (0x100000 + k / 64 * 0x1000 + 0x100 + 0x40 * (k / 16 % 4) + 4 * n))

/-- An issue of the ply y at place p and PC pc has gone by: the instruction has made the ply y1, and the issue has left it as y'. The issuing threads are
at next of their lane, SKIP is 0 where a thread issued and one more (up to 64) where a ready one did not, the flyer's other plies have aged, and but for
that, the flyer's counters and the issue mark nothing has changed (R164, R167, R182, R488). -/
def Issued (s t : State) (p : PlyId) (y y1 y' : Ply) (pc : Nat) (next : Nat → Nat) : Prop :=
  plyAt t (plyKey p) = some y'
  ∧ (∀ l < 32, y'.pcOf l = if (y.issuers pc).getLsbD l then next l else y.pcOf l)
  ∧ (∀ l < 32, y'.skipOf l =
      if (y.issuers pc).getLsbD l then 0 else if y.readyMask.getLsbD l then satN 64 (y.skipOf l + 1) else y.skipOf l)
  ∧ y'.unchosen = 0 ∧ y'.passBp = none ∧ y'.passBkpt = none
  ∧ { y' with pcs := y1.pcs, skip := y1.skip, unchosen := y1.unchosen, passBp := y1.passBp, passBkpt := y1.passBkpt } = y1
  ∧ (∀ k, k ≠ plyKey p → plyAt t k = (plyAt s k).map (fun z =>
      if k / 16 = plyKey p / 16 then { z with unchosen := z.unchosen + 1 } else z))
  ∧ RegsKept s t (flyerCounters (plyKey p))
  ∧ { t with regs := s.regs, fly := { t.fly with plies := s.fly.plies }, pwr := { t.pwr with issued := s.pwr.issued } } = s

/-- An instruction of the register file has issued and retired: of its ply it has changed lane registers, scalars, predicates, flags and the timebase
latch at most. -/
def Retired (s t : State) (p : PlyId) (y y' : Ply) (pc : Nat) (next : Nat → Nat) : Prop :=
  Issued s t p y { y with v := y'.v, sc := y'.sc, pr := y'.pr, fpflags := y'.fpflags, tbLatch := y'.tbLatch } y' pc next

/-- The registers of y' are those of y with f's value of TYPE t written to specifier d in the lanes of g; a scalar takes the lowest lane's value,
ZERO none, a pair its low word in d and its high word in d + 1 (R183, R184). -/
def Writes (y y' : Ply) (t d : Nat) (g : BitVec 32) (f : Nat → Nat) : Prop :=
  (∀ r < 128, ∀ l < 32, y'.vget r l =
    if g.getLsbD l ∧ r = d then f l % 2 ^ 32
    else if g.getLsbD l ∧ is64 t ∧ spV d ∧ r = d + 1 then f l / 2 ^ 32 % 2 ^ 32 else y.vget r l)
  ∧ (∀ r < 32, y'.sget r = match (lanesOf g).head? with
    | none => y.sget r
    | some l =>
      if 0x80 + r = d then f l % 2 ^ 32
      else if is64 t ∧ spS d ∧ 0x80 + r = d + 1 then f l / 2 ^ 32 % 2 ^ 32 else y.sget r)

end Sys2Proof.Safety
end

