-- ==== Sys2Proof/Certificates/Slice0/Obligations.lean ====
section
/-! DEFINITION. The statements about this model, family by family. Helper terms are in Sys2Proof.Claims and Sys2Proof.Safety. Registers are named by
their number: a host register by its offset, a control-space register by C and its offset (Tables 3-3 and 6-3); 0x18 is INT_STATUS. -/

open Sys2Proof Sys2Proof.Machine Sys2Proof.Safety


/-! ### Memory as a reader sees it -/

/-- A physical address of memory: installed DRAM below the check store, or a reachable lea of the aperture (Table 6-2). -/
def Sys2Proof.Claims.isMem (s : State) (pa : Nat) : Prop := (∃ a, target s pa = .dram a) ∨ ∃ o, target s pa = .skein o

/-- The bytes of a list are in memory from an address on, and every other byte of memory reads as before. -/
def Sys2Proof.Claims.Wrote (s u : State) (a : Nat) (bs : List Byte) : Prop :=
  (∀ i < bs.length, memRead u (a + i) 1 = [bs.getD i 0#8])
    ∧ ∀ x, Claims.isMem s x → x < a ∨ a + bs.length ≤ x → memRead u x 1 = memRead s x 1

/-- No byte of memory reads otherwise than before. -/
def Sys2Proof.Claims.MemKept (s u : State) : Prop := ∀ x, Claims.isMem s x → memRead u x 1 = memRead s x 1

/-- Why an access at a physical address fails, as WIN_ADDR_HI.ERR codes it (R79): DRAM that is not ready, DRAM that is not installed, a word of control
space that is not listed or whose block cannot answer, anything else but memory. -/
def Sys2Proof.Claims.FailsWith (s : State) (a code : Nat) : Prop :=
  (a < 0x800000000 ∧ s.flag fDramReady = false ∧ code = 3)
    ∨ (a < 0x800000000 ∧ s.flag fDramReady = true ∧ target s a = .unmapped ∧ code = 1)
    ∨ (0x800000000 ≤ a ∧ (target s a = .unmapped ∨ ∃ port off, target s a = .peer port off) ∧ code = 1)
    ∨ (0x800000000 ≤ a ∧ ∃ off, target s a = .ctl off ∧ ctlErr s off = code ∧ code ≠ 0)

/-! ### Start-up -/

/-- R105, Table 4-7: a phase has failed: BOOT_STATUS tells where and why, PHASE is 0xF, the event is queued and ERR_UNCORR set. -/
def Sys2Proof.Claims.PhaseFailed (s u : State) (phase reason entry channel : Nat) : Prop :=
  u.fld ⟨C 0x100, 31, 28⟩ = phase ∧ u.fld ⟨C 0x100, 27, 24⟩ = reason ∧ u.fld ⟨C 0x100, 23, 12⟩ = entry % 4096
    ∧ u.fld ⟨C 0x100, 11, 8⟩ = channel ∧ u.fld fPhase = 15 ∧ IntSet u 5 ∧ Logs s u 7 0x021 0 0 (u.reg (C 0x100)).toNat

/-- READY is reached: PHASE 7, READY and the start interrupt. -/
def Sys2Proof.Claims.IsReady (u : State) : Prop := u.fld fPhase = 7 ∧ u.flag fReady = true ∧ IntSet u 19

/-- Nothing was held for READY: no doorbell, no TARGET, no wake (Table 4-10). -/
def Sys2Proof.Claims.NothingHeld (s : State) : Prop := s.boot.doorbells = [] ∧ s.boot.target = none ∧ s.boot.wake = false

open Sys2Proof.Claims in
/-- R43, R89, R93, R96, R98, R105, R106, Tables 4-1, 4-3, 4-7 and 4-12: each event of start-up ends its own phase. PLL_LOCKED starts MCLK and releases a held
host access; SRAM_INIT_DONE begins HEADER (and logs RESET after a warm reset); a valid header sets TOTAL_GIB and leads to TRIM, or to DRAM when warm; an
erased, foreign, damaged or unlisted one fails phase 2 with its reason and leaves the fused trims; DRAM_PHASE_DONE with the installed size sets
DRAM_READY; RELEASE_PHASE_DONE releases the functions, and leads to the boot table or to READY; BOOT_RESUME goes on from a failed phase; QSPI_RELEASE
changes only at READY or after a failure with no calibration command under way. -/
def Obligations.Start_up_phases_advance : Prop :=
  ∀ s : State,
    (s.fld fPhase = 0 → s.core.porstLow = false → s.core.railWait = false → s.core.clockLost = none → s.core.critical = false →
        s.core.pwrreq = some 3#2 → (s.flag fAonOnly = false ∨ s.boot.wake = true) →
      Ends .pllLocked s fun u => u.fld fPhase = 1 ∧ u.core.mclk = true ∧ u.host.wait = false
        ∧ u.core.timebase = (if s.boot.wake then s.core.carryC + BitVec.ofNat 64 s.core.carryA else s.core.timebase) ∧ u.mem = s.mem)
    ∧ (s.core.mclk = false → s.fld fPhase ≠ 0 → Idle .pllLocked s)
    ∧ (interior s = true → s.fld fPhase = 1 → s.boot.warm = false →
      Ends .sramInitDone s fun u => u.fld fPhase = 2 ∧ OnlyRegs s u [0x08])
    ∧ (interior s = true → s.fld fPhase = 1 → s.boot.warm = true → s.boot.wake = false → s.log.count < 4096 →
        (s.fld fWriteSeq + 65536 - s.fld fReadSeq) % 65536 < 4096 →
      Ends .sramInitDone s fun u => u.fld fPhase = 2 ∧ u.fld fWriteSeq = (s.fld fWriteSeq + 1) % 65536
        ∧ Sparse.find u.log.ring (s.fld fWriteSeq % 4096) = some
            { cls := 7, ctx := 0, code := 0x001, src := 0, time := s.core.timebase.toNat % 2 ^ 48, arg := (s.reg 0x14).toNat }
        ∧ u.log.count = s.log.count + 1 ∧ RegsKept s u [0x08, 0x68] ∧ u.mem = s.mem)
    ∧ (∀ b : List Byte, b.length = 32 → interior s = true → s.fld fPhase = 2 →
        (∃ x ∈ b, x ≠ 0xFF#8) → fieldAt b 0 4 = 0x464A3130 → fieldAt b 4 2 = 1 → fieldAt b 28 4 = crc32c (b.take 28) →
        headerListed (headerOf b) = true →
      Ends (.headerReadDone b) s fun u => u.fld fPhase = (if s.boot.warm then 4 else 3) ∧ u.boot.hdr = some (headerOf b)
        ∧ u.fld ⟨C 0xE0000, 23, 16⟩ = fieldAt b 13 1 ∧ RegsKept s u [0x08, C 0xE0000] ∧ u.log = s.log)
    ∧ (∀ b : List Byte, b.length = 32 → interior s = true → s.fld fPhase = 2 →
        ∀ reason, ((∀ x ∈ b, x = 0xFF#8) ∧ reason = 4)
          ∨ ((∃ x ∈ b, x ≠ 0xFF#8) ∧ (fieldAt b 0 4 ≠ 0x464A3130 ∨ fieldAt b 4 2 ≠ 1) ∧ reason = 1)
          ∨ (fieldAt b 0 4 = 0x464A3130 ∧ fieldAt b 4 2 = 1 ∧ fieldAt b 28 4 ≠ crc32c (b.take 28) ∧ reason = 2)
          ∨ (fieldAt b 0 4 = 0x464A3130 ∧ fieldAt b 4 2 = 1 ∧ fieldAt b 28 4 = crc32c (b.take 28) ∧ headerListed (headerOf b) = false
              ∧ reason = 3) →
      Ends (.headerReadDone b) s fun u => PhaseFailed s u 2 reason 0 0 ∧ u.trim.live = [] ∧ u.flag fTrimDefaults = true
        ∧ u.flag fCalDefaults = true)
    ∧ (∀ gib : BitVec 8, interior s = true → s.fld fPhase = 4 → (s.boot.fullTrain = true → gib.toNat = s.fld ⟨C 0xE0000, 23, 16⟩) →
      Ends (.dramPhaseDone (.trained gib)) s fun u => u.fld fPhase = 5 ∧ u.flag fDramReady = true
        ∧ u.fld fDramGib = s.fld ⟨C 0xE0000, 23, 16⟩ ∧ RegsKept s u [0x04, 0x08])
    ∧ (∀ ch : BitVec 4, interior s = true → s.fld fPhase = 4 →
      Ends (.dramPhaseDone (.failed ch)) s fun u => PhaseFailed s u 4 5 0 ch.toNat ∧ u.flag fDramReady = s.flag fDramReady)
    ∧ (interior s = true → s.fld fPhase = 4 → Ends (.dramPhaseDone .mismatch) s fun u => PhaseFailed s u 4 6 0 0)
    ∧ (interior s = true → s.fld fPhase = 5 → (∃ h, s.boot.hdr = some h ∧ h.tableLength ≠ 0) →
      Ends .releasePhaseDone s fun u => u.fld fPhase = 6 ∧ u.boot.released = true ∧ RegsKept s u [0x08])
    ∧ (interior s = true → s.fld fPhase = 5 → (∀ h, s.boot.hdr = some h → h.tableLength = 0) → NothingHeld s →
      Ends .releasePhaseDone s fun u => IsReady u ∧ u.boot.released = true ∧ RegsKept s u [0x08, 0x18])
    ∧ (interior s = true → s.fld fPhase = 15 → s.fld ⟨C 0x100, 31, 28⟩ = 2 →
      Ends .bootResume s fun u => u.fld fPhase = 5 ∧ u.boot.hdr = none ∧ u.flag ⟨C 0x100, 0, 0⟩ = true ∧ RegsKept s u [0x08, C 0x100])
    ∧ (interior s = true → s.fld fPhase = 15 → s.fld ⟨C 0x100, 31, 28⟩ = 4 →
      Ends .bootResume s fun u => u.fld fPhase = 5 ∧ u.flag ⟨C 0x100, 0, 0⟩ = true ∧ OnlyRegs s u [0x08, C 0x100])
    ∧ (interior s = true → s.fld fPhase = 15 → s.fld ⟨C 0x100, 31, 28⟩ = 6 → NothingHeld s →
      Ends .bootResume s fun u => IsReady u ∧ u.flag ⟨C 0x100, 0, 0⟩ = true ∧ RegsKept s u [0x08, 0x18, C 0x100])
    ∧ (interior s = true → s.fld fPhase ≠ 15 → Idle .bootResume s)
    ∧ (∀ on : Bool, interior s = true → s.fld fPhase = 7 ∨ s.fld fPhase = 15 → s.flag fCalBusy = false →
      Ends (.qspiRelease on) s fun u => u.flag ⟨C 0x104, 1, 1⟩ = on ∧ OnlyRegs s u [C 0x104])
    ∧ (∀ on : Bool, interior s = true → (s.fld fPhase ≠ 7 ∧ s.fld fPhase ≠ 15) ∨ s.flag fCalBusy = true → Idle (.qspiRelease on) s)

/-! ### The boot table -/

open Sys2Proof.Claims in
/-- R94, R95, Tables 4-5 and 4-7: the table is taken only with its CRC; a WRITE, RMW or POLL entry acts on its word of the control space and a DELAY on
nothing, and the next entry becomes current; a POLL that does not match leaves its entry current and fails the phase at its time-out; an END entry, or the
end of the table, leads to READY; the phase's own time-out fails it. The words are read and written as the boot sequencer's own accesses are. -/
def Obligations.Boot_table_entries_are_executed : Prop :=
  ∀ s : State, interior s = true → s.fld fPhase = 6 →
    (∀ (b : List Byte) (h : BootHdr), s.boot.tableRead = false → s.boot.hdr = some h → b.length = h.tableLength →
        crc32c b ≠ h.tableCrc → Ends (.bootTableReadDone b) s fun u => PhaseFailed s u 6 7 0 0)
    ∧ (∀ (b : List Byte) (h : BootHdr) (e : BootEntry) (t : List BootEntry), s.boot.tableRead = false → s.boot.hdr = some h →
        b.length = h.tableLength → crc32c b = h.tableCrc → bootEntries b = e :: t → e.op = 0 ∨ e.op = 4 ∨ (e.op ≤ 3 ∧ bootAddrOk e.addr = true) →
      Ends (.bootTableReadDone b) s fun u => u.boot = { s.boot with table := e :: t, tableRead := true, idx := 0 } ∧ RegsKept s u [])
    ∧ (∀ (b : List Byte) (h : BootHdr) (e : BootEntry) (t : List BootEntry), s.boot.tableRead = false → s.boot.hdr = some h →
        b.length = h.tableLength → crc32c b = h.tableCrc → bootEntries b = e :: t → 4 < e.op →
      Ends (.bootTableReadDone b) s fun u => PhaseFailed s u 6 8 0 0)
    ∧ (∀ e : BootEntry, s.boot.tableRead = true → s.boot.table[s.boot.idx]? = some e →
      let off := e.addr - 0x110000000000
      (e.op = 1 → ctlErr s off = 0 → (∀ f, s.boot.table[s.boot.idx + 1]? = some f → f.op = 0 ∨ f.op = 4) →
        (ctlWrite 0 off e.value s).boot = s.boot →
        Ends .bootWrite s fun u => u.boot = { s.boot with idx := s.boot.idx + 1 }
          ∧ (∀ r, r ≠ 0x18 → u.reg r = (ctlWrite 0 off e.value s).reg r))
      ∧ (e.op = 2 → ctlErr s off = 0 → (∀ f, s.boot.table[s.boot.idx + 1]? = some f → f.op = 0 ∨ f.op = 4) →
        ctlErr (ctlRead off s).2 off = 0 →
        let w := ((ctlRead off s).1 &&& ~~~e.mask) ||| (e.value &&& e.mask)
        (ctlWrite 0 off w (ctlRead off s).2).boot = s.boot →
        Ends .bootRmw s fun u => u.boot = { s.boot with idx := s.boot.idx + 1 }
          ∧ (∀ r, r ≠ 0x18 → u.reg r = (ctlWrite 0 off w (ctlRead off s).2).reg r))
      ∧ (e.op = 3 → ctlErr s off = 0 → (ctlRead off s).1 &&& e.mask = e.value → (ctlRead off s).2 = s →
          (∀ f, s.boot.table[s.boot.idx + 1]? = some f → f.op = 0 ∨ f.op = 4) →
        Ends .bootPoll s fun u => u.boot = { s.boot with idx := s.boot.idx + 1 } ∧ RegsKept s u [])
      ∧ (e.op = 3 → ctlErr s off = 0 → (ctlRead off s).1 &&& e.mask ≠ e.value → (ctlRead off s).2 = s →
        Idle .bootPoll s ∧ Ends .bootPollTimeout s fun u => PhaseFailed s u 6 10 s.boot.idx 0)
      ∧ (e.op = 4 → (∀ f, s.boot.table[s.boot.idx + 1]? = some f → f.op = 0 ∨ f.op = 4) →
        Ends .bootDelay s fun u => u.boot = { s.boot with idx := s.boot.idx + 1 } ∧ RegsKept s u [])
      ∧ (e.op = 4 → ∀ f, s.boot.table[s.boot.idx + 1]? = some f → 1 ≤ f.op → f.op ≤ 3 → bootAddrOk f.addr = false →
        Ends .bootDelay s fun u => PhaseFailed s u 6 9 (s.boot.idx + 1) 0)
      ∧ (e.op = 0 → NothingHeld s → Ends .bootEnd s fun u => IsReady u ∧ RegsKept s u [0x08, 0x18])
      ∧ (e.op ≠ 0 → Idle .bootEnd s))
    ∧ (s.boot.tableRead = true → s.boot.table[s.boot.idx]? = none → NothingHeld s →
      Ends .bootEnd s fun u => IsReady u ∧ RegsKept s u [0x08, 0x18])
    ∧ Ends .bootTableTimeout s (fun u => PhaseFailed s u 6 11 s.boot.idx 0)


/-! ### Trims -/

/-- The live words are a record's: each the last entry's value for its item and instance, else the fused default (R110). -/
def Sys2Proof.Claims.trimsOf (u : State) (b : List Byte) : Prop :=
  ∀ item n, n < trimCount item → trimWord u item n =
    (((recEntries b).reverse.find? (fun e => e.1 = item && e.2.1 = n)).map (fun e => e.2.2)).getD (Config.fusedTrim item n)

/-- The selection rule has been run over the two slots (R109-R111): JOURNAL_GEN holds the valid slots' generations; the live set is that of the valid
slot of the higher one, slot 0 on a tie, and CAL_STATUS names it; with none valid, the fused defaults. -/
def Sys2Proof.Claims.Selected (u : State) (i0 i1 : SlotImage) : Prop :=
  let g := fun i => if slotValid i then recGen i.body else 0
  (u.reg (C 0xF0000)).toNat = g i0 ∧ (u.reg (C 0xF0004)).toNat = g i1
    ∧ (slotValid i0 = false → slotValid i1 = false → u.trim.live = [] ∧ u.flag fCalDefaults = true ∧ u.fld fCalSlot = 0 ∧ u.fld fCalGen = 0
        ∧ u.flag fTrimDefaults = true)
    ∧ (slotValid i0 = true → g i1 ≤ g i0 → Claims.trimsOf u i0.body ∧ u.flag fCalDefaults = false ∧ u.fld fCalSlot = 0
        ∧ u.fld fCalGen = g i0 % 2 ^ 24 ∧ u.flag fTrimDefaults = false)
    ∧ (slotValid i1 = true → g i0 < g i1 → Claims.trimsOf u i1.body ∧ u.flag fCalDefaults = false ∧ u.fld fCalSlot = 1
        ∧ u.fld fCalGen = g i1 % 2 ^ 24 ∧ u.flag fTrimDefaults = false)

/-- A trim command has ended with a RESULT: nothing of it is under way, CAL is set, and an event is logged unless it succeeded (R112). -/
def Sys2Proof.Claims.CalEnded (s u : State) (cmd result : Nat) : Prop :=
  u.flag fCalBusy = false ∧ u.fld fCalResult = result ∧ u.fld fStoreStep = 0 ∧ u.trim.store = none ∧ u.trim.reapply = false
    ∧ Rings s u [16] ∧ (if result = 0 then u.log = s.log else Logs s u 4 0x022 0 0 (result + cmd * 16))

open Sys2Proof.Claims in
/-- R102, R107-R112, R114, Tables 3-19 and 5-4: phase TRIM and REAPPLY_DONE run the selection rule over both slots. A command is ignored while BUSY and
rejected before READY and under QSPI_RELEASE. TRIM_STORE copies the 347 live words, takes the slot that does not hold the newest generation, the next
generation, and begins the erase; each flash operation that ends well leads to the next STORE_STEP, the last one makes the new record the one in
use; a failed one, a differing read-back and the time-out end the store. TRIM_DEFAULTS takes the fused trims and leaves the journal alone. -/
def Obligations.Trim_commands_and_the_store : Prop :=
  ∀ s : State, interior s = true → Room s 0x022 →
    (∀ i0 i1 : SlotImage, s.fld fPhase = 3 →
      Ends (.trimPhaseDone i0 i1) s fun u => u.fld fPhase = 4 ∧ Selected u i0 i1
        ∧ RegsKept s u [0x08, 0x98, C 0xF0000, C 0xF0004] ∧ u.log = s.log)
    ∧ (∀ c ∈ [Instr.trimStore, Instr.trimReapply, Instr.trimDefaults], s.flag fCalBusy = true → Idle c s)
    ∧ (∀ c ∈ [(Instr.trimStore, 1), (Instr.trimReapply, 2), (Instr.trimDefaults, 3)], s.flag fCalBusy = false →
        (ready s = false ∨ s.flag fQspiRelease = true) →
      Ends c.1 s fun u => CalEnded s u c.2 3 ∧ u.trim.live = s.trim.live ∧ RegsKept s u [0x18, 0x98, C 0xF0008])
    ∧ (s.flag fCalBusy = false → ready s = true → s.flag fQspiRelease = false →
      (∀ target gen : Nat, gen < 0xFFFFFFFF →
          (journalGen s 0 = 0 ∧ journalGen s 1 = 0 ∧ target = 0 ∧ gen = 1)
            ∨ (journalGen s 0 ≠ 0 ∧ journalGen s 1 ≤ journalGen s 0 ∧ target = 1 ∧ gen = journalGen s 0 + 1)
            ∨ (journalGen s 0 < journalGen s 1 ∧ target = 0 ∧ gen = journalGen s 1 + 1) →
        Ends .trimStore s fun u => u.flag fCalBusy = true ∧ u.fld fStoreStep = 1 ∧ u.reg (C (0xF0000 + 4 * target)) = 0#32
          ∧ (∃ st, u.trim = { s.trim with store := some st } ∧ st.target = target ∧ st.gen = gen ∧ st.copy.length = 347
            ∧ ∀ e ∈ st.copy, e.2.2 = trimWord s e.1 e.2.1)
          ∧ RegsKept s u [0x98, C (0xF0000 + 4 * target), C 0xF0008] ∧ u.log = s.log)
      ∧ (journalGen s 0 = 0xFFFFFFFE ∨ (journalGen s 0 < 0xFFFFFFFE ∧ journalGen s 1 = 0xFFFFFFFE) →
        Ends .trimStore s fun u => CalEnded s u 1 3 ∧ u.trim.live = s.trim.live ∧ RegsKept s u [0x18, 0x98, C 0xF0008])
      ∧ (Ends .trimReapply s fun u => u.flag fCalBusy = true ∧ u.trim = { s.trim with reapply := true } ∧ RegsKept s u [0x98])
      ∧ (Ends .trimDefaults s fun u => CalEnded s u 3 0 ∧ u.trim.live = [] ∧ u.flag fCalDefaults = true ∧ u.fld fCalSlot = 0
          ∧ u.fld fCalGen = 0 ∧ u.flag fTrimDefaults = true ∧ RegsKept s u [0x08, 0x18, 0x98, C 0xF0008]))
    ∧ (∀ st : StoreSt, s.trim.store = some st →
      (∀ k ∈ [1, 2, 3, 4], s.fld fStoreStep = k →
        Ends (.storeFlashOpDone .good) s fun u => u.fld fStoreStep = k + 1 ∧ OnlyRegs s u [C 0xF0008])
      ∧ (s.fld fStoreStep = 5 → st.target < 2 → st.gen < 2 ^ 32 →
        Ends (.storeFlashOpDone .good) s fun u => CalEnded s u 1 0 ∧ u.trim.live = s.trim.live
          ∧ (u.reg (C (0xF0000 + 4 * st.target))).toNat = st.gen ∧ u.flag fCalDefaults = false ∧ u.fld fCalSlot = st.target
          ∧ u.fld fCalGen = st.gen % 2 ^ 24 ∧ RegsKept s u [0x08, 0x18, 0x98, C (0xF0000 + 4 * st.target), C 0xF0008])
      ∧ (∀ k ∈ [1, 2, 4], s.fld fStoreStep = k → Ends (.storeFlashOpDone .failed) s fun u => CalEnded s u 1 1 ∧ u.trim.live = s.trim.live)
      ∧ (∀ k ∈ [3, 5], s.fld fStoreStep = k → Ends (.storeFlashOpDone .differs) s fun u => CalEnded s u 1 2 ∧ u.trim.live = s.trim.live)
      ∧ Ends .storeTimeout s fun u => CalEnded s u 1 1 ∧ u.trim.live = s.trim.live ∧ RegsKept s u [0x18, 0x98, C 0xF0008])
    ∧ (∀ i0 i1 : SlotImage, s.trim.reapply = true →
      Ends (.reapplyDone i0 i1) s fun u => Selected u i0 i1
        ∧ CalEnded s u 2 (if slotValid i0 || slotValid i1 then 0 else 4)
        ∧ RegsKept s u [0x08, 0x18, 0x98, C 0xF0000, C 0xF0004, C 0xF0008])

/-! ### Quiesce, pins and resets -/

/-- Every external interface has stopped and nothing of a reel chain is left: links down or quiesced, no pipe active, no camera frame, no touch
scan (Table 4-11). -/
def Sys2Proof.Claims.Quiet (s : State) : Prop :=
  (∀ n < 4, s.fld (fLkState n) = 0 ∨ s.fld (fLkState n) = 3) ∧ (∀ n < 4, s.flag (fPipeActive n) = false)
    ∧ (∀ c ∈ s.cam.cams, c.frame = none) ∧ s.touch.scanning = false ∧ s.reel.chains = []

open Sys2Proof.Claims in
/-- R53, R102, R103, R415, Tables 3-6 and 4-11: QUIESCE_SET begins the quiesce (illuminators low, each active link's port quiescing); QUIESCE_COMPLETE
sets QUIESCED once every interface has stopped, and not before; QUIESCE_CLEAR ends it and a quiesced link is active again. RM_ACK is 1 only under
QUIESCED. RMREQ_ACCEPTED shows the level, logs it, and its assertion interrupts; PRSNT_CHANGE shows the level and a link whose peer has gone is down. -/
def Obligations.Quiesce_and_removal_pins : Prop :=
  ∀ s : State, interior s = true →
    (s.flag fQuiesce = false →
      Ends .quiesceSet s fun u => u.flag fQuiesce = true ∧ u.flag fQuiesced = s.flag fQuiesced ∧ (∀ k < 2, (illAt u k).high = false)
        ∧ (∀ n < 4, s.fld (fLkState n) = 2 → ∀ p, u.peer.ports[n]? = some p → p.quiescing = true) ∧ u.mem = s.mem)
    ∧ (s.flag fQuiesce = true → Idle .quiesceSet s)
    ∧ (s.flag fQuiesce = true → s.flag fQuiesced = false → Quiet s →
      Ends .quiesceComplete s fun u => u.flag fQuiesced = true ∧ u.aud = { s.aud with dacs := [], tdms := [] } ∧ RegsKept s u [0x08])
    ∧ (s.flag fQuiesce = true → (∃ n < 4, s.flag (fPipeActive n) = true) ∨ s.touch.scanning = true →
      Ends .quiesceComplete s fun u => u.flag fQuiesced = s.flag fQuiesced ∧ u.flag fQuiesce = true)
    ∧ (s.flag fQuiesce = true → s.core.entryQuiesce = false →
      Ends .quiesceClear s fun u => u.flag fQuiesce = false ∧ u.flag fQuiesced = false
        ∧ (∀ n < 4, s.fld (fLkState n) = 3 → (peerAt s n).quiescing = true →
          u.fld (fLkState n) = 2 ∧ (peerAt u n).quiescing = false))
    ∧ (s.flag fQuiesce = false → Idle .quiesceClear s)
    ∧ (∀ on : Bool, on = false ∨ s.flag fQuiesced = true →
      Ends (.rmAck on) s fun u => u.flag fRmAck = on ∧ u.core = { s.core with rmack := on } ∧ RegsKept s u [0x0C])
    ∧ (s.flag fQuiesced = false → Idle (.rmAck true) s)
    ∧ (∀ b : Bool, Room s 0x005 →
      Ends (.rmreqAccepted b) s fun u => u.flag fRmreq = b ∧ Logs s u 7 0x005 0 0 (if b then 1 else 0)
        ∧ Rings s u (if b then [15] else []) ∧ RegsKept s u [0x08, 0x18])
    ∧ (∀ (n : Fin 4) (b : Bool), s.flag (fLcLoop n.val) = false →
      Ends (.prsntChange n b) s fun u => u.core.prsnt = setAt s.core.prsnt n.val b ∧ u.flag (fLkPresent n.val) = b
        ∧ (b = false → u.fld (fLkState n.val) = 0)
        ∧ (b = true → s.fld (fLkState n.val) = 0 → s.flag (fLcEnable n.val) = true → s.flag fQuiesce = false → s.core.entryQuiesce = false →
          u.fld (fLkState n.val) = 1)
        ∧ (b = true → s.fld (fLkState n.val) ≠ 0 → u.fld (fLkState n.val) = s.fld (fLkState n.val)))

/-- What a warm reset keeps, and that it clears the rest (R99, Table 4-9): the log's ring, the trims, DRAM, the timebase, pins, and the registers of
the two lists; SRAM and every engine are as after reset. -/
def Sys2Proof.Claims.WarmedUp (s u : State) (cause : Nat) : Prop :=
  u.fld fPhase = 0 ∧ u.flag fReady = false ∧ u.flag fFrozen = false ∧ u.fld fCause = cause ∧ u.fld fPgFell = s.fld fPgFell ∧ u.fld fFuncBusy = 0
    ∧ u.flag fCalBusy = false ∧ u.fld fCalResult = 0 ∧ u.flag fCalDefaults = s.flag fCalDefaults ∧ u.fld fCalSlot = s.fld fCalSlot
    ∧ u.fld fCalGen = s.fld fCalGen ∧ u.fld fDramGib = s.fld fDramGib ∧ u.flag fTrimDefaults = s.flag fTrimDefaults
    ∧ (∀ r ∈ [0x64, 0x68, 0x70, 0xAC, C 0xC0004, C 0xC0008, C 0xC000C, C 0xC0010, C 0xF0000, C 0xF0004], u.reg r = s.reg r)
    ∧ (∀ r, r ∉ [0x04, 0x08, 0x14, 0x18, 0x64, 0x68, 0x70, 0x98, 0x9C, 0xAC, 0xB4, C 0xF0000, C 0xF0004] →
        (r < C 0xC0004 ∨ C 0xC0014 ≤ r) → u.reg r = regReset r)
    ∧ u.log.ring = s.log.ring ∧ u.log.count = s.log.count ∧ u.log.queued = [] ∧ u.trim.live = s.trim.live ∧ u.trim.store = none
    ∧ u.core.timebase = s.core.timebase ∧ u.boot.warm = true ∧ u.boot.released = false ∧ u.mem.skein = [] ∧ u.mem.roles = []
    ∧ u.fly = State.reset.fly ∧ u.q = State.reset.q ∧ u.mmu = State.reset.mmu ∧ u.ray = State.reset.ray ∧ u.ras = State.reset.ras
    ∧ u.weft = State.reset.weft ∧ u.disp = State.reset.disp ∧ u.touch = State.reset.touch ∧ u.cam = State.reset.cam ∧ u.aud = State.reset.aud
    ∧ u.peer = State.reset.peer ∧ u.reel = State.reset.reel ∧ u.pending = s.pending

/-- Power-on reset (R99, Table 4-9): every register but the VSEL strap at its reset value, no log, no live trims, DRAM's content lost. -/
def Sys2Proof.Claims.PoweredOn (s u : State) : Prop :=
  (∀ r, r ∉ [0x14, 0x18, 0xB4] → u.reg r = regReset r) ∧ u.fld ⟨0xB4, 7, 7⟩ = s.fld ⟨0xB4, 7, 7⟩ ∧ u.log = State.reset.log
    ∧ u.trim = State.reset.trim ∧ u.core.timebase = 0#64 ∧ u.mem.dram = [] ∧ u.mem.lost ≠ 0 ∧ u.mem.skein = [] ∧ u.boot = State.reset.boot
    ∧ u.fly = State.reset.fly ∧ u.q = State.reset.q ∧ u.disp = State.reset.disp ∧ u.peer = State.reset.peer ∧ u.pending = s.pending

open Sys2Proof.Claims in
/-- R46, R50, R54, R55, R75, R98-R100, Tables 2-5, 3-7 and 4-9: WRST_ASSERT, WARM and CLOCK_LOSS_WARM_RESET reset all but what a warm reset keeps, with their
CAUSE, and only the clock loss loses DRAM's content; PORST_ASSERT and the fall of a requested rail reset everything; PORST_RELEASE starts; the loss of a
reference clock stops every branch. -/
def Obligations.Resets_clear_what_their_kind_clears : Prop :=
  ∀ s : State, s.core.porstLow = false → s.core.critical = false →
    (s.core.clockLost = none → s.host.logPage = none →
      (Ends .wrstAssert s fun u => WarmedUp s u 2 ∧ u.mem.dram = s.mem.dram ∧ u.mem.dramUe = s.mem.dramUe ∧ u.mem.lost = s.mem.lost)
      ∧ (s.core.mclk = true →
        Ends .warm s fun u => WarmedUp s u 3 ∧ u.mem.dram = s.mem.dram ∧ u.mem.dramUe = s.mem.dramUe ∧ u.mem.lost = s.mem.lost))
    ∧ (s.core.clockLost ≠ none → Idle .wrstAssert s
      ∧ (s.host.logPage = none → Ends .clockLossWarmReset s fun u => WarmedUp s u 5 ∧ u.core.clockLost = none ∧ u.core.mclk = false
          ∧ u.mem.dram = [] ∧ u.mem.lost = s.free + 1 ∧ u.boot.fullTrain = true))
    ∧ (Ends .porstAssert s fun u => PoweredOn s u ∧ u.core.porstLow = true ∧ u.core.pwrreq = none ∧ u.fld fCause = 0 ∧ u.fld fPgFell = 0)
    ∧ (Ends .porstRelease { s with core := { s.core with porstLow := true } } fun u =>
        u.core = { s.core with pwrreq := some 3#2, rails := Rails.allGood } ∧ RegsKept s u [] ∧ u.mem = s.mem ∧ u.log = s.log ∧ u.trim = s.trim)
    ∧ (∀ (r : Rail) (b : Nat), s.core.pwrreq = some 3#2 ∨ (s.core.pwrreq = some 1#2 ∧ (r = .io ∨ r = .ana)) →
        (r = .io ∧ b = 27) ∨ (r = .ana ∧ b = 26) ∨ (r = .sram ∧ b = 25) ∨ (r = .core ∧ b = 24) ∨ (r = .serdes ∧ b = 23) →
      Ends (.railGoodFall r) s fun u => PoweredOn s u ∧ u.core.railWait = true ∧ u.core.pwrreq = some 3#2 ∧ u.fld fCause = 1
        ∧ u.flag ⟨0x14, b, b⟩ = true
        ∧ (∀ b' ∈ [23, 24, 25, 26, 27], b' ≠ b → u.flag ⟨0x14, b', b'⟩ = s.flag ⟨0x14, b', b'⟩))
    ∧ (s.core.pwrreq = some 3#2 ∨ s.core.pwrreq = some 1#2 →
      Ends (.railGoodFall .aon) s fun u => PoweredOn s u ∧ u.core.railWait = true ∧ u.reg 0x14 = regReset 0x14)
    ∧ (∀ what : ClockLoss, s.core.mclk = true → s.core.clockLost = none →
      Ends (.refclkLoss what) s fun u => u.core = { s.core with clockLost := some what } ∧ (∀ k < 2, (illAt u k).high = false)
        ∧ interior u = false ∧ RegsKept s u [C 0x70308, C 0x70318] ∧ u.mem = s.mem ∧ u.fly = s.fly ∧ u.log = s.log)
    ∧ (∀ what : ClockLoss, s.core.mclk = false → Idle (.refclkLoss what) s)

open Sys2Proof.Claims in
/-- R76, R86, Tables 3-7, 3-8 and 21-6: RESET_<function>, at READY and where the function is not being reset already, sets its FUNC_BUSY bit and returns the
function's registers and state to reset: no rays, hanks or callback plies (RAY); no passes or raster plies (RASTER); the pipe or port, touch, camera, audio
and reel blocks as after reset, with FLT, the dropped reports and channel 15 kept. FUNCTION_RESET_DONE clears FUNC_BUSY and sets RESET_DONE. -/
def Obligations.Function_resets_clear_their_function : Prop :=
  ∀ s : State, interior s = true →
    (ready s = true →
      let free := fun b => s.flag ⟨0x14, b, b⟩ = false
      let block := fun (u : State) (r n : Nat) (except : List Nat) => ∀ k < n, r + k ∉ except → u.reg (r + k) = regReset (r + k)
      (free 0 → Ends .resetRay s fun u => u.flag ⟨0x14, 0, 0⟩ = true ∧ u.ray.traces = [] ∧ u.ray.hanks = [] ∧ u.ray.groups = []
        ∧ u.ray.overflow = [] ∧ u.ray.spooled = [] ∧ (∀ e ∈ u.fly.plies, e.2.cbs = [] ∧ e.2.allot = []))
      ∧ (free 1 → Ends .resetRaster s fun u => u.flag ⟨0x14, 1, 1⟩ = true ∧ u.ras.passes = []
        ∧ (∀ e ∈ u.fly.plies, e.2.owner.source ≠ 1) ∧ u.flag ⟨C 0x40000, 31, 31⟩ = false)
      ∧ (∀ n : Fin 4, free (2 + n.val) → Ends (.resetPipe n) s fun u => u.flag ⟨0x14, 2 + n.val, 2 + n.val⟩ = true
        ∧ block u (C (0x50000 + 0x4000 * n.val)) 0x4000 [] ∧ u.fld ⟨0xA4, 8 * n.val + 7, 8 * n.val⟩ = 0
        ∧ pipeAt u n.val = PipeSt.empty ∧ portAt u n.val = PortSt.empty ∧ u.mem = s.mem)
      ∧ (free 6 → Ends .resetTouch s fun u => u.flag ⟨0x14, 6, 6⟩ = true ∧ u.touch = TouchSt.empty
        ∧ block u (C 0x60000) 0x10000 [C 0x60348] ∧ u.fld fFifoLevel = 0 ∧ u.fld fTouchDropped = s.touch.fifo.length % 256
        ∧ u.fld fDropCount = min (2 ^ 32 - 1) s.touch.fifo.length ∧ u.mem = s.mem)
      ∧ (free 7 → Ends .resetCamera s fun u => u.flag ⟨0x14, 7, 7⟩ = true ∧ u.cam = CameraSt.empty
        ∧ block u (C 0x70000) 0x10000 [C 0x70308, C 0x70318] ∧ (∀ k < 2, u.flag (fFltPin k) = s.flag (fFltPin k)) ∧ u.mem = s.mem)
      ∧ (free 8 → Ends .resetAudio s fun u => u.flag ⟨0x14, 8, 8⟩ = true ∧ u.aud = AudioSt.empty ∧ block u (C 0x80000) 0x10000 []
        ∧ (∀ r, r ≠ 0x14 → r ≠ 0x18 → (r < C 0x80000 ∨ C 0x90000 ≤ r) → u.reg r = s.reg r) ∧ u.mem = s.mem)
      ∧ (∀ n : Fin 4, free (9 + n.val) → Ends (.resetPeer n) s fun u => u.flag ⟨0x14, 9 + n.val, 9 + n.val⟩ = true
        ∧ u.fld (fLkState n.val) = 0 ∧ u.flag (fLkErr n.val) = false ∧ block u (C (0x90000 + 0x4000 * n.val)) 0x4000 []
        ∧ (peerAt u n.val).tags = [] ∧ (peerAt u n.val).waiting = [] ∧ u.mem = s.mem)
      ∧ (free 13 → Ends .resetReel s fun u => u.flag ⟨0x14, 13, 13⟩ = true ∧ (∀ ch < 15, chainOf u ch = none)
        ∧ (s.mmu.recs = [] → chainOf u 15 = chainOf s 15)
        ∧ block u (C 0xA0000) 0x3C0 []))
    ∧ (∀ e ∈ [(Instr.resetRay, 0), (.resetRaster, 1), (.resetPipe 0, 2), (.resetPipe 1, 3), (.resetPipe 2, 4), (.resetPipe 3, 5), (.resetTouch, 6),
          (.resetCamera, 7), (.resetAudio, 8), (.resetPeer 0, 9), (.resetPeer 1, 10), (.resetPeer 2, 11), (.resetPeer 3, 12), (.resetReel, 13)],
        ready s = false ∨ s.flag ⟨0x14, e.2, e.2⟩ = true → Idle e.1 s)
    ∧ (s.fld fFuncBusy ≠ 0 →
      Ends .functionResetDone s fun u => u.fld fFuncBusy = 0 ∧ IntSet u 18
        ∧ (s.fld ⟨0x14, 12, 9⟩ = 0 → OnlyRegs s u [0x14, 0x18] ∧ Rings s u [18]))
    ∧ (s.fld fFuncBusy = 0 → Idle .functionResetDone s)

/-! ### Power states, thermal zones and the watchdog -/

open Sys2Proof.Claims in
/-- R482, R483, R485, R486, R52, Tables 3-16, 4-10 and 23-5: a TARGET is held before READY, refused and logged while BUSY, and DOZE and OFF while a context
1-15 is not OFF; otherwise it acts. IDLE begins once nothing is resident. An entry quiesces, and once quiet it drains the merge buffers, carries the timebase
and drives PWRREQ; QUIESCE_FORCE stops what has not. RAIL_GOOD_MATCH ends each wait: start-up goes on, DOZE begins with what it keeps, or power is gone. In
DOZE a write of RUN and the wake timer request the rails again, and the accumulator carries the timebase. -/
def Obligations.Power_states_change_as_commanded : Prop :=
  ∀ s : State,
    let targets : List (Instr × Nat) := [(.powerTargetRun, 0), (.powerTargetIdle, 1), (.powerTargetDoze, 2), (.powerTargetOff, 3)]
    (interior s = true → s.flag fPwrBusy = false → ready s = false → ∀ e ∈ targets,
      Ends e.1 s fun u => u.boot = { s.boot with target := some e.2 } ∧ RegsKept s u [] ∧ u.core = s.core)
    ∧ (interior s = true → s.flag fPwrBusy = true → Room s 0x041 → ∀ e ∈ targets,
      Ends e.1 s fun u => Logs s u 4 0x041 0 0 0x74 ∧ RegsKept s u [] ∧ u.core = s.core)
    ∧ (interior s = true → s.flag fPwrBusy = false → ready s = true →
      (s.fld fCurrent ≠ 1 → Ends .powerTargetRun s fun u => u.fld fTarget = 0 ∧ OnlyRegs s u [0x74])
      ∧ (s.fld fCurrent = 1 → Room s 0x002 → Ends .powerTargetRun s fun u => u.fld fTarget = 0 ∧ u.fld fCurrent = 0
          ∧ Logs s u 7 0x002 0 0 1 ∧ Rings s u [7] ∧ RegsKept s u [0x18, 0x74])
      ∧ (Ends .powerTargetIdle s fun u => u.fld fTarget = 1 ∧ OnlyRegs s u [0x74])
      ∧ (∀ e ∈ [(Instr.powerTargetDoze, 2, 1#2), (.powerTargetOff, 3, 0#2)],
        ((∀ c, 1 ≤ c → c < 16 → s.fld (fQState c) = 0) →
          Ends e.1 s fun u => u.fld fTarget = e.2.1 ∧ u.flag fPwrBusy = true ∧ RegsKept s u [0x74]
            ∧ u.core = { s.core with entryCode := some e.2.2, entryQuiesce := false })
        ∧ ((∃ c, 1 ≤ c ∧ c < 16 ∧ s.fld (fQState c) ≠ 0) → Room s 0x041 →
          Ends e.1 s fun u => Logs s u 4 0x041 0 0 0x74 ∧ RegsKept s u [] ∧ u.core = s.core)))
    ∧ (running s = true → s.fld fTarget = 1 → s.fld fCurrent = 0 → s.fly.plies = [] →
        (∀ e ∈ s.q.ctxs, e.2.flight = [] ∧ e.2.fetched = none) → Room s 0x002 →
      Ends .idleEntry s fun u => u.fld fCurrent = 1 ∧ Logs s u 7 0x002 0 0 4 ∧ Rings s u [7] ∧ RegsKept s u [0x18, 0x74])
    ∧ (interior s = true → s.core.railWait = false →
      Ends .powerCycle s fun u => u.flag fPwrBusy = true ∧ u.core = { s.core with entryCode := some 2#2, entryQuiesce := false }
        ∧ RegsKept s u [0x74])
    ∧ (interior s = true → s.core.railWait = false → s.core.entryQuiesce = false → ∀ code, s.core.entryCode = some code →
        (code = 2#2 ∨ (s.flag fCalBusy = false ∧ chainOf s 15 = none ∧ s.reel.host = none)) →
      Ends .powerEntryProceed s fun u => u.core = { s.core with entryQuiesce := true } ∧ (∀ k < 2, (illAt u k).high = false)
        ∧ (∀ n < 4, s.fld (fLkState n) = 2 → ∀ p, u.peer.ports[n]? = some p → p.quiescing = true))
    ∧ (interior s = true → s.core.railWait = false → s.core.entryQuiesce = true → Quiet s → s.host.logPage = none → MergeSound s →
        ∀ code, s.core.entryCode = some code →
      Ends .powerEntryProceed s fun u => u.core.pwrreq = some code ∧ u.core.railWait = true ∧ u.core.mclk = false
        ∧ u.core.carryC = s.core.timebase &&& ~~~0x7F#64 ∧ u.core.carryA = s.core.timebase.toNat % 128
        ∧ u.mem.merge = [] ∧ (∀ a, cohByte u a = cohByte s a) ∧ (code = 0#2 → u.fld fCurrent = 3) ∧ interior u = false)
    ∧ (interior s = true → s.core.railWait = false → s.core.entryQuiesce = true →
      Ends .quiesceForce s fun u => (∀ n < 4, u.flag (fPipeActive n) = false ∧ u.fld (fLkState n) = 0)
        ∧ (∀ c ∈ u.cam.cams, c.frame = none) ∧ u.touch.scanning = false ∧ u.aud = { s.aud with dacs := [], tdms := [] })
    ∧ (s.core.railWait = true → s.core.porstLow = false →
      (s.core.pwrreq = some 3#2 → Ends .railGoodMatch s fun u => u.core = { s.core with railWait := false, rails := Rails.allGood }
          ∧ RegsKept s u [] ∧ u.mem = s.mem ∧ u.log = s.log)
      ∧ (s.core.pwrreq = some 1#2 → s.core.entryCode = some 1#2 → s.core.wakeHeld = false → s.host.drainTaken = 0 →
        Ends .railGoodMatch s fun u => u.fld fCurrent = 2 ∧ u.flag fPwrBusy = false ∧ u.flag fAonOnly = true ∧ u.core.mclk = false
          ∧ u.core.railWait = false ∧ (∀ r ∈ [0x1C, 0x64, 0x68, 0x7C, 0x80, 0x84, 0xAC], u.reg r = s.reg r)
          ∧ (∀ k, u.reg (C (0x60000 + k % 0x10000)) = s.reg (C (0x60000 + k % 0x10000)))
          ∧ u.log.ring = s.log.ring ∧ u.trim.live = s.trim.live ∧ u.mem.dram = s.mem.dram ∧ u.mem.skein = [] ∧ u.fly = State.reset.fly
          ∧ u.core.carryC = s.core.carryC ∧ u.core.carryA = s.core.carryA ∧ u.touch.fifo = s.touch.fifo)
      ∧ (s.core.pwrreq = some 0#2 ∨ s.core.pwrreq = some 2#2 →
        Ends .railGoodMatch s fun u => PoweredOn s u ∧ u.core.porstLow = true ∧ u.core.pwrreq = none))
    ∧ (inDoze s = true → s.boot.wake = false → s.flag fPwrBusy = false →
      let woken := fun (u : State) (bit : Nat) => u.flag ⟨0x84, bit, bit⟩ = true ∧ Rings s u [8] ∧ u.flag fPwrBusy = true
        ∧ u.core = { s.core with pwrreq := some 3#2, railWait := true } ∧ u.boot = { s.boot with wake := true } ∧ RegsKept s u [0x18, 0x74, 0x84]
      (Ends .powerTargetRun s fun u => woken u 3)
      ∧ (bitN (s.reg 0x80).toNat 2 = true → Ends .wakeTimerExpiry s fun u => woken u 2)
      ∧ (bitN (s.reg 0x80).toNat 2 = false → Idle .wakeTimerExpiry s))
    ∧ (inDoze s = true → Ends .timebaseCarry s fun u => u.core.carryC = s.core.carryC + 128#64
        ∧ u.core.carryA = (if s.core.carryA < 3 then s.core.carryA + 122 else s.core.carryA - 3) ∧ RegsKept s u [] ∧ u.mem = s.mem)
    ∧ (interior s = true → Idle .timebaseCarry s)

open Sys2Proof.Claims in
/-- R487-R491, R495, Tables 23-2 to 23-4: a power-cap window moves each spindle's cap level by one, compares the estimate with the cap, adds the energies and
leaves LEVEL at the largest of cap level, zone floor and FLOOR. A sample sets every reading with its offset, HOTTEST and a SENSOR that reads it; the zone is
the highest whose trip point is reached, or that was entered and is not 3 degrees below it; the critical zone stops the device. -/
def Obligations.Throttling_and_thermal_zones : Prop :=
  ∀ s : State, running s = true →
    (∀ (est : BitVec 12) (uj : EnergyStep),
      let cap := s.fld ⟨0x78, 11, 0⟩
      let lvl := fun (x : State) sp => Sparse.get (fun _ => 0) x.pwr.caps sp
      Ends (.powerCapWindow est uj) s fun u =>
        (∀ sp < 64, lvl u sp =
          if s.flag ⟨0x78, 31, 31⟩ = false then 0
          else if cap < est.toNat then (if sp ∈ s.pwr.issued then min 15 (lvl s sp + 1) else lvl s sp)
          else if est.toNat * 100 < cap * 95 then lvl s sp - 1 else lvl s sp)
        ∧ u.pwr.issued = []
        ∧ (s.flag ⟨0x78, 31, 31⟩ = true → u.flag ⟨C 0xB0004, 31, 31⟩ = decide (cap < est.toNat) ∧ u.fld ⟨C 0xB0004, 11, 0⟩ = est.toNat)
        ∧ (∀ sp < 64, u.fld ⟨C (0xB0100 + 4 * sp), 3, 0⟩ =
            max (lvl u sp) (max (zoneFloor s) (s.fld ⟨C (0xB0100 + 4 * sp), 19, 16⟩)) % 16)
        ∧ (∀ e ∈ [(0, uj.device), (1, uj.twist), (2, uj.flyers), (3, uj.skein), (4, uj.pins)],
            counter u (0xB0200 + 8 * e.1) = (counter s (0xB0200 + 8 * e.1) + e.2.toNat) % 2 ^ 64)
        ∧ u.mem = s.mem ∧ u.fly = s.fly ∧ u.log = s.log)
    ∧ (∀ raw : List (BitVec 12), raw.length = 64 → ∀ t : Int, (∃ n < 64, ∃ r, raw[n]? = some r ∧ sensorTemp s n r = t) →
        (∀ n < 64, ∀ r, raw[n]? = some r → sensorTemp s n r ≤ t) →
      let trip := fun z => if z = 1 then (s.fld ⟨C 0xB0000, 7, 0⟩ : Int) else if z = 2 then s.fld ⟨C 0xB0000, 15, 8⟩ else 125
      let holds := fun z => trip z ≤ t ∨ (z ≤ s.fld fZone ∧ trip z - 3 < t)
      Ends (.thermalSample (raw.map some)) s fun u =>
        (∀ n < 64, ∀ r, raw[n]? = some r → u.flag ⟨C (0xB0400 + 4 * n), 31, 31⟩ = true
          ∧ u.fld ⟨C (0xB0400 + 4 * n), 7, 0⟩ = wrapN 8 (sensorTemp s n r))
        ∧ u.fld fHottest = wrapN 8 t ∧ (∃ r, raw[u.fld fSensorIx]? = some r ∧ sensorTemp s (u.fld fSensorIx) r = t)
        ∧ (∃ z ≤ 3, u.fld fZone = z ∧ (z = 0 ∨ holds z) ∧ (∀ z', z < z' → z' ≤ 3 → ¬ holds z')
          ∧ (z ≠ s.fld fZone → IntSet u 6)
          ∧ (z = 3 → s.fld fZone ≠ 3 → u.core.critical = true ∧ u.core.ttrip = true ∧ u.core.pwrreq = some 0#2 ∧ interior u = false)
          ∧ (z ≠ 3 → u.core = s.core)))
    ∧ (∀ raw : List (Option (BitVec 12)), raw.length = 64 → ∀ n < 64, raw[n]? = some none →
      Ends (.thermalSample raw) s fun u => u.flag ⟨C (0xB0400 + 4 * n), 31, 31⟩ = false
        ∧ u.fld ⟨C (0xB0400 + 4 * n), 7, 0⟩ = s.fld ⟨C (0xB0400 + 4 * n), 7, 0⟩)

open Sys2Proof.Claims in
/-- R84, Table 3-22: KICK 0x6B reloads REMAIN with PERIOD x 16 and changes nothing else; KICK 0x00 sets PERIOD, ACTION and LOCK unless LOCK is 1 and reloads
REMAIN; at half of PERIOD x 16 WDOG_WARN is set; at zero ACTION is taken and REMAIN reloads. -/
def Obligations.The_watchdog_counts_and_acts : Prop :=
  ∀ s : State, interior s = true →
    (Ends .watchdogKick s fun u => u.fld fWdRemain = s.fld fWdPeriod * 16 ∧ u.fld ⟨0xB0, 19, 0⟩ = s.fld ⟨0xB0, 19, 0⟩ ∧ OnlyRegs s u [0xB0])
    ∧ (∀ (p : BitVec 8) (a : BitVec 2) (l : Bool), s.flag fWdLock = false →
      Ends (.watchdogConfig p a l) s fun u => u.fld fWdPeriod = p.toNat ∧ u.fld fWdAction = a.toNat ∧ u.flag fWdLock = l
        ∧ u.fld fWdRemain = p.toNat * 16 ∧ OnlyRegs s u [0xB0])
    ∧ (∀ (p : BitVec 8) (a : BitVec 2) (l : Bool), s.flag fWdLock = true →
      Ends (.watchdogConfig p a l) s fun u => u.fld ⟨0xB0, 19, 0⟩ = s.fld ⟨0xB0, 19, 0⟩ ∧ u.fld fWdRemain = s.fld fWdPeriod * 16
        ∧ OnlyRegs s u [0xB0])
    ∧ (s.fld fWdPeriod = 0 → Idle .watchdogHalf s ∧ Idle .watchdogExpiry s)
    ∧ (s.fld fWdPeriod ≠ 0 → Ends .watchdogHalf s fun u => u.fld fWdRemain = s.fld fWdPeriod * 8 ∧ Rings s u [13] ∧ OnlyRegs s u [0x18, 0xB0])
    ∧ (s.fld fWdPeriod ≠ 0 → Room s 0x004 →
      (s.fld fWdAction = 0 → Ends .watchdogExpiry s fun u => u.fld fWdRemain = s.fld fWdPeriod * 16 ∧ Logs s u 7 0x004 0 0 0 ∧ RegsKept s u [0xB0])
      ∧ (s.fld fWdAction = 1 → Ends .watchdogExpiry s fun u => u.fld fWdRemain = s.fld fWdPeriod * 16 ∧ Logs s u 7 0x004 0 0 1 ∧ Rings s u [13]
          ∧ RegsKept s u [0x18, 0xB0])
      ∧ (s.fld fWdAction = 2 → s.host.logPage = none → Ends .watchdogExpiry s fun u => WarmedUp s u 4 ∧ u.reg 0xB0 = regReset 0xB0
          ∧ u.mem.dram = s.mem.dram)
      ∧ (s.fld fWdAction = 3 → s.core.railWait = false → Ends .watchdogExpiry s fun u => u.fld fWdRemain = s.fld fWdPeriod * 16
          ∧ Logs s u 7 0x004 0 0 3 ∧ u.flag fPwrBusy = true ∧ u.core = { s.core with entryCode := some 2#2, entryQuiesce := false }
          ∧ RegsKept s u [0x74, 0xB0]))

/-! ### The host bus and the windows -/

/-- Registers whose writes do no more than their access codes say (Tables 3-3 to 3-22, 6-6, 7-1, 12-10, 15-1, 16-1, 17-1, 22-4): number, RW bits, W1C
bits. -/
def Sys2Proof.Claims.plainRegs : List (Nat × W32 × W32) :=
  [ (0x00, 0#32, 0#32), (0x14, 0#32, 0#32), (0x50, 0#32, 0#32), (0x9C, 0#32, 0#32), (0x1C, 0x3FFFFF#32, 0#32)
  , (0x78, 0x80000FFF#32, 0#32), (0x80, 0xFFFFFF07#32, 0#32), (0x84, 0#32, 0xF#32), (0xAC, 0xFFFFFFFF#32, 0#32)
  , (C 0x10800, 0xFFFFF000#32, 0#32), (C 0x10804, 0xFFFF#32, 0#32), (C 0x10810, 0xFFFF#32, 0#32), (C 0x20404, 0#32, 0xFFFF#32)
  , (C 0x20408, 0#32, 0xFFFF#32), (C 0x30008, 0xFFFFFFFF#32, 0#32), (C 0x50010, 0xFFFFFFFF#32, 0#32), (C 0x5012C, 0#32, 0xFF#32)
  , (C 0x50130, 0xFF#32, 0#32), (C 0x60304, 0x3FF03FF#32, 0#32), (C 0x70304, 0xFFFFFFFF#32, 0#32), (C 0xC0004, 0#32, 0#32)
  , (C 0xE0008, 0#32, 0#32) ]

/-- The block that holds a register answers a write: the host block while the interior runs, a control-space block once it is released and not in
function reset (Table 3-3, R119, R79). -/
def Sys2Proof.Claims.Answers (s : State) (r : Nat) : Prop := running s = true ∧ (C 0 ≤ r → ctlErr s (r - C 0) = 0)

open Sys2Proof.Claims in
/-- R8, R9, R11, R58-R60, R70, R73, R77, R87, Tables 0-2, 3-9 and 3-24: a HOST_WRITE is posted and the ninth waits; a write that takes effect changes a
register by the access codes of its fields, and one with an unlisted encoding is ignored whole and logged; INT_STATUS is write-one-to-clear and INT_FORCE
sets; SYNC_MODE_SWITCH and an aborted strobe act after every earlier write; an address write aims a window, clears its ERR and drops WIN0's page. -/
def Obligations.Host_writes_and_register_access_codes : Prop :=
  ∀ s : State,
    (∀ (slot : Fin 64) (v : W32), s.core.mclk = true → s.core.porstLow = false → s.core.critical = false → s.core.clockLost = none →
        s.host.wait = false →
      Ends (.hostWrite slot v) s fun u => RegsKept s u [] ∧ { u with regs := s.regs } =
        { s with host := { s.host with posted := s.host.posted ++ [(4 * slot.val, v)], wait := decide (8 ≤ s.host.posted.length) } })
    ∧ (∀ (slot : Fin 64) (v : W32), s.host.wait = true ∨ s.core.clockLost ≠ none ∨ s.core.porstLow = true → Idle (.hostWrite slot v) s)
    ∧ (∀ (slot : Fin 64) (v : W32), s.core.mclk = false → s.core.porstLow = false → s.core.critical = false → s.core.clockLost = none →
        s.host.wait = false → inDoze s = false →
      Ends (.hostWrite slot v) s fun u => u.host = { s.host with posted := s.host.posted ++ [(4 * slot.val, v)], wait := true }
        ∧ RegsKept s u [])
    ∧ (s.flag fQuiesce = false → ∀ e ∈ plainRegs, Answers s e.1 → ∀ (rb : BitVec 25) (v : W32), rb.toNat = e.1 →
      Ends (.registerWrite rb v) s fun u => u.reg e.1 = (s.reg e.1 &&& ~~~(e.2.1 ||| (e.2.2 &&& v))) ||| (v &&& e.2.1) ∧ OnlyRegs s u [e.1])
    ∧ (s.flag fQuiesce = false → Room s 0x041 →
      ∀ e ∈ [(0x30010, 23, 16, 1, 255, 0x40), (0x70204, 19, 0, 1000, 1000000, 0), (0xD000C, 31, 28, 0, 6, 0)], Answers s (C e.1) →
        ∀ (rb : BitVec 25) (v : W32), rb.toNat = C e.1 →
        let f := bitsOf v e.2.1 e.2.2.1
        (e.2.2.2.1 ≤ f → f ≤ e.2.2.2.2.1 → Ends (.registerWrite rb v) s fun u => u.fld ⟨C e.1, e.2.1, e.2.2.1⟩ = f ∧ OnlyRegs s u [C e.1])
        ∧ (f < e.2.2.2.1 ∨ e.2.2.2.2.1 < f → f ≠ e.2.2.2.2.2 →
          Ends (.registerWrite rb v) s fun u => RegsKept s u [] ∧ Logs s u 4 0x041 0 0 (0x110000000000 + e.1)))
    ∧ (∀ (rb : BitVec 25) (v : W32), (C 0 ≤ rb.toNat → ctlErr s (rb.toNat - C 0) ≠ 0) → (rb.toNat < C 0 → 0xB8 ≤ rb.toNat) →
        s.flag fQuiesce = false → Idle (.registerWrite rb v) s)
    ∧ (interior s = true → s.flag fQuiesce = false →
      (∀ v : W32, Ends (.intStatusClear v) s fun u => u.reg 0x18 = (s.reg 0x18 &&& ~~~(v &&& 0x3FFFFF#32)) ||| conditions u
          ∧ OnlyRegs s u [0x18])
      ∧ (∀ v : W32, Ends (.intForce v) s fun u => u.reg 0x18 = s.reg 0x18 ||| (v &&& 0x3FFFFF#32) ||| conditions u ∧ OnlyRegs s u [0x18])
      ∧ (s.host.posted = [] →
        (∀ b : Bool, Ends (.syncModeSwitch b) s fun u => u.flag fSync = b ∧ OnlyRegs s u [0xB4])
        ∧ (∀ (slot : Fin 64) (v : W32), Idle (.hostStrobeAbort false slot v) s
          ∧ (slot.val = 43 → Ends (.hostStrobeAbort true slot v) s fun u => u.reg 0xAC = v ∧ OnlyRegs s u [0xAC])
          ∧ ∀ rb : BitVec 25, rb.toNat = 4 * slot.val → exec (.hostStrobeAbort true slot v) s = exec (.registerWrite rb v) s))
      ∧ (∀ (w : Fin 2) (v : W32),
        (Ends (.winAddrWrite w false v) s fun u => winAddr u w.val = winAddr s w.val / 2 ^ 32 * 2 ^ 32 + v.toNat / 4 * 4
          ∧ u.fld (fWinErr w.val) = 0 ∧ (w = 0 → u.host.win0 = none ∧ u.host.drainTaken = 0)
          ∧ (w = 1 → OnlyRegs s u [0x3C, 0x40]))
        ∧ (Ends (.winAddrWrite w true v) s fun u => winAddr u w.val = v.toNat % 65536 * 2 ^ 32 + winAddr s w.val % 2 ^ 32
          ∧ u.fld (fWinErr w.val) = 0 ∧ (w = 0 → u.host.win0 = none ∧ u.host.drainTaken = 0)
          ∧ (w = 1 → OnlyRegs s u [0x40]))))

open Sys2Proof.Claims in
/-- R55, R60-R62, R66, R67, R78, R79, R176, R234: a read answers after every earlier write with its word on HD; TIMEBASE_LO and a counter's low word latch the
high word; a window read gives the memory's or the register's word, and a failed one zero with the first ERR kept and WIN_ERR; a window write stores its
word, WIN0_DATA_INC moves on to the next word, and its reads deliver a page copied to the end of 4 KiB. In a clock-loss stop a read gives zero. -/
def Obligations.Host_reads_and_windows : Prop :=
  ∀ s : State,
    (s.core.clockLost ≠ none → ∀ c ∈ [Instr.timebaseLoRead, .winDataRead 0 .clean, .winDataRead 1 .clean, .win0DataIncRead .clean, .logDataRead .clean,
        .doffDataRead], Ends c s fun u => u.host = { s.host with hd := 0#32 } ∧ u.core = s.core ∧ RegsKept s u [])
    ∧ (hostServed s = true → s.core.clockLost = none →
      let d := drainHost s
      let t := if inDoze d then d.core.carryC else d.core.timebase
      Ends .timebaseLoRead s fun u => u.host = { d.host with hd := BitVec.ofNat 32 (t.toNat % 2 ^ 32) }
        ∧ u.core = { d.core with tbShadow := BitVec.ofNat 32 (t.toNat / 2 ^ 32) } ∧ RegsKept d u [])
    ∧ (∀ off : BitVec 24, ctlErr s off.toNat = 0 → isCounter off.toNat = true → off.toNat % 8 = 0 →
      Ends (.counterLoRead off) s fun u => RegsKept s u [] ∧ Sparse.get (fun _ => 0#32) u.host.latches (off.toNat + 4) = s.reg (C (off.toNat + 4))
        ∧ ∀ k, k ≠ off.toNat + 4 → Sparse.get (fun _ => 0#32) u.host.latches k = Sparse.get (fun _ => 0#32) s.host.latches k)
    ∧ (running s = true → s.host.posted = [] → s.mem.applying = none →
      (∀ (w : Fin 2) (e : Ecc),
        let a := winAddr s w.val
        (e = .clean → isMem s a → poisoned s a 4 = false →
          Ends (.winDataRead w e) s fun u => u.host = { s.host with hd := BitVec.ofNat 32 (leNat (memRead s a 4)) } ∧ u.reg 0x30 = s.reg 0x30
            ∧ u.reg 0x40 = s.reg 0x40 ∧ MemKept s u ∧ u.log = s.log)
        ∧ (e = .uncorrectable → isMem s a →
          Ends (.winDataRead w e) s fun u => u.host = { s.host with hd := 0#32 } ∧ IntSet u 14 ∧ IntSet u 5
            ∧ u.fld (fWinErr w.val) = (if s.fld (fWinErr w.val) = 0 then 4 else s.fld (fWinErr w.val)))
        ∧ (∀ off, target s a = .ctl off → ctlErr s off = 0 → inDrain off = false →
          Ends (.winDataRead w e) s fun u => u.host.hd = ctlPeek s off ∧ RegsKept s u [] ∧ u.mem = s.mem)
        ∧ (∀ code, FailsWith s a code →
          let err := fun (u : State) => u.fld (fWinErr w.val) = (if s.fld (fWinErr w.val) = 0 then code else s.fld (fWinErr w.val))
            ∧ Rings s u [14] ∧ RegsKept s u [0x18, (fWinErr w.val).reg] ∧ u.mem = s.mem
          (Ends (.winDataRead w e) s fun u => err u ∧ u.host = { s.host with hd := 0#32 })
          ∧ (s.flag fQuiesce = false → ∀ v, Ends (.winDataWrite w v) s fun u => err u ∧ u.host = s.host)))
      ∧ (∀ (w : Fin 2) (v : W32), s.flag fQuiesce = false → MergeSound s → isMem s (winAddr s w.val) →
        Ends (.winDataWrite w v) s fun u => Wrote s u (winAddr s w.val) (leBytes 4 v.toNat) ∧ winAddr u w.val = winAddr s w.val
          ∧ u.host = s.host)
      ∧ (∀ v : W32, s.flag fQuiesce = false → MergeSound s → isMem s (winAddr s 0) →
        Ends (.win0DataIncWrite v) s fun u => Wrote s u (winAddr s 0) (leBytes 4 v.toNat) ∧ winAddr u 0 = (winAddr s 0 + 4) % 2 ^ 48
          ∧ u.host = s.host)
      ∧ (∀ (b : W32) (t : List W32), s.host.win0 = some (b :: t) →
        Ends (.win0DataIncRead .clean) s fun u => winAddr u 0 = (winAddr s 0 + 4) % 2 ^ 48
          ∧ u.host = { s.host with hd := b, win0 := if t = [] then none else some t, drainTaken := s.host.drainTaken - 1 }
          ∧ RegsKept s u [0x2C, 0x30])
      ∧ (∀ code, s.host.win0 = none → FailsWith s (winAddr s 0) code → ∀ e,
        Ends (.win0DataIncRead e) s fun u => u.host = { s.host with hd := 0#32 } ∧ winAddr u 0 = (winAddr s 0 + 4) % 2 ^ 48 ∧ Rings s u [14]
          ∧ u.fld (fWinErr 0) = (if s.fld (fWinErr 0) = 0 then code else s.fld (fWinErr 0)))
      ∧ (s.host.win0 = none →
        let a := winAddr s 0
        let n := (4096 - a % 4096) / 4
        let word := fun i => BitVec.ofNat 32 (leNat (memRead s (a + 4 * i) 4))
        (∀ i < n, isMem s (a + 4 * i) ∧ poisoned s (a + 4 * i) 4 = false) →
        Ends (.win0DataIncRead .clean) s fun u => u.host.hd = word 0 ∧ MemKept s u ∧ winAddr u 0 = (a + 4) % 2 ^ 48
          ∧ u.host.win0 = if n = 1 then none else some ((List.range (n - 1)).map (fun i => word (i + 1))))
      ∧ (∀ off, s.host.win0 = none → target s (winAddr s 0) = .ctl off → inDrain off = true → ctlErr s off = 0 → off % 4096 ≤ 4080 →
          ∀ r rest, s.touch.fifo = r :: rest →
        Ends (.win0DataIncRead .clean) s fun u => u.host.hd = BitVec.ofNat 32 (fieldAt ((s.touch.fifo.take ((4096 - off % 4096) / 16)).flatten) 0 4)
          ∧ u.touch = { s.touch with fifo := s.touch.fifo.drop ((4096 - off % 4096) / 16) })
      ∧ (∀ (w : Fin 2) (write : Bool), winFail s (winAddr s w.val) = 0 →
        Ends (.winTimeout w write) s fun u => u.fld (fWinErr w.val) = (if s.fld (fWinErr w.val) = 0 then 2 else s.fld (fWinErr w.val))
          ∧ Rings s u [14] ∧ u.host = (if write then s.host else { s.host with hd := 0#32 }) ∧ u.mem = s.mem))

/-- The word of the log ring's entry with a sequence number (Table 21-2). -/
def Sys2Proof.Claims.entryWord (s : State) (seq i : Nat) : W32 :=
  ((((Sparse.find s.log.ring (seq % 4096)).map LogEntry.words).getD [0#32, 0#32, 0#32, 0#32])[i]?).getD 0#32

open Sys2Proof.Claims in
/-- R64, R82, R448, R449, Tables 3-14 and 21-4: LOG_DATA takes a page of min(A, 256) entries from READ_SEQ on and delivers it word by word; its last word ends
the page; REWIND delivers the page's surviving entries again; CLR_LOST zeroes LOST_COUNT. The log writes the queued entries into the ring, each unit in
turn, overwriting the oldest when 4,096 are undelivered; a window of a millisecond renews the CLASS 1 allowances; ERR_CTRL.CLR zeroes the four counters. -/
def Obligations.The_event_log_is_written_and_drained : Prop :=
  ∀ s : State, interior s = true →
    let undel := (s.fld fWriteSeq + 65536 - s.fld fReadSeq) % 65536
    (s.host.posted = [] → s.host.logPage = none → undel ≠ 0 →
      Ends (.logDataRead .clean) s fun u => u.host.hd = entryWord s (s.fld fReadSeq) 0
        ∧ u.fld fReadSeq = (s.fld fReadSeq + min undel 256) % 65536 ∧ u.fld fPageCount = min undel 256 ∧ u.flag fPageHeld = true
        ∧ u.fld fWordIndex = 1 ∧ RegsKept s u [0x64, 0x70] ∧ u.log = s.log
        ∧ ∃ p, u.host.logPage = some p ∧ p.first = s.fld fReadSeq ∧ p.n = min undel 256
          ∧ ∀ k < min undel 256, ∀ i < 4, p.words[4 * k + i]? = some (entryWord s ((s.fld fReadSeq + k) % 65536) i))
    ∧ (s.host.posted = [] → s.host.logPage = none → undel = 0 →
      Ends (.logDataRead .clean) s fun u => u.host = { s.host with hd := 0#32 } ∧ RegsKept s u [])
    ∧ (s.host.posted = [] → ∀ p d, s.host.logPage = some p →
      (s.fld fWordIndex < 1023 → Ends (.logDataRead d) s fun u => u.host = { s.host with hd := (p.words[s.fld fWordIndex]?).getD 0#32 }
          ∧ u.fld fWordIndex = s.fld fWordIndex + 1 ∧ RegsKept s u [0x64])
      ∧ (s.fld fWordIndex = 1023 → Ends (.logDataRead d) s fun u =>
          u.host = { s.host with hd := (p.words[1023]?).getD 0#32, logPage := none } ∧ u.fld fWordIndex = 0 ∧ u.fld fPageCount = 0
          ∧ u.flag fPageHeld = false ∧ RegsKept s u [0x64, 0x70]))
    ∧ (∀ p, s.host.logPage = some p → p.first < 65536 → (p.first + 65536 - (s.fld fWriteSeq + 65536 - s.log.count) % 65536) % 65536 ≤ 4096 →
      Ends .rewind s fun u => u.host = { s.host with logPage := none } ∧ u.fld fReadSeq = p.first ∧ u.fld fWordIndex = 0
        ∧ u.fld fPageCount = 0 ∧ u.flag fPageHeld = false ∧ RegsKept s u [0x64, 0x70])
    ∧ (s.host.logPage = none → Idle .rewind s)
    ∧ (Ends .clrLost s fun u => u.fld fLost = 0 ∧ u.fld fWriteSeq = s.fld fWriteSeq ∧ OnlyRegs s u [0x68])
    ∧ (2 ≤ s.fld fPhase →
      (s.log.queued = [] → Idle .logEntryWrite s)
      ∧ (∀ (un : Nat) (e : LogEntry) (pre post : List (Nat × LogEntry)), s.log.queued = pre ++ (un, e) :: post → un < 16 →
          (∀ q ∈ pre, q.1 ≠ un) →
          (∀ q ∈ s.log.queued, (un + 15 - s.log.lastUnit % 16) % 16 ≤ (q.1 + 15 - s.log.lastUnit % 16) % 16) → undel < 4096 →
        Ends .logEntryWrite s fun u => u.fld fWriteSeq = (s.fld fWriteSeq + 1) % 65536
          ∧ u.log = { s.log with
              queued := pre ++ post, lastUnit := un, count := min 4096 (s.log.count + 1)
              ring := Sparse.insert s.log.ring (s.fld fWriteSeq % 4096) e }
          ∧ Rings s u (if e.cls = 2 ∨ e.cls = 3 then [5] else []) ∧ RegsKept s u [0x18, 0x68])
      ∧ (∀ (un : Nat) (e : LogEntry), s.log.queued = [(un, e)] → un < 16 → undel = 4096 →
        Ends .logEntryWrite s fun u => u.fld fWriteSeq = (s.fld fWriteSeq + 1) % 65536 ∧ u.fld fReadSeq = (s.fld fReadSeq + 1) % 65536
          ∧ u.fld fLost = min 65535 (s.fld fLost + 1) ∧ IntSet u 3 ∧ Sparse.find u.log.ring (s.fld fWriteSeq % 4096) = some e)
      ∧ (Ends .ceWindow s fun u => u.log = { s.log with ceSpent := [] } ∧ RegsKept s u []))
    ∧ (running s = true → Ends .errClr s fun u => (∀ i < 4, u.reg (C (0xC0004 + 4 * i)) = 0#32)
        ∧ OnlyRegs s u ((List.range 16).map (fun k => C (0xC0004 + k))))

/-! ### Freeze, readout and the test port -/

/-- A freeze has begun (R456, R457, Tables 3-18, 3-24 and 22-1): FROZEN, hard unless the block was quiesced and no test instruction holds the pins; writes
posted to registers that a freeze does not serve are gone, illuminators low, the links silent, and nothing else has moved. -/
def Sys2Proof.Claims.Froze (s u : State) (pin : Bool) : Prop :=
  u.flag fFrozen = true ∧ u.flag fHardFrozen = (!s.flag fQuiesced || (s.dbg.ir = 3 || s.dbg.ir = 4 || s.dbg.ir = 5)) ∧ u.flag fSourcePin = pin
    ∧ Rings s u [17] ∧ interior u = false
    ∧ u.host = { s.host with posted := s.host.posted.filter (fun w => [0x10, 0x18, 0x1C, 0x20, 0x70, 0x88, 0x8C, 0xAC, 0xB4].contains w.1) }
    ∧ (∀ k < 2, (illAt u k).high = false) ∧ (∀ p ∈ u.peer.ports, p.tx = none) ∧ u.mem = s.mem ∧ u.fly = s.fly ∧ u.log = s.log
    ∧ u.core.timebase = s.core.timebase ∧ RegsKept s u [0x08, 0x18, 0x88, C 0x70308, C 0x70318]

open Sys2Proof.Claims in
/-- R51, R65, R456-R464, Tables 3-18, 4-10, 22-1 and 22-2: the FREEZE pin and a request freeze the block once phase CLOCK is over and no power transition runs,
else nothing happens; a thaw ends a quiet freeze while the pin is low. In a freeze DOFF_CTRL.START begins a readout, DOFF_DATA gives its words in order
and ends it after the last, ABANDON ends it; the log ring is chain 0x04 and skein n is chain 0x80 + n. -/
def Obligations.Freeze_thaw_and_readout : Prop :=
  ∀ s : State,
    (interior s = true → s.fld fPhase ≠ 0 → s.flag fPwrBusy = false →
      (∀ held : Bool, Ends (.freezePinRise held) s fun u => Froze s u true ∧ u.core = { s.core with freezePin := held })
      ∧ Ends .freezeRequest s fun u => Froze s u false ∧ u.core = s.core)
    ∧ (interior s = false ∨ s.fld fPhase = 0 ∨ s.flag fPwrBusy = true → Idle .freezeRequest s
      ∧ ∀ held : Bool, Ends (.freezePinRise held) s fun u => u.core = { s.core with freezePin := held } ∧ RegsKept s u [])
    ∧ (s.flag fFrozen = true → s.flag fHardFrozen = false → s.core.freezePin = false → s.core.mclk = true →
      Ends .thaw s fun u => u.flag fFrozen = false ∧ u.flag fHardFrozen = false ∧ u.flag fSourcePin = false ∧ u.flag fJtagOwns = false
        ∧ u.flag fDoffActive = false ∧ u.dbg.doff = none ∧ u.log.later = []
        ∧ ((∀ n < 4, s.flag (fLkPresent n) = (s.core.prsnt[n]?).getD false) → ∀ n < 4, u.fld (fLkState n) = 0))
    ∧ (s.flag fFrozen = false ∨ s.flag fHardFrozen = true ∨ s.core.freezePin = true → Idle .thaw s)
    ∧ (∀ c : BitVec 8, s.flag fFrozen = true → s.flag fJtagOwns = false → doffData c.toNat ≠ 0 →
      Ends (.doffStart c) s fun u => u.dbg = { s.dbg with doff := some ⟨c.toNat, 0, doffData c.toNat + doffCheck c.toNat⟩ }
        ∧ u.flag fDoffActive = true ∧ u.fld fDoffPage = 0 ∧ u.fld fDoffChain = c.toNat ∧ RegsKept s u [0x8C])
    ∧ (∀ c : BitVec 8, s.flag fFrozen = false → Ends (.doffStart c) s fun u => u.fld fDoffChain = c.toNat ∧ OnlyRegs s u [0x8C])
    ∧ (s.flag fJtagOwns = false → Ends .doffAbandon s fun u => u.dbg = { s.dbg with doff := none } ∧ u.flag fDoffActive = false
        ∧ u.fld fDoffPage = 0 ∧ RegsKept s u [0x8C])
    ∧ (s.flag fJtagOwns = true → Idle .doffAbandon s)
    ∧ (hostServed s = true → s.core.clockLost = none → s.host.posted = [] → s.flag fJtagOwns = false →
      (s.dbg.doff = none → Ends .doffDataRead s fun u => u.host = { s.host with hd := 0#32 } ∧ RegsKept s u [])
      ∧ (∀ d, s.dbg.doff = some d →
        (d.word + 1 < d.pages * 1024 → Ends .doffDataRead s fun u => u.host = { s.host with hd := doffWord s d.chain d.word }
            ∧ u.dbg = { s.dbg with doff := some { d with word := d.word + 1 } } ∧ u.fld fDoffPage = (d.word + 1) / 1024 % 2 ^ 14 ∧ RegsKept s u [0x8C])
        ∧ (d.pages * 1024 ≤ d.word + 1 → Ends .doffDataRead s fun u => u.host = { s.host with hd := doffWord s d.chain d.word }
            ∧ u.dbg = { s.dbg with doff := none } ∧ u.flag fDoffActive = false ∧ u.fld fDoffPage = 0 ∧ RegsKept s u [0x8C])
        ∧ (d.chain = 4 → d.word < 16384 → Ends .doffDataRead s fun u =>
            u.host.hd = (((Sparse.find s.log.ring (d.word / 4)).map LogEntry.words).bind (fun l => l[d.word % 4]?)).getD 0#32)
        ∧ (∀ n < 64, d.chain = 0x80 + n → d.word < 131072 → Ends .doffDataRead s fun u =>
            u.host.hd = BitVec.ofNat 32 (leNat (getBytes noByte s.mem.skein (n * 0x80000 + 4 * d.word) 4)))))

open Sys2Proof.Claims in
/-- R466-R470, Table 22-3: with power-on reset released each instruction is loaded and its data register gives its word: IDCODE and a reset of the TAP give
0xB104_07AB; SAMPLE/PRELOAD captures the pins and takes the boundary; EXTEST, HIGHZ and CLAMP hold the pins only in a freeze, which they make hard, or in
PHASE 0xF; FREEZE_REQ captures the freeze and asks for one or a thaw; DOFF_SELECT and DOFF_READ read a chain out; CTRL_ACCESS captures the last access and
makes the next, failing wherever the block does not answer. -/
def Obligations.Test_port_instructions : Prop :=
  ∀ s : State,
    (Ends .tapReset s fun u => u.dbg = { s.dbg with ir := 1, tdo := 0xB10407AB#64 } ∧ RegsKept s u [])
    ∧ (s.core.porstLow = false →
      (Ends .bypass s fun u => u.dbg = { s.dbg with ir := 0xFF, tdo := 0#64 } ∧ RegsKept s u [])
      ∧ (Ends .idcode s fun u => u.dbg = { s.dbg with ir := 1, tdo := 0xB10407AB#64 } ∧ RegsKept s u [])
      ∧ (∀ pins load, Ends (.samplePreload pins load) s fun u => u.dbg = { s.dbg with ir := 2, tdo := 0#64, captured := pins, boundary := load }
          ∧ RegsKept s u [])
      ∧ (s.flag fFrozen = true ∨ s.fld fPhase = 15 →
        let held := fun (u : State) => u.flag fHardFrozen = (s.flag fHardFrozen || s.flag fFrozen) ∧ RegsKept s u [0x08]
        (∀ pins load, Ends (.extest pins load) s fun u => u.dbg = { s.dbg with ir := 3, tdo := 0#64, captured := pins, boundary := load } ∧ held u)
        ∧ (Ends .highz s fun u => u.dbg = { s.dbg with ir := 4, tdo := 0#64 } ∧ held u)
        ∧ (Ends .clamp s fun u => u.dbg = { s.dbg with ir := 5, tdo := 0#64 } ∧ held u))
      ∧ (s.flag fFrozen = false → s.fld fPhase ≠ 15 →
        (∀ pins load, Ends (.extest pins load) s fun u => u.dbg = { s.dbg with ir := 3, tdo := 0#64 } ∧ RegsKept s u [])
        ∧ (Ends .highz s fun u => u.dbg = { s.dbg with ir := 4, tdo := 0#64 } ∧ RegsKept s u [])
        ∧ (Ends .clamp s fun u => u.dbg = { s.dbg with ir := 5, tdo := 0#64 } ∧ RegsKept s u []))
      ∧ (∀ v : BitVec 2, s.flag fFrozen = false → interior s = true → s.fld fPhase ≠ 0 → s.flag fPwrBusy = false →
        Ends (.freezeReq v) s fun u => u.dbg.ir = 0x10 ∧ u.dbg.tdo = (if s.flag fHardFrozen then 2#64 else 0#64)
          ∧ (v.toNat % 2 = 0 → RegsKept s u []) ∧ (v.toNat % 2 = 1 → u.flag fFrozen = true ∧ u.flag fSourcePin = false ∧ Rings s u [17]))
      ∧ (∀ v : BitVec 2, s.flag fFrozen = true →
        Ends (.freezeReq v) s fun u => u.dbg.ir = 0x10 ∧ u.dbg.tdo = (if s.flag fHardFrozen then 3#64 else 1#64)
          ∧ u.flag fFrozen = (v.toNat < 2 || s.flag fHardFrozen || s.core.freezePin))
      ∧ (∀ v : BitVec 9, ∀ chain, chain = (match s.dbg.doff with | some d => d.chain | none => s.fld fDoffChain) → chain < 256 →
        Ends (.doffSelect v) s fun u => u.dbg.ir = 0x11 ∧ u.dbg.tdo = BitVec.ofNat 64 ((if s.flag fDoffActive then 256 else 0) + chain)
          ∧ (s.flag fDoffActive = true → s.flag fJtagOwns = false → u.dbg.doff = s.dbg.doff ∧ RegsKept s u [])
          ∧ (s.flag fJtagOwns = true → v.toNat < 256 → u.dbg.doff = none ∧ u.flag fJtagOwns = false ∧ u.flag fDoffActive = false)
          ∧ ((s.flag fDoffActive = false ∨ s.flag fJtagOwns = true) → s.flag fFrozen = true → 256 ≤ v.toNat → doffData (v.toNat % 256) ≠ 0 →
            u.flag fJtagOwns = true ∧ u.flag fDoffActive = true
              ∧ u.dbg.doff = some ⟨v.toNat % 256, 0, doffData (v.toNat % 256) + doffCheck (v.toNat % 256)⟩))
      ∧ (∀ (n : BitVec 8) (d : Doff), s.flag fJtagOwns = true → s.dbg.doff = some d →
        Ends (.doffRead n) s fun u => u.dbg.tdo = BitVec.ofNat 64 (doffWord s d.chain d.word).toNat ∧ u.dbg.ir = 0x12
          ∧ (n.toNat < 32 → u.dbg.doff = some d)
          ∧ (32 ≤ n.toNat → d.word + 1 < d.pages * 1024 → u.dbg.doff = some { d with word := d.word + 1 })
          ∧ (32 ≤ n.toNat → d.pages * 1024 ≤ d.word + 1 → u.dbg.doff = none))
      ∧ (∀ n : BitVec 8, s.flag fJtagOwns = false → Ends (.doffRead n) s fun u => u.dbg = { s.dbg with ir := 0x12, tdo := 0#64 } ∧ RegsKept s u [])
      ∧ (∀ v : W64,
        let off := v.toNat % 2 ^ 24
        let shown := BitVec.ofNat 64 (s.dbg.ctrlData.toNat * 2 ^ 24 + s.dbg.ctrlStatus * 2 ^ 60)
        (v.toNat < 2 ^ 63 → Ends (.ctrlAccess v) s fun u => u.dbg = { s.dbg with ir := 0x13, tdo := shown } ∧ RegsKept s u [])
        ∧ (2 ^ 63 ≤ v.toNat → ctlErr s off ≠ 0 →
          Ends (.ctrlAccess v) s fun u => u.dbg = { s.dbg with ir := 0x13, tdo := shown, ctrlStatus := 2 } ∧ RegsKept s u [])
        ∧ (2 ^ 63 ≤ v.toNat → v.toNat / 2 ^ 62 % 2 = 0 → ctlErr s off = 0 → inDrain off = false → off / 0x10000 ≠ 13 →
          Ends (.ctrlAccess v) s fun u => u.dbg = { s.dbg with ir := 0x13, tdo := shown, ctrlData := ctlPeek s off, ctrlStatus := 0 }
            ∧ RegsKept s u [])
        ∧ (∀ e ∈ plainRegs, C off = e.1 → Answers s e.1 → s.flag fQuiesce = false → 2 ^ 63 + 2 ^ 62 ≤ v.toNat →
          let w := BitVec.ofNat 32 (v.toNat / 2 ^ 24)
          Ends (.ctrlAccess v) s fun u => u.dbg = { s.dbg with ir := 0x13, tdo := shown, ctrlStatus := 0 }
            ∧ u.reg e.1 = (s.reg e.1 &&& ~~~(e.2.1 ||| (e.2.2 &&& w))) ||| (w &&& e.2.1) ∧ RegsKept s u [e.1])))

/-! ### The debugger and the ledgers -/

/-- The place that DBG_SEL selects (Table 22-4). -/
def Sys2Proof.Claims.selected (s : State) : Nat :=
  (s.fld ⟨C 0xD0000, 5, 0⟩ * 4 + s.fld ⟨C 0xD0000, 9, 8⟩) * 16 + s.fld ⟨C 0xD0000, 15, 12⟩

/-- The ply at a place has halted with a REASON and an INDEX; it has left its flyer's active set, nothing else of it has changed, and DBG_HALTED shows its
flyer (R472, R476, R477). -/
def Sys2Proof.Claims.HaltedAt (s u : State) (k : Nat) (y : Ply) (reason index : Nat) : Prop :=
  (∃ y', plyAt u k = some y' ∧ { y' with active := y.active } =
      { y with halted := true, halting := false, stepping := false, haltReason := reason, haltIndex := index } ∧ (y.twoLevel = true → y'.active = false))
    ∧ (∀ k', k' ≠ k → plyAt u k' = plyAt s k') ∧ u.mem = s.mem
    ∧ (k < 4096 → bitN (u.reg (C (0xD0020 + 4 * (k / 512)))).toNat (k / 16 % 32) = true)

open Sys2Proof.Claims in
/-- R472-R477, Tables 22-4 and 22-5: HALT makes the selected ply halt once its issued instructions have completed, a faulted one at once; BREAKPOINT_HIT halts
a ply whose next PC matches a breakpoint of its flyer; RESUME lets it run on past where it stands; STEP allows one issue; STOP_WORLD and RUN_WORLD stop and
start every flyer; DBG_DATA of a halted ply writes the element that DBG_ACC names. -/
def Obligations.Debug_commands_act_on_plies : Prop :=
  ∀ s : State, running s = true →
    let k := selected s
    let others := fun (u : State) => ∀ k', k' ≠ k → plyAt u k' = plyAt s k'
    (∀ y, plyAt s k = some y →
      (y.halted = false → y.halting = false → y.ended = false → y.faulted = false →
        Ends .halt s fun u => plyAt u k = some { y with halting := true, stepping := false } ∧ others u ∧ RegsKept s u [])
      ∧ (y.halted = false → y.halting = false → y.ended = false → y.faulted = true → Ends .halt s fun u => HaltedAt s u k y 1 0)
      ∧ (y.halted = true → Idle .halt s)
      ∧ (y.halted = true →
        (Ends .dbgResume s fun u => ∃ a b, plyAt u k = some { y with halted := false, haltReason := 0, haltIndex := 0, passBp := a, passBkpt := b }
            ∧ a = (if y.haltReason = 2 ∨ y.haltReason = 4 then y.choose else none) ∧ b = (if y.haltReason = 4 then y.choose else none)
            ∧ others u ∧ u.flag ⟨C 0xD0008, 31, 31⟩ = false)
        ∧ (Ends .step s fun u => plyAt u k = some { y with halted := false, haltReason := 0, haltIndex := 0, stepping := true } ∧ others u
            ∧ u.flag ⟨C 0xD0008, 31, 31⟩ = false))
      ∧ (y.halted = false → Idle .dbgResume s ∧ Idle .step s ∧ ∀ h v, Idle (.dbgDataWrite h v) s)
      ∧ (y.halted = true → ∀ (v : W32),
        let c := s.fld ⟨C 0xD000C, 31, 28⟩
        let ix := s.fld ⟨C 0xD000C, 15, 8⟩
        let l := s.fld ⟨C 0xD000C, 4, 0⟩
        let thread := y.present.getLsbD l = true ∧ y.exited.getLsbD l = false
        let after := fun (c : Instr) (q : Ply → Prop) => Ends c s fun u => ∃ y', plyAt u k = some y' ∧ q y' ∧ others u ∧ RegsKept s u []
        (c = 0 → ix < y.vregs → ix < 128 → thread → after (.dbgDataWrite false v) fun y' => y'.vget ix l = v.toNat
            ∧ (∀ r < 128, ∀ l' < 32, ¬ (r = ix ∧ l' = l) → y'.vget r l' = y.vget r l') ∧ { y' with v := y.v, mem := y.mem } = y)
        ∧ (c = 1 → ix < 32 → after (.dbgDataWrite false v) fun y' => y'.sget ix = v.toNat ∧ (∀ r < 32, r ≠ ix → y'.sget r = y.sget r)
            ∧ { y' with sc := y.sc, mem := y.mem } = y)
        ∧ (c = 2 → ix < 8 → thread → after (.dbgDataWrite false v) fun y' => (y'.pget ix).getLsbD l = bitN v.toNat 0
            ∧ (∀ p < 8, ∀ l' < 32, ¬ (p = ix ∧ l' = l) → (y'.pget p).getLsbD l' = (y.pget p).getLsbD l') ∧ { y' with pr := y.pr } = y)
        ∧ (c = 3 → thread → v.toNat % 8 = 0 → l < y.pcs.length → after (.dbgDataWrite false v) fun y' =>
            y'.pcOf l = y.pcOf l / 2 ^ 32 * 2 ^ 32 + v.toNat ∧ { y' with pcs := y.pcs } = y)
        ∧ (c = 3 → thread → v.toNat < 65536 → l < y.pcs.length → after (.dbgDataWrite true v) fun y' =>
            y'.pcOf l = v.toNat * 2 ^ 32 + y.pcOf l % 2 ^ 32 ∧ { y' with pcs := y.pcs } = y)
        ∧ (c = 4 → after (.dbgDataWrite false v) fun y' => y' = { y with fpflags := BitVec.ofNat 5 v.toNat })))
    ∧ (∀ (p : PlyId) (y : Ply), plyAt s (plyKey p) = some y → y.halting = true → y.ended = false →
        (∀ o ∈ y.mem, wOp o.w = 0x72 ∧ o.step = false) → Ends (.haltComplete p) s fun u => HaltedAt s u (plyKey p) y 1 0)
    ∧ (∀ (p : PlyId) (y : Ply), plyAt s (plyKey p) = some y → (y.halting = false ∨ ∃ o ∈ y.mem, wOp o.w = 0x70) → Idle (.haltComplete p) s)
    ∧ (Ends .stopWorld s fun u => u.flag ⟨C 0xD0008, 29, 29⟩ = true ∧ OnlyRegs s u [C 0xD0008])
    ∧ (Ends .runWorld s fun u => u.flag ⟨C 0xD0008, 29, 29⟩ = false ∧ OnlyRegs s u [C 0xD0008])
    ∧ (∀ (p : PlyId) (y : Ply) (pc b : Nat), plyAt s (plyKey p) = some y → y.mayIssue s = true → y.stepping = false → y.choose = some pc →
        y.passBp ≠ some pc → bpMatch s (plyKey p) pc y.owner.ctx = some b →
      Ends (.breakpointHit p) s fun u => HaltedAt s u (plyKey p) y 2 b
        ∧ (s.flag ⟨flyDbg (plyKey p) 0, 2, 2⟩ = true → u.flag ⟨C 0xD0008, 29, 29⟩ = true))

open Sys2Proof.Claims in
/-- R436-R441, R444, Tables 20-1 to 20-3: SNAP latches every ledger with the time and sets BUSY, and is ignored while BUSY; SNAP_DONE writes each latched
ledger's four words and clears BUSY. A check that finds a ledger out of balance sets MISMATCH, keeps the first one's number and interrupts; a failed
credit ledger takes its link down. -/
def Obligations.Ledgers_are_latched_and_checked : Prop :=
  ∀ s : State, running s = true →
    (s.flag fAuditBusy = true → Idle .snap s)
    ∧ (s.flag fAuditBusy = false → s.flag fCheckEn = false →
      Ends .snap s fun u => u.flag fAuditBusy = true ∧ u.fld fSnaps = (s.fld fSnaps + 1) % 65536 ∧ counter u 0xC0808 = s.core.timebase.toNat
        ∧ u.log.snap.map (fun e => e.1) = List.range 710
        ∧ (∀ n < 256, u.log.snap[96 + n]? = some (96 + n, 16, 16 - (s.fly.plies.filter (fun e => e.1 / 16 = n)).length,
            (s.fly.plies.filter (fun e => e.1 / 16 = n)).length, 0, decide ((s.fly.plies.filter (fun e => e.1 / 16 = n)).length ≤ 16)))
        ∧ u.log.snap[709]? = some (709, 64, 64 - s.touch.fifo.length, s.touch.fifo.length, 0, decide (s.touch.fifo.length ≤ 64))
        ∧ RegsKept s u [C 0xC0804, C 0xC0808, C 0xC080C])
    ∧ (∀ (n cap free held transit : Nat) (ok : Bool), s.flag fAuditBusy = true → n < 710 → s.log.snap = [(n, cap, free, held, transit, ok)] →
      Ends .snapDone s fun u => u.flag fAuditBusy = false ∧ u.log = { s.log with snap := [] }
        ∧ (u.reg (C (0xC1000 + 16 * n))).toNat = min 0xFFFFFFFF cap ∧ (u.reg (C (0xC1004 + 16 * n))).toNat = min 0xFFFFFFFF free
        ∧ (u.reg (C (0xC1008 + 16 * n))).toNat = min 0xFFFFFFFF held
        ∧ (u.reg (C (0xC100C + 16 * n))).toNat = min 65535 transit + (if ok then 2 ^ 31 else 0)
        ∧ RegsKept s u [C 0xC0804, C (0xC1000 + 16 * n), C (0xC1004 + 16 * n), C (0xC1008 + 16 * n), C (0xC100C + 16 * n)])
    ∧ (s.flag fAuditBusy = false → Idle .snapDone s)
    ∧ (s.flag fCheckEn = false → ∀ hw, Idle (.auditCheck hw) s)
    ∧ (s.flag fCheckEn = true → (∀ i < 710, (ledgerTerms s (fun _ => 0) i).ok = true) →
      Idle (.auditCheck none) s
      ∧ ∀ h : LedgerTerms, h.cap.toNat ≠ h.free.toNat + h.held.toNat + h.transit.toNat → Room s 0x1E1 → h.index.val ∉ s.log.failed →
        Ends (.auditCheck (some h)) s fun u => u.flag fMismatch = true ∧ IntSet u 5
          ∧ u.fld fFirst = (if s.flag fMismatch then s.fld fFirst else h.index.val) ∧ h.index.val ∈ u.log.failed
          ∧ (h.index.val < 32 → u.fld (fLkState (h.index.val % 16 / 4)) = 0)
          ∧ (32 ≤ h.index.val → RegsKept s u [0x18, C 0xC0804, C 0xC0008]))

/-! ### Translation and fault records -/

/-- Index bits of a virtual address at a level (Table 6-4). -/
def Sys2Proof.Claims.ixAt (va lv : Nat) : Nat := va / 2 ^ (12 + 9 * (lv - 1)) % 512

/-- The entry of a table at a level for a virtual address, and the address bits 47:12 of an entry (Table 6-5). -/
def Sys2Proof.Claims.entryAt (s : State) (table va lv : Nat) : Nat := leNat (memRead s (table + 8 * Claims.ixAt va lv) 8)
def Sys2Proof.Claims.addrOf (e : Nat) : Nat := e / 4096 % 2 ^ 36 * 4096

/-- A table lies in memory and its entry for an address has no error. -/
def Sys2Proof.Claims.tableReads (s : State) (table va lv : Nat) : Prop :=
  Claims.isMem s table ∧ poisoned s (table + 8 * Claims.ixAt va lv) 8 = false

/-- The access is permitted by a page entry (Table 6-5): W for writes, X for fetches, P for a peer's accesses. -/
def Sys2Proof.Claims.permits (e : Nat) (a : Access) : Prop :=
  (a = .write ∨ a = .atomic ∨ a = .peerWrite → bitN e 3 = true) ∧ (a = .fetch → bitN e 4 = true)
    ∧ (a = .peerRead ∨ a = .peerWrite → bitN e 5 = true)

/-- A record has been written at FAULT_TAIL and no other record is there: its fields, and TAIL past it (Table 6-8, R129). -/
def Sys2Proof.Claims.Recorded (s u : State) (c va cause level access : Nat) (wait : Bool) : Prop :=
  u.fld fTail = (s.fld fTail + 1) % 512
    ∧ ∃ r, u.mmu.recs = [(s.fld fTail % 256, r)] ∧ r.ctx = c ∧ r.va = va ∧ r.cause = cause ∧ r.level = level ∧ r.access = access
      ∧ r.needAnswer = wait ∧ r.mode = (if wait then 0 else 1) ∧ r.seq = s.fld fTail ∧ r.inUse = true ∧ r.answered = false
      ∧ r.time = s.core.timebase.toNat

open Sys2Proof.Claims in
/-- R120, R121, R123, R124, R126, R127, R129-R132, Tables 6-4 to 6-9: a walk of four levels from CTX_ROOT that ends at a page whose entry permits the access
sets A, and D for a write, and its unit then translates every address of the page; an invalid entry, and a table that is not in memory, raise a record
that the host must answer in WAIT mode, and one for information in ABORT mode, which counts ABORTED. -/
def Obligations.Walks_translate_or_raise_records : Prop :=
  ∀ (s : State) (un : TlbUnit) (c : Fin 16) (va : BitVec 48) (a : Access), running s = true → s.mem.applying = none →
    let v := va.toNat
    let t4 := s.fld ⟨C (0x10000 + 0x40 * c.val), 31, 12⟩ * 4096 + s.fld ⟨C (0x10004 + 0x40 * c.val), 15, 0⟩ * 2 ^ 32
    let e4 := entryAt s t4 v 4
    let e3 := entryAt s (addrOf e4) v 3
    let e2 := entryAt s (addrOf e3) v 2
    let e1 := entryAt s (addrOf e2) v 1
    let wr := a = .write ∨ a = .atomic ∨ a = .peerWrite
    let code := match a with
      | .read => 0 | .write => 1 | .atomic => 2 | .fetch => 3 | .ray => 4 | .peerRead => 5 | .peerWrite => 6 | .queue => 7
    (s.flag ⟨C (0x10008 + 0x40 * c.val), 2, 2⟩ = false → Idle (.walkDone un c va a) s)
    ∧ (s.flag ⟨C (0x10008 + 0x40 * c.val), 2, 2⟩ = true → (∀ w ∈ s.mmu.walkCache, w.ctx ≠ c.val) →
      (∀ n, MergeSound s → tableReads s t4 v 4 → tableReads s (addrOf e4) v 3 → tableReads s (addrOf e3) v 2 → tableReads s (addrOf e2) v 1 →
          e4 % 4 = 1 → e3 % 4 = 1 → e2 % 4 = 1 → e1 % 4 = 3 → permits e1 a → n = (if bitN e1 2 then 16 else 12) →
          target s (addrOf e1 / 2 ^ n * 2 ^ n + v % 2 ^ n) ≠ .unmapped →
        Ends (.walkDone un c va a) s fun u => Wrote s u (addrOf e2 + 8 * ixAt v 1) (leBytes 8 (e1 ||| 0x40 ||| (if wr then 0x80 else 0)))
          ∧ u.mmu.recs = s.mmu.recs ∧ u.mmu.held = s.mmu.held
          ∧ ∀ x, x / 2 ^ n = v / 2 ^ n → ∃ t, tlbFind u un c.val x = some t ∧ t.pa + x % 2 ^ t.size = addrOf e1 / 2 ^ n * 2 ^ n + x % 2 ^ n)
      ∧ (MergeSound s → tableReads s t4 v 4 → tableReads s (addrOf e4) v 3 → tableReads s (addrOf e3) v 2 →
          e4 % 4 = 1 → e3 % 4 = 1 → e2 % 4 = 3 → permits e2 a → target s (addrOf e2 / 2 ^ 21 * 2 ^ 21 + v % 2 ^ 21) ≠ .unmapped →
        Ends (.walkDone un c va a) s fun u => Wrote s u (addrOf e3 + 8 * ixAt v 2) (leBytes 8 (e2 ||| 0x40 ||| (if wr then 0x80 else 0)))
          ∧ u.mmu.recs = s.mmu.recs
          ∧ ∀ x, x / 2 ^ 21 = v / 2 ^ 21 → ∃ t, tlbFind u un c.val x = some t ∧ t.pa + x % 2 ^ t.size = addrOf e2 / 2 ^ 21 * 2 ^ 21 + x % 2 ^ 21)
      ∧ (∀ cause, (isMem s t4 ∧ poisoned s (t4 + 8 * ixAt v 4) 8 = false ∧ e4 % 2 = 0 ∧ cause = 1) ∨ (¬ isMem s t4 ∧ cause = 6) →
          s.mmu.recs = [] → s.mmu.held = [] → s.fld fHead = s.fld fTail →
        let mode := s.flag ⟨C (0x10008 + 0x40 * c.val), 0, 0⟩
        Ends (.walkDone un c va a) s fun u => Recorded s u c.val v cause 4 code (!mode) ∧ IntSet u 1
          ∧ u.fld (fRaised c.val) = min 65535 (s.fld (fRaised c.val) + 1)
          ∧ u.fld (fAborted c.val) = (if mode then min 65535 (s.fld (fAborted c.val) + 1) else s.fld (fAborted c.val))
          ∧ RegsKept s u [0x18, 0x5C, C (0x1000C + 0x40 * c.val)] ∧ u.mem = s.mem ∧ u.log = s.log))

open Sys2Proof.Claims in
/-- R81, R128-R130, Tables 6-7 and 6-8: a held record is written once a slot is free; FAULT_HEAD moves unless more than 256 records would be outstanding, and
frees the slots it has passed; the three invalidations set their scope and BUSY, and end with the covered entries gone from every translation cache. -/
def Obligations.Fault_queue_and_invalidations : Prop :=
  ∀ s : State, running s = true →
    (∀ r : FaultRec, s.mmu.recs = [] → s.mmu.held = [r] → s.fld fHead = s.fld fTail →
      Ends .faultRecordWrite s fun u => u.fld fTail = (s.fld fTail + 1) % 512 ∧ u.mmu = { s.mmu with
          held := [], recs := [(s.fld fTail % 256, { r with seq := s.fld fTail, time := s.core.timebase.toNat, inUse := true })] }
        ∧ u.fld (fRaised r.ctx) = min 65535 (s.fld (fRaised r.ctx) + 1) ∧ IntSet u 1
        ∧ RegsKept s u [0x18, 0x5C, C (0x1000C + 0x40 * r.ctx)])
    ∧ (s.mmu.recs = [] → s.mmu.held = [] → Idle .faultRecordWrite s)
    ∧ (∀ h : BitVec 9, (s.fld fTail + 512 - h.toNat) % 512 ≤ 256 →
      Ends (.faultHeadWrite h) s fun u => u.fld fHead = h.toNat ∧ RegsKept s u [0x58] ∧ u.mem = s.mem
        ∧ ∀ k, Sparse.find u.mmu.recs k = (Sparse.find s.mmu.recs k).map (fun r => { r with
            inUse := r.inUse && !(decide ((s.fld fTail + 512 - h.toNat) % 512 ≤ (r.seq + 512 - h.toNat) % 512) && (r.answered || !r.needAnswer)) }))
    ∧ (∀ h : BitVec 9, 256 < (s.fld fTail + 512 - h.toNat) % 512 → Idle (.faultHeadWrite h) s)
    ∧ (s.mmu.inval = none →
      let started := fun (u : State) (scope c va count : Nat) => u.flag ⟨C 0x10808, 31, 31⟩ = true ∧ u.fld ⟨C 0x10808, 23, 22⟩ = scope
        ∧ u.mmu = { s.mmu with inval := some (scope, c, va, count) }
      (∀ (c : Fin 16) (va : BitVec 48) (n : BitVec 20), n ≠ 0#20 →
        Ends (.invalRange c va n) s fun u => started u 0 c.val va.toNat n.toNat ∧ u.fld ⟨C 0x10808, 27, 24⟩ = c.val
          ∧ u.fld ⟨C 0x10808, 20, 1⟩ = n.toNat ∧ u.fld ⟨C 0x10800, 31, 12⟩ = va.toNat / 4096 % 2 ^ 20 ∧ u.fld ⟨C 0x10804, 15, 0⟩ = va.toNat / 2 ^ 32
          ∧ RegsKept s u [C 0x10800, C 0x10804, C 0x10808])
      ∧ (∀ c : Fin 16, Ends (.invalContext c) s fun u => started u 1 c.val 0 (s.fld ⟨C 0x10808, 20, 1⟩) ∧ u.fld ⟨C 0x10808, 27, 24⟩ = c.val
          ∧ RegsKept s u [C 0x10808])
      ∧ (Ends .invalAll s fun u => started u 2 (s.fld ⟨C 0x10808, 27, 24⟩) 0 (s.fld ⟨C 0x10808, 20, 1⟩) ∧ RegsKept s u [C 0x10808])
      ∧ Idle .invalidationDone s)
    ∧ (Room s 0x041 → ∀ (c : Fin 16) (va : BitVec 48),
      Ends (.invalRange c va 0#20) s fun u => Logs s u 4 0x041 0 0 0x110000010808 ∧ RegsKept s u [] ∧ u.mmu = s.mmu)
    ∧ (∀ scope c va n, s.mmu.inval = some (scope, c, va, n) →
      let hit := fun (e : TlbEnt) => scope = 2 ∨ (scope = 1 ∧ e.ctx = c)
        ∨ (scope = 0 ∧ e.ctx = c ∧ e.va < va / 4096 * 4096 + n * 4096 ∧ va / 4096 * 4096 < e.va + 2 ^ e.size)
      scope ≤ 2 → Ends .invalidationDone s fun u => u.flag ⟨C 0x10808, 31, 31⟩ = false ∧ u.mmu.inval = none
        ∧ (∀ e, e ∈ u.mmu.tlb ↔ e ∈ s.mmu.tlb ∧ ¬ hit e) ∧ (∀ w, w ∈ u.mmu.walkCache ↔ w ∈ s.mmu.walkCache ∧ scope ≠ 2 ∧ w.ctx ≠ c)
        ∧ u.mmu.recs = s.mmu.recs ∧ OnlyRegs { s with mmu := u.mmu } u [C 0x10808])

/-! ### Rings, doorbells and preemption -/

/-- How far index a lies ahead of index b (R144). -/
def Sys2Proof.Claims.ahead (a b : Nat) : Nat := (a + 2 ^ 20 - b % 2 ^ 20) % 2 ^ 20

/-- Registers of a context's block in the queue engine (Table 7-1). -/
def Sys2Proof.Claims.qreg (c off : Nat) : Nat := C (0x20000 + 0x40 * c + off)

/-- A doorbell's index is one the ring can take: past RING_READ, within the ring, not behind RING_WRITE (R144). -/
def Sys2Proof.Claims.ringTakes (s : State) (c index : Nat) : Prop :=
  let r := s.fld (fRead c)
  let w := s.fld (fWrite c)
  let size := 2 ^ s.fld (fSizeLog c)
  index ≠ w ∧ 0 < Claims.ahead index r ∧ Claims.ahead index r ≤ size ∧ Claims.ahead index w ≤ size - Claims.ahead w r

/-- Every page of a context's save area lies in a PINNED lea (R154, R155; the context is not translated). -/
def Sys2Proof.Claims.areaPinned (s : State) (c : Nat) : Prop :=
  ∀ i < (s.fld ⟨Claims.qreg c 0x1C, 6, 0⟩ + 3) * 16, ∃ off, target s ((s.fld ⟨Claims.qreg c 0x14, 31, 16⟩ * 65536
    + s.fld ⟨Claims.qreg c 0x18, 15, 0⟩ * 2 ^ 32 + 4096 * i) % 2 ^ 48) = .skein off ∧ roleOf s (off / 65536) = 3

open Sys2Proof.Claims in
/-- R80, R144, R155, R157, Tables 3-12, 4-10, 7-1: a doorbell moves RING_WRITE and the ring runs; one that the ring cannot take sets DOORBELL_REJECT of its ring,
one for a disabled context or from a peer that may not ring interrupts, and both are logged; before READY it is held. CTX_ENABLE makes a context IDLE
whose save area is pinned, else it goes off with ERROR 0x3; clearing it stops the context, and CONTEXT_STOP_DONE leaves it OFF with nothing of it left. -/
def Obligations.Doorbells_and_context_enables : Prop :=
  ∀ (s : State) (c : Fin 16), running s = true →
    let n := c.val
    (∀ index : BitVec 20, ready s = false →
      Ends (.hostDoorbell c index) s fun u => u.boot = { s.boot with doorbells := s.boot.doorbells ++ [(0, n, index.toNat)] } ∧ RegsKept s u [])
    ∧ (∀ (index : BitVec 20) (cmd : Instr) (src : Nat), ready s = true → s.fld fCurrent ≠ 1 → Room s 0x042 →
        (cmd = .hostDoorbell c index ∧ src = 0)
          ∨ (∃ port : Fin 4, cmd = .peerDoorbell port c index ∧ src = 1 + port.val
              ∧ (s.fld (fLkState port.val) = 2 ∨ s.fld (fLkState port.val) = 3)) →
      (s.flag (fCtxEn n) = true → (src = 0 ∨ s.flag ⟨qreg n 8, 31, 31⟩ = true) →
        (ringTakes s n index.toNat → (s.fld (fQState n) = 1 ∨ s.fld (fQState n) = 2) →
          Ends cmd s fun u => u.fld (fWrite n) = index.toNat ∧ u.fld (fQState n) = 2
            ∧ RegsKept s u [0x50, qreg n 0x10, qreg n 0x20] ∧ u.q = s.q ∧ u.log = s.log)
        ∧ (¬ ringTakes s n index.toNat → index.toNat ≠ s.fld (fWrite n) →
          Ends cmd s fun u => u.flag (fQReject n) = true ∧ u.fld (fWrite n) = s.fld (fWrite n)
            ∧ Logs s u 4 0x042 n src (index.toNat + n * 2 ^ 28) ∧ RegsKept s u [qreg n 0x20])
        ∧ (index.toNat = s.fld (fWrite n) → Idle cmd s))
      ∧ ((s.flag (fCtxEn n) = false ∨ (src ≠ 0 ∧ s.flag ⟨qreg n 8, 31, 31⟩ = false)) →
        Ends cmd s fun u => Rings s u [20] ∧ Logs s u 4 0x042 n src (index.toNat + n * 2 ^ 28) ∧ RegsKept s u [0x18]))
    ∧ (n ≠ 0 → s.flag (fCtxEn n) = false → s.fld (fQState n) = 0 → s.flag ⟨C (0x10008 + 0x40 * n), 2, 2⟩ = false →
      (areaPinned s n → s.fld (fRead n) = s.fld (fWrite n) → Ends (.ctxEnableSet c) s fun u => u.flag (fCtxEn n) = true ∧ u.fld (fQState n) = 1
        ∧ u.fld (fCtxState n) = 1 ∧ u.fld (fQError n) = 0 ∧ RegsKept s u [0x4C, 0x50, qreg n 0x20] ∧ u.mem = s.mem ∧ u.log = s.log)
      ∧ (¬ areaPinned s n → Room s 0x081 → Ends (.ctxEnableSet c) s fun u => u.flag (fCtxEn n) = false ∧ u.fld (fQState n) = 0
        ∧ u.fld (fCtxState n) = 0 ∧ u.fld (fQError n) = 3 ∧ u.flag ⟨C 0x20408, n, n⟩ = true ∧ IntSet u 21
        ∧ Logs s u 4 0x081 n 3 (s.fld (fRead n)) ∧ RegsKept s u [0x18, 0x4C, 0x50, qreg n 0x20, C 0x20408]))
    ∧ (n = 0 ∨ s.flag (fCtxEn n) = true → Idle (.ctxEnableSet c) s)
    ∧ (n ≠ 0 → s.fld (fQState n) ≠ 0 → s.fld (fQState n) ≠ 7 → s.mmu.recs = [] → s.mmu.held = [] →
      Ends (.ctxEnableClear c) s fun u => u.flag (fCtxEn n) = false ∧ u.fld (fQState n) = 7 ∧ u.fld (fCtxState n) = 2
        ∧ RegsKept s u [0x4C, 0x50, qreg n 0x20, C (0x1000C + 0x40 * n)] ∧ u.fly = s.fly ∧ u.q = s.q ∧ u.mem = s.mem)
    ∧ (n = 0 → Idle (.ctxEnableClear c) s)
    ∧ (s.fld (fQState n) = 7 → s.flag (fCtxEn n) = false → (∀ e ∈ s.fly.plies, e.2.owner.ctx = n → e.2.mem = []) →
        (∀ e ∈ s.reel.chains, e.2.ctx = n → e.2.flight = []) → (ctxQ s n).flight = [] → (ctxQ s n).saved = none →
      Ends (.contextStopDone c) s fun u => u.fld (fQState n) = 0 ∧ u.fld (fQFlight n) = 0 ∧ u.flag (fQHeld n) = false
        ∧ u.fld (fRead n) = u.fld (fWrite n) ∧ ctxQ u n = CtxQ.empty ∧ (∀ e ∈ u.fly.plies, e.2.owner.ctx ≠ n)
        ∧ (∀ t ∈ u.ray.traces, t.ctx ≠ n) ∧ (∀ p ∈ u.ras.passes, p.ctx ≠ n) ∧ (∀ e ∈ u.weft.queue, e.2.ctx ≠ n))
    ∧ (s.fld (fQState n) ≠ 7 → Idle (.contextStopDone c) s)

open Sys2Proof.Claims in
/-- R149, R150, R152-R155, R293, Tables 7-8, 7-9 and 7-11: a request starts a preemption of a running context (BUSY, STATE PREEMPTING), holds a saved one and is refused for
one that is OFF, stopping or 0; PREEMPTION_SAVED returns the context's plies and packets to its save area (STATE SAVED, PREEMPTS) and ends a request with
HELD; RESTORE_START takes the queue engine for a saved context that is not HELD, and RESTORE_DONE brings its packets and plies back and runs it; a
save area that cannot be read turns it off with ERROR 0x5. -/
def Obligations.Contexts_are_preempted_and_restored : Prop :=
  ∀ (s : State) (c : Fin 16), running s = true →
    let n := c.val
    (s.flag fPreBusy = true → Idle (.preemptRequest c) s)
    ∧ (s.flag fPreBusy = false →
      (n = 0 ∨ s.fld (fQState n) = 0 ∨ s.fld (fQState n) = 7 → Room s 0x044 →
        Ends (.preemptRequest c) s fun u => u.fld fPreCtx = n ∧ Logs s u 4 0x044 n 0 n ∧ RegsKept s u [0x54] ∧ u.q = s.q)
      ∧ (n ≠ 0 → s.fld (fQState n) = 2 ∨ s.fld (fQState n) = 6 → s.q.busy = none → s.q.triggers = [] →
        Ends (.preemptRequest c) s fun u => u.flag fPreBusy = true ∧ u.fld fPreCtx = n ∧ u.fld (fQState n) = 3 ∧ u.q.busy = some n
          ∧ (ctxQ u n).hold = true ∧ u.fly = s.fly ∧ u.mem = s.mem)
      ∧ (n ≠ 0 → s.fld (fQState n) = 4 →
        Ends (.preemptRequest c) s fun u => u.flag (fQHeld n) = true ∧ Rings s u [12] ∧ u.flag fPreBusy = false ∧ u.fld fPreCtx = n
          ∧ RegsKept s u [0x18, 0x54, qreg n 0x20])
      ∧ (n ≠ 0 → s.fld (fQState n) = 1 →
        Ends (.preemptRequest c) s fun u => u.fld (fQState n) = 4 ∧ u.flag (fQHeld n) = true ∧ u.flag fPreBusy = false ∧ IntSet u 12
          ∧ u.fld (fQPreempts n) = min 65535 (s.fld (fQPreempts n) + 1)))
    ∧ (s.q.busy = some n → s.fld (fQState n) = 3 → s.q.triggers = [] → (∀ e ∈ s.fly.plies, e.2.owner.ctx = n → e.2.mem = []) →
        (∀ e ∈ s.reel.chains, e.2.ctx = n → e.2.flight = []) →
      Ends (.preemptionSaved c) s fun u => u.fld (fQState n) = 4 ∧ u.fld (fQPreempts n) = min 65535 (s.fld (fQPreempts n) + 1) ∧ u.q.busy = none
        ∧ (∀ e ∈ u.fly.plies, e.2.owner.ctx ≠ n) ∧ (ctxQ u n).flight = [] ∧ (ctxQ u n).hold = false
        ∧ (∃ w, (ctxQ u n).saved = some w ∧ w.plies = s.fly.plies.filter (fun e => e.2.owner.ctx = n) ∧ w.packets = (ctxQ s n).flight)
        ∧ ((ctxQ s n).hold = true → u.flag (fQHeld n) = true ∧ u.flag fPreBusy = false ∧ IntSet u 12))
    ∧ (s.fld (fQState n) ≠ 3 ∨ s.q.busy ≠ some n → Idle (.preemptionSaved c) s)
    ∧ (s.q.busy = none → s.fld (fQState n) = 4 → s.flag (fQHeld n) = false → canRestore s n = true →
      Ends (.restoreStart c) s fun u => u.fld (fQState n) = 5 ∧ u.q = { s.q with busy := some n } ∧ RegsKept s u [0x50, qreg n 0x20]
        ∧ u.mem = s.mem ∧ u.fly = s.fly)
    ∧ (s.fld (fQState n) ≠ 4 ∨ s.flag (fQHeld n) = true ∨ s.q.busy ≠ none → Idle (.restoreStart c) s)
    ∧ (s.q.busy = some n → s.fld (fQState n) = 5 → canRestore s n = true → s.q.triggers = [] →
      (∀ w, (ctxQ s n).saved = some w → (ctxQ s n).hold = false → (ctxQ s n).halted = [] → s.fld (fRead n) ≠ s.fld (fWrite n) →
          (∀ pa ∈ (ctxQ s n).savePages, poisoned s pa 4096 = false) → (w.plies.map (fun e => e.2.uid)).Nodup →
        Ends (.restoreDone c .clean) s fun u => u.fld (fQState n) = 2 ∧ u.q.busy = none ∧ (ctxQ u n).saved = none
          ∧ (ctxQ u n).flight.map (fun p => p.index) = w.packets.map (fun p => p.index)
          ∧ ∀ e ∈ w.plies, ∃ f ∈ u.fly.plies, f.2.uid = e.2.uid ∧ f.1 / 64 = e.1 / 64)
      ∧ ((ctxQ s n).savePages ≠ [] →
        Ends (.restoreDone c .uncorrectable) s fun u => u.fld (fQState n) = 0 ∧ u.fld (fQError n) = 5 ∧ u.flag (fCtxEn n) = false
          ∧ u.q.busy = none ∧ (ctxQ u n).saved = none ∧ IntSet u 5 ∧ IntSet u 21))

open Sys2Proof.Claims in
/-- R132, R135, R157, Tables 6-12 and 6-13: an answer to a record that waits for one acts: RETRY lets the waiting ply fetch again, ABORT_WORK ends it and counts
ABORTED, ABORT_CONTEXT stops the context; each leaves the record answered. An answer to any other record is ignored and logged. -/
def Obligations.Answers_to_fault_records : Prop :=
  ∀ (s : State) (record : BitVec 8), running s = true →
    let slot := record.toNat
    (∀ (r : FaultRec) (uid k : Nat) (y : Ply), s.mmu.recs = [(slot, r)] → s.mmu.held = [] → r.inUse = true → r.needAnswer = true →
        r.answered = false → r.ctx < 16 → r.waiters = [.plyFetch uid] → placeOf s uid = some k → plyAt s k = some y →
      (Ends (.faultRetry record) s fun u => plyAt u k = some { y with fetchFault := false } ∧ (∀ k', k' ≠ k → plyAt u k' = plyAt s k')
          ∧ (∃ r', u.mmu.recs = [(slot, r')] ∧ r'.answered = true ∧ r'.waiters = []) ∧ u.fld fRecord = slot
          ∧ RegsKept s u [0x50, 0x60])
      ∧ (Ends (.faultAbortWork record) s fun u => (∃ y', plyAt u k = some y' ∧ y'.ended = true ∧ y'.exited = y.present ∧ y'.fetchFault = false)
          ∧ (∃ r', u.mmu.recs = [(slot, r')] ∧ r'.answered = true) ∧ u.fld fRecord = slot
          ∧ u.fld (fAborted r.ctx) = min 65535 (s.fld (fAborted r.ctx) + 1))
      ∧ (r.ctx ≠ 0 → s.fld (fQState r.ctx) ≠ 0 → s.fld (fQState r.ctx) ≠ 7 →
        Ends (.faultAbortContext record) s fun u => u.flag (fCtxEn r.ctx) = false ∧ u.fld (fQState r.ctx) = 7 ∧ u.fld fRecord = slot
          ∧ (∃ r', u.mmu.recs = [(slot, r')] ∧ r'.answered = true)
          ∧ u.fld (fAborted r.ctx) = min 65535 (s.fld (fAborted r.ctx) + 1) ∧ u.fly = s.fly))
    ∧ (s.mmu.recs = [] → Room s 0x043 → ∀ e ∈ [(Instr.faultRetry record, 1), (.faultAbortWork record, 2), (.faultAbortContext record, 3)],
      Ends e.1 s fun u => u.fld fRecord = slot ∧ Logs s u 4 0x043 0 0 (slot + e.2 * 256) ∧ RegsKept s u [0x60] ∧ u.fly = s.fly ∧ u.q = s.q)

/-! ### Packets -/

/-- A packet of an opcode has been read and may start now (R145, R146). -/
def Sys2Proof.Claims.Startable (s : State) (c op : Nat) (p : Packet) : Prop :=
  (ctxQ s c).fetched = some p ∧ p.op = op ∧ p.ended = false ∧ p.status = 0 ∧ p.cursor = 0 ∧ s.fld (fQState c) = 2 ∧ (ctxQ s c).faulted = false
    ∧ (ctxQ s c).flight.length < 8 ∧ (∀ x ∈ (ctxQ s c).flight, x.index ≠ p.index ∧ (x.op = 7 → x.ended = true))
    ∧ (bitN (fieldAt p.bytes 1 1) 0 = true ∨ op = 6 → (ctxQ s c).flight = [])

/-- The packet is in flight behind those that were. -/
def Sys2Proof.Claims.InFlight (s u : State) (c : Nat) (p : Packet) : Prop :=
  (ctxQ u c).fetched = none ∧ (ctxQ u c).flight = (ctxQ s c).flight ++ [p] ∧ u.fld (fQState c) = 2

/-- The context is not translated, and n bytes at an address are memory without an error, none of it changing its role. -/
def Sys2Proof.Claims.plainAt (s : State) (c a n : Nat) : Prop :=
  s.flag ⟨C (0x10008 + 0x40 * c), 2, 2⟩ = false ∧ s.mem.applying = none ∧ Claims.isMem s a ∧ poisoned s a n = false ∧ MergeSound s

open Sys2Proof.Claims in
/-- R143, R145, R146, R160, R249, R263, R301, R422, Tables 7-2 to 7-4: a packet is read from its slot once and RING_READ advances; an unlisted opcode or field halts the
ring; a started packet is in flight: a NOP is over at once, a DISPATCH and a TRACE_BATCH wait with their operands, a WEFT_PROGRAM presents its first
descriptor, a DMA chain takes its channel, and a RENDER_PASS takes the front end if that is free. -/
def Obligations.Packets_are_read_and_started : Prop :=
  ∀ (s : State) (c : Fin 16), running s = true →
    let n := c.val
    let q := ctxQ s n
    (let i := s.fld (fRead n)
     let a := (s.fld ⟨qreg n 0, 31, 12⟩ * 4096 + s.fld ⟨qreg n 4, 15, 0⟩ * 2 ^ 32 + i % 2 ^ s.fld (fSizeLog n) * 64) % 2 ^ 48
     s.fld (fQState n) = 2 → q.fetched = none → q.faulted = false → i ≠ s.fld (fWrite n) → plainAt s n a 64 →
      ∀ p : Packet, p.bytes = memRead s a 64 → p.op = fieldAt p.bytes 0 1 → p.index = i → p.readAt = s.core.timebase.toNat →
        p.cursor = 0 → p.lastSp = 63 → p.ended = false → p.status = 0 →
      (p.op ≤ 9 → pktBad n p = false → Ends (.packetFetch c) s fun u =>
        u.fld (fRead n) = (i + 1) % 2 ^ 20 ∧ ctxQ u n = { q with fetched := some p } ∧ u.fld (fQState n) = 2 ∧ u.log = s.log)
      ∧ (∀ code, (9 < p.op ∧ code = 1) ∨ (p.op ≤ 9 ∧ pktBad n p = true ∧ code = 2) → q.halted = [] → Room s 0x081 →
        Ends (.packetFetch c) s fun u => u.fld (fRead n) = (i + 1) % 2 ^ 20 ∧ u.fld (fQState n) = 6 ∧ u.fld (fQError n) = code
          ∧ (ctxQ u n).halted = [(i, code)] ∧ u.flag ⟨C 0x20408, n, n⟩ = true ∧ IntSet u 21 ∧ Logs s u 4 0x081 n code i))
    ∧ ((s.fld (fQState n) ≠ 2 ∨ s.fld (fRead n) = s.fld (fWrite n) ∨ q.fetched ≠ none) → Idle (.packetFetch c) s)
    ∧ (∀ p : Packet, Startable s n 0 p → Ends (.pktNop c) s fun u => InFlight s u n { p with ended := true }
        ∧ RegsKept s u [0x50, qreg n 0x20] ∧ u.mem = s.mem ∧ u.fly = s.fly ∧ u.log = s.log)
    ∧ (∀ p : Packet, Startable s n 1 p → Ends (.pktDispatch c) s fun u => InFlight s u n p ∧ RegsKept s u [0x50, qreg n 0x20] ∧ u.mem = s.mem ∧ u.fly = s.fly)
    ∧ (∀ p : Packet, Startable s n 2 p → Ends (.pktTraceBatch c) s fun u => InFlight s u n p ∧ RegsKept s u [0x50, qreg n 0x20]
        ∧ ∃ t : Trace, u.ray.traces = s.ray.traces ++ [t] ∧ t.ctx = n ∧ t.owner = .packet n p.index ∧ t.rayAddr = fieldAt p.bytes 16 6
          ∧ t.hitAddr = fieldAt p.bytes 24 6 ∧ t.mode = fieldAt p.bytes 30 1 ∧ t.root = fieldAt p.bytes 32 6 ∧ t.count = fieldAt p.bytes 40 4
          ∧ t.table = fieldAt p.bytes 48 6 ∧ t.next = 0 ∧ t.todo = [] ∧ t.tag = fieldAt p.bytes 4 4)
    ∧ (∀ p : Packet, Startable s n 4 p → 0 < fieldAt p.bytes 24 4 → fieldAt p.bytes 28 1 < 64 → plainAt s n (fieldAt p.bytes 16 6) 64 →
        (s.weft.queue.filter (fun e => e.1 = fieldAt p.bytes 28 1)).length < 8 →
      Ends (.pktWeftProgram c) s fun u => InFlight s u n p ∧ ∃ o : WeftOp, u.weft.queue = s.weft.queue ++ [(fieldAt p.bytes 28 1, o)] ∧ o.ctx = n
        ∧ o.owner = .packet n p.index ∧ o.addr = fieldAt p.bytes 16 6 ∧ o.desc = memRead s (fieldAt p.bytes 16 6) 64 ∧ o.block = 0)
    ∧ (∀ p : Packet, Startable s n 5 p → (∀ e ∈ s.reel.chains, e.2.ctx = n → e.2.index ≠ some p.index) → s.reel.saved = [] →
      (∀ ch < 15, fieldAt p.bytes 28 1 = ch → chainOf s ch = none →
        Ends (.pktDma c) s fun u => InFlight s u n p
          ∧ chainOf u ch = some (Chain.fresh n (some p.index) (fieldAt p.bytes 16 6) (fieldAt p.bytes 24 4))
          ∧ ∀ k, k ≠ ch → chainOf u k = chainOf s k)
      ∧ (fieldAt p.bytes 28 1 = 0xFF → (∃ ch < 15, chainOf s ch = none) →
        Ends (.pktDma c) s fun u => InFlight s u n p
          ∧ ∃ ch < 15, chainOf s ch = none ∧ chainOf u ch = some (Chain.fresh n (some p.index) (fieldAt p.bytes 16 6) (fieldAt p.bytes 24 4)))
      ∧ (∀ ch < 15, fieldAt p.bytes 28 1 = ch → chainOf s ch ≠ none →
        Ends (.pktDma c) s fun u => InFlight s u n p ∧ u.reel = s.reel))
    ∧ (∀ p : Packet, Startable s n 3 p → q.halted = [] → s.mmu.recs = [] → s.mmu.held = [] →
      ((∃ x ∈ s.ras.passes, x.suspended = false) → Ends (.pktRenderPass c) s fun u => InFlight s u n p ∧ u.ras = s.ras)
      ∧ (s.ras.passes = [] → ∀ h ds t r v, readPass n (fieldAt p.bytes 16 6) (startPacket n p s) = (.ok (h, ds, t, r), v) →
          passBad p h ds t r = false → spillNeed h ≤ phSpillCount h → spillNeed h ≤ (spillLeas v (phSpillFirst h)).length →
        Ends (.pktRenderPass c) s fun u => InFlight s u n p ∧ ∃ x : Pass, u.ras.passes = [x] ∧ x.ctx = n ∧ x.index = p.index ∧ x.hdr = h ∧ x.draws = ds
          ∧ x.target = t ∧ x.resolve = r ∧ x.suspended = false ∧ x.reserve.length = spillNeed h
          ∧ u.flag ⟨C 0x40000, 31, 31⟩ = true ∧ u.fld ⟨C 0x40000, 27, 24⟩ = n))

open Sys2Proof.Claims in
/-- R145-R147, R157, R158, Tables 7-2 and 7-5 to 7-7: a FENCE writes VALUE once every earlier packet has completed; a WAIT is over when the word at ADDR meets its
condition, and halts the ring when TIMEOUT has passed; a TIMESTAMP writes the timebase and an INTERRUPT sets its QINT_STATUS bit, at once or after the
packets before it; a packet that is over leaves the ring, its completion record written first. -/
def Obligations.Packets_that_signal : Prop :=
  ∀ (s : State) (c : Fin 16), running s = true →
    let n := c.val
    let q := ctxQ s n
    let now := s.core.timebase.toNat
    let holds := fun (p : Packet) (a : Nat) =>
      if fieldAt p.bytes 32 1 = 1 then decide (leNat (memRead s a 8) = fieldAt p.bytes 24 8)
      else decide (fieldAt p.bytes 24 8 ≤ leNat (memRead s a 8))
    (∀ (p : Packet) (a : Nat), Startable s n 6 p → p.bytes.length = 64 → a = fieldAt p.bytes 16 6 → a % 8 = 0 → plainAt s n a 8 →
      Ends (.pktFence c) s fun u => InFlight s u n { p with ended := true } ∧ Wrote s u a ((p.bytes.drop 24).take 8))
    ∧ (∀ (p : Packet) (a : Nat), Startable s n 7 p → a = fieldAt p.bytes 16 6 → a % 8 = 0 → plainAt s n a 8 → resultOf s [3, n, p.index] = none →
      Ends (.pktWait c) s fun u => InFlight s u n { p with ended := holds p a } ∧ MemKept s u)
    ∧ (∀ l p a, q.flight = l ++ [p] → (∀ x ∈ l, x.index ≠ p.index ∧ (x.op = 7 → x.ended = true)) → p.op = 7 → p.ended = false → p.status = 0 →
      q.saved = none → s.fld (fQState n) = 2 →
      (a = fieldAt p.bytes 16 6 → a % 8 = 0 → q.faulted = false → plainAt s n a 8 → resultOf s [3, n, p.index] = none →
        Ends (.waitConditionMet c) s fun u => ctxQ u n = { q with flight := l ++ [{ p with ended := holds p a }] } ∧ MemKept s u)
      ∧ (fieldAt p.bytes 36 4 = 0 → Idle (.waitTimeout c) s)
      ∧ (fieldAt p.bytes 36 4 ≠ 0 → q.halted = [] → Room s 0x081 →
        Ends (.waitTimeout c) s fun u => ctxQ u n = { q with flight := l ++ [{ p with ended := true, status := 7 }], halted := [(p.index, 4)] }
          ∧ u.fld (fQState n) = 6 ∧ u.fld (fQError n) = 4 ∧ u.flag ⟨C 0x20408, n, n⟩ = true ∧ IntSet u 21 ∧ Logs s u 4 0x081 n 4 p.index
          ∧ u.mem = s.mem))
    ∧ (∀ (p : Packet) (a : Nat), Startable s n 8 p → (∀ x ∈ q.flight, x.op = 8 → x.ended = true) → a = fieldAt p.bytes 16 6 → a % 8 = 0 →
      ((bitN (fieldAt p.bytes 24 1) 0 = false ∨ q.flight = []) → plainAt s n a 8 →
        Ends (.pktTimestamp c) s fun u => InFlight s u n { p with ended := true }
          ∧ Wrote s u a (leBytes 8 (if bitN (fieldAt p.bytes 24 1) 0 then now else p.readAt)))
      ∧ (bitN (fieldAt p.bytes 24 1) 0 = true → q.flight ≠ [] → Ends (.pktTimestamp c) s fun u => InFlight s u n p ∧ u.mem = s.mem))
    ∧ (∀ p l a, q.flight = p :: l → p.op = 8 → p.ended = false → (∀ x ∈ l, x.index ≠ p.index) → q.saved = none → s.fld (fQState n) = 2 →
        q.faulted = false → bitN (fieldAt p.bytes 24 1) 0 = true → a = fieldAt p.bytes 16 6 → a % 8 = 0 → plainAt s n a 8 →
        outstanding s [3, n, p.index] = false → resultOf s [3, n, p.index] = none →
      Ends (.pktTimestamp c) s fun u => ctxQ u n = { q with flight := { p with ended := true } :: l } ∧ Wrote s u a (leBytes 8 now))
    ∧ ((∀ k < 4, bitN (s.reg (C (0x9004C + 0x4000 * k))).toNat n = false) → ∀ p : Packet, Startable s n 9 p → (∀ x ∈ q.flight, x.op = 9 → x.ended = true) →
      ((bitN (fieldAt p.bytes 16 1) 0 = false ∨ q.flight = []) →
        Ends (.pktInterrupt c) s fun u => InFlight s u n { p with ended := true } ∧ u.flag ⟨C 0x20404, n, n⟩ = true ∧ Rings s u [0]
          ∧ RegsKept s u [0x18, 0x50, qreg n 0x20, C 0x20404] ∧ u.mem = s.mem)
      ∧ (bitN (fieldAt p.bytes 16 1) 0 = true → q.flight ≠ [] →
        Ends (.pktInterrupt c) s fun u => InFlight s u n p ∧ RegsKept s u [0x50, qreg n 0x20]))
    ∧ (∀ (i : BitVec 20) p, packetOf s n i.toNat = some p → p.ended = true → resultOf s [3, n, i.toNat] = none → s.fld (fQState n) ≠ 7 →
        (∀ e ∈ s.fly.plies, e.2.owner.ctx = n → e.2.owner.packet ≠ i.toNat) → q.saved = none →
        (∀ t ∈ s.ray.traces, t.ctx = n → t.packet ≠ i.toNat) →
      let ca := fieldAt p.bytes 8 6
      let gone := fun (u : State) => (ctxQ u n).flight = q.flight.filter (fun x => x.index ≠ i.toNat)
        ∧ u.fld (fQFlight n) = (q.flight.filter (fun x => x.index ≠ i.toNat)).length % 16
      (ca = 0 → Ends (.packetComplete c i) s fun u => gone u ∧ u.mem = s.mem ∧ RegsKept s u [0x50, qreg n 0x20])
      ∧ (ca ≠ 0 → ca % 16 = 0 → q.faulted = false → plainAt s n ca 16 → p.bytes.length = 64 →
        Ends (.packetComplete c i) s fun u => gone u
          ∧ Wrote s u ca (leBytes 8 now ++ leBytes 2 p.status ++ leBytes 2 0 ++ (p.bytes.drop 4).take 4)))
    ∧ (∀ (i : BitVec 20) p, packetOf s n i.toNat = some p → p.ended = false → p.op ≠ 1 → resultOf s [3, n, i.toNat] = none →
      Idle (.packetComplete c i) s)

/-- Ply k of a group of a dispatch stands at a place with the registers of Table 8-1: lane and scalar registers, and its PC. -/
def Sys2Proof.Claims.GroupPly (y : Ply) (c : Nat) (p : Packet) (g k : Nat) : Prop :=
  let f := fieldAt p.bytes
  let nx := f 32 4 / f 40 2
  let ny := f 36 2 / f 42 1
  y.owner = { ctx := c, source := 0, packet := p.index, group := g } ∧ y.vregs = 8 * f 22 1 ∧ y.twoLevel = bitN (f 23 1) 0
    ∧ y.sget 0 = g % nx ∧ y.sget 1 = g / nx % ny ∧ y.sget 2 = g / (nx * ny) ∧ y.sget 3 = k
    ∧ y.sget 4 = f 24 6 % 2 ^ 32 ∧ y.sget 5 = f 24 6 / 2 ^ 32 ∧ y.sget 6 = f 4 4 ∧ y.sget 7 = c
    ∧ (∀ l < 32, y.pcOf l = f 16 6 ∧ y.vget 0 l = 32 * k + l ∧ y.vget 1 l = (32 * k + l) % f 40 2
      ∧ y.vget 2 l = (32 * k + l) / f 40 2 % f 42 1 ∧ y.vget 3 l = (32 * k + l) / (f 40 2 * f 42 1))
    ∧ y.present = BitVec.allOnes 32 ∧ y.exited = 0#32 ∧ y.ended = false

open Sys2Proof.Claims in
/-- R139, R143, R148-R151, R160, R161, Tables 7-2 and 8-1: SKIP ends the packet a ring is halted at with BAD_PACKET, RESUME reads it again, and either lets the ring run; RESUME
also ends the hold of a saved context. The next group of a dispatch is placed whole on a spindle its mask allows, within the budget, with its initial
registers; the waiting packet of the highest-ranked context takes a resource; an expired GRACE preempts the lowest-ranked eligible holder. -/
def Obligations.Rings_resume_and_resources_are_granted : Prop :=
  ∀ (s : State) (c : Fin 16), running s = true →
    let n := c.val
    let q := ctxQ s n
    (∀ i code, s.fld (fQState n) = 6 → q.halted = [(i, code)] → (∀ x ∈ q.flight, x.index ≠ i) → i < 2 ^ 20 →
      (∀ p, q.fetched = some p → p.index = i → Ends (.queueSkip c) s fun u =>
        ctxQ u n = { q with halted := [], fetched := none, flight := q.flight ++ [{ p with ended := true, status := 5 }] }
          ∧ u.fld (fQState n) = 2 ∧ u.fld (fQError n) = 0 ∧ RegsKept s u [0x50, qreg n 0x20] ∧ u.mem = s.mem)
      ∧ (s.flag (fQHeld n) = false → i ≠ s.fld (fWrite n) → Ends (.queueResume c) s fun u => ctxQ u n = { q with halted := [], fetched := none }
          ∧ u.fld (fRead n) = i ∧ u.fld (fQState n) = 2 ∧ u.fld (fQError n) = 0 ∧ RegsKept s u [0x50, qreg n 0xC, qreg n 0x20] ∧ u.mem = s.mem))
    ∧ (s.fld (fQState n) ≠ 6 → Idle (.queueSkip c) s)
    ∧ (s.fld (fQState n) = 4 → s.flag (fQHeld n) = true → Ends (.queueResume c) s fun u => u.flag (fQHeld n) = false
        ∧ u.fld (fQState n) = 4 ∧ OnlyRegs s u [qreg n 0x20])
    ∧ (s.fld (fQState n) ≠ 6 → s.flag (fQHeld n) = false → Idle (.queueResume c) s)
    ∧ (∀ (i : BitVec 20) p, packetOf s n i.toNat = some p → p.op = 1 → p.ended = false → pktBad n p = false → s.fld (fQState n) = 2 →
        (placeGroup n p s).isSome = true →
      let placed := fun (u : State) => ∃ sp, sp < 64 ∧ (fieldAt p.bytes 48 8 = 0 ∨ bitN (fieldAt p.bytes 48 8) sp = true)
        ∧ (∀ k < dpThreads p / 32, ∃ e ∈ u.fly.plies, e.1 / 64 = sp ∧ GroupPly e.2 n p p.cursor k)
        ∧ packetOf u n i.toNat = some { p with cursor := p.cursor + 1, lastSp := sp } ∧ p.cursor < dpGroups p
        ∧ (n ≠ 0 → residentOf u n ≤ s.fld ⟨qreg n 0x1C, 6, 0⟩ * 65536)
      ((∀ e ∈ livePackets s, rankOf s e.1 ≤ rankOf s n) → Ends (.groupPlace c i) s placed)
      ∧ ((∀ e ∈ livePackets s, e ≠ (n, p) → rankOf s e.1 < rankOf s n) → q.halted = [] → Ends (.resourceGrant .plySlots) s placed))
    ∧ (∀ p, (n, p) ∈ livePackets s → p.op = 5 → p.ended = false → q.halted = [] → (∀ e ∈ s.reel.chains, e.2.ctx = n → e.2.index ≠ some p.index) →
        s.reel.saved = [] → (∀ e ∈ livePackets s, e ≠ (n, p) → rankOf s e.1 < rankOf s n) → ∀ ch < 15, fieldAt p.bytes 28 1 = ch → chainOf s ch = none →
      Ends (.resourceGrant .reelChannel) s fun u =>
        chainOf u ch = some (Chain.fresh n (some p.index) (fieldAt p.bytes 16 6) (fieldAt p.bytes 24 4)) ∧ u.mem = s.mem ∧ u.fly = s.fly)
    ∧ (∀ (r : Resource) p h, q.flight.find? (fun p => wantsRes s r n p) = some p → s.fld (fQState n) = 2 → s.fld ⟨qreg n 8, 23, 16⟩ ≠ 0 →
        s.q.busy = none → s.q.triggers = [] →
        let eligible := fun (b : Nat) => b ∈ holdersOf s r p ∧ rankOf s b < rankOf s n
          ∧ (s.fld (fQState b) = 1 ∨ s.fld (fQState b) = 2 ∨ s.fld (fQState b) = 6)
          ∧ ∀ t, (ctxQ s b).restored = some t → t + 100000 ≤ s.core.timebase.toNat
        eligible h → (∀ b, eligible b → b ≠ h → rankOf s h < rankOf s b ∨ (rankOf s h = rankOf s b ∧ residentOf s h < residentOf s b)) →
      Ends (.graceExpiry c r) s fun u => u.fld (fQState h) = 3 ∧ u.q.busy = some h ∧ u.fld (fCtxState h) = (if waitsOnFault s h then 3 else 2)
        ∧ u.mem = s.mem ∧ u.fly = s.fly)
    ∧ (s.fld ⟨qreg n 8, 23, 16⟩ = 0 → ∀ r, Idle (.graceExpiry c r) s)

/-! ### Integer instructions -/

/-- The integer an operand stands for: signed for S32 and S64 (Table 9-3). -/
def Sys2Proof.Claims.num (t v : Nat) : Int :=
  if t = 1 then (BitVec.ofNat 32 v).toInt else if t = 5 then (BitVec.ofNat 64 v).toInt else v

/-- The result of an integer sum or difference: wrapped to the width of the type, or, with SAT, the nearest number in its range (R188). -/
def Sys2Proof.Claims.fit (t m : Nat) (v : Int) : Nat :=
  let n := if is64 t then 64 else 32
  let lo : Int := if isSigned t then -(2 ^ (n - 1)) else 0
  let hi : Int := if isSigned t then 2 ^ (n - 1) - 1 else 2 ^ n - 1
  (BitVec.ofInt n (if mSat m then max lo (min hi v) else v)).toNat

/-- The number with the bits that f gives. -/
def Sys2Proof.Claims.ofBits (f : Nat → Bool) : Nat := ((List.range 32).map (fun i => if f i then 2 ^ i else 0)).sum

/-- An integer instruction: its command, even opcode, types, whether it has an I-form, how many sources it reads, the value SUB must have, and
a lane's result from TYPE, MOD and the operands. -/
structure Sys2Proof.Claims.AluRow where
  cmd : PlyId → W64 → Instr
  op : Nat
  types : List Nat
  iform : Bool
  nsrc : Nat
  sub : Option Nat
  result : Nat → Nat → Nat → Nat → Nat → Nat

open Sys2Proof.Claims in
/-- Table 9-5 (R188). -/
def Sys2Proof.Claims.intRows : List AluRow :=
  [ ⟨.add, 0x00, [0, 1, 4, 5], true, 2, none, fun t m a b _ => fit t m (num t a + num t b)⟩
  , ⟨.sub, 0x02, [0, 1, 4, 5], true, 2, none, fun t m a b _ => fit t m (num t a - num t b)⟩
  , ⟨.mul, 0x04, [0, 1], true, 2, none, fun _ _ a b _ => (BitVec.ofNat 32 a * BitVec.ofNat 32 b).toNat⟩
  , ⟨.mulhi, 0x06, [0, 1], true, 2, none, fun t _ a b _ => (BitVec.ofInt 32 (num t a * num t b / 2 ^ 32)).toNat⟩
  , ⟨.mad, 0x08, [0, 1], false, 3, none, fun _ _ a b c => (BitVec.ofNat 32 a * BitVec.ofNat 32 b + BitVec.ofNat 32 c).toNat⟩
  , ⟨.min, 0x0A, [0, 1], true, 2, none, fun t _ a b _ => if num t a ≤ num t b then a else b⟩
  , ⟨.max, 0x0C, [0, 1], true, 2, none, fun t _ a b _ => if num t b ≤ num t a then a else b⟩
  , ⟨.and, 0x0E, [0, 4], true, 2, none, fun _ _ a b _ => a &&& b⟩
  , ⟨.or, 0x10, [0, 4], true, 2, none, fun _ _ a b _ => a ||| b⟩
  , ⟨.xor, 0x12, [0, 4], true, 2, none, fun _ _ a b _ => a ^^^ b⟩
  , ⟨.shl, 0x14, [0, 4], true, 2, none, fun t _ a b _ => if is64 t then (BitVec.ofNat 64 a <<< (b % 64)).toNat
      else (BitVec.ofNat 32 a <<< (b % 32)).toNat⟩
  , ⟨.shr, 0x16, [0, 1, 4, 5], true, 2, none, fun t _ a b _ =>
      if t = 5 then ((BitVec.ofNat 64 a).sshiftRight (b % 64)).toNat else if t = 4 then (BitVec.ofNat 64 a >>> (b % 64)).toNat
      else if t = 1 then ((BitVec.ofNat 32 a).sshiftRight (b % 32)).toNat else (BitVec.ofNat 32 a >>> (b % 32)).toNat⟩
  , ⟨.bfe, 0x18, [0, 1], true, 2, none, fun t _ a b _ =>
      let len := min 32 (bitsN b 13 8)
      let src := fun j => if j < 32 then a.testBit j else t = 1 && a.testBit 31
      ofBits (fun j => if j < len then src (b % 32 + j) else t = 1 && len ≠ 0 && src (b % 32 + len - 1))⟩
  , ⟨.popc, 0x1A, [0], false, 1, some 0, fun _ _ a _ _ => ((List.range 32).filter (fun i => a.testBit i)).length⟩
  , ⟨.clz, 0x1A, [0], false, 1, some 1, fun _ _ a _ _ => ((List.range 32).takeWhile (fun i => !a.testBit (31 - i))).length⟩
  , ⟨.brev, 0x1A, [0], false, 1, some 2, fun _ _ a _ _ => ofBits (fun i => a.testBit (31 - i))⟩ ]

/-- The fields an instruction of the table uses: D, A, and without an I-form B and C where it reads them. -/
def Sys2Proof.Claims.AluRow.uses (e : Sys2Proof.Claims.AluRow) (w : W64) : List Nat :=
  wD w :: wA w :: (if wIform w then [] else if e.nsrc = 3 then [wB w, wC w] else if e.nsrc = 2 then [wB w] else [])

/-- The word is one that the instruction executes: its opcode, a type of Table 9-5, specifiers that name operands of that type within the
ply's registers, and SUB as the instruction has it (Table 9-2, R186, R187). -/
def Sys2Proof.Claims.AluRow.legal (e : Sys2Proof.Claims.AluRow) (w : W64) (y : Ply) : Prop :=
  (wOp w = e.op ∨ e.iform = true ∧ wOp w = e.op + 1) ∧ wType w ∈ e.types
    ∧ dstOk y.vregs (wType w) (wD w) = true ∧ srcOk y.vregs (wType w) (wA w) = true
    ∧ (wIform w = true ∨ e.nsrc < 2 ∨ srcOk y.vregs (wType w) (wB w) = true)
    ∧ (wIform w = true ∨ e.nsrc < 3 ∨ srcOk y.vregs (wType w) (wC w) = true)
    ∧ (∀ n, e.sub = some n → bitsOf w 6 4 = n)

/-- Operand B of a lane: the specifier's value, or the immediate, sign-extended for S64 (R187). -/
def Sys2Proof.Claims.opB (y : Ply) (w : W64) (l : Nat) : Nat :=
  if wIform w then (if wType w = 5 then (BitVec.signExtend 64 (BitVec.ofNat 32 (wImm w))).toNat else wImm w)
  else y.rdT (wType w) (wB w) l

/-- R187, R188, Table 9-5: ADD, SUB, MUL, MULHI, MAD, MIN, MAX, AND, OR, XOR, SHL, SHR, BFE, POPC, CLZ and BREV, in every form, complete wherever the
word issues and is legal, and write each guarded lane its result (a scalar the lowest one's); predicates, flags and all else stay. -/
def Obligations.Integer_instructions_write_their_result : Prop :=
  ∀ e ∈ Sys2Proof.Claims.intRows, ∀ (s : State) (p : PlyId) (w : W64) (y : Ply) (pc : Nat),
    Issues s p w (e.uses w) y pc → e.legal w y →
    ∃ t y', exec (e.cmd p w) s = .next t ∧ Retired s t p y y' pc (fun _ => pc + 8)
      ∧ Writes y y' (wType w) (wD w) (y.guardMask w (y.issuers pc)) (fun l =>
          e.result (wType w) (if wIform w then 0 else bitsOf w 15 0) (y.rdT (wType w) (wA w) l) (Sys2Proof.Claims.opB y w l)
            (y.rdT (wType w) (wC w) l))
      ∧ y'.fpflags = y.fpflags ∧ y'.pr = y.pr ∧ y'.tbLatch = y.tbLatch


/-! ### Moves, predicates and lanes -/

/-- Predicate d gets f's bit in the lanes of g; every other lane, and every other predicate, stays, as do the registers (Table 9-8). -/
def Sys2Proof.Claims.WritesPred (y y' : Ply) (d : Nat) (g : BitVec 32) (f : Nat → Bool) : Prop :=
  (∀ q < 8, ∀ l < 32, (y'.pget q).getLsbD l = if 0xA0 + q = d ∧ g.getLsbD l then f l else (y.pget q).getLsbD l)
    ∧ y'.v = y.v ∧ y'.sc = y.sc

/-- The bit of predicate specifier n in lane l. -/
def Sys2Proof.Claims.pbit (y : Ply) (n l : Nat) : Bool := (y.pget (n - 0xA0)).getLsbD l

/-- Comparison codes 0 to 5 of Table 9-8: EQ, NE, LT, LE, GT, GE. -/
def Sys2Proof.Claims.compares (code : Nat) (a b : Int) : Bool :=
  match code with
  | 0 => a = b
  | 1 => a ≠ b
  | 2 => a < b
  | 3 => a ≤ b
  | 4 => b < a
  | _ => b ≤ a

/-- SUB of a comparison: set, AND or OR with predicate C (Table 9-8). -/
def Sys2Proof.Claims.combine (sub : Nat) (r c : Bool) : Bool :=
  match sub with
  | 0 => r
  | 1 => r && c
  | _ => r || c

/-- The lane SHFL reads: B mod 32; lane XOR B mod 32; lane - B, or + B, where it exists, else the own lane (Table 9-8). -/
def Sys2Proof.Claims.shflFrom (sub l b : Nat) : Nat :=
  match sub with
  | 0 => b % 32
  | 1 => (l ^^^ b % 32) % 32
  | 2 => if b ≤ l then l - b else l
  | _ => if l + b < 32 then l + b else l

open Sys2Proof.Claims in
/-- SEL, MOV, ISETP, PLOP, VOTE_ALL, VOTE_ANY, VOTE_BALLOT, SHFL and NOP complete wherever their word issues and is legal: SEL takes A where predicate
C is 1, else B; MOV its operand or immediate; ISETP, PLOP and the votes write predicate D in the guarded lanes (a ballot writes the participants'
mask to D), SHFL reads the source lane's A before any write; NOP only advances the PC (Tables 9-5, 9-8 and 9-9; R187, R193). -/
def Obligations.Moves_predicates_and_lanes_write_their_result : Prop :=
  ∀ (s : State) (p : PlyId) (w : W64) (y : Ply) (pc : Nat),
    let g := y.guardMask w (y.issuers pc)
    let t := wType w
    let sub := bitsOf w 6 4
    let same := fun (y' : Ply) => y'.fpflags = y.fpflags ∧ y'.tbLatch = y.tbLatch
    (Issues s p w [wD w, wA w, wB w] y pc → wOp w = 0x1C → t < 6 → dstOk y.vregs t (wD w) = true →
      srcOk y.vregs t (wA w) = true → srcOk y.vregs t (wB w) = true → spP (wC w) = true →
      ∃ u y', exec (.sel p w) s = .next u ∧ Retired s u p y y' pc (fun _ => pc + 8) ∧ same y' ∧ y'.pr = y.pr
        ∧ Writes y y' t (wD w) g (fun l => if pbit y (wC w) l then y.rdT t (wA w) l else y.rdT t (wB w) l))
    ∧ (Issues s p w (if wIform w then [wD w] else [wD w, wA w]) y pc → wOp w = 0x1E ∨ wOp w = 0x1F → t < 6 →
      dstOk y.vregs t (wD w) = true → wIform w = true ∨ srcOk y.vregs t (wA w) = true →
      ∃ u y', exec (.mov p w) s = .next u ∧ Retired s u p y y' pc (fun _ => pc + 8) ∧ same y' ∧ y'.pr = y.pr
        ∧ Writes y y' t (wD w) g (fun l =>
            if wIform w then (if t = 5 then (BitVec.signExtend 64 (BitVec.ofNat 32 (wImm w))).toNat else wImm w)
            else y.rdT t (wA w) l))
    ∧ (Issues s p w [wA w, wB w] y pc → wOp w = 0x50 → t ∈ [0, 1, 4, 5] → spP (wD w) = true → srcOk y.vregs t (wA w) = true →
      srcOk y.vregs t (wB w) = true → bitsOf w 2 0 < 6 → sub < 3 → sub = 0 ∨ spP (wC w) = true →
      ∃ u y', exec (.isetp p w) s = .next u ∧ Retired s u p y y' pc (fun _ => pc + 8) ∧ same y'
        ∧ WritesPred y y' (wD w) g (fun l => combine sub
            (compares (bitsOf w 2 0) (num t (y.rdT t (wA w) l)) (num t (y.rdT t (wB w) l))) (pbit y (wC w) l)))
    ∧ (Issues s p w [] y pc → wOp w = 0x54 → t = 0 → spP (wD w) = true → spP (wA w) = true → sub < 5 → sub = 4 ∨ spP (wB w) = true →
      ∃ u y', exec (.plop p w) s = .next u ∧ Retired s u p y y' pc (fun _ => pc + 8) ∧ same y'
        ∧ WritesPred y y' (wD w) g (fun l =>
            let a := pbit y (wA w) l
            let b := pbit y (wB w) l
            match sub with
            | 0 => a && b
            | 1 => a || b
            | 2 => a != b
            | 3 => a && !b
            | _ => !a))
    ∧ (Issues s p w [] y pc → wOp w = 0x56 → t = 0 → spP (wD w) = true → spP (wA w) = true → sub = 0 →
      ∃ u y', exec (.voteAll p w) s = .next u ∧ Retired s u p y y' pc (fun _ => pc + 8) ∧ same y'
        ∧ WritesPred y y' (wD w) g (fun _ => (List.range 32).all (fun l => !g.getLsbD l || pbit y (wA w) l)))
    ∧ (Issues s p w [] y pc → wOp w = 0x56 → t = 0 → spP (wD w) = true → spP (wA w) = true → sub = 1 →
      ∃ u y', exec (.voteAny p w) s = .next u ∧ Retired s u p y y' pc (fun _ => pc + 8) ∧ same y'
        ∧ WritesPred y y' (wD w) g (fun _ => (List.range 32).any (fun l => g.getLsbD l && pbit y (wA w) l)))
    ∧ (Issues s p w [wD w] y pc → wOp w = 0x56 → t = 0 → dst32 y.vregs (wD w) = true → spP (wA w) = true → sub = 2 →
      ∃ u y', exec (.voteBallot p w) s = .next u ∧ Retired s u p y y' pc (fun _ => pc + 8) ∧ same y' ∧ y'.pr = y.pr
        ∧ Writes y y' 0 (wD w) g (fun _ => (y.pget (wA w - 0xA0) &&& g).toNat))
    ∧ (Issues s p w [wD w, wA w, wB w] y pc → wOp w = 0x58 → t = 0 → dst32 y.vregs (wD w) = true → src32 y.vregs (wA w) = true →
      src32 y.vregs (wB w) = true → sub < 4 →
      ∃ u y', exec (.shfl p w) s = .next u ∧ Retired s u p y y' pc (fun _ => pc + 8) ∧ same y' ∧ y'.pr = y.pr
        ∧ Writes y y' 0 (wD w) g (fun l => y.rd (wA w) (shflFrom sub l (y.rd (wB w) l))))
    ∧ (Issues s p w [] y pc → wOp w = 0x6A →
      ∃ u y', exec (.nop p w) s = .next u ∧ Retired s u p y y' pc (fun _ => pc + 8) ∧ same y'
        ∧ y'.v = y.v ∧ y'.sc = y.sc ∧ y'.pr = y.pr)


/-! ### Floating point -/

/-- A floating-point instruction of the register file: its command, even opcode, types, whether it has an I-form, how many sources it reads, the
SUB values it has, and a lane's result and flags from TYPE, MOD and the operands. -/
structure Sys2Proof.Claims.FpRow where
  cmd : PlyId → W64 → Instr
  op : Nat
  types : List Nat
  iform : Bool
  nsrc : Nat
  sub : Option Nat
  result : Nat → Nat → Nat → Nat → Nat → Nat × Fl

/-- A FTRANS lane: ABS and NEG of A, the function's value, SAT (R190, R191). -/
def Sys2Proof.Claims.ftransLane (sub m a : Nat) : Nat × Fl :=
  let a := if mAbsA m then a % 2 ^ 31 else a
  let a := if mNegA m then a ^^^ 2 ^ 31 else a
  (fsat fmt32 (mSat m) (ftrans sub a).1, (ftrans sub a).2)

open Sys2Proof.Claims in
/-- Table 9-6, the instructions of the register file: one rounding of the exact result in each binary32 value, or in each half of F16X2 (R189). -/
def Sys2Proof.Claims.fpRows : List FpRow :=
  [ ⟨.fadd, 0x20, [2, 3], true, 2, none, fun t m a b _ =>
      fpDo t m (fun f e => Machine.fadd f (mRnd m) (mFtz m) (Machine.opA f m (e a)) (Machine.opB f m (e b)))⟩
  , ⟨.fmul, 0x22, [2, 3], true, 2, none, fun t m a b _ =>
      fpDo t m (fun f e => Machine.fmul f (mRnd m) (mFtz m) (Machine.opA f m (e a)) (Machine.opB f m (e b)))⟩
  , ⟨.ffma, 0x24, [2, 3], false, 3, none, fun t m a b c =>
      fpDo t m (fun f e =>
        Machine.ffma f (mRnd m) (mFtz m) (Machine.opA f m (e a)) (Machine.opB f m (e b)) (Machine.opC f m (e c)))⟩
  , ⟨.fmin, 0x26, [2, 3], true, 2, none, fun t m a b _ =>
      fpDo t m (fun f e => fminmax f true (Machine.opA f m (e a)) (Machine.opB f m (e b)))⟩
  , ⟨.fmax, 0x28, [2, 3], true, 2, none, fun t m a b _ =>
      fpDo t m (fun f e => fminmax f false (Machine.opA f m (e a)) (Machine.opB f m (e b)))⟩
  , ⟨.fdiv, 0x2A, [2, 3], false, 2, none, fun t m a b _ =>
      fpDo t m (fun f e => Machine.fdiv f (mRnd m) (mFtz m) (Machine.opA f m (e a)) (Machine.opB f m (e b)))⟩
  , ⟨.fsqrt, 0x2C, [2, 3], false, 1, none, fun t m a _ _ =>
      fpDo t m (fun f e => Machine.fsqrt f (mRnd m) (mFtz m) (Machine.opA f m (e a)))⟩
  , ⟨.rcp, 0x2E, [2], false, 1, some 0, fun _ m a _ _ => ftransLane 0 m a⟩
  , ⟨.rsq, 0x2E, [2], false, 1, some 1, fun _ m a _ _ => ftransLane 1 m a⟩
  , ⟨.exp2, 0x2E, [2], false, 1, some 2, fun _ m a _ _ => ftransLane 2 m a⟩
  , ⟨.log2, 0x2E, [2], false, 1, some 3, fun _ m a _ _ => ftransLane 3 m a⟩
  , ⟨.sin, 0x2E, [2], false, 1, some 4, fun _ m a _ _ => ftransLane 4 m a⟩
  , ⟨.cos, 0x2E, [2], false, 1, some 5, fun _ m a _ _ => ftransLane 5 m a⟩ ]

/-- FPFLAGS of the ply after an instruction whose lanes raise the flags fl, in the lanes of g (R192). -/
def Sys2Proof.Claims.flagged (y : Ply) (g : BitVec 32) (fl : Nat → Fl) : BitVec 5 :=
  (lanesOf g).foldl (fun x l => x ||| BitVec.ofNat 5 (fl l)) y.fpflags

open Sys2Proof.Claims in
/-- R189-R192, Table 9-6: FADD, FMUL, FFMA, FMIN, FMAX, FDIV, FSQRT and the six functions of FTRANS, in every form, complete wherever the word
issues and is legal: each guarded lane gets its result (a scalar the lowest one's), and FPFLAGS gains the flags of every guarded lane. -/
def Obligations.Floating_point_instructions_write_result_and_flags : Prop :=
  ∀ e ∈ fpRows, ∀ (s : State) (p : PlyId) (w : W64) (y : Ply) (pc : Nat),
    Issues s p w (wD w :: wA w :: (if wIform w then [] else if e.nsrc = 3 then [wB w, wC w] else if e.nsrc = 2 then [wB w] else [])) y pc →
    (wOp w = e.op ∨ e.iform = true ∧ wOp w = e.op + 1) → wType w ∈ e.types →
    dst32 y.vregs (wD w) = true → src32 y.vregs (wA w) = true →
    (wIform w = true ∨ e.nsrc < 2 ∨ src32 y.vregs (wB w) = true) → (wIform w = true ∨ e.nsrc < 3 ∨ src32 y.vregs (wC w) = true) →
    (∀ n, e.sub = some n → bitsOf w 6 4 = n) →
    let g := y.guardMask w (y.issuers pc)
    let val := fun l => e.result (wType w) (if wIform w then 0 else bitsOf w 15 0) (y.rd (wA w) l)
      (if wIform w then wImm w else y.rd (wB w) l) (y.rd (wC w) l)
    ∃ t y', exec (e.cmd p w) s = .next t ∧ Retired s t p y y' pc (fun _ => pc + 8)
      ∧ Writes y y' (wType w) (wD w) g (fun l => (val l).1)
      ∧ y'.fpflags = flagged y g (fun l => (val l).2) ∧ y'.pr = y.pr ∧ y'.tbLatch = y.tbLatch

open Sys2Proof.Claims in
/-- R189, R190, R192, Tables 9-6 and 9-8: CVT, CVTF8_PACK, CVTF8_UNPACK, CVTBF_PACK, CVTBF_UNPACK and FSETP complete wherever their word issues and
is legal. CVT converts A of the type SUB names to TYPE; a pack puts A and B into D's low and next element, an unpack takes the element HALF
selects; FSETP writes predicate D and raises invalid for a signalling NaN. FPFLAGS gains the flags of every guarded lane. -/
def Obligations.Conversions_and_FSETP_write_result_and_flags : Prop :=
  ∀ (s : State) (p : PlyId) (w : W64) (y : Ply) (pc : Nat),
    let g := y.guardMask w (y.issuers pc)
    let m := bitsOf w 15 0
    let sub := bitsOf w 6 4
    let ends := fun (c : Instr) (t : Nat) (val : Nat → Nat × Fl) =>
      ∃ u y', exec c s = .next u ∧ Retired s u p y y' pc (fun _ => pc + 8) ∧ Writes y y' t (wD w) g (fun l => (val l).1)
        ∧ y'.fpflags = flagged y g (fun l => (val l).2) ∧ y'.pr = y.pr ∧ y'.tbLatch = y.tbLatch
    let pack := fun (f : Fmt) (n l : Nat) =>
      let lo := fpackTo f (mRnd m) (mFtz m) (mSat m) (fin fmt32 m (mAbsA m) (mNegA m) (y.rd (wA w) l))
      let hi := fpackTo f (mRnd m) (mFtz m) (mSat m) (fin fmt32 m (mAbsB m) (mNegB m) (y.rd (wB w) l))
      (lo.1 + hi.1 * 2 ^ n, lo.2 ||| hi.2)
    let unpack := fun (f : Fmt) (n l : Nat) =>
      let r := fcvt fmt32 (mRnd m) (mFtz m) (fin f m (mAbsA m) (mNegA m) (y.rd (wA w) l / 2 ^ (n * bitsOf w 3 3) % 2 ^ n))
      (fsat fmt32 (mSat m) r.1, r.2)
    (Issues s p w ([wD w, wA w] ++ (if wType w = 3 then [wB w] else [])) y pc → wOp w = 0x40 → wType w < 6 → sub < 6 →
      (wType w = 3 → sub = 2 ∧ src32 y.vregs (wB w) = true) → dstOk y.vregs (wType w) (wD w) = true → srcOk y.vregs sub (wA w) = true →
      ends (.cvt p w) (wType w) (fun l => cvtVal (wType w) m (y.rdT sub (wA w) l) (y.rd (wB w) l)))
    ∧ (Issues s p w [wD w, wA w, wB w] y pc → wOp w = 0x42 → wType w = 0 → sub < 2 → dst32 y.vregs (wD w) = true →
      src32 y.vregs (wA w) = true → src32 y.vregs (wB w) = true →
      ends (.cvtf8Pack p w) 0 (pack (if sub = 0 then fmtE4M3 else fmtE5M2) 8))
    ∧ (Issues s p w [wD w, wA w] y pc → wOp w = 0x42 → wType w = 2 → sub = 2 ∨ sub = 3 → dst32 y.vregs (wD w) = true →
      src32 y.vregs (wA w) = true → ends (.cvtf8Unpack p w) 0 (unpack (if sub = 2 then fmtE4M3 else fmtE5M2) 8))
    ∧ (Issues s p w [wD w, wA w, wB w] y pc → wOp w = 0x44 → wType w = 0 → sub = 0 → dst32 y.vregs (wD w) = true →
      src32 y.vregs (wA w) = true → src32 y.vregs (wB w) = true → ends (.cvtbfPack p w) 0 (pack fmtBf 16))
    ∧ (Issues s p w [wD w, wA w] y pc → wOp w = 0x44 → wType w = 2 → sub = 1 → dst32 y.vregs (wD w) = true →
      src32 y.vregs (wA w) = true → ends (.cvtbfUnpack p w) 0 (unpack fmtBf 16))
    ∧ (Issues s p w [wA w, wB w] y pc → wOp w = 0x52 → wType w = 2 → spP (wD w) = true → src32 y.vregs (wA w) = true →
      src32 y.vregs (wB w) = true → bitsOf w 3 0 ≠ 7 → bitsOf w 3 0 ≠ 15 → sub < 3 → sub = 0 ∨ spP (wC w) = true →
      let a := fun l => Machine.opA fmt32 m (y.rd (wA w) l)
      let b := fun l => Machine.opB fmt32 m (y.rd (wB w) l)
      ∃ u y', exec (.fsetp p w) s = .next u ∧ Retired s u p y y' pc (fun _ => pc + 8)
        ∧ WritesPred y y' (wD w) g (fun l => combine sub (fcmp (bitsOf w 3 0) (a l) (b l)) (pbit y (wC w) l))
        ∧ y'.fpflags = flagged y g (fun l => sigFl [a l, b l]) ∧ y'.tbLatch = y.tbLatch)

/-- R190, R191 at bit patterns of binary32 and binary16: whatever the rounding mode and FTZ, every result of FADD, FMUL, FFMA, FDIV and FSQRT that is a NaN
is the canonical quiet NaN; a NaN operand gives it, and a signalling one raises invalid; FMIN and FMAX return the other operand of one NaN and count
-0 below +0; SAT leaves a pattern between +0.0 and +1.0; a conversion of a NaN to an integer gives 0 and raises invalid; RCP of a zero is the infinity
of its sign with divide-by-zero, LOG2 of a negative number NaN with invalid. -/
def Obligations.Floating_point_special_values : Prop :=
  (∀ f ∈ [fmt32, fmt16], ∀ (r : Rnd) (z : Bool) (a b c : FV), ∀ v ∈ [Machine.fadd f r z a b, Machine.fmul f r z a b, Machine.ffma f r z a b c,
      Machine.fdiv f r z a b, Machine.fsqrt f r z a], (fdecode f v.1).isNan = true → v.1 = fnan f)
  ∧ fnan fmt32 = 0x7FC00000 ∧ fnan fmt16 = 0x7E00
  ∧ (∀ f ∈ [fmt32, fmt16], ∀ (r : Rnd) (z sg : Bool) (b : FV),
      Machine.fadd f r z (.nan sg) b = (fnan f, if sg = true ∨ b = .nan true then flNV else 0)
      ∧ Machine.fmul f r z b (.nan sg) = (fnan f, if sg = true ∨ b = .nan true then flNV else 0)
      ∧ Machine.fdiv f r z (.nan sg) b = (fnan f, if sg = true ∨ b = .nan true then flNV else 0)
      ∧ Machine.ffma f r z (.inf sg) (.fin false 0 0) (.nan false) = (fnan f, flNV))
  ∧ (∀ a : Nat, a < 2 ^ 32 → (fdecode fmt32 a).isNan = false →
      (fminmax fmt32 true (fdecode fmt32 a) (.nan false)).1 = a ∧ (fminmax fmt32 false (.nan false) (fdecode fmt32 a)).1 = a)
  ∧ (∀ lo, (fminmax fmt32 lo (fdecode fmt32 0) (fdecode fmt32 0x80000000)).1 = if lo then 0x80000000 else 0)
  ∧ (∀ a : Nat, a < 2 ^ 32 → fsat fmt32 true a ≤ 0x3F800000)
  ∧ (∀ (r : Rnd) (lo hi : Int) (sg : Bool), ftoInt r lo hi (.nan sg) = (0, flNV))
  ∧ ftrans 0 0 = (0x7F800000, flDZ) ∧ ftrans 0 0x80000000 = (0xFF800000, flDZ) ∧ ftrans 3 0xBF800000 = (0x7FC00000, flNV)


/-! ### Control flow, barriers, fences, waits and special registers -/

/-- The target of a relative transfer: PC plus the signed IMM (Table 9-9). -/
def Sys2Proof.Claims.relTo (pc : Nat) (w : W64) : Int := (pc : Int) + (BitVec.ofNat 32 (bitsOf w 31 0)).toInt

/-- A lane's address in the pair a specifier names: low word in N, high word in N + 1; ZERO reads 0 (R183). -/
def Sys2Proof.Claims.pairAt (y : Ply) (n l : Nat) : Nat := if n = 0xC0 then 0 else y.rd n l + y.rd (n + 1) l * 2 ^ 32

open Sys2Proof.Claims in
/-- R194, Table 9-9: BRA, CALL, JMP and CALLR complete wherever their word issues, is legal, and the guarded threads' targets are aligned and below
2^48. Each guarded thread takes the transfer and the others go on at PC + 8; CALL and CALLR write PC + 8 to pair D, CALLR's target being read
before. -/
def Obligations.Branches_move_the_guarded_threads : Prop :=
  ∀ (s : State) (p : PlyId) (w : W64) (y : Ply) (pc : Nat),
    let g := y.guardMask w (y.issuers pc)
    let rel := fun (l : Nat) => if g.getLsbD l then (relTo pc w).toNat else pc + 8
    let ind := fun (l : Nat) => if g.getLsbD l then pairAt y (wA w) l else pc + 8
    let relOk := bitsOf w 31 0 % 8 = 0 ∧ 0 ≤ relTo pc w ∧ relTo pc w < 2 ^ 48
    let indOk := pair64 y.vregs (wA w) = true ∧
      ∀ l < 32, g.getLsbD l = true → pairAt y (wA w) l < 2 ^ 48 ∧ pairAt y (wA w) l % 8 = 0
    let same := fun (y' : Ply) => y'.pr = y.pr ∧ y'.fpflags = y.fpflags ∧ y'.tbLatch = y.tbLatch
    (Issues s p w [] y pc → wOp w = 0x60 → relOk →
      ∃ u y', exec (.bra p w) s = .next u ∧ Retired s u p y y' pc rel ∧ y'.v = y.v ∧ y'.sc = y.sc ∧ same y')
    ∧ (Issues s p w [wA w] y pc → wOp w = 0x62 → indOk →
      ∃ u y', exec (.jmp p w) s = .next u ∧ Retired s u p y y' pc ind ∧ y'.v = y.v ∧ y'.sc = y.sc ∧ same y')
    ∧ (Issues s p w [wD w] y pc → wOp w = 0x64 → pair64 y.vregs (wD w) = true → relOk →
      ∃ u y', exec (.call p w) s = .next u ∧ Retired s u p y y' pc rel ∧ Writes y y' 4 (wD w) g (fun _ => pc + 8) ∧ same y')
    ∧ (Issues s p w [wD w, wA w] y pc → wOp w = 0x66 → pair64 y.vregs (wD w) = true → indOk →
      ∃ u y', exec (.callr p w) s = .next u ∧ Retired s u p y y' pc ind ∧ Writes y y' 4 (wD w) g (fun _ => pc + 8) ∧ same y')

open Sys2Proof.Claims in
/-- The special registers of Table 9-10 as a lane of the ply y at place p reads them. -/
def Sys2Proof.Claims.specialValue (s : State) (p : PlyId) (y : Ply) (pc ix lane : Nat) : Nat :=
  match ix with
  | 0x00 => lane
  | 0x01 => (y.issuers pc).toNat
  | 0x02 => p.spindle.val
  | 0x03 => p.flyer.val
  | 0x04 => p.slot.val
  | 0x05 => y.owner.ctx
  | 0x06 => y.owner.source
  | 0x07 => y.vregs
  | 0x08 => s.core.timebase.toNat % 2 ^ 32
  | 0x09 => y.tbLatch.toNat
  | 0x0A => y.fpflags.toNat
  | _ => ofBits (fun n => n < 8 && ((y.tokens[n]?).map (fun k => k.busy)).getD false)

open Sys2Proof.Claims in
/-- R192, R202, Table 9-10: MOVSR completes wherever its word issues and is legal and writes D the special register its index names; where a guarded
thread reads index 0x08 the timebase's high word is latched, and where one reads index 0x0A with IMM[8] = 1 FPFLAGS becomes zero. -/
def Obligations.MOVSR_reads_the_special_registers : Prop :=
  ∀ (s : State) (p : PlyId) (w : W64) (y : Ply) (pc : Nat),
    let g := y.guardMask w (y.issuers pc)
    let ix := bitsOf w 7 0
    Issues s p w [wD w] y pc → wOp w = 0x5A → wType w = 0 → dst32 y.vregs (wD w) = true → ix < 12 →
    ∃ u y', exec (.movsr p w) s = .next u ∧ Retired s u p y y' pc (fun _ => pc + 8)
      ∧ Writes y y' 0 (wD w) g (fun l => specialValue s p y pc ix l) ∧ y'.pr = y.pr
      ∧ y'.tbLatch = (if ix = 8 ∧ g ≠ 0#32 then BitVec.ofNat 32 (s.core.timebase.toNat / 2 ^ 32) else y.tbLatch)
      ∧ y'.fpflags = (if ix = 0x0A ∧ bitsOf w 8 8 = 1 ∧ g ≠ 0#32 then 0#5 else y.fpflags)

/-- The ply has stores or atomics outstanding (R219), and an acquire outstanding (R218). -/
def Sys2Proof.Claims.storesWait (y : Ply) : Prop := ∃ o ∈ y.mem, wOp o.w = 0x72 ∨ wOp o.w = 0x80
def Sys2Proof.Claims.acquireWaits (y : Ply) : Prop :=
  ∃ o ∈ y.mem, (wOp o.w = 0x70 ∧ bitsOf o.w 29 28 = 1) ∨ (wOp o.w = 0x80 ∧ bitsOf o.w 14 14 = 1)

open Sys2Proof.Claims in
/-- R197, R198, R201, R218-R220: BAR stops the issuing threads; FENCE with nothing of the ply's left to wait for writes the merge buffers to DRAM on a
release at system scope and empties the flyer's L1 on an acquire; TWAIT stops the guarded threads while a token of MASK is busy, else gives D the
status word and empties the flyer's L1; BKPT retires as a NOP where its flyer has no software breakpoints, and halts its ply with REASON 4 where it
has; TRAP with no guarded thread does nothing; LOGEV logs one code event of its lowest guarded thread while LOGEV_EN = 1. -/
def Obligations.Barriers_fences_and_waits_complete : Prop :=
  ∀ (s : State) (p : PlyId) (w : W64) (y : Ply) (pc : Nat),
    let m := y.issuers pc
    let g := y.guardMask w m
    let k := plyKey p
    let fly := k / 16
    let next := fun (_ : Nat) => pc + 8
    let quiet := fun (y' : Ply) => y'.v = y.v ∧ y'.sc = y.sc ∧ y'.pr = y.pr ∧ y'.fpflags = y.fpflags ∧ y'.tbLatch = y.tbLatch
    let noL1 := fun (s : State) => { s with mem := { s.mem with l1 := s.mem.l1.filter (fun l => l.fly ≠ fly) } }
    let busy := fun n => ((y.tokens[n]?).map (fun t => t.busy)).getD false
    let stat := fun n => ((y.tokens[n]?).map (fun t => t.status)).getD 0
    (Issues s p w [] y pc → wOp w = 0x90 → bitsOf w 55 55 = 0 →
      ∃ u y', exec (.bar p w) s = .next u ∧ Issued s u p y { y with atBar := y.atBar ||| m } y' pc next)
    ∧ (Issues s p w [] y pc → wOp w = 0x92 → bitsOf w 15 14 ≠ 0 → (bitsOf w 15 15 = 1 → ¬ storesWait y) →
        (bitsOf w 14 14 = 1 → ¬ acquireWaits y) → g ≠ 0#32 →
      ∃ u y' s1, s1 = (if bitsOf w 15 15 = 1 ∧ bitsOf w 13 12 = 3 then drainAll s else s)
        ∧ exec (.fence p w) s = .next u
        ∧ Retired (if bitsOf w 14 14 = 1 then noL1 s1 else s1) u p y y' pc next ∧ quiet y')
    ∧ (Issues s p w [] y pc → wOp w = 0x92 → bitsOf w 15 14 ≠ 0 → (bitsOf w 15 15 = 1 → ¬ storesWait y) →
        (bitsOf w 14 14 = 1 → ¬ acquireWaits y) → g = 0#32 →
      ∃ u y', exec (.fence p w) s = .next u ∧ Retired s u p y y' pc next ∧ quiet y')
    ∧ (Issues s p w [wD w] y pc → wOp w = 0x94 → dst32 y.vregs (wD w) = true → g ≠ 0#32 →
        (∀ n < 8, bitsOf w 7 0 / 2 ^ n % 2 = 1 → busy n = false) →
      ∃ u y', exec (.twait p w) s = .next u ∧ Retired (noL1 s) u p y y' pc next
        ∧ Writes y y' 0 (wD w) g (fun _ =>
            ((List.range 8).map (fun n => if bitsOf w 7 0 / 2 ^ n % 2 = 1 then stat n * 4 ^ n else 0)).sum)
        ∧ y'.pr = y.pr ∧ y'.fpflags = y.fpflags ∧ y'.tbLatch = y.tbLatch)
    ∧ (Issues s p w [wD w] y pc → wOp w = 0x94 → dst32 y.vregs (wD w) = true → g ≠ 0#32 →
        (∃ n < 8, bitsOf w 7 0 / 2 ^ n % 2 = 1 ∧ busy n = true) →
      ∃ u y', exec (.twait p w) s = .next u
        ∧ Issued s u p y { y with twaits := y.twaits ++ [(g, bitsOf w 7 0, wD w)], active := y.active && !y.twoLevel } y' pc next)
    ∧ (Issues s p w [] y pc → wOp w = 0xF0 → s.flag ⟨C (0xD4000 + fly * 0x80), 0, 0⟩ = false →
      ∃ u y', exec (.bkpt p w) s = .next u ∧ Retired s u p y y' pc next ∧ quiet y')
    ∧ (Issues s p w [] y pc → wOp w = 0xF0 → s.flag ⟨C (0xD4000 + fly * 0x80), 0, 0⟩ = true → y.passBkpt ≠ some pc →
      ∃ u y', exec (.bkpt p w) s = .next u ∧ plyAt u k = some y' ∧ y'.pcs = y.pcs ∧ y'.halted = true ∧ y'.haltReason = 4)
    ∧ (Issues s p w [] y pc → wOp w = 0xF2 → g = 0#32 →
      ∃ u y', exec (.trap p w) s = .next u ∧ Retired s u p y y' pc next ∧ quiet y')
    ∧ (Issues s p w [wA w] y pc → wOp w = 0xF4 → wType w = 0 → pair64 y.vregs (wA w) = true →
      ∀ l, (lanesOf g).head? = some l → s.flag ⟨C 0xC0000, 31, 31⟩ = true →
      ∃ u y', exec (.logev p w) s = .next u ∧ quiet y'
        ∧ Retired (logEvent 6 0x0A8 y.owner.ctx (p.spindle.val * 1024 + p.flyer.val * 256 + p.slot.val * 16)
            (bitsOf w 15 0 * 2 ^ 32 + pairAt y (wA w) l % 2 ^ 32) s) u p y y' pc next)
    ∧ (Issues s p w [wA w] y pc → wOp w = 0xF4 → wType w = 0 → pair64 y.vregs (wA w) = true →
        g = 0#32 ∨ s.flag ⟨C 0xC0000, 31, 31⟩ = false →
      ∃ u y', exec (.logev p w) s = .next u ∧ Retired s u p y y' pc next ∧ quiet y')


/-! ### Threads and plies -/

/-- FLY_STAT of the flyer of a place (Table 8-2). -/
def Sys2Proof.Claims.flyStat (k : Nat) : Nat := C (0x100010 + k / 64 * 0x1000 + 4 * (k / 16 % 4))

/-- The two-level plies of the flyer of place k that are in its active set. -/
def Sys2Proof.Claims.activeSet (s : State) (k : Nat) : List (Nat × Ply) :=
  s.fly.plies.filter (fun e => e.1 / 16 = k / 16 && e.2.twoLevel && e.2.active)

open Sys2Proof.Claims in
/-- R162, R164-R167, R174, R197, R198: EXIT ends the guarded threads and the others go on; BAR_RELEASE releases a group of which every thread is at a BAR or
has exited, and nothing before that; TWAIT_RELEASE writes the status word of the TWAIT whose tokens are done and releases its threads; PLY_END frees the
place of a ply of which nothing is left; THREAD_AGE_OVERRIDE makes the PC of the lowest ready lane with SKIP 64 the next one; PLY_AGE_OVERRIDE and
ACTIVE_SET_MOVE move plies between a flyer's active set of at most four and its pending set. -/
def Obligations.Ply_events_change_threads_and_sets : Prop :=
  ∀ (s : State) (p : PlyId) (y : Ply), running s = true → plyAt s (plyKey p) = some y →
    let k := plyKey p
    let others := fun (u : State) => ∀ k', k' ≠ k → plyAt u k' = plyAt s k'
    (∀ (w : W64) (pc : Nat), Issues s p w [] y pc → wOp w = 0x68 → y.cbs = [] → y.shade = [] →
      let g := y.guardMask w (y.issuers pc)
      ∃ u y', exec (.exit p w) s = .next u
        ∧ Issued (dropAllot y.uid (fun l => g.getLsbD l) s) u p y
            { y with exited := y.exited ||| g, allot := y.allot.filter (fun a => !g.getLsbD a.1) } y' pc
            (fun l => if g.getLsbD l then y.pcOf l else pc + 8))
    ∧ ((∀ e ∈ s.fly.plies, e.2.owner = y.owner → ∀ l < 32, e.2.present.getLsbD l = true →
          e.2.atBar.getLsbD l = true ∨ e.2.exited.getLsbD l = true) →
      Ends (.barRelease p) s fun u =>
        (∀ k', plyAt u k' = (plyAt s k').map (fun z => if z.owner = y.owner then { z with atBar := 0#32 } else z))
        ∧ RegsKept s u [] ∧ { u with regs := s.regs, fly := { u.fly with plies := s.fly.plies } } = s)
    ∧ ((∃ e ∈ s.fly.plies, e.2.owner = y.owner ∧ ∃ l < 32, e.2.present.getLsbD l = true ∧
          e.2.atBar.getLsbD l = false ∧ e.2.exited.getLsbD l = false) → Idle (.barRelease p) s)
    ∧ (∀ (m : BitVec 32) (mask d : Nat), y.twaits = [(m, mask, d)] → dst32 y.vregs d = true →
        (∀ n < 8, mask / 2 ^ n % 2 = 1 → ((y.tokens[n]?).map (fun t => t.busy)).getD false = false) →
      Ends (.twaitRelease p) s fun u => ∃ y', plyAt u k = some y' ∧ y'.twaits = [] ∧ others u
        ∧ Writes y y' 0 d m (fun _ => ((List.range 8).map (fun n =>
            if mask / 2 ^ n % 2 = 1 then ((y.tokens[n]?).map (fun t => t.status)).getD 0 * 4 ^ n else 0)).sum)
        ∧ { y' with v := y.v, sc := y.sc, twaits := y.twaits } = y
        ∧ u.mem = { s.mem with l1 := s.mem.l1.filter (fun l => l.fly ≠ k / 16) } ∧ RegsKept s u [])
    ∧ (y.ended = true ∨ y.present &&& ~~~y.exited = 0#32 → y.mem = [] → (∀ t ∈ y.tokens, t.busy = false) → y.tracing = none →
        y.shade = [] → y.cbs = [] →
      Ends (.plyEnd p) s fun u => plyAt u k = none ∧ others u ∧ u.mem = s.mem)
    ∧ (∀ l ∈ (lanesOf y.readyMask).find? (fun l => y.skipOf l = 64), y.choose = some (y.pcOf l) ∧
      Ends (.threadAgeOverride p) s fun u =>
        let c := 0x100000 + k / 64 * 0x1000 + 0x100 + 0x40 * (k / 16 % 4) + 0x20
        OnlyRegs s u [C c, C (c + 4)]
        ∧ counter u c = if s.flag ⟨C (0x100000 + k / 64 * 0x1000), 1, 1⟩ && !s.flag ⟨C 0xD0040, 0, 0⟩
            then (counter s c + 1) % 2 ^ 64 else counter s c)
    ∧ (256 ≤ y.unchosen → y.readyMask ≠ 0#32 → y.twoLevel = true → y.active = false → (activeSet s k).length < 4 →
      Ends (.plyAgeOverride p) s fun u => plyAt u k = some { y with active := true } ∧ others u
        ∧ RegsKept s u (flyStat k :: flyerCounters k) ∧ u.mem = s.mem)
    ∧ (256 ≤ y.unchosen → y.readyMask ≠ 0#32 → y.twoLevel = true → y.active = false →
        (activeSet s k).length = 4 → (s.fly.plies.map (fun e => e.1)).Nodup →
      Ends (.plyAgeOverride p) s fun u => plyAt u k = some { y with active := true } ∧
        ∃ e ∈ activeSet s k, (∀ f ∈ activeSet s k, e.2.age ≤ f.2.age) ∧ plyAt u e.1 = some { e.2 with active := false }
          ∧ (∀ k', k' ≠ k → k' ≠ e.1 → plyAt u k' = plyAt s k'))
    ∧ (y.twoLevel = true → y.active = true → y.readyMask = 0#32 → (y.mem ≠ [] ∨ y.twaits ≠ [] ∨ y.atBar ≠ 0#32 ∨ y.halted = true) →
      Ends (.activeSetMove p) s fun u => plyAt u k = some { y with active := false } ∧ others u
        ∧ RegsKept s u (flyStat k :: flyerCounters k) ∧ u.mem = s.mem)
    ∧ (y.twoLevel = true → y.active = false → y.halted = false → y.readyMask ≠ 0#32 → (activeSet s k).length < 4 →
        (s.fly.plies.map (fun e => e.1)).Nodup →
        (∀ e ∈ s.fly.plies, e.1 / 16 = k / 16 → e.2.twoLevel = true → e.2.active = false → e.2.halted = false →
          e.2.readyMask ≠ 0#32 → e.1 ≠ k → y.age < e.2.age) →
      Ends (.activeSetMove p) s fun u => plyAt u k = some { y with active := true } ∧ others u
        ∧ RegsKept s u [flyStat k] ∧ u.mem = s.mem)


/-! ### Loads, stores and atomics -/

/-- Element bytes and element count of an LD or ST (Table 9-3, R195). -/
def Sys2Proof.Claims.accessBytes (w : W64) : Nat :=
  (match wType w with
    | 7 => 1
    | 6 => 2
    | 4 => 8
    | _ => 4) * 2 ^ bitsOf w 31 30

/-- The address of a lane's LD or ST: pair A plus the signed OFFSET (R195). -/
def Sys2Proof.Claims.laneAddr (y : Ply) (w : W64) (l : Nat) : Int :=
  (Sys2Proof.Claims.pairAt y (wA w) l : Int) + (BitVec.ofNat 24 (bitsOf w 23 0)).toInt

/-- The lowest watchpoint that some guarded lane's access matches (R476). -/
def Sys2Proof.Claims.watchOf (s : State) (p : PlyId) (y : Ply) (g : BitVec 32) (va : Nat → Nat) (n : Nat) (rd : Bool) : Option Nat :=
  leastOf ((lanesOf g).filterMap (fun l => wpMatch s (plyKey p) y.owner.ctx (va l) n rd (!rd)))

open Sys2Proof.Claims in
/-- R170, R195, R196, R218, R219: LD, ST and the eight atomics complete their issue wherever the word issues and is legal, the guarded addresses are
below 2^48 and aligned, every guarded lane translates, nothing of the ply's must be waited for first, and (LD) no guarded lane hits in the L1: the
issuing threads are at PC + 8 and the instruction is outstanding with one access per guarded lane, holding the bytes a store takes from D, or an
atomic's B and C, as they are now. A release at system scope first writes the merge buffers to DRAM. -/
def Obligations.Memory_instructions_issue_their_accesses : Prop :=
  ∀ (s : State) (p : PlyId) (w : W64) (y : Ply) (pc : Nat) (acc : List LaneAcc) (u : State),
    let g := y.guardMask w (y.issuers pc)
    let t := wType w
    let ls := lanesOf g
    let next := fun (_ : Nat) => pc + 8
    let op := fun (first n : Nat) (todo : List LaneAcc) (watch : Option Nat) =>
      ({ w := w, first := first, pc := pc, size := n, todo := todo, faulted := false, watch := watch, step := false, cleared := [] } : MemOp)
    let n := accessBytes w
    let va := fun l => (laneAddr y w l).toNat
    let aligned := ∀ l < 32, g.getLsbD l = true → 0 ≤ laneAddr y w l ∧ laneAddr y w l < 2 ^ 48 ∧ laneAddr y w l % n = 0
    let form := t ∈ [0, 2, 3, 4, 6, 7] ∧ pair64 y.vregs (wA w) = true ∧ bitsOf w 31 30 ≠ 3 ∧ ¬ (bitsOf w 31 30 = 2 ∧ t = 4)
    let an := if is64 t then 8 else 4
    let ava := fun l => pairAt y (wA w) l
    let aform := fun sub : Nat => t ∈ [0, 1, 2, 4, 5] ∧ pair64 y.vregs (wA w) = true ∧ dstOk y.vregs t (wD w) = true ∧ srcOk y.vregs t (wB w) = true
      ∧ (sub = 7 → srcOk y.vregs t (wC w) = true) ∧ bitsOf w 6 4 = sub ∧ (3 ≤ sub ∧ sub ≤ 5 → t = 0 ∨ t = 4)
      ∧ ∀ l < 32, g.getLsbD l = true → ava l < 2 ^ 48 ∧ ava l % an = 0
    (Issues s p w [wD w, wA w] y pc → wOp w = 0x70 → form → bitsOf w 29 28 < 2 → memD y.vregs w false = true → aligned → g ≠ 0#32 →
        ¬ acquireWaits y →
        translateLanes (plyKey p) y.uid y.owner.ctx .read (ls.map (fun l => (l, va l))) s = (acc, false, false, u) →
        (∀ x ∈ acc, ∀ pa un, x.pa = some (pa, un) → l1Find u (plyKey p / 16) (pa / 64) = none) →
      ∃ v y' first, exec (.ld p w) s = .next v ∧ ls.head? = some first
        ∧ Issued u v p y { y with mem := y.mem ++ [op first n acc (watchOf u p y g va n true)] } y' pc next)
    ∧ (Issues s p w [wD w, wA w] y pc → wOp w = 0x72 → form → bitsOf w 29 28 = 0 ∨ bitsOf w 29 28 = 2 → memD y.vregs w true = true →
        aligned → g ≠ 0#32 → ¬ acquireWaits y → (bitsOf w 29 28 = 2 → ¬ storesWait y) →
        translateLanes (plyKey p) y.uid y.owner.ctx .write (ls.map (fun l => (l, va l)))
          (if bitsOf w 29 28 = 2 ∧ bitsOf w 27 26 = 3 then drainAll s else s) = (acc, false, false, u) →
      ∃ v y' first, exec (.st p w) s = .next v ∧ ls.head? = some first
        ∧ Issued u v p y { y with mem := y.mem ++ [op first n (acc.map (fun x => { x with data := storeBytes y w x.lane }))
            (watchOf u p y g va n false)] } y' pc next)
    ∧ (∀ sub < 8, ∀ cmd, [Instr.atomAdd p w, .atomMin p w, .atomMax p w, .atomAnd p w, .atomOr p w, .atomXor p w, .exch p w,
          .cas p w][sub]? = some cmd →
        Issues s p w ([wD w, wA w, wB w] ++ (if sub = 7 then [wC w] else [])) y pc → wOp w = 0x80 → aform sub → g ≠ 0#32 →
        ¬ acquireWaits y → (bitsOf w 15 15 = 1 → ¬ storesWait y) →
        translateLanes (plyKey p) y.uid y.owner.ctx .atomic (ls.map (fun l => (l, ava l)))
          (if bitsOf w 15 15 = 1 ∧ bitsOf w 13 12 = 3 then drainAll s else s) = (acc, false, false, u) →
      ∃ v y' first, exec cmd s = .next v ∧ ls.head? = some first
        ∧ Issued u v p y { y with mem := y.mem ++ [op first an (acc.map (fun x =>
            { x with b := y.rdT t (wB w) x.lane, c := y.rdT t (wC w) x.lane })) (watchOf u p y g ava an false)] } y' pc next)

/-- What each of the eight atomics leaves at its location, from the value v there and the operands b and c (R225, R226; the float forms of ADD, MIN
and MAX are those of FADD to nearest, FMIN and FMAX). -/
def Sys2Proof.Claims.atomic (t sub v b c : Nat) : Nat :=
  match sub with
  | 0 => if t = 2 then (Machine.fadd fmt32 .ne false (fdecode fmt32 v) (fdecode fmt32 b)).1
      else if is64 t then (BitVec.ofNat 64 v + BitVec.ofNat 64 b).toNat else (BitVec.ofNat 32 v + BitVec.ofNat 32 b).toNat
  | 1 => if t = 2 then (fminmax fmt32 true (fdecode fmt32 v) (fdecode fmt32 b)).1
      else if Sys2Proof.Claims.num t v ≤ Sys2Proof.Claims.num t b then v else b
  | 2 => if t = 2 then (fminmax fmt32 false (fdecode fmt32 v) (fdecode fmt32 b)).1
      else if Sys2Proof.Claims.num t b ≤ Sys2Proof.Claims.num t v then v else b
  | 3 => v &&& b
  | 4 => v ||| b
  | 5 => v ^^^ b
  | 6 => b
  | _ => if v = c then b else v

open Sys2Proof.Claims in
/-- R170, R195, R225, R226: MEMORY_RESPONSE performs the one outstanding access of a ply that is in memory and meets no error. A load's lane register D
gets the element that memory holds at the address; a store's bytes are what memory then holds there; an atomic's D gets the value before and the
location the atomic's result. Every other byte of memory reads as before, and the instruction is outstanding no more. -/
def Obligations.A_memory_response_performs_one_access : Prop :=
  ∀ (s : State) (p : PlyId) (y : Ply) (o : MemOp) (a : LaneAcc) (pa : Nat),
    running s = true → MergeSound s → plyAt s (plyKey p) = some y → y.mem = [o] → o.todo = [a] → a.pa = some (pa, false) → a.lane < 32 →
    isMem s pa → pa % 64 = a.va % 64 → pa % 64 + o.size ≤ 64 → poisoned s (pa / 64 * 64) 64 = false → o.watch = none → o.step = false →
    o.faulted = false →
    let w := o.w
    let d := wD w
    (wOp w = 0x70 → wType w ∈ [0, 2, 3] → bitsOf w 31 30 = 0 → o.size = 4 → spV d = true →
      Ends (.memoryResponse p .clean) s fun u => ∃ y', plyAt u (plyKey p) = some y' ∧ y'.mem = []
        ∧ y'.vget d a.lane = leNat (memRead s pa 4)
        ∧ (∀ r < 128, ∀ l < 32, ¬ (r = d ∧ l = a.lane) → y'.vget r l = y.vget r l) ∧ y'.sc = y.sc ∧ y'.pr = y.pr
        ∧ ∀ x, memRead u x 1 = memRead s x 1)
    ∧ (wOp w = 0x72 → a.data.length = o.size →
      Ends (.memoryResponse p .clean) s fun u => ∃ y', plyAt u (plyKey p) = some y' ∧ { y' with mem := y.mem } = y ∧ y'.mem = []
        ∧ memRead u pa o.size = a.data ∧ ∀ x, isMem s x → x < pa ∨ pa + o.size ≤ x → memRead u x 1 = memRead s x 1)
    ∧ (wOp w = 0x80 → wType w ∈ [0, 1] → o.size = 4 → spV d = true →
      Ends (.memoryResponse p .clean) s fun u => ∃ y', plyAt u (plyKey p) = some y' ∧ y'.mem = []
        ∧ y'.vget d a.lane = leNat (memRead s pa 4)
        ∧ (∀ r < 128, ∀ l < 32, ¬ (r = d ∧ l = a.lane) → y'.vget r l = y.vget r l) ∧ y'.sc = y.sc ∧ y'.pr = y.pr
        ∧ leNat (memRead u pa 4) = atomic (wType w) (bitsOf w 6 4) (leNat (memRead s pa 4)) a.b a.c % 2 ^ 32
        ∧ ∀ x, isMem s x → x < pa ∨ pa + 4 ≤ x → memRead u x 1 = memRead s x 1)

/-! ### Instruction exceptions -/

open Sys2Proof.Claims in
/-- R185, R201, R205, R206: an integer instruction whose TYPE its table does not list raises exception 1 (ILLEGAL_OPCODE), one with a listed TYPE and
operands that are not legal exception 2 (ILLEGAL_OPERAND), and TRAP with a guarded thread exception 6. Where the flyer catches no exceptions every thread
of the ply exits at once, the ply's status is 1 and one CLASS 6 event with code 0x0A0 + the exception is queued, with the PC (for TRAP: its code and
the PC's low word) as ARG; where it catches them, the ply halts with REASON 5 and INDEX the exception, before the instruction, and nothing is logged. -/
def Obligations.Instruction_exceptions_end_or_halt_the_ply : Prop :=
  ∀ (s : State) (p : PlyId) (w : W64) (y : Ply) (pc : Nat) (c : Instr) (code : Nat),
    let k := plyKey p
    ((∃ e ∈ intRows, c = e.cmd p w ∧ Issues s p w (e.uses w) y pc ∧ (wOp w = e.op ∨ e.iform = true ∧ wOp w = e.op + 1)
        ∧ ((wType w ∉ e.types ∧ code = 1) ∨ (wType w ∈ e.types ∧ ¬ e.legal w y ∧ code = 2)))
      ∨ (c = .trap p w ∧ Issues s p w [] y pc ∧ wOp w = 0xF2 ∧ y.guardMask w (y.issuers pc) ≠ 0#32 ∧ code = 6)) →
    (s.flag ⟨C (0xD4000 + k / 16 * 0x80), 1, 1⟩ = false → (s.log.queued.filter (fun q => q.1 = 5)).length < 8 →
      Ends c s fun u => ∃ y', plyAt u k = some y' ∧ y'.exited = y.present ∧ y'.ended = true ∧ y'.status = 1 ∧ y'.v = y.v ∧ y'.sc = y.sc
        ∧ y'.pr = y.pr ∧ y'.fpflags = y.fpflags
        ∧ u.log = { s.log with queued := s.log.queued ++ [(5,
            { cls := 6, ctx := y.owner.ctx % 16, code := 0x0A0 + code
              src := (p.spindle.val * 1024 + p.flyer.val * 256 + p.slot.val * 16) % 65536, time := s.core.timebase.toNat % 2 ^ 48
              arg := if code = 6 then bitsOf w 15 0 * 2 ^ 32 + pc % 2 ^ 32 else pc })] }
        ∧ RegsKept s u (flyerCounters k) ∧ u.mem = s.mem)
    ∧ (s.flag ⟨C (0xD4000 + k / 16 * 0x80), 1, 1⟩ = true →
      Ends c s fun u => ∃ y', plyAt u k = some y' ∧ y'.halted = true ∧ y'.haltReason = 5 ∧ y'.haltIndex = code ∧ y'.pcs = y.pcs
        ∧ y'.exited = y.exited ∧ y'.v = y.v ∧ y'.sc = y.sc ∧ y'.pr = y.pr ∧ y'.fpflags = y.fpflags ∧ u.log = s.log ∧ u.mem = s.mem)


/-! ### Instruction fetch, counters, lea roles, merge buffers and DRAM -/

/-- The translation cache an access of the ply at a place uses (Table 6-11). -/
def Sys2Proof.Claims.unitOf (p : PlyId) : TlbUnit := .flyer p.spindle p.flyer

/-- A counter adds n while its enable holds and HOLD_ALL = 0, and wraps at 2^64 (R175, R478). -/
def Sys2Proof.Claims.counts (s u : State) (enable : Fld) (off n : Nat) : Prop :=
  counter u off = if s.flag enable && !s.flag ⟨C 0xD0040, 0, 0⟩ then (counter s off + n) % 2 ^ 64 else counter s off

/-- FLY_CFG.CNT_EN of a spindle (Table 8-2). -/
def Sys2Proof.Claims.cntEn (sp : Nat) : Fld := ⟨C (0x100000 + sp * 0x1000), 1, 1⟩

open Sys2Proof.Claims in
/-- R171-R173: a DEMAND_FETCH whose line the spindle's cache holds only counts a hit; one that misses installs the line's eight words; one whose
translation faults makes the ply wait (WAIT mode). A SPECULATIVE_FETCH of a mapped line in an untranslated context fills the cache.
IC_INVAL and IC_INVAL_ALL set BUSY, and IC_INVAL_DONE empties the caches concerned and clears it. -/
def Obligations.Instruction_fetch_and_cache_invalidation : Prop :=
  ∀ (s : State), running s = true →
    (∀ (p : PlyId) (y : Ply) (pc pa : Nat) (un : Bool) (v : State) (e : Ecc), plyAt s (plyKey p) = some y →
        ctxRuns s y.owner.ctx = true → y.ended = false → y.choose = some pc →
        translate (unitOf p) y.owner.ctx pc .fetch false s = (.ok pa un, v) → icFind v p.spindle.val pa ≠ none →
      Ends (.demandFetch p e) s fun u => u.fly = v.fly ∧ u.mem = v.mem
        ∧ counts v u (cntEn p.spindle.val) (0x100040 + p.spindle.val * 0x1000) 1)
    ∧ (∀ (p : PlyId) (y : Ply) (pc pa : Nat) (un : Bool) (v : State), plyAt s (plyKey p) = some y →
        ctxRuns s y.owner.ctx = true → y.ended = false → y.choose = some pc →
        translate (unitOf p) y.owner.ctx pc .fetch false s = (.ok pa un, v) → icFind v p.spindle.val pa = none → isMem v pa →
        poisoned v (pa / 64 * 64) 64 = false → (v.fly.ic.filter (fun l => l.sp = p.spindle.val)).length < 512 →
      Ends (.demandFetch p .clean) s fun u =>
        u.fly = { v.fly with ic := { sp := p.spindle.val, pa := pa / 64 * 64, words := (List.range 8).map (fun i =>
          BitVec.ofNat 64 (leNat (memRead v (pa / 64 * 64 + 8 * i) 8))) } :: v.fly.ic }
        ∧ counts v u (cntEn p.spindle.val) (0x100048 + p.spindle.val * 0x1000) 1)
    ∧ (∀ (p : PlyId) (y : Ply) (pc cause lv : Nat) (v : State) (e : Ecc), plyAt s (plyKey p) = some y →
        ctxRuns s y.owner.ctx = true → y.ended = false → y.choose = some pc → v.flag (fFaultMode y.owner.ctx) = false →
        translate (unitOf p) y.owner.ctx pc .fetch false s = (.fault cause lv, v) →
      Ends (.demandFetch p e) s fun u => ∃ y', plyAt u (plyKey p) = some y' ∧ y'.fetchFault = true ∧ y'.pcs = y.pcs
        ∧ waitsOnFault u y.owner.ctx = true)
    ∧ (∀ (p : PlyId) (y : Ply) (va : BitVec 48), plyAt s (plyKey p) = some y → ctxRuns s y.owner.ctx = true →
        s.flag ⟨C (0x100000 + p.spindle.val * 0x1000), 0, 0⟩ = true → s.flag (fXlate y.owner.ctx) = false → isMem s va.toNat →
        icFind s p.spindle.val va.toNat = none → poisoned s (va.toNat / 64 * 64) 64 = false →
        (s.fly.ic.filter (fun l => l.sp = p.spindle.val)).length < 512 →
      Ends (.speculativeFetch p va .clean) s fun u =>
        u.fly = { s.fly with ic := { sp := p.spindle.val, pa := va.toNat / 64 * 64, words := (List.range 8).map (fun i =>
          BitVec.ofNat 64 (leNat (memRead s (va.toNat / 64 * 64 + 8 * i) 8))) } :: s.fly.ic }
        ∧ counts s u (cntEn p.spindle.val) (0x100050 + p.spindle.val * 0x1000) 1)
    ∧ (∀ sp : Fin 64, sp.val ∉ s.fly.icBusy →
      Ends (.icInval sp) s fun u => u.flag ⟨C (0x100004 + sp.val * 0x1000), 31, 31⟩ = true ∧ u.flag ⟨C 0x200, 31, 31⟩ = true
        ∧ u.fly = { s.fly with icBusy := s.fly.icBusy ++ [sp.val] } ∧ RegsKept s u [C (0x100004 + sp.val * 0x1000), C 0x200])
    ∧ (∀ sp : Fin 64, sp.val ∈ s.fly.icBusy → Idle (.icInval sp) s)
    ∧ (s.flag ⟨C 0x200, 31, 31⟩ = false → s.fly.icBusy = [] →
      Ends .icInvalAll s fun u => (∀ sp < 64, u.flag ⟨C (0x100004 + sp * 0x1000), 31, 31⟩ = true) ∧ u.flag ⟨C 0x200, 31, 31⟩ = true
        ∧ u.fly = { s.fly with icBusy := List.range 64 })
    ∧ ((∀ sp ∈ s.fly.icBusy, sp < 64) →
      Ends .icInvalDone s fun u => u.fly = { s.fly with ic := s.fly.ic.filter (fun l => !s.fly.icBusy.contains l.sp), icBusy := [] }
        ∧ (∀ sp ∈ s.fly.icBusy, u.flag ⟨C (0x100004 + sp * 0x1000), 31, 31⟩ = false) ∧ u.flag ⟨C 0x200, 31, 31⟩ = false)

open Sys2Proof.Claims in
/-- R175, R209-R212, R231, R478: CNT_CLR and CLR_ALL zero the counters of a unit and of every unit; ROLE_APPLY starts an apply unless a lea in use
would lose its role, and ROLE_APPLY_COMPLETE makes the staged roles active with the leas that enter SCRATCH or PINNED zeroed; MERGE_LINE_DRAIN writes a
merge line to DRAM and leaves what every reader sees; PATROL_SCRUB reads one line and counts what it finds; TRAIN and DRAM_TRAIN_DONE train DRAM;
CLR_CNT zeroes the DRAM error counters. -/
def Obligations.Counters_roles_merge_buffers_and_DRAM : Prop :=
  ∀ (s : State), running s = true →
    (∀ sp : Fin 64, Ends (.cntClr (.spindle sp)) s fun u =>
      (∀ o ∈ [0x40, 0x48, 0x50, 0x58, 0x100, 0x140, 0x180, 0x1C0, 0x200, 0x238, 0x340, 0x358, 0x400, 0x438, 0x500, 0x538],
        counter u (0x100000 + sp.val * 0x1000 + o) = 0)
      ∧ u.reg (C (0x100000 + sp.val * 0x1000)) = s.reg (C (0x100000 + sp.val * 0x1000)) ∧ u.mem = s.mem ∧ u.fly = s.fly)
    ∧ Ends (.cntClr .raster) s (fun u => (∀ n < 11, counter u (0x40100 + 8 * n) = 0)
      ∧ OnlyRegs s u ((List.range 88).map (fun n => C (0x40100 + n))))
    ∧ (∀ n : Fin 4, Ends (.cntClr (.peer n)) s fun u => (∀ i < 8, counter u (0x90100 + 0x4000 * n.val + 8 * i) = 0)
      ∧ OnlyRegs s u ((List.range 64).map (fun i => C (0x90100 + 0x4000 * n.val + i))))
    ∧ Ends (.cntClr .reel) s (fun u => ∀ ch < 16, ∀ i < 3, counter u (0xA0010 + 0x40 * ch + 8 * i) = 0)
    ∧ Ends .clrAll s (fun u => (∀ sp < 64, ∀ i < 32, counter u (0x100100 + 0x1000 * sp + 8 * i) = 0)
      ∧ (∀ n < 11, counter u (0x40100 + 8 * n) = 0) ∧ u.mem = s.mem ∧ u.fly = s.fly)
    ∧ (s.mem.applying = none → roleReject s (stagedRoles s) = none →
      Ends .roleApply s fun u => u.flag ⟨C 0x484, 31, 31⟩ = true ∧ u.mem = { s.mem with applying := some (stagedRoles s) }
        ∧ RegsKept s u [C 0x484])
    ∧ (s.mem.applying = none → ∀ code lea, roleReject s (stagedRoles s) = some (code, lea) →
      Ends .roleApply s fun u => u.fld ⟨C 0x484, 29, 28⟩ = code % 4 ∧ u.fld ⟨C 0x484, 24, 16⟩ = lea % 512 ∧ OnlyRegs s u [C 0x484])
    ∧ (∀ new, s.mem.applying = some new → accessInFlight s = false →
      Ends .roleApplyComplete s fun u => u.mem.roles = new ∧ u.mem.applying = none ∧ u.flag ⟨C 0x484, 31, 31⟩ = false
        ∧ u.fld ⟨C 0x484, 29, 28⟩ = 0
        ∧ (∀ o, (if roleIn s.mem.roles (o / 65536) ≠ roleIn new (o / 65536) ∧ (roleIn new (o / 65536) = 0 ∨ roleIn new (o / 65536) = 3)
            then Sparse.get noByte u.mem.skein o = 0#8 else Sparse.get noByte u.mem.skein o = Sparse.get noByte s.mem.skein o)))
    ∧ (∀ (sp : Fin 64) (line : BitVec 42), MergeSound s → (∃ l ∈ s.mem.merge, l.sp = sp.val ∧ l.line = line.toNat) →
      Ends (.mergeLineDrain sp line) s fun u => (∀ l ∈ u.mem.merge, l.line ≠ line.toNat) ∧ MergeSound u
        ∧ ∀ a, cohByte u a = cohByte s a)
    ∧ (∀ (port : Fin 8) (e : Ecc), s.flag fDramReady = true → s.flag ⟨C 0xE0000, 1, 1⟩ = true →
        let i := Sparse.get (fun _ => 0) s.mem.scrub port.val
        let bad := poisoned s (i / 4 * 2048 + port.val * 256 + i % 4 * 64) 64 || e = .uncorrectable
      Ends (.patrolScrub port e) s fun u =>
        u.fld ⟨C 0xE0018, 31, 16⟩ = (if bad then min 65535 (s.fld ⟨C 0xE0018, 31, 16⟩ + 1) else s.fld ⟨C 0xE0018, 31, 16⟩)
        ∧ u.fld ⟨C 0xE0018, 15, 0⟩ =
            (if !bad && e = .corrected then min 65535 (s.fld ⟨C 0xE0018, 15, 0⟩ + 1) else s.fld ⟨C 0xE0018, 15, 0⟩)
        ∧ Sparse.get (fun _ => 0) u.mem.scrub port.val = (if i + 1 < dramBytes s / 32 * 31 / 512 then i + 1 else 0)
        ∧ RegsKept s u [C 0xE0018] ∧ u.mem.dram = s.mem.dram ∧ u.log = s.log)
    ∧ (s.flag fDramReady = false → s.flag ⟨C 0xE0004, 31, 31⟩ = false →
      Ends .train s fun u => u.flag ⟨C 0xE0004, 31, 31⟩ = true ∧ OnlyRegs s u [C 0xE0004])
    ∧ (s.flag fDramReady = true ∨ s.flag ⟨C 0xE0004, 31, 31⟩ = true → Idle .train s)
    ∧ (∀ gib : BitVec 8, s.flag ⟨C 0xE0004, 31, 31⟩ = true → gib.toNat = s.fld ⟨C 0xE0000, 23, 16⟩ →
      Ends (.dramTrainDone (.trained gib)) s fun u => u.flag fDramReady = true ∧ u.fld fDramGib = gib.toNat
        ∧ u.flag ⟨C 0xE0004, 31, 31⟩ = false ∧ u.fld ⟨C 0xE0004, 30, 28⟩ = 0 ∧ RegsKept s u [0x04, 0x08, C 0xE0004])
    ∧ (∀ ch : BitVec 4, s.flag ⟨C 0xE0004, 31, 31⟩ = true →
      Ends (.dramTrainDone (.failed ch)) s fun u => u.flag fDramReady = s.flag fDramReady ∧ u.flag ⟨C 0xE0004, 31, 31⟩ = false
        ∧ u.fld ⟨C 0xE0004, 30, 28⟩ = 1 ∧ u.fld ⟨C 0xE0004, 27, 24⟩ = ch.toNat ∧ OnlyRegs s u [C 0xE0004])
    ∧ Ends .clrCnt s (fun u => u.reg (C 0xE0008) = 0#32 ∧ u.reg (C 0xE0018) = 0#32 ∧ OnlyRegs s u [C 0xE0008, C 0xE0018])


/-! ### Weft ops -/

/-- The entries of a spindle's weft queue, oldest first. -/
def Sys2Proof.Claims.weftEntries (s : State) (sp : Nat) : List WeftOp := (s.weft.queue.filter (fun e => e.1 = sp)).map (fun e => e.2)

/-- Byte n of spindle sp's SRAM from a lea of its own and an offset on (R241: a region continues through ascending leas). -/
def Sys2Proof.Claims.leaByte (s : State) (lea off : Nat) : Nat := (Sparse.get noByte s.mem.skein (lea * 65536 + off)).toNat

/-- Four bytes of the aperture as a word. -/
def Sys2Proof.Claims.skeinWord (s : State) (o : Nat) : Nat := leNat ((List.range 4).map (fun i => Sparse.get noByte s.mem.skein (o + i)))

/-- A four- or eight-bit element of an integer format (Table 11-3). -/
def Sys2Proof.Claims.elem (sg : Bool) (n v : Nat) : Int :=
  if sg = true ∧ 2 ^ (n - 1) ≤ v % 2 ^ n then (v % 2 ^ n : Nat) - (2 ^ n : Nat) else (v % 2 ^ n : Nat)

/-- Local lea j div 8 among those LOCAL_MASK names, in ascending order (R236). -/
def Sys2Proof.Claims.weftLea (d : List Byte) (j : Nat) : Nat := (((List.range 8).filter (fun l => bitN (fieldAt d 2 1) l)).drop (j / 8)).headD 0

/-- K_u of R236: units of an integer op. -/
def Sys2Proof.Claims.weftUnits (d : List Byte) : Nat := if bitsN (fieldAt d 0 1) 2 0 = 0 then fieldAt d 6 2 / 2 else fieldAt d 6 2

open Sys2Proof.Claims in
/-- The product of unit u for row m and column c of block b of an integer op: W of the row's bobbin and step, X of the stream block; two elements of each
for INT4 (R236, R240, R241, R244). -/
def Sys2Proof.Claims.weftProduct (s : State) (sp : Nat) (d : List Byte) (b m c u : Nat) : Int :=
  let ks := 2 ^ bitsN (fieldAt d 3 1) 2 0
  let colw := min (fieldAt d 10 2) 8
  let j := m / 32 * ks + u % ks
  let wb := leaByte s (8 * sp + weftLea d j) (j % 8 * 8192 + bitsN (fieldAt d 4 2) 12 0 + (u / ks * 32 + m % 32))
  let xb := leaByte s (bitsN (fieldAt d 12 2) 8 0) (fieldAt d 14 2 + b * (weftUnits d * colw) + (u * colw + c))
  let xs := bitN (fieldAt d 0 1) 7
  let ws := bitN (fieldAt d 0 1) 6
  if bitsN (fieldAt d 0 1) 2 0 = 0 then elem ws 4 (wb % 16) * elem xs 4 (xb % 16) + elem ws 4 (wb / 16) * elem xs 4 (xb / 16)
  else elem ws 8 wb * elem xs 8 xb

/-- The accumulator of a cell of an integer op before it is reduced modulo 2^32. -/
def Sys2Proof.Claims.weftSum (s : State) (sp : Nat) (d : List Byte) (b m c : Nat) : Int :=
  ((List.range (Sys2Proof.Claims.weftUnits d)).map (fun u => Sys2Proof.Claims.weftProduct s sp d b m c u)).sum

open Sys2Proof.Claims in
/-- R238, R240, R241, R244, R246, R254, Table 11-4: WEFT_ROW_END of an integer op whose output is S32 with no activation writes the sum of products, the prior value with
ACC_IN and the bias with QT_EN, modulo 2^32, to every element of the column block; of an INT8 op with no activation or ReLU it writes the rounded, shifted,
saturated result; it changes no other byte and goes on to the next block. A parity error writes nothing, ends the op at its row and is logged. -/
def Obligations.Weft_rows_write_their_outputs : Prop :=
  ∀ (s : State) (sp : Fin 64) (o : WeftOp), running s = true → Sparse.find s.weft.running sp.val = some o → o.bad = false → o.stop = false →
    let d := o.desc
    let colw := min (fieldAt d 10 2) 8
    let rows := fieldAt d 8 2
    let y0 := bitsN (fieldAt d 16 2) 8 0 * 65536 + fieldAt d 18 2
    let q0 := bitsN (fieldAt d 20 2) 8 0 * 65536 + fieldAt d 22 2
    let qt := bitN (fieldAt d 3 1) 3
    let act := bitsN (fieldAt d 1 1) 6 5
    o.block < fieldAt d 10 2 / colw →
    (bitsN (fieldAt d 0 1) 2 0 ≤ 1 → bitsN (fieldAt d 0 1) 5 3 = bitsN (fieldAt d 0 1) 2 0 → (o.block = 0 ∨ wfOverlap sp d = false) → blockPoisoned s sp d o.block = false →
      (bitsN (fieldAt d 1 1) 2 0 = 0 → act = 0 →
        let y := fun m c => y0 + o.block * (rows * colw * 4) + (m * colw + c) * 4
        Ends (.weftRowEnd sp none) s fun u => Sparse.find u.weft.running sp.val = some { o with block := o.block + 1 } ∧ u.weft.queue = s.weft.queue
          ∧ (∀ m < rows, ∀ c < colw, (skeinWord u (y m c) : Int) = (weftSum s sp d o.block m c
              + (if bitN (fieldAt d 1 1) 7 then skeinWord s (y m c) else 0) + (if qt then skeinWord s (q0 + 8 * m) else 0)) % 2 ^ 32)
          ∧ (∀ a, a < y 0 0 ∨ y 0 0 + rows * colw * 4 ≤ a → Sparse.get noByte u.mem.skein a = Sparse.get noByte s.mem.skein a)
          ∧ u.mem.dram = s.mem.dram)
      ∧ (bitsN (fieldAt d 1 1) 2 0 = 1 → act ≤ 1 →
        let y := fun m c => y0 + o.block * (rows * colw) + (m * colw + c)
        let sgn : Int → Int := fun v => if 2 ^ 31 ≤ v % 2 ^ 32 then v % 2 ^ 32 - 2 ^ 32 else v % 2 ^ 32
        let sh := bitsN (fieldAt d 24 1) 5 0
        let zp := elem true 16 (fieldAt d 26 2)
        let res : Nat → Nat → Int := fun m c =>
          let t := (sgn (weftSum s sp d o.block m c) + (if qt then sgn (skeinWord s (q0 + 8 * m)) else 0))
            * (if qt then skeinWord s (q0 + 8 * m + 4) else 1)
          let v := Int.fdiv (t + if sh = 0 then 0 else 2 ^ (sh - 1)) (2 ^ sh) + zp
          let v := if act = 1 then max v zp else v
          if bitN (fieldAt d 1 1) 3 then max (-128) (min 127 v) else max 0 (min 255 v)
        Ends (.weftRowEnd sp none) s fun u => Sparse.find u.weft.running sp.val = some { o with block := o.block + 1 }
          ∧ (bitN (fieldAt d 1 1) 7 = false → ∀ m < rows, ∀ c < colw, (Sparse.get noByte u.mem.skein (y m c)).toNat = (res m c % 256).toNat)
          ∧ (∀ a, a < y 0 0 ∨ y 0 0 + rows * colw ≤ a → Sparse.get noByte u.mem.skein a = Sparse.get noByte s.mem.skein a)))
    ∧ (∀ bob : Fin 64, Room s 0x0E2 → Ends (.weftRowEnd sp (some bob)) s fun u => Sparse.find u.weft.running sp.val = some { o with bad := true }
        ∧ u.mem = s.mem ∧ IntSet u 5 ∧ Logs s u 2 0x0E2 o.ctx (sp.val * 1024 + bob.val) o.block)
    ∧ (blockPoisoned s sp d o.block = true → Room s 0x0FE → Ends (.weftRowEnd sp none) s fun u =>
        Sparse.find u.weft.running sp.val = some { o with bad := true } ∧ u.mem = s.mem ∧ IntSet u 5
        ∧ Logs s u 2 0x0FE o.ctx (sp.val * 1024) o.block)

open Sys2Proof.Claims in
/-- R197, R200, R243, R247-R249, R253, R254, Tables 11-5 and 11-6: WEFT queues its descriptor under a token, and waits while the queue is full; the entry of the highest-ranked
context starts where no op runs, or is rejected with LAST_REJECT and a token done 0b01 or a ring halted; an op that has ended completes its token with
OK, or 0b01 or 0b10, or lets its packet go on. -/
def Obligations.Weft_ops_are_queued_started_and_ended : Prop :=
  ∀ (s : State) (sp : Fin 64), running s = true →
    let r := 0x100000 + 0x1000 * sp.val
    let stat := C (r + 0x300)
    (∀ (p : PlyId) (w : W64) (y : Ply) (pc pa l : Nat) (un : Bool) (u : State), p.spindle = sp → Issues s p w [wA w] y pc → wOp w = 0xB0 →
        pair64 y.vregs (wA w) = true → (lanesOf (y.guardMask w (y.issuers pc))).head? = some l → pairAt y (wA w) l < 2 ^ 48 →
        pairAt y (wA w) l % 64 = 0 → ((y.tokens[wMod w % 8]?).map (fun t => t.busy)).getD false = false → ¬ storesWait y → ¬ acquireWaits y →
      ((weftEntries s sp).length < 8 → Machine.translate (flyUnit (plyKey p)) y.owner.ctx (pairAt y (wA w) l) .read false s = (.ok pa un, u) →
          poisoned u pa 64 = false →
        ∃ (v : State) (y' : Ply) (o : WeftOp), exec (.weft p w) s = .next v ∧ o.ctx = y.owner.ctx ∧ o.owner = .token y.uid (wMod w % 8) ∧ o.desc = memRead u pa 64
          ∧ o.addr = pairAt y (wA w) l ∧ o.block = 0 ∧ o.bad = false ∧ o.stop = false
          ∧ Issued (weftPush sp o u) v p y { y with tokens := setAt y.tokens (wMod w % 8) ⟨true, 0⟩ } y' pc (fun _ => pc + 8)
          ∧ v.weft.queue = s.weft.queue ++ [(sp.val, o)] ∧ v.fld ⟨stat, 26, 23⟩ = (weftEntries s sp).length + 1)
      ∧ (8 ≤ (weftEntries s sp).length → Ends (.weft p w) s fun v => v.weft = s.weft ∧ v.mem = s.mem
          ∧ ∃ y', plyAt v (plyKey p) = some y' ∧ y'.pcs = y.pcs ∧ y'.tokens = y.tokens ∧ y'.stalled = true))
    ∧ (∀ o : WeftOp, Sparse.find s.weft.running sp.val = none → (sp.val, o) ∈ s.weft.queue →
        (s.fld (fQState o.ctx) = 1 ∨ s.fld (fQState o.ctx) = 2 ∨ s.fld (fQState o.ctx) = 6) →
        (∀ x ∈ weftEntries s sp, x = o ∨ rankOf s x.ctx < rankOf s o.ctx) → (weftEntries s sp).Nodup →
      ((o.started = true ∨ weftReject s sp o.ctx o.desc = 0) → Ends (.weftOpStart sp) s fun u =>
        Sparse.find u.weft.running sp.val = some { o with started := true } ∧ weftEntries u sp = (weftEntries s sp).erase o
          ∧ u.flag ⟨stat, 31, 31⟩ = true ∧ u.fld ⟨stat, 30, 27⟩ = o.ctx % 16 ∧ u.fld ⟨stat, 15, 0⟩ = o.block % 65536
          ∧ RegsKept s u [stat] ∧ u.mem = s.mem ∧ u.fly = s.fly)
      ∧ (∀ code, o.started = false → weftReject s sp o.ctx o.desc = code → code ≠ 0 → Room s 0x0E1 →
        (∀ (uid t k : Nat) (y : Ply), o.owner = .token uid t → placeOf s uid = some k → plyAt s k = some y → y.uid = uid → Ends (.weftOpStart sp) s fun u =>
          plyAt u k = some { y with tokens := setAt y.tokens t ⟨false, 1⟩ } ∧ weftEntries u sp = (weftEntries s sp).erase o
            ∧ u.fld ⟨stat, 22, 19⟩ = code ∧ Logs s u 4 0x0E1 o.ctx (sp.val * 1024) (o.addr / 64 * 64 + code) ∧ RegsKept s u [stat] ∧ u.mem = s.mem)
        ∧ (∀ c i, c < 16 → o.owner = .packet c i → (ctxQ s c).halted = [] → Ends (.weftOpStart sp) s fun u =>
          u.fld ⟨stat, 22, 19⟩ = code ∧ u.fld (fQState c) = 6 ∧ u.fld (fQError c) = 2 ∧ (ctxQ u c).halted = [(i, 2)]
            ∧ u.flag ⟨C 0x20408, c, c⟩ = true ∧ IntSet u 21 ∧ weftEntries u sp = (weftEntries s sp).erase o)))
    ∧ (Sparse.find s.weft.running sp.val ≠ none ∨ weftEntries s sp = [] → Idle (.weftOpStart sp) s)
    ∧ (∀ o : WeftOp, Sparse.find s.weft.running sp.val = some o →
      let nb := fieldAt o.desc 10 2 / min (fieldAt o.desc 10 2) 8
      let st := if o.bad then 2 else if o.stop then 1 else 0
      let counted := fun (u : State) => counter u (r + 0x340)
        = if s.flag ⟨C r, 1, 1⟩ && !s.flag ⟨C 0xD0040, 0, 0⟩ then (counter s (r + 0x340) + 1) % 2 ^ 64 else counter s (r + 0x340)
      ((o.bad = true ∨ o.stop = true ∨ nb ≤ o.block) →
        (∀ (uid t k : Nat) (y : Ply), o.owner = .token uid t → placeOf s uid = some k → plyAt s k = some y → y.uid = uid → Ends (.weftOpEnd sp) s fun u =>
          Sparse.find u.weft.running sp.val = none ∧ plyAt u k = some { y with tokens := setAt y.tokens t ⟨false, st⟩ } ∧ u.flag ⟨stat, 31, 31⟩ = false
            ∧ counted u ∧ RegsKept s u [stat, C (r + 0x340), C (r + 0x344)] ∧ u.weft.queue = s.weft.queue ∧ u.mem = s.mem)
        ∧ (∀ c i p, c < 16 → o.owner = .packet c i → packetOf s c i = some p → p.status = 0 →
          (st ≠ 0 → Ends (.weftOpEnd sp) s fun u => Sparse.find u.weft.running sp.val = none
            ∧ packetOf u c i = some { p with ended := true, status := if st = 1 then 2 else 6 })
          ∧ (st = 0 → fieldAt p.bytes 24 4 ≤ p.cursor + 1 → Ends (.weftOpEnd sp) s fun u => Sparse.find u.weft.running sp.val = none
            ∧ packetOf u c i = some { p with cursor := p.cursor + 1, ended := true })
          ∧ (st = 0 → p.cursor + 1 < fieldAt p.bytes 24 4 → fieldAt p.bytes 28 1 = sp.val → (weftEntries s sp).length < 8 → (ctxQ s c).faulted = false →
              plainAt s c (fieldAt p.bytes 16 6 + 64 * (p.cursor + 1)) 64 → Ends (.weftOpEnd sp) s fun u =>
            packetOf u c i = some { p with cursor := p.cursor + 1 } ∧ ∃ x : WeftOp, weftEntries u sp = weftEntries s sp ++ [x]
              ∧ x.owner = .packet c i ∧ x.desc = memRead s (fieldAt p.bytes 16 6 + 64 * (p.cursor + 1)) 64 ∧ x.block = 0)))
      ∧ ((o.bad = false ∧ o.stop = false ∧ o.block < nb) → Idle (.weftOpEnd sp) s))

/-! ### Rays -/

/-- The home of a treelet header whose PIN_HOME is 0: the hash of R278, advanced to a spindle CARD_HOME_MASK names. -/
def Sys2Proof.Claims.hashedHome (s : State) (c va : Nat) : Nat :=
  let x := bitsN va 47 14
  let h := bitsN x 5 0 ^^^ bitsN x 11 6 ^^^ bitsN x 17 12 ^^^ bitsN x 23 18 ^^^ bitsN x 29 24 ^^^ bitsN x 33 30 ^^^ c
  let m := (s.reg (C 0x30008)).toNat + (s.reg (C 0x3000C)).toNat * 2 ^ 32
  (((List.range 64).map (fun i => (h + i) % 64)).find? (fun n => m = 0 || bitN m n)).getD (h % 64)

/-- The home cache of a slice holds the home of a header (R279). -/
def Sys2Proof.Claims.homeKnown (s : State) (sp c hdr home : Nat) : Prop :=
  s.ray.homes.find? (fun h => h.1 = sp && h.2.1 = c && h.2.2.1 = hdr) = some (sp, c, hdr, home)

/-- The context's work runs. -/
def Sys2Proof.Claims.CtxRuns (s : State) (c : Nat) : Prop := s.fld (fQState c) = 1 ∨ s.fld (fQState c) = 2 ∨ s.fld (fQState c) = 6

/-- A ray has joined an open hank of a slice for its context and a header, or a new one. -/
def Sys2Proof.Claims.FiledAt (u : State) (r : Ray) (sp hdr : Nat) : Prop :=
  ∃ r' hk, rayOf u r.id = some r' ∧ r' = { r with sp := sp, place := .filed hk, cur := hdr, inAllot := r'.inAllot }
    ∧ ∃ h ∈ u.ray.hanks, h.id = hk ∧ h.sp = sp ∧ h.ctx = r.ctx ∧ h.hdr = hdr

/-- A slice can file a ray: it has an open hank with its key, or a free header (R282). -/
def Sys2Proof.Claims.canFile (s : State) (sp c hdr : Nat) : Prop :=
  (∃ h ∈ s.ray.hanks, h.sp = sp ∧ h.phase = 0 ∧ h.ctx = c ∧ h.hdr = hdr) ∨ (s.ray.hanks.filter (fun h => h.sp = sp)).length < 128

/-- Counter i of a group of counters of a spindle has counted one event, where counters run (R176). -/
def Sys2Proof.Claims.countedOne (s u : State) (sp off : Nat) : Prop :=
  counter u (0x100000 + sp * 0x1000 + off) =
    if s.flag ⟨C (0x100000 + sp * 0x1000), 1, 1⟩ && !s.flag ⟨C 0xD0040, 0, 0⟩ then (counter s (0x100000 + sp * 0x1000 + off) + 1) % 2 ^ 64
    else counter s (0x100000 + sp * 0x1000 + off)

/-- A new ray of a trace (R259, R278): an invalid one has ended, another must move to the root's treelet. -/
def Sys2Proof.Claims.NewRay (r : Ray) (s : State) (t : Trace) (sp pos : Nat) (b : List Byte) (hit : Option Nat) : Prop :=
  r.id = s.ray.next ∧ r.ctx = t.ctx ∧ r.trace = t.id ∧ r.sp = sp ∧ r.pos = pos ∧ r.bytes = b ∧ r.hit = hit ∧ r.saved = false ∧ r.best = none
    ∧ r.tmax = fieldAt b 28 4
    ∧ (if rayInvalid b then r.place = .ended ∧ r.status = 4 ∧ r.todo = []
       else r.place = .toMove ∧ r.status = 0 ∧ r.todo.map (fun d => (d.kind, d.va, d.hdr)) = [(0, t.root, t.root)])

open Sys2Proof.Claims in
/-- R148, R151, R259, R263, R278-R284, R288, Tables 13-3 and 13-4: a ray is admitted at its slice while more than RESERVE slots are free and its context is within
BUDGET, or in its thread's allotted slot; a TRACE retires with its last ray. A ray moves to the home of the treelet it must enter next once a slot is free
there and is filed, or stays and is filed where it is; hanks close by age, and a free whorl takes the closed hank of the highest-ranked context. -/
def Obligations.Rays_are_admitted_moved_and_filed : Prop :=
  ∀ s : State, running s = true →
    (∀ (tr : Nat) (t : Trace) (uid n pos : Nat) (b : List Byte) (hit : Option Nat) (rest : List (Nat × List Byte × Option Nat × Option (Nat × Nat))),
        traceOf s tr = some t → t.owner = .token uid n → Claims.CtxRuns s t.ctx →
      (t.todo = (pos, b, hit, none) :: rest →
        (4 * s.fld ⟨C 0x30000, 15, 8⟩ < slotsFree s t.sp →
            t.ctx = 0 ∨ residentOf s t.ctx + 128 ≤ s.fld ⟨C (0x2001C + t.ctx * 0x40), 6, 0⟩ * 65536 →
          Ends (.rayAdmit tr) s fun u => (∃ r, u.ray.rays = s.ray.rays ++ [r] ∧ NewRay r s t t.sp pos b hit)
            ∧ traceOf u tr = some { t with todo := rest } ∧ u.mem = s.mem
            ∧ (rest ≠ [] → u.fly = s.fly)
            ∧ (∀ k y, rest = [] → plyAt s k = some y → y.uid = uid → y.tracing = some t.id → ∃ y', plyAt u k = some y' ∧ y'.tracing = none
                ∧ (∀ l < 32, y'.pcOf l = if t.mask.getLsbD l then t.pc + 8 else y.pcOf l)
                ∧ { y' with tracing := y.tracing, pcs := y.pcs } = y))
        ∧ (slotsFree s t.sp ≤ 4 * s.fld ⟨C 0x30000, 15, 8⟩ → Idle (.rayAdmit tr) s)
        ∧ (t.ctx ≠ 0 → s.fld ⟨C (0x2001C + t.ctx * 0x40), 6, 0⟩ * 65536 < residentOf s t.ctx + 128 → Idle (.rayAdmit tr) s))
      ∧ (∀ l sp k y, t.todo = (pos, b, hit, some (uid, l)) :: rest → placeOf s uid = some k → plyAt s k = some y → y.allot = [(l, sp, false)] →
        Ends (.rayAdmit tr) s fun u => (∃ r, u.ray.rays = s.ray.rays ++ [r] ∧ NewRay r s t sp pos b hit ∧ r.inAllot = true ∧ r.thread = some (uid, l))
          ∧ traceOf u tr = some { t with todo := rest }))
    ∧ (∀ (tr : Nat) (t : Trace) (i home : Nat), traceOf s tr = some t → t.owner = .packet t.ctx i → Claims.CtxRuns s t.ctx →
        (ctxQ s t.ctx).faulted = false → t.next < t.count → homeKnown s (hashedHome s t.ctx t.root) t.ctx t.root home →
        4 * s.fld ⟨C 0x30000, 15, 8⟩ < slotsFree s home →
        t.ctx = 0 ∨ residentOf s t.ctx + 128 ≤ s.fld ⟨C (0x2001C + t.ctx * 0x40), 6, 0⟩ * 65536 → plainAt s t.ctx (t.rayAddr + 64 * t.next) 64 →
      Ends (.rayAdmit tr) s fun u => traceOf u tr = some { t with next := t.next + 1 } ∧ MemKept s u
        ∧ ∃ r, u.ray.rays = s.ray.rays ++ [r] ∧ NewRay r s t home t.next (memRead s (t.rayAddr + 64 * t.next) 64) (some (t.hitAddr + 32 * t.next)))
    ∧ (∀ (id h : Nat) (r : Ray) (d : RayTodo) (rest : List RayTodo), rayOf s id = some r → r.place = .toMove → r.saved = false →
        Claims.CtxRuns s r.ctx → r.todo = d :: rest → homeKnown s r.sp r.ctx d.hdr h →
      (h = r.sp → canFile s r.sp r.ctx d.hdr → Ends (.rayMove id) s fun u => FiledAt u r r.sp d.hdr ∧ u.mem = s.mem)
      ∧ (h ≠ r.sp → slotsFree s h ≠ 0 → canFile s h r.ctx d.hdr → Ends (.rayMove id) s fun u => FiledAt u r h d.hdr ∧ u.mem = s.mem ∧ u.fly = s.fly)
      ∧ (h ≠ r.sp → slotsFree s h = 0 → Idle (.rayMove id) s
        ∧ (canFile s r.sp r.ctx d.hdr → Ends (.stayAndFetch id) s fun u => FiledAt u r r.sp d.hdr ∧ countedOne s u r.sp 0x528 ∧ u.mem = s.mem))
      ∧ (h = r.sp ∨ slotsFree s h ≠ 0 → Idle (.stayAndFetch id) s))
    ∧ (∀ (id : Nat) (h : Hank), s.ray.hanks.find? (fun x => x.id = id && x.phase = 0) = some h →
      let closed := s.ray.hanks.map (fun x => if x.id = id then { x with phase := 1, closedAt := s.ray.next } else x)
      (Ends (.hankAgeClose id) s fun u => u.ray.hanks = closed ∧ countedOne s u h.sp 0x510 ∧ u.ray.rays = s.ray.rays ∧ u.mem = s.mem ∧ u.fly = s.fly)
      ∧ ((∀ x ∈ s.ray.hanks, x.sp = h.sp → x.phase ≠ 1) → Ends (.hankIdleClose id) s fun u =>
          u.ray.hanks = closed ∧ countedOne s u h.sp 0x518 ∧ u.ray.rays = s.ray.rays ∧ u.mem = s.mem ∧ u.fly = s.fly)
      ∧ ((∃ x ∈ s.ray.hanks, x.sp = h.sp ∧ x.phase = 1) → Idle (.hankIdleClose id) s))
    ∧ (∀ id : Nat, (∀ x ∈ s.ray.hanks, x.id = id → x.phase ≠ 0) → Idle (.hankAgeClose id) s ∧ Idle (.hankIdleClose id) s)
    ∧ (∀ (sp : Fin 64) (h : Hank), h ∈ s.ray.hanks → h.sp = sp.val → h.phase = 1 → Claims.CtxRuns s h.ctx → (∀ x ∈ s.ray.hanks, x.sp = sp.val → x.phase ≠ 2) →
        (∀ x ∈ s.ray.hanks, x ≠ h → x.sp = sp.val → x.phase = 1 → Claims.CtxRuns s x.ctx →
          rankOf s x.ctx < rankOf s h.ctx ∨ (rankOf s x.ctx = rankOf s h.ctx ∧ h.closedAt < x.closedAt)) →
      Ends (.whorlTakeHank sp) s fun u => u.ray = { s.ray with hanks := s.ray.hanks.map (fun x => if x.id = h.id then { x with phase := 2 } else x) }
        ∧ RegsKept s u [] ∧ u.mem = s.mem ∧ u.fly = s.fly)
    ∧ (∀ sp : Fin 64, (∃ x ∈ s.ray.hanks, x.sp = sp.val ∧ x.phase = 2) → Idle (.whorlTakeHank sp) s)

open Sys2Proof.Claims in
/-- R199, R255-R257, R260, R262, R267, R271, R273, R277, R279, R285-R289, Tables 12-3, 12-7, 12-8 and 13-2: a block that arrives for a ray of the whorl's hank fills the node cache and takes
the ray on: from a header to its ROOT, past a node without children, to its end where a block is bad or uncorrectable. An ended ray is delivered as a hit
record, which completes its TRACE's token, or to a spool group; a group flushed by age or full becomes a ply with the registers of Table 13-2. TRACE reads
its ray records and waits under its token, or is done 0b01 in a callback ply; NODE_INVAL empties the node and home caches. -/
def Obligations.Rays_traverse_and_are_delivered : Prop :=
  ∀ s : State, running s = true →
    (∀ (id : Nat) (r : Ray) (t : Trace) (d : RayTodo) (rest : List RayTodo) (hk : Nat), rayOf s id = some r → traceOf s r.trace = some t → r.todo = d :: rest →
        r.place = .filed hk → (∃ h ∈ s.ray.hanks, h.id = hk ∧ h.phase = 2) → r.saved = false → Claims.CtxRuns s r.ctx → r.cbs = [] →
        (∀ x ∈ s.ray.nodes, ¬ (x.1 = r.sp ∧ x.2.1 = r.ctx ∧ x.2.2.1 = d.va)) → plainAt s r.ctx d.va 64 →
      let b := memRead s d.va 64
      let ended := fun (u : State) (st : Nat) => ∃ r', rayOf u id = some r' ∧ r'.status = st ∧ r'.place = .ended ∧ r'.todo = []
      (d.kind = 0 → d.entry = none → d.hdr = r.cur → fieldAt b 0 2 = 1 → fieldAt b 2 1 ≤ 1 → (d.level = 2 ∨ fieldAt b 2 1 = d.level) →
          fieldAt b 8 6 = d.base → 0 < fieldAt b 6 1 → fieldAt b 6 1 ≤ fieldAt b 5 1 → d.va / 16384 = (d.va + 64 * fieldAt b 5 1) / 16384 →
        Ends (.blockFetchReturn id .clean) s fun u => (r.sp, r.ctx, d.va, b) ∈ u.ray.nodes ∧ MemKept s u
          ∧ ∃ r' d', rayOf u id = some r' ∧ r'.todo = d' :: rest ∧ d'.kind = 1 ∧ d'.va = d.va + 64 * fieldAt b 6 1 ∧ d'.hdr = d.hdr
            ∧ d'.level = fieldAt b 2 1 ∧ d'.size = fieldAt b 5 1 ∧ r'.place = r.place ∧ r'.status = r.status)
      ∧ (d.kind = 0 → (fieldAt b 0 2 ≠ 1 ∨ 1 < fieldAt b 2 1 ∨ fieldAt b 8 6 ≠ d.base ∨ fieldAt b 6 1 = 0 ∨ fieldAt b 5 1 < fieldAt b 6 1) →
          0x101 ∉ t.logged → Room s 0x101 →
        Ends (.blockFetchReturn id .clean) s fun u => ended u 6 ∧ Logs s u 4 0x101 r.ctx (r.sp * 1024) d.va)
      ∧ (d.kind = 1 → d.depth < 48 → rest = [] → (∀ i < 4, refKind (fieldAt b (40 + 4 * i) 4) = 0) →
        Ends (.blockFetchReturn id .clean) s fun u => ended u (if r.best.isSome then 0 else 1) ∧ MemKept s u)
      ∧ (Ends (.blockFetchReturn id .uncorrectable) s fun u => ended u 3 ∧ IntSet u 5))
    ∧ (∀ (id va : Nat) (r : Ray) (t : Trace), rayOf s id = some r → traceOf s r.trace = some t → r.place = .ended → r.saved = false →
        Claims.CtxRuns s r.ctx → t.table = 0 → r.hit = some va → r.recDone = false → r.thread = none → va % 32 = 0 → plainAt s r.ctx va 32 →
      (∀ c, r.status = 0 → r.best = some c → t.mode ≠ 2 → Ends (.rayDeliver id) s fun u => rayOf u id = none
          ∧ Wrote s u va (leBytes 4 c.t ++ leBytes 4 c.u ++ leBytes 4 c.v ++ leBytes 4 c.prim ++ leBytes 4 c.inst ++ leBytes 2 c.shader ++ leBytes 1 0
            ++ leBytes 1 ((if c.back then 1 else 0) + (if c.proc then 2 else 0)) ++ leBytes 4 (fieldAt r.bytes 36 4) ++ leBytes 2 (min 0xFFFF r.visits)
            ++ leBytes 2 0))
      ∧ (r.status ≠ 0 → Ends (.rayDeliver id) s fun u => rayOf u id = none
          ∧ Wrote s u va (leBytes 4 0x7F800000 ++ leBytes 4 0 ++ leBytes 4 0 ++ leBytes 4 0 ++ leBytes 4 0 ++ leBytes 2 (fieldAt r.bytes 34 2)
            ++ leBytes 1 r.status ++ leBytes 1 0 ++ leBytes 4 (fieldAt r.bytes 36 4) ++ leBytes 2 (min 0xFFFF r.visits) ++ leBytes 2 0))
      ∧ (∀ uid n k y, t.owner = .token uid n → t.todo = [] → t.count ≤ t.next → t.told = false → (∀ x ∈ s.ray.rays, x.trace = t.id → x.id = id) →
          r.status ≠ 7 → plyAt s k = some y → y.uid = uid → Ends (.rayDeliver id) s fun u => traceOf u t.id = none ∧ plyAt u k =
            some { y with tokens := setAt y.tokens n ⟨false, if t.ue || r.status = 3 then 2 else if t.aborted || t.cut || r.status = 2 then 1 else 0⟩ }))
    ∧ (∀ (id : Nat) (r : Ray) (t : Trace) (uid n shader : Nat) (c : Cand), rayOf s id = some r → traceOf s r.trace = some t → r.place = .ended →
        r.saved = false → Claims.CtxRuns s r.ctx → t.table ≠ 0 → t.owner = .token uid n → t.mode ≠ 2 → r.hit = none → r.noShade = false → r.thread = none →
        r.status = 0 → r.best = some c → shader = c.shader → plainAt s r.ctx t.table 32 → plainAt s r.ctx (t.table + 32 + 32 * shader) 32 →
        shader < fieldAt (memRead s t.table 32) 0 4 → fieldAt (memRead s (t.table + 32 + 32 * shader) 32) 0 6 ≠ 0 →
        (∀ g ∈ s.ray.groups, g.key.sp ≠ t.sp) →
      Ends (.rayDeliver id) s fun u => (∃ r', rayOf u id = some r' ∧ r'.place = .spool ∧ r'.sp = r.sp) ∧ MemKept s u
        ∧ ∃ g, u.ray.groups = s.ray.groups ++ [g] ∧ g.rays = [(id, 0)] ∧ g.flushed = false
          ∧ g.key = { sp := t.sp, ctx := r.ctx, packet := t.packet, table := t.table, entry := shader, kind := 0 }
          ∧ g.code = fieldAt (memRead s (t.table + 32 + 32 * shader) 32) 0 6 ∧ g.vregs = fieldAt (memRead s (t.table + 32 + 32 * shader) 32) 6 1)
    ∧ (∀ (sp : Fin 64) (n : Fin 32) (g : SpoolGroup), (s.ray.groups.filter (fun x => x.key.sp = sp.val && !x.flushed))[n.val]? = some g →
      Ends (.spoolFlushAge sp n) s fun u => u.ray = { s.ray with groups := s.ray.groups.map (fun x => if x = g then { x with flushed := true } else x) }
        ∧ countedOne s u sp 0x538 ∧ u.mem = s.mem ∧ u.fly = s.fly)
    ∧ (∀ (sp : Fin 64) (g : SpoolGroup), s.ray.groups = [g] → g.key.sp = sp.val → g.flushed = true → g.key.kind ≤ 1 → Claims.CtxRuns s g.key.ctx →
        0 < g.vregs → g.vregs ≤ 16 → g.rays.length ≤ 32 → (bestFlyer s sp g.vregs true).isSome = true → s.ray.overflow = [] → (s.ray.rays.map (fun r => r.id)).Nodup →
        spoolBudget s g.key.ctx (1024 + 8 * g.vregs * 128) = true →
        (∀ e ∈ g.rays, ∃ r t, rayOf s e.1 = some r ∧ traceOf s r.trace = some t ∧ r.cbs = [] ∧ r.ctx = g.key.ctx) →
      Ends (.spoolPlyForm sp) s fun u => u.ray.groups = [] ∧ (∀ e ∈ g.rays, rayOf u e.1 = none) ∧ u.mem = s.mem ∧ countedOne s u sp 0x530
        ∧ ∃ e ∈ u.fly.plies, e.1 / 64 = sp.val ∧
          let y := e.2
          y.owner.ctx = g.key.ctx ∧ y.owner.packet = g.key.packet ∧ y.vregs = 8 * g.vregs ∧ y.twoLevel = true ∧ (∀ l < 32, y.pcOf l = g.code)
            ∧ (∀ l < 32, y.exited.getLsbD l = decide (g.rays.length ≤ l))
            ∧ y.sget 0 = g.key.entry % 2 ^ 32 ∧ y.sget 1 = g.key.kind ∧ y.sget 2 = g.key.table % 2 ^ 32 ∧ y.sget 3 = g.key.table / 2 ^ 32 % 2 ^ 32
            ∧ y.sget 4 = g.rays.length ∧ y.sget 7 = g.key.ctx % 2 ^ 32
            ∧ ∀ l q r t, g.rays[l]? = some q → rayOf s q.1 = some r → traceOf s r.trace = some t → (l, r.sp, false) ∈ y.allot ∧ y.vget 0 l = l
              ∧ (∀ j < 6, 12 + j < 8 * g.vregs → y.vget (12 + j) l = fieldAt r.bytes (40 + 4 * j) 4)
              ∧ (∀ j < 3, 18 + j < 8 * g.vregs → y.vget (18 + j) l = fieldAt r.bytes (4 * j) 4)
              ∧ (∀ j < 3, 21 + j < 8 * g.vregs → y.vget (21 + j) l = fieldAt r.bytes (16 + 4 * j) 4)
              ∧ (24 < 8 * g.vregs → y.vget 24 l = fieldAt r.bytes 12 4))
    ∧ (∀ (p : PlyId) (w : W64) (y : Ply) (pc : Nat), Issues s p w [wA w, wB w, wC w] y pc → wOp w = 0xA0 →
      let g := y.guardMask w (y.issuers pc)
      let ls := lanesOf g
      let tok := wMod w % 8
      let ret := bitN (wMod w) 7
      let a := fun l => pairAt y (wA w) l
      let sp2 := fun n : Nat => 0x80 ≤ n ∧ n < 0xA0 ∧ n % 2 = 0
      pair64 y.vregs (wA w) = true → sp2 (wC w) → (if ret then sp2 (wB w) else pair64 y.vregs (wB w) = true) → mSub (wMod w) ≤ 2 → g ≠ 0#32 →
      (∀ l < 32, g.getLsbD l = true → a l < 2 ^ 48 ∧ a l % 64 = 0 ∧ pairAt y (wB w) l < 2 ^ 48 ∧ (ret = false → pairAt y (wB w) l % 32 = 0)
        ∧ pairAt y (wC w) l < 2 ^ 48) → ¬ storesWait y → ¬ acquireWaits y → ((y.tokens[tok]?).map (fun t => t.busy)).getD false = false →
      (y.cbs = [] → (∀ l ∈ ls, plainAt s y.owner.ctx (a l) 64) → ∃ v u1 y' l0, exec (.trace p w) s = .next v ∧ ls.head? = some l0
          ∧ Issued u1 v p y { y with tokens := setAt y.tokens tok ⟨true, 0⟩, tracing := some s.ray.next, active := y.active && !y.twoLevel } y' pc
            (fun _ => pc)
          ∧ MemKept s u1 ∧ u1.fly = s.fly ∧ u1.q = s.q
          ∧ ∃ t, u1.ray = { s.ray with traces := s.ray.traces ++ [t], next := s.ray.next + 1 } ∧ t.id = s.ray.next ∧ t.ctx = y.owner.ctx
            ∧ t.owner = .token y.uid tok ∧ t.packet = y.owner.packet ∧ t.sp = p.spindle.val ∧ t.mode = mSub (wMod w) ∧ t.root = pairAt y (wC w) l0
            ∧ t.table = (if ret then pairAt y (wB w) l0 else 0) ∧ t.pc = pc ∧ t.mask = y.issuers pc
            ∧ t.todo = ls.map (fun l => (l, memRead s (a l) 64, if ret then none else some (pairAt y (wB w) l), some (y.uid, l))))
      ∧ (y.cbs ≠ [] → ∃ v y', exec (.trace p w) s = .next v
          ∧ Issued s v p y { y with tokens := setAt y.tokens tok ⟨false, 1⟩ } y' pc (fun _ => pc + 8)))
    ∧ (Ends .nodeInval s fun u => u.flag ⟨C 0x30F00, 31, 31⟩ = true ∧ OnlyRegs s u [C 0x30F00])
    ∧ (s.flag ⟨C 0x30F00, 31, 31⟩ = true → Ends .nodeInvalDone s fun u => u.flag ⟨C 0x30F00, 31, 31⟩ = false ∧ RegsKept s u [C 0x30F00]
        ∧ u.ray = { s.ray with nodes := [], homes := [] } ∧ u.mem = s.mem)
    ∧ (s.flag ⟨C 0x30F00, 31, 31⟩ = false → Idle .nodeInvalDone s)

/-! ### Render passes -/

/-- The pass that holds the front end, alone under its packet, while its context's work runs (R148). -/
def Sys2Proof.Claims.HoldsFront (s : State) (p : Pass) : Prop :=
  s.ras.passes.find? (fun x => !x.suspended) = some p ∧ p.suspended = false
    ∧ (∀ x ∈ s.ras.passes, x.ctx = p.ctx → x.index = p.index → x = p) ∧ Claims.CtxRuns s p.ctx

/-- It is now p', and RAS_STAT shows it (Table 14-6). -/
def Sys2Proof.Claims.FrontIs (u : State) (p' : Pass) : Prop :=
  u.ras.passes.find? (fun x => !x.suspended) = some p' ∧ u.flag ⟨C 0x40000, 31, 31⟩ = true ∧ u.fld ⟨C 0x40000, 30, 28⟩ = p'.phase % 8
    ∧ u.fld ⟨C 0x40000, 27, 24⟩ = p'.ctx % 16 ∧ u.fld ⟨C 0x40000, 9, 0⟩ = (512 - p'.pages) % 1024

/-- Raster counter i has counted one event, where counters run (R176, R316). -/
def Sys2Proof.Claims.rasCounted (s u : State) (i : Nat) : Prop :=
  counter u (0x40100 + 8 * i) = if s.flag ⟨C 0x40004, 0, 0⟩ && !s.flag ⟨C 0xD0040, 0, 0⟩ then (counter s (0x40100 + 8 * i) + 1) % 2 ^ 64
    else counter s (0x40100 + 8 * i)

/-- The spindles TILE_MASK names, ascending; a mask of zero names all. -/
def Sys2Proof.Claims.tileSpindles (h : List Byte) : List Nat :=
  (List.range 64).filter (fun n => fieldAt h 32 8 = 0 || bitN (fieldAt h 32 8) n)

/-- Quads that wait at a backend of an immediate pass. -/
def Sys2Proof.Claims.quadsAt (p : Pass) (sp : Nat) : List Quad := ((p.bufs.find? (fun b => b.sp = sp)).map (fun b => b.quads)).getD []

open Sys2Proof.Claims in
/-- R151, R161, R297-R299, R303-R306, Tables 14-1, 14-4 and 14-6: the next shaded primitive of a tiled pass is passed over when it is culled or meets no tile, binned when its
pages are free, and else starts a partial render; when the last one is binned every tile of the area is to be rendered. In an immediate pass its quads go to
the backends of their blocks. The next vertex ply of a pass starts with its indices and scalars, and its threads' results join the pass at EXIT. -/
def Obligations.Primitives_are_shaded_and_binned : Prop :=
  ∀ (s : State) (p : Pass), Machine.running s = true → HoldsFront s p →
    let h := p.hdr
    let tw := sfWidth p.target
    let th := sfHeight p.target
    let more := fun q : Pass => { q with pNext := p.pNext + 1, verts := p.verts.filter (fun v => p.pDraw ≤ v.1) }
    (∀ (pages : Fin 9) (pr : Prim), p.phase = 1 → p.pDraw < p.draws.length → nextPrim p = some pr → 0 < drPrims (p.drawOf p.pDraw) →
      let gone := primCulled (p.drawOf pr.draw) pr = true ∨ primTiles h tw th pr = []
      let binned := { p with bins := p.bins ++ [(pr, primTiles h tw th pr)], pages := p.pages + pages }
      (p.pNext + 1 < drPrims (p.drawOf p.pDraw) →
        (gone → Ends (.primitiveBin pages) s fun u => FrontIs u (more p) ∧ RegsKept s u [C 0x40000] ∧ u.mem = s.mem ∧ u.fly = s.fly)
        ∧ (¬ gone → p.pages + pages ≤ 512 → Ends (.primitiveBin pages) s fun u => FrontIs u (more binned) ∧ rasCounted s u 2
          ∧ RegsKept s u [C 0x40000, C 0x40110, C 0x40114] ∧ u.mem = s.mem ∧ u.fly = s.fly))
      ∧ (p.pNext + 1 = drPrims (p.drawOf p.pDraw) → p.pDraw + 1 = p.draws.length → ¬ gone → p.pages + pages ≤ 512 →
        Ends (.primitiveBin pages) s fun u => ∃ p', FrontIs u p' ∧ p'.phase = 2 ∧ p'.tiles = areaTiles h ∧ p'.bins = binned.bins ∧ p'.pages = binned.pages
          ∧ p'.pDraw = p.draws.length)
      ∧ (¬ gone → 512 < p.pages + pages → Ends (.primitiveBin pages) s fun u =>
          FrontIs u { p with phase := 3, tiles := (areaTiles h).filter (fun t => p.bins.any (fun b => b.2.contains t)) } ∧ u.mem = s.mem))
    ∧ (p.phase = 1 → p.pDraw < p.draws.length → nextPrim p = none → 0 < drPrims (p.drawOf p.pDraw) →
      ∀ pages, Ends (.primitiveBin pages) s fun u => FrontIs u p ∧ u.ras = s.ras ∧ RegsKept s u [C 0x40000])
    ∧ (p.phase ≠ 1 → ∀ pages, Idle (.primitiveBin pages) s)
    ∧ (∀ pr, p.phase = 5 → p.pDraw < p.draws.length → nextPrim p = some pr → p.pNext + 1 < drPrims (p.drawOf p.pDraw) →
      let x0 := phX0 h / 2 * 2
      let y0 := phY0 h / 2 * 2
      let quads := if primCulled (p.drawOf pr.draw) pr then [] else quadsIn h tw th pr x0 y0 (phX0 h + phW h - x0) (phY0 h + phH h - y0)
      Ends .immediatePrimitive s fun u => u.mem = s.mem ∧ u.fly = s.fly ∧ RegsKept s u [C 0x40000] ∧ ∃ p', FrontIs u p' ∧ p'.pNext = p.pNext + 1
        ∧ p'.pDraw = p.pDraw ∧ ∀ k sp, (tileSpindles h)[k]? = some sp → quadsAt p' sp = quadsAt p sp
          ++ quads.filter (fun q => (q.x / 8 + 3 * (q.y / 8)) % (tileSpindles h).length = k))
    ∧ (p.phase ≠ 5 → Idle .immediatePrimitive s)
    ∧ (∀ (c : Fin 16) (i : BitVec 20) (pk : Packet), packetOf s c.val i.toNat = some pk → pk.op = 3 → p.ctx = c.val → p.index = i.toNat → p.bufs = [] →
        p.vDraw < p.draws.length →
      let d := p.drawOf p.vDraw
      let left := drCount d - p.vNext
      let n := min 32 left
      drOp d = 1 → 0 < drVsVregs d → drVsVregs d ≤ 16 → (∃ sp ∈ tileSpindles h, (bestFlyer s sp (drVsVregs d) false).isSome = true) →
      p.ctx = 0 ∨ residentOf s p.ctx + (1024 + 8 * drVsVregs d * 128) ≤ s.fld ⟨C (0x2001C + p.ctx * 0x40), 6, 0⟩ * 65536 →
      Ends (.groupPlace c i) s fun u => ∃ e ∈ u.fly.plies, e.1 / 64 ∈ tileSpindles h
        ∧ (let y := e.2
          y.owner.ctx = p.ctx ∧ y.owner.source = 1 ∧ y.owner.packet = p.index ∧ y.vregs = 8 * drVsVregs d ∧ y.twoLevel = false
            ∧ (∀ l < 32, y.pcOf l = drVsCode d) ∧ (∀ l < 32, y.exited.getLsbD l = decide (n ≤ l))
            ∧ (∀ l < n, y.vget 0 l = (drFirst d + p.vNext + l) % 2 ^ 32) ∧ y.sget 4 = drArg d % 2 ^ 32 ∧ y.sget 5 = drArg d / 2 ^ 32
            ∧ y.sget 6 = p.vDraw % 2 ^ 32 ∧ y.sget 7 = p.ctx % 2 ^ 32)
        ∧ FrontIs u { p with lastVert := some (e.1 / 64), vDraw := if left ≤ 32 then p.vDraw + 1 else p.vDraw
                             vNext := if left ≤ 32 then 0 else p.vNext + n })
    ∧ (∀ (q : PlyId) (w : W64) (y : Ply) (pc : Nat), Issues s q w [] y pc → wOp w = 0x68 → y.cbs = [] → y.allot = [] → y.shadeKind = 1 →
        y.owner.ctx = p.ctx → y.owner.packet = p.index → (∃ e ∈ y.shade, (y.guardMask w (y.issuers pc)).getLsbD e.1 = true) →
      let d := p.drawOf y.shadeDraw
      Ends (.exit q w) s fun u => FrontIs u { p with verts := p.verts ++ (y.shade.filter (fun e => (y.guardMask w (y.issuers pc)).getLsbD e.1)).map (fun e =>
          (y.shadeDraw, e.2, { pos := (List.range 4).map (fun k => y.vget (4 + k) e.1)
                               vars := (List.range (drVaryings d)).map (fun k => y.vget (8 + k) e.1) })) }
        ∧ ∃ y', plyAt u (plyKey q) = some y' ∧ y'.exited = y.exited ||| y.guardMask w (y.issuers pc)
          ∧ y'.shade = y.shade.filter (fun e => !(y.guardMask w (y.issuers pc)).getLsbD e.1))

/-- Steps of the round robin from the spindle that took the last tile to another (R297). -/
def Sys2Proof.Claims.turnsTo (last : Option Nat) (sp : Nat) : Nat := (sp + 63 - last.getD 63) % 64

open Sys2Proof.Claims in
/-- R297, R298, R314, R315, Tables 14-1 and 14-6: the next tile goes to the next spindle of TILE_MASK that has a free buffer, with the primitives binned to it; a loaded tile
has its colour cleared, read from the target or undefined, and depth and stencil cleared; a shaded tile of a partial render is flushed, and the last one
frees the bin pages and binning resumes; of a final render it is stored unless COLOUR_DISCARD is set and resolved, and the last one ends the pass. -/
def Obligations.Tiles_are_assigned_loaded_and_stored : Prop :=
  ∀ (s : State) (p : Pass), Machine.running s = true → HoldsFront s p →
    let h := p.hdr
    let n := phSamples h
    let free := fun sp slot => ∀ b ∈ p.bufs, ¬ (b.sp = sp ∧ b.slot = slot)
    (∀ t rest, p.parked = [] → (p.phase = 2 ∨ p.phase = 3) → p.tiles = t :: rest → (∀ l, p.lastTile = some l → l < 64) →
      ((∃ sp ∈ tileSpindles h, ∃ slot < 2, free sp slot) → Ends .tileAssign s fun u => RegsKept s u [C 0x40000] ∧ u.mem = s.mem ∧ u.fly = s.fly ∧ ∃ b : TileBuf,
        FrontIs u { p with tiles := rest, lastTile := some b.sp, bufs := p.bufs ++ [b] } ∧ b.sp ∈ tileSpindles h ∧ b.slot < 2 ∧ free b.sp b.slot
          ∧ (b.tx, b.ty) = t ∧ b.phase = 0 ∧ b.todo = (p.bins.filter (fun e => e.2.contains t)).map (fun e => e.1) ∧ b.quads = [] ∧ b.frags = []
          ∧ ∀ sp ∈ tileSpindles h, (∃ slot < 2, free sp slot) → turnsTo p.lastTile b.sp ≤ turnsTo p.lastTile sp)
      ∧ ((∀ sp ∈ tileSpindles h, ∀ slot < 2, ¬ free sp slot) → Idle .tileAssign s))
    ∧ (p.parked = [] → p.tiles = [] ∨ (p.phase ≠ 2 ∧ p.phase ≠ 3) → Idle .tileAssign s)
    ∧ (∀ (sp : Fin 64) (buffer : Fin 2) (b : TileBuf), p.bufs.find? (fun b => b.sp = sp.val && b.slot = buffer.val) = some b →
      (b.phase = 0 → p.phase ≠ 5 → b.frags = [] → (b.tx, b.ty) ∉ p.flushed →
        let pixel := fun x y => phX0 h ≤ x ∧ x < phX0 h + phW h ∧ phY0 h ≤ y ∧ y < phY0 h + phH h ∧ x / 32 = b.tx ∧ y / 32 = b.ty
        let key := fun x y sm => ((y % 32) * 32 + x % 32) * n + sm
        let loaded := fun (u : State) (col : Nat → Nat → Nat → Nat → Prop) => ∃ p' b', FrontIs u p'
          ∧ p'.bufs.find? (fun b => b.sp = sp.val && b.slot = buffer.val) = some b' ∧ b'.phase = 1 ∧ b'.todo = b.todo ∧ (b'.tx, b'.ty) = (b.tx, b.ty)
          ∧ ∀ x y, pixel x y → ∀ sm < n, col x y sm (Sparse.get (fun _ => 0) b'.col (key x y sm))
            ∧ (phDepth h = true ∨ phStencil h = true → Sparse.get (fun _ => 0) b'.dep (key x y sm) = fieldAt h 27 1 * 2 ^ 24 + fieldAt h 24 3)
        (phLoad h = 0 → Ends (.tileLoadDone sp buffer) s fun u => loaded u (fun _ _ _ v => v = fieldAt p.target 28 4) ∧ MemKept s u)
        ∧ (phLoad h = 2 → Ends (.tileLoadDone sp buffer) s fun u => loaded u (fun _ _ _ _ => True) ∧ MemKept s u)
        ∧ (∀ col v, phLoad h = 1 → loadColour p (rdTile b.sp p.ctx) n
              ((tileBlocks h b.tx b.ty).flatMap (fun e => (List.range n).map (fun sm => (e.1, e.2, sm)))) [] s = (.ok (col, 0), v) →
            Ends (.tileLoadDone sp buffer) s fun u => loaded u (fun x y sm c => c = Sparse.get (fun _ => 0) col (key x y sm))))
      ∧ (b.phase ≠ 0 → Idle (.tileLoadDone sp buffer) s)
      ∧ (b.phase = 1 → b.todo = [] → b.quads = [] → b.frags = [] → p.tiles = [] → p.parked = [] →
          (∀ x ∈ p.bufs, x.sp = sp.val ∧ x.slot = buffer.val) →
        (∀ v p2, p.phase = 3 → flushTile p b s = (.ok p2, v) → Ends (.tileStoreDone sp buffer) s fun u => rasCounted v u 1 ∧ u.mem = v.mem
          ∧ FrontIs u { p2 with bufs := [], phase := 1, bins := [], pages := 0 } ∧ (b.tx, b.ty) ∈ p2.flushed)
        ∧ (∀ v w, p.phase = 2 → (phDiscard h = true ∧ v = s ∨ phDiscard h = false ∧ storeColour p b s = (none, v)) →
            storeResolve p b v = (none, w) → (∀ pk, packetOf s p.ctx p.index = some pk → pk.status = 0) →
          Ends (.tileStoreDone sp buffer) s fun u => rasCounted w u 0 ∧ rasCounted w u 3 ∧ u.mem = w.mem
            ∧ (∀ x ∈ u.ras.passes, ¬ (x.ctx = p.ctx ∧ x.index = p.index))
            ∧ packetOf u p.ctx p.index = (packetOf s p.ctx p.index).map (fun pk => { pk with ended := true })))
      ∧ (b.todo ≠ [] ∨ b.quads ≠ [] ∨ b.frags ≠ [] ∨ b.phase ≠ 1 → Idle (.tileStoreDone sp buffer) s))

/-! ### Display pipes and ports -/

/-- Register of pipe n's block, and of port q's (Tables 15-1 and 15-3). -/
def Sys2Proof.Claims.dreg (n off : Nat) : Nat := C (0x50000 + 0x4000 * n + off)

/-- The timing shadows of a pipe meet R330. -/
def Sys2Proof.Claims.timingFits (s : State) (n : Nat) : Prop :=
  let f := fun off hi lo => s.fld ⟨Claims.dreg n off, hi, lo⟩
  let even := fun v => v % 2 = 0 ∧ v ≠ 0
  let v := (s.reg (Claims.dreg n 0x24)).toNat
  let d := (s.reg (Claims.dreg n 0x28)).toNat
  let total := f 0x10 15 0 + f 0x10 31 16 + f 0x14 15 0 + f 0x14 31 16
  let lines := f 0x18 15 0 + f 0x18 31 16 + f 0x1C 15 0 + f 0x1C 31 16
  even (f 0x10 15 0) ∧ f 0x10 15 0 ≤ 3840 ∧ even (f 0x10 31 16) ∧ even (f 0x14 15 0) ∧ even (f 0x14 31 16)
    ∧ 1 ≤ f 0x18 15 0 ∧ f 0x18 15 0 ≤ 1440 ∧ f 0x18 31 16 ≠ 0 ∧ f 0x1C 15 0 ≠ 0 ∧ f 0x1C 31 16 ≠ 0 ∧ total ≤ 8192 ∧ lines ≤ 4095
    ∧ 48 * 2 ^ 24 ≤ v ∧ v ≤ 96 * 2 ^ 24 ∧ d % 2 = 0 ∧ 2 ≤ d ∧ d ≤ 128 ∧ 10 * d * 2 ^ 24 ≤ 25 * v ∧ 25 * v ≤ 600 * d * 2 ^ 24
    ∧ 25000000 * v ≤ total * lines * 120 * d * 2 ^ 24
    ∧ (let bits := 3 * (6 + 2 * f 0 27 26)
       let q := f 0 29 28
       let lanes := s.fld ⟨Claims.dreg q 0x3000, 27, 24⟩
       if q < 2 then 25000000 * v * bits * 10 ≤ lanes * ([162, 216, 243, 270, 324, 432, 540, 810].getD (s.fld ⟨Claims.dreg q 0x3000, 23, 20⟩) 0) * 10000000
           * 8 * 2 ^ 24 * d
         else 25000000 * v * bits ≤ lanes * s.fld ⟨Claims.dreg q 0x3000, 19, 8⟩ * 10000000 * 2 ^ 24 * d)

/-- The pipe is scanning out and nothing but the next frame is due: no stop, no quiesce. -/
def Sys2Proof.Claims.Scans (s : State) (n : Nat) : Prop :=
  running s = true ∧ s.boot.released = true ∧ s.flag ⟨Claims.dreg n 0x118, 31, 31⟩ = true ∧ s.disp.pipes.length = 4 ∧ (pipeAt s n).stopping = false
    ∧ s.flag fQuiesce = false ∧ s.core.entryQuiesce = false

/-- Every active line of the frame has been shown, without an underrun. -/
def Sys2Proof.Claims.frameShown (s : State) (n : Nat) : Prop := tLow (pipeAt s n).timing 2 ≤ (pipeAt s n).next ∧ (pipeAt s n).under = none

/-- A pixel clock relock has started with a cause (R337; Table 21-3). -/
def Sys2Proof.Claims.Relocks (s u : State) (n cause : Nat) : Prop :=
  u.flag ⟨Claims.dreg n 0x118, 31, 31⟩ = false ∧ u.flag ⟨Claims.dreg n 0x118, 30, 30⟩ = true ∧ u.flag ⟨Claims.dreg n 0x118, 28, 28⟩ = false
    ∧ bitN (u.reg (Claims.dreg n 0x12C)).toNat 3 = true ∧ Logs s u 5 0x142 0 n cause

open Sys2Proof.Claims in
/-- R54, R321-R323, R327, R329-R331, R337, Tables 15-1, 15-4 and 15-5: at a vertical blank start a committed plane set is latched whole or the frame repeats, an accepted APPLY
takes effect, with a relock where the pixel clock changes, a disabled or quiesced pipe stops, and in a freeze every pixel is HOLD_COLOUR. FLIP_COMMIT drains
the merge buffers and replaces a commit that waits; APPLY and ENABLE are checked; a lost lock relocks, and the relocked pipe starts at a latch. -/
def Obligations.Frames_commits_and_timing : Prop :=
  ∀ (s : State) (pipe : Fin 4) (te : Bool),
    let n := pipe.val
    let stat := fun (u : State) b => u.flag ⟨dreg n 0x118, b, b⟩
    let event := fun (u : State) b => bitN (u.reg (dreg n 0x12C)).toNat b = true
    let pending := s.flag ⟨dreg n 0x108, 31, 31⟩
    let words := fun k => (List.range 11).map (fun i => (s.reg (dreg n (0x40 + 0x40 * k + 4 * i))).toNat)
    let shadow := [0x10, 0x14, 0x18, 0x1C, 0x20, 0x24, 0x28].map (fun o => (s.reg (dreg n o)).toNat)
    let counted := fun (u : State) off => if s.flag ⟨C 0xD0040, 0, 0⟩ then u.reg (dreg n off) = s.reg (dreg n off)
      else (u.reg (dreg n off)).toNat = min (2 ^ 32 - 1) ((s.reg (dreg n off)).toNat + 1)
    (Scans s n → s.flag ⟨dreg n 0x118, 29, 29⟩ = false →
      (pending = true → Ends (.vblankStart pipe te) s fun u => u.fld ⟨dreg n 0x108, 15, 0⟩ = (pipeAt s n).seq % 65536 ∧ u.flag ⟨dreg n 0x108, 31, 31⟩ = false
        ∧ event u 0 ∧ u.flag ⟨0xA4, 8 * n + 4, 8 * n + 4⟩ = false ∧ stat u 31 = true ∧ u.fld ⟨dreg n 0x118, 23, 12⟩ = 0 ∧ u.mem = s.mem
        ∧ (pipeAt u n).next = 0 ∧ (pipeAt u n).planes.map (fun a => (a.words, a.ok, a.pieces)) = (List.range 3).map (fun k => (words k, plEn (words k)
            && planeOk s (pipeAt s n).timing ((((List.range 3).map words).filter plEn).map plUnits).sum (words k), [])))
      ∧ (pending = false → Ends (.vblankStart pipe te) s fun u => u.fld ⟨dreg n 0x108, 15, 0⟩ = s.fld ⟨dreg n 0x108, 15, 0⟩ ∧ counted u 0x124
        ∧ u.flag ⟨0xA4, 8 * n + 4, 8 * n + 4⟩ = true ∧ stat u 31 = true
        ∧ (pipeAt u n).planes.map (fun a => (a.words, a.ok)) = (pipeAt s n).planes.map (fun a => (a.words, a.ok)))
      ∧ Ends (.vblankStart pipe te) s fun u => (s.flag ⟨C 0xD0040, 0, 0⟩ = false → (u.reg (dreg n 0x120)).toNat = ((s.reg (dreg n 0x120)).toNat + 1) % 2 ^ 32)
        ∧ (1 ≤ (pipeAt s n).frames → stat u 28 = true) ∧ (2 ≤ s.fld ⟨dreg n 0, 29, 28⟩ → u.flag ⟨dreg (s.fld ⟨dreg n 0, 29, 28⟩) 0x3004, 27, 27⟩ = te))
    ∧ (Scans s n → frameShown s n → s.flag ⟨dreg n 0x118, 29, 29⟩ = true → pending = false → shadow ≠ (pipeAt s n).timing →
        (nth shadow 5 = nth (pipeAt s n).timing 5 → nth shadow 6 = nth (pipeAt s n).timing 6 → Ends (.vblankStart pipe te) s fun u =>
          (pipeAt u n).timing = shadow ∧ stat u 29 = false ∧ event u 1 ∧ stat u 28 = false ∧ stat u 31 = true)
        ∧ (nth shadow 5 ≠ nth (pipeAt s n).timing 5 ∨ nth shadow 6 ≠ nth (pipeAt s n).timing 6 → Room s 0x142 → Ends (.vblankStart pipe te) s fun u =>
          (pipeAt u n).timing = shadow ∧ stat u 29 = false ∧ event u 1 ∧ Relocks s u n 0 ∧ (pipeAt u n).out = []))
    ∧ (running s = true → s.boot.released = true → stat s 31 = true → s.disp.pipes.length = 4 → (pipeAt s n).stopping = true →
      Ends (.vblankStart pipe te) s fun u => s.flag (fFrozen) = false → u.flag ⟨dreg n 0, 31, 31⟩ = false ∧ stat u 31 = false ∧ stat u 28 = false
        ∧ (pipeAt u n).planes = [] ∧ (pipeAt u n).out = [] ∧ (pipeAt u n).stopping = false)
    ∧ (s.flag fFrozen = true → s.disp.pipes.length = 4 → stat s 31 = true → Ends (.vblankStart pipe te) s fun u =>
        (pipeAt u n).out = (List.range (tLow (pipeAt s n).timing 0)).map (fun x => holdPixel s n x 0) ∧ RegsKept s u [] ∧ u.log = s.log ∧ u.mem = s.mem)
    ∧ (running s = true → s.disp.pipes.length = 4 → MergeSound s → ∀ seq : BitVec 16, Ends (.flipCommit pipe seq) s fun u => u.flag ⟨dreg n 0x108, 31, 31⟩ = true
        ∧ (pipeAt u n).seq = seq.toNat ∧ u.mem.merge = [] ∧ MemKept s u ∧ (pending = true → counted u 0x128) ∧ (pending = false → u.reg (dreg n 0x128) = s.reg (dreg n 0x128)))
    ∧ (running s = true →
      (timingFits s n → Ends (.apply pipe) s fun u => stat u 29 = true ∧ u.flag ⟨0xA4, 8 * n + 5, 8 * n + 5⟩ = true ∧ OnlyRegs s u [0xA4, dreg n 0x118])
      ∧ (¬ timingFits s n → Room s 0x143 → Ends (.apply pipe) s fun u => event u 7 ∧ Logs s u 4 0x143 0 n 4 ∧ RegsKept s u [dreg n 0x12C] ∧ u.disp = s.disp))
    ∧ (running s = true → s.flag ⟨dreg n 0, 31, 31⟩ = false → s.disp.pipes.length = 4 →
      let q := s.fld ⟨dreg n 0, 29, 28⟩
      let taken := ∃ m < 4, m ≠ n ∧ s.flag ⟨dreg m 0, 31, 31⟩ = true ∧ s.fld ⟨dreg m 0, 29, 28⟩ = q
      (s.flag ⟨dreg q 0x3000, 31, 31⟩ = true → ¬ taken → timingFits s n → Room s 0x142 → Ends (.pipeEnable pipe) s fun u => u.flag ⟨dreg n 0, 31, 31⟩ = true
        ∧ (pipeAt u n).timing = shadow ∧ event u 1 ∧ Relocks s u n 0
        ∧ ∀ i < 1024, Sparse.get (fun _ => 0#32) (pipeAt u n).degamma i = s.reg (dreg n (0x1000 + 4 * i))
            ∧ Sparse.get (fun _ => 0#32) (pipeAt u n).gamma i = s.reg (dreg n (0x2000 + 4 * i)))
      ∧ (s.flag ⟨dreg q 0x3000, 31, 31⟩ = false ∨ taken → Room s 0x041 → Ends (.pipeEnable pipe) s fun u =>
          Logs s u 4 0x041 0 0 (0x110000050000 + 0x4000 * n) ∧ RegsKept s u [] ∧ u.disp = s.disp)
      ∧ Idle (.pipeDisable pipe) s)
    ∧ (running s = true → s.flag ⟨dreg n 0, 31, 31⟩ = true → s.disp.pipes.length = 4 → Idle (.pipeEnable pipe) s
      ∧ Ends (.pipeDisable pipe) s fun u => u.flag ⟨dreg n 0, 31, 31⟩ = false
        ∧ (stat s 31 = true ∨ stat s 30 = true → (pipeAt u n).stopping = true ∧ RegsKept s u [dreg n 0])
        ∧ (stat s 31 = false → stat s 30 = false → (pipeAt u n).planes = [] ∧ (pipeAt u n).out = [] ∧ stat u 28 = false))
    ∧ (running s = true → s.boot.released = true → s.disp.pipes.length = 4 →
      (stat s 31 = true → Room s 0x142 → Ends (.pclkLockLost pipe) s fun u => Relocks s u n 2 ∧ (pipeAt u n).out = [])
      ∧ (stat s 31 = false → Idle (.pclkLockLost pipe) s))
    ∧ (running s = true → s.disp.pipes.length = 4 →
      (stat s 30 = true → (pipeAt s n).stopping = false → s.flag fQuiesce = false → s.core.entryQuiesce = false → stat s 29 = false →
        Ends (.relockDone pipe) s fun u => stat u 30 = false ∧ stat u 31 = true ∧ event u 4 ∧ (pending = true → event u 0
          ∧ u.fld ⟨dreg n 0x108, 15, 0⟩ = (pipeAt s n).seq % 65536) ∧ u.mem = s.mem)
      ∧ (stat s 30 = false → Idle (.relockDone pipe) s))

open Sys2Proof.Claims in
/-- R325, R326, R332-R335, R339, Tables 15-3 and 15-5: the next piece of a plane is fetched from DRAM into its units while there is room; a missing pixel shows HOLD_COLOUR to
the end of its line and counts one line. An eDP port trains, with LINK_UP or TRAIN_FAIL, a DSI port is ready at once, and a disabled port stops its
pipe; AUX transactions and DSI packets start and end; an HPD change raises its event and a fall takes LINK_UP down. -/
def Obligations.Prefetch_underruns_and_ports : Prop :=
  ∀ (s : State) (pipe port : Fin 4), running s = true →
    let n := pipe.val
    let q := port.val
    let preg := fun off => dreg q (0x3000 + off)
    let p := pipeAt s n
    let scans := s.boot.released = true ∧ s.flag ⟨dreg n 0x118, 31, 31⟩ = true ∧ s.disp.pipes.length = 4
    let event := fun (u : State) b => bitN (u.reg (dreg q 0x12C)).toNat b = true
    (∀ (plane : Fin 3) (line : BitVec 12) (a : PlaneAct), scans → line.toNat ≤ vBlank p.timing + p.next → p.planes[plane.val]? = some a →
      let w := a.words
      let piece := (readPiece a false s).1
      (a.ok = true → fetchLeft a = true → pieceDone w p.next piece = false → pieceRoom p a piece = true → piece.bad = false →
        Ends (.prefetchArrive pipe plane line .clean) s fun u =>
          pipeAt u n = { p with planes := setAt p.planes plane.val (stepCursor { a with pieces := a.pieces ++ [piece] }) }
          ∧ RegsKept s u [dreg n 0x118] ∧ u.mem = s.mem
          ∧ (fmtUmz (plFormat w) = false → ∀ i < 16, piece.px.getD i 0 =
              leNat ((directRead s ((plRowAddr w a.row / 64 + a.col) * 64) 64).drop (4 * i) |>.take 4)))
      ∧ (fetchLeft a = false → Ends (.prefetchArrive pipe plane line .clean) s fun u => u.disp = s.disp ∧ RegsKept s u [dreg n 0x118]))
    ∧ (∀ (line : BitVec 12) (x0 : Nat), scans → line.toNat = vBlank p.timing + p.next → p.next < tLow p.timing 2 → x0 < tLow p.timing 0 →
        pixelOut s n x0 p.next = none → (∀ x < x0, pixelOut s n x p.next ≠ none) →
      Ends (.underrun pipe line) s fun u => (if s.flag ⟨C 0xD0040, 0, 0⟩ then u.reg (dreg n 0x11C) = s.reg (dreg n 0x11C)
            else (u.reg (dreg n 0x11C)).toNat = min (2 ^ 32 - 1) ((s.reg (dreg n 0x11C)).toNat + 1))
        ∧ (pipeAt u n).next = p.next + 1 ∧ (pipeAt u n).under = some (match p.under with
            | none => (p.next, 1)
            | some (f, k) => (f, k + 1))
        ∧ ∀ x < tLow p.timing 0, (pipeAt u n).out[x]? = if x < x0 then pixelOut s n x p.next else some (holdPixel s n x p.next))
    ∧ (s.disp.ports.length = 4 →
      (s.flag ⟨preg 0, 31, 31⟩ = false →
        (q < 2 → Ends (.portEnable port) s fun u => u.flag ⟨preg 0, 31, 31⟩ = true ∧ (portAt u q).training = true ∧ u.flag ⟨preg 4, 30, 30⟩ = false
          ∧ u.flag ⟨preg 4, 31, 31⟩ = s.flag ⟨preg 4, 31, 31⟩ ∧ RegsKept s u [preg 0, preg 4])
        ∧ (2 ≤ q → Ends (.portEnable port) s fun u => u.flag ⟨preg 0, 31, 31⟩ = true ∧ u.flag ⟨preg 4, 31, 31⟩ = true ∧ u.disp = s.disp
          ∧ RegsKept s u [preg 0, preg 4])
        ∧ Idle (.portDisable port) s)
      ∧ (s.flag ⟨preg 0, 31, 31⟩ = true → Idle (.portEnable port) s
        ∧ Ends (.portDisable port) s fun u => u.flag ⟨preg 0, 31, 31⟩ = false ∧ u.flag ⟨preg 4, 31, 31⟩ = false ∧ (portAt u q).training = false ∧ (portAt u q).dsi = []
          ∧ (s.fld ⟨dreg n 0, 29, 28⟩ = q → s.flag ⟨dreg n 0, 31, 31⟩ = true → u.flag ⟨dreg n 0, 31, 31⟩ = false ∧ u.flag ⟨dreg n 0x118, 31, 31⟩ = false))
      ∧ (∀ detail : BitVec 48, (portAt s q).training = true →
        (Ends (.portTrainDone port true detail) s fun u => u.flag ⟨preg 4, 31, 31⟩ = true ∧ u.flag ⟨preg 4, 30, 30⟩ = false ∧ (portAt u q).training = false
          ∧ RegsKept s u [preg 4] ∧ u.log = s.log)
        ∧ (Room s 0x144 → Ends (.portTrainDone port false detail) s fun u => u.flag ⟨preg 4, 31, 31⟩ = false ∧ u.flag ⟨preg 4, 30, 30⟩ = true ∧ event u 6
          ∧ Logs s u 5 0x144 0 q detail.toNat ∧ RegsKept s u [preg 4, dreg q 0x12C]))
      ∧ (∀ ok detail, (portAt s q).training = false → Idle (.portTrainDone port ok detail) s)
      ∧ (∀ v : W32, s.flag ⟨preg 0x10, 30, 30⟩ = false → q < 2 → bitsOf v 27 24 ∈ [8, 9, 0, 1, 4, 5] → Ends (.auxGo port v) s fun u =>
          u.flag ⟨preg 0x10, 30, 30⟩ = true ∧ u.fld ⟨preg 0x10, 27, 0⟩ = bitsOf v 27 0 ∧ RegsKept s u [preg 0x10])
      ∧ (∀ v : W32, s.flag ⟨preg 0x10, 30, 30⟩ = true → Idle (.auxGo port v) s)
      ∧ (∀ (result : BitVec 2) (data : List Byte), s.flag ⟨preg 0x10, 30, 30⟩ = true → Ends (.auxReply port result data) s fun u =>
          u.flag ⟨preg 0x10, 30, 30⟩ = false ∧ u.fld ⟨preg 0x10, 29, 28⟩ = result.toNat
          ∧ (result ≠ 0#2 ∨ s.flag ⟨preg 0x10, 24, 24⟩ = false → RegsKept s u [preg 0x10])
          ∧ (result = 0#2 → s.flag ⟨preg 0x10, 24, 24⟩ = true → data.length = s.fld ⟨preg 0x10, 23, 20⟩ + 1 → ∀ i < data.length,
              (u.reg (preg (0x20 + 4 * (i / 4)))).toNat / 256 ^ (i % 4) % 256 = (data.getD i 0#8).toNat))
      ∧ (∀ result data, s.flag ⟨preg 0x10, 30, 30⟩ = false → Idle (.auxReply port result data) s)
      ∧ (∀ v : W32, 2 ≤ q → s.flag ⟨preg 0, 31, 31⟩ = true → bitsOf v 29 24 ∈ [0x05, 0x15, 0x39, 0x03, 0x13, 0x23, 0x29] → bitsOf v 23 16 ≤ 64 →
        let pkt := (bitsOf v 29 24, bitsOf v 23 16, bitsOf v 15 0, ((List.range 16).flatMap (fun i => leBytes 4 (s.reg (preg (0x40 + 4 * i))).toNat)).take (bitsOf v 23 16))
        let video := ∃ m < 4, s.flag ⟨dreg m 0x118, 31, 31⟩ = true ∧ s.fld ⟨dreg m 0, 29, 28⟩ = q
        (video → Ends (.dsiCmd port v) s fun u => (portAt u q).dsi = (portAt s q).dsi ++ [pkt] ∧ u.flag ⟨preg 0x30, 30, 30⟩ = true ∧ RegsKept s u [preg 0x30])
        ∧ (¬ video → Ends (.dsiCmd port v) s fun u => (portAt u q).sent = some pkt ∧ (portAt u q).dsi = (portAt s q).dsi ∧ RegsKept s u [preg 0x30]))
      ∧ (∀ level irq : Bool, q < 2 → (irq = true ∨ level ≠ s.flag ⟨preg 4, 29, 29⟩) → Ends (.hpdChange port level irq) s fun u => u.flag ⟨preg 4, 29, 29⟩ = level
          ∧ event u 5 ∧ u.flag ⟨preg 4, 31, 31⟩ = (level && s.flag ⟨preg 4, 31, 31⟩) ∧ RegsKept s u [preg 4, dreg q 0x12C])
      ∧ (∀ level irq : Bool, (2 ≤ q ∨ (irq = false ∧ level = s.flag ⟨preg 4, 29, 29⟩)) → Idle (.hpdChange port level irq) s))

/-! ### Touch -/

/-- Register of the touch block (Table 16-1). -/
def Sys2Proof.Claims.treg (off : Nat) : Nat := C (0x60000 + off)

/-- The front end scans in RUN or IDLE: enabled, the interior runs, no quiesce. -/
def Sys2Proof.Claims.TouchOn (s : State) : Prop :=
  running s = true ∧ s.flag ⟨Claims.treg 0, 31, 31⟩ = true ∧ s.flag fQuiesce = false ∧ s.core.entryQuiesce = false

/-- One more report of Table 16-3 is in the FIFO, if it had room, else it is dropped and counted (R354, R358). -/
def Sys2Proof.Claims.Reported (s u : State) (t sensor pos : Nat) (free water : Bool) (delta : Int → Prop) : Prop :=
  u.touch.seq = (s.touch.seq + 1) % 256
  ∧ (s.touch.fifo.length < 64 → ∃ r : List Byte, u.touch.fifo = s.touch.fifo ++ [r] ∧ r.length = 16 ∧ leNat (r.take 1) = t
      ∧ (fieldAt r 1 1) = sensor ∧ (fieldAt r 2 1) = (if free then 1 else 0) + (if water then 2 else 0)
      ∧ (fieldAt r 3 1) = s.touch.seq % 256 ∧ (fieldAt r 4 2) = pos % 65536
      ∧ delta ((BitVec.ofNat 16 ((fieldAt r 6 2))).toInt) ∧ (fieldAt r 8 8) = s.core.timebase.toNat
      ∧ u.fld ⟨0xA8, 31, 24⟩ = s.touch.fifo.length + 1 ∧ u.reg (Claims.treg 0x348) = s.reg (Claims.treg 0x348))
  ∧ (64 ≤ s.touch.fifo.length → u.touch.fifo = s.touch.fifo
      ∧ (u.reg (Claims.treg 0x348)).toNat = min (2 ^ 32 - 1) ((s.reg (Claims.treg 0x348)).toNat + 1)
      ∧ u.fld ⟨0xA8, 23, 16⟩ = (s.fld ⟨0xA8, 23, 16⟩ + 1) % 256)

/-- The exact position of R351, rounded to nearest with halves up, from the segments' deltas (each at least 0, one of them above 0). -/
def Sys2Proof.Claims.segmentPosition (wheel : Bool) (ds : List Int) : Int :=
  let n := ds.length
  let d := fun i => ds.getD i 0
  let k := (List.range n).find? (fun i => (List.range n).all (fun j => d j ≤ d i)) |>.getD 0
  let before := if k = 0 then (if wheel then d (n - 1) else 0) else d (k - 1)
  let after := if k + 1 = n then (if wheel then d 0 else 0) else d (k + 1)
  let step : ℚ := if wheel then 1024 / n else 1023 / (n - 1)
  let p := ⌊(k : ℚ) * step + (after - before) * step / (before + d k + after) + 1 / 2⌋
  if wheel then p % 1024 else max 0 (min 1023 p)

/-- SIGNAL of self channel c from its count and the GAIN taken at the scan's start (R344). -/
def Sys2Proof.Claims.selfSignal (s : State) (counts : List (BitVec 16)) (c : Nat) : Nat :=
  min 65535 ((counts.getD c 0#16).toNat * (s.touch.gain.getD c 0 % 65536) / 256)

open Sys2Proof.Claims in
/-- R340, R342-R352, R354, R356-R358 and R360, for sensors of self channels in SELF groups: settings and trims are taken at a scan's start, where a change between synchronised and free-running is
logged and reported; a scan gives each channel its SIGNAL, the eighth scan after ENABLE its BASELINE; then a sensor is touched, released and recalibrated,
its position reported, its baselines drift, and an enabled scan record is written. That a scan's decisions come before its drift is the model's reading
(log entry 85). -/
def Obligations.Touch_scans_decide_and_report : Prop :=
  ∀ (s : State) (counts : List (BitVec 16)), TouchOn s →
    let quiet := s.flag ⟨treg 0, 30, 30⟩ = true ∧ s.flag ⟨dreg (s.fld ⟨treg 0, 29, 28⟩) 0x118, 28, 28⟩ = true
    let was := s.flag ⟨0xA8, 14, 14⟩
    let base := fun (u : State) c => u.fld ⟨treg (0x2000 + 4 * c), 31, 16⟩
    let tch := fun (u : State) i => bitN (u.reg (treg 0x340)).toNat i
    let proc := fun hi lo => bitsN (s.touch.cfg.getD 1 0) hi lo
    (s.touch.scanning = false → Room s 0x161 → Ends .touchScanStart s fun u => u.touch.scanning = true ∧ (u.touch.free = false ↔ quiet)
      ∧ u.touch.cfg = ([4, 8] ++ (List.range 8).map (fun g => 0x30 + 4 * g)).map (fun o => (s.reg (treg o)).toNat)
      ∧ (∀ pin < 64, u.touch.gain.getD pin 0 = (trimWord s 7 pin).toNat ∧ u.touch.thresh.getD pin 0 = (trimWord s 8 pin).toNat
          ∧ u.touch.antiTrim.getD pin 0 = (trimWord s 9 pin).toNat)
      ∧ ((was = false ↔ quiet) → RegsKept s u [] ∧ u.log = s.log ∧ u.touch.fifo = s.touch.fifo)
      ∧ (quiet → was = true → u.flag ⟨0xA8, 14, 14⟩ = false ∧ Logs s u 5 0x161 0 (s.fld ⟨treg 0, 29, 28⟩) 1 ∧ Reported s u 7 0 0 false false (fun _ => True))
      ∧ (¬ quiet → was = false → u.flag ⟨0xA8, 14, 14⟩ = true ∧ Logs s u 5 0x161 0 (s.fld ⟨treg 0, 29, 28⟩) 0
          ∧ Reported s u 7 0 0 true false (fun _ => True)))
    ∧ (s.touch.scanning = true → s.touch.free = false → Ends .touchScanOverrun s fun u => u.touch = { s.touch with free := true }
      ∧ (u.reg (treg 0x34C)).toNat = min (2 ^ 32 - 1) ((s.reg (treg 0x34C)).toNat + 1) ∧ RegsKept s u [treg 0x34C] ∧ u.mem = s.mem)
    ∧ (∀ c < 64, s.touch.scanning = true → s.fld ⟨treg (0x10 + 4 * (c / 8)), 1, 0⟩ = 1 → s.flag ⟨treg 0, 27, 27⟩ = false →
      Ends (.touchScanEnd counts) s fun u => u.touch.scanning = false ∧ u.fld ⟨treg (0x2000 + 4 * c), 15, 0⟩ = selfSignal s counts c
        ∧ (u.reg (treg 0x344)).toNat = ((s.reg (treg 0x344)).toNat + 1) % 2 ^ 32 ∧ u.mem = s.mem ∧ u.log = s.log
        ∧ (s.touch.initLeft ≠ 0 → u.touch.initLeft = s.touch.initLeft - 1 ∧ u.touch.fifo = s.touch.fifo ∧ u.touch.sens = s.touch.sens
          ∧ (1 < s.touch.initLeft → base u c = base s c
            ∧ Sparse.get (fun _ => 0) u.touch.initSums c = Sparse.get (fun _ => 0) s.touch.initSums c + selfSignal s counts c)
          ∧ (s.touch.initLeft = 1 → Sparse.get (fun _ => 0) s.touch.initSums c ≤ 7 * 65535 →
              base u c = (Sparse.get (fun _ => 0) s.touch.initSums c + selfSignal s counts c) / 8)))
    ∧ (∀ (x : SensSt) (i : Fin 32), s.touch.scanning = true → s.touch.initLeft = 0 → s.touch.sens = [x] → x.id = i.val → s.flag ⟨treg 0, 27, 27⟩ = false →
      let cs := sensChans s i
      let dl := fun c => (selfSignal s counts c : Int) - base s c
      let th := fun c => ((s.touch.thresh.getD c 0 % 65536 : Nat) : Int)
      let hyst := fun c => ((s.touch.thresh.getD c 0 / 65536 % 256 : Nat) : Int)
      let anti := fun c => ((s.touch.antiTrim.getD c 0 % 65536 : Nat) : Int)
      let top := fun v => (∀ c ∈ cs, dl c ≤ v) ∧ ∃ c ∈ cs, dl c = v
      let kind := s.fld ⟨treg (0x100 + 16 * i), 31, 30⟩
      let place := if kind = 1 then 0 else segmentPosition (kind = 3) (cs.map (fun c => max 0 (dl c)))
      let drifted := fun (u : State) => ∀ c ∈ cs, (base u c : Int) = base s c + (dl c).tdiv (2 ^ proc 11 8)
      (∀ c ∈ cs, c < 64 ∧ s.fld ⟨treg (0x10 + 4 * (c / 8)), 1, 0⟩ = 1 ∧ -32768 ≤ dl c ∧ dl c ≤ 32767) → cs.Nodup → kind ≠ 0 → (kind = 2 → 2 ≤ cs.length) →
      x.anti.length = cs.length → x.water = false → 0 < proc 7 4 → 0 < proc 15 12 →
      (x.recal = none →
        ((∃ k < cs.length, dl (cs.getD k 0) ≤ - anti (cs.getD k 0) ∧ proc 15 12 ≤ x.anti.getD k 0 + 1) →
          Ends (.touchScanEnd counts) s fun u => tch u i = false ∧ u.flag ⟨0xA8, 13, 13⟩ = true
            ∧ u.touch.sens.map (fun y => y.recal) = [some (1, 0, cs.map (fun _ => 0))] ∧ (∀ c ∈ cs, base u c = base s c)
            ∧ (tch s i = true → Reported s u 2 i x.pos s.touch.free false (fun _ => True)) ∧ (tch s i = false → u.touch.fifo = s.touch.fifo))
        ∧ ((∀ k < cs.length, - anti (cs.getD k 0) < dl (cs.getD k 0)) →
          (tch s i = false → (∃ c ∈ cs, th c ≤ dl c) → proc 7 4 ≤ x.onCnt + 1 → (∃ c ∈ cs, 0 < dl c) → Ends (.touchScanEnd counts) s fun u =>
            tch u i = true ∧ u.flag ⟨0xA8, 15, 15⟩ = true ∧ u.fld ⟨0xA8, 11, 10⟩ = 0 ∧ (∀ c ∈ cs, base u c = base s c)
            ∧ Reported s u 1 i place.toNat s.touch.free false top)
          ∧ (tch s i = false → (∃ c ∈ cs, th c ≤ dl c) → x.onCnt + 1 < proc 7 4 → Ends (.touchScanEnd counts) s fun u =>
            tch u i = false ∧ u.touch.fifo = s.touch.fifo ∧ u.touch.sens.map (fun y => y.onCnt) = [x.onCnt + 1] ∧ drifted u)
          ∧ (tch s i = true → (∀ c ∈ cs, dl c < th c - hyst c) → proc 7 4 ≤ x.offCnt + 1 → Ends (.touchScanEnd counts) s fun u =>
            tch u i = false ∧ Reported s u 2 i x.pos s.touch.free false top ∧ drifted u)
          ∧ (tch s i = true → (∃ c ∈ cs, th c - hyst c ≤ dl c) → (∃ c ∈ cs, 0 < dl c) → Ends (.touchScanEnd counts) s fun u =>
            tch u i = true ∧ (∀ c ∈ cs, base u c = base s c) ∧ u.touch.sens.map (fun y => y.offCnt) = [0]
            ∧ (kind ≠ 1 → place.toNat ≠ x.pos → Reported s u 3 i place.toNat s.touch.free false top)
            ∧ (kind = 1 ∨ place.toNat = x.pos → u.touch.fifo = s.touch.fifo))))
      ∧ (∀ cause k, ∀ sums : List Nat, x.recal = some (cause, k, sums) → sums.length = cs.length → tch s i = false → (∀ v ∈ sums, v ≤ 3 * 65535) →
        let sum := fun j => sums.getD j 0 + selfSignal s counts (cs.getD j 0)
        (k ≠ 3 → Ends (.touchScanEnd counts) s fun u => u.touch.sens.map (fun y => y.recal) = [some (cause, k + 1, (List.range cs.length).map sum)]
          ∧ u.touch.fifo = s.touch.fifo ∧ u.flag ⟨0xA8, 13, 13⟩ = true ∧ (∀ c ∈ cs, base u c = base s c))
        ∧ (k = 3 → Ends (.touchScanEnd counts) s fun u => (∀ j < cs.length, base u (cs.getD j 0) = sum j / 4) ∧ u.touch.sens.map (fun y => y.recal) = [none]
          ∧ Reported s u 5 i cause s.touch.free false (fun _ => True) ∧ u.flag ⟨0xA8, 13, 13⟩ = false)))
    ∧ (s.touch.scanning = true → s.touch.initLeft = 0 → s.touch.sens = [] → s.flag ⟨treg 0, 27, 27⟩ = true →
      let ix := s.fld ⟨treg 0x35C, 15, 0⟩
      let a := s.fld ⟨treg 0x354, 15, 0⟩ * 2 ^ 32 + s.fld ⟨treg 0x350, 31, 9⟩ * 512 + ix * 512
      (a + 512 ≤ dramBytes s / 32 * 31 → a + 512 ≤ 2 ^ 35 → Ends (.touchScanEnd counts) s fun u =>
        (∃ r, r.length = 512 ∧ (∀ i < 512, directRead u (a + i) 1 = [r.getD i 0#8])
          ∧ (∀ x, x < a ∨ a + 512 ≤ x → directRead u x 1 = directRead s x 1) ∧ leNat (r.take 8) = s.core.timebase.toNat ∧ (∀ c < 64, (fieldAt r (8 + 2 * c) 2) =
            if s.fld ⟨treg (0x10 + 4 * (c / 8)), 1, 0⟩ % 2 = 1 then selfSignal s counts c else 0) ∧ r.drop 392 = List.replicate 120 0#8)
        ∧ u.fld ⟨treg 0x35C, 15, 0⟩ = if s.fld ⟨treg 0x358, 15, 0⟩ ≤ ix + 1 then 0 else ix + 1)
      ∧ (dramBytes s / 32 * 31 < a + 512 → Room s 0x163 → Ends (.touchScanEnd counts) s fun u => u.mem = s.mem ∧ u.flag ⟨treg 0, 27, 27⟩ = false
        ∧ Logs s u 4 0x163 0 0 ix))

open Sys2Proof.Claims in
/-- R345, R347, R349, R352, R356: a write that sets ENABLE is refused for the lowest sensor that the groups do not measure, or starts the capture of baselines; a touched
sensor is recalibrated at STUCK_LIMIT, and every sensor by RECAL, with a RELEASE report where it was touched; the scan rate steps down while nothing is touched;
a cleared ENABLE stops scanning. -/
def Obligations.Touch_starts_stops_and_recalibrates : Prop :=
  ∀ s : State, running s = true →
    let on := s.flag ⟨treg 0, 31, 31⟩
    let tch := fun (u : State) i => bitN (u.reg (treg 0x340)).toNat i
    let kind := fun i => s.fld ⟨treg (0x100 + 16 * i), 31, 30⟩
    let cs := fun i => (List.range (s.fld ⟨treg (0x100 + 16 * i), 26, 24⟩ + 1)).map (fun k => s.fld ⟨treg (0x104 + 16 * i + 4 * (k / 4)), 8 * (k % 4) + 7, 8 * (k % 4)⟩)
    let fits := fun i => (∀ c ∈ cs i, chanExists s c = true) ∧ ((∀ c ∈ cs i, c < 64) ∨ ∀ c ∈ cs i, 64 ≤ c) ∧ (cs i).Nodup
      ∧ (kind i = 1 → (cs i).length = 1) ∧ (kind i = 2 → 2 ≤ (cs i).length) ∧ (kind i = 3 → 3 ≤ (cs i).length)
    let dualFits := ∀ g < 8, s.fld ⟨treg (0x10 + 4 * g), 1, 0⟩ = 3 → s.fld ⟨treg (0x10 + 4 * g), 15, 8⟩ ≠ 0 ∧ s.fld ⟨treg (0x10 + 4 * g), 15, 8⟩ ≠ 255
    (on = false → (∀ i < 32, kind i ≠ 0 → fits i) → dualFits → Ends .touchEnable s fun u => u.flag ⟨treg 0, 31, 31⟩ = true ∧ u.reg (treg 0xC) = s.reg (treg 0xC) &&& 0x60FFFFFF#32
        ∧ u.touch.initLeft = 8 ∧ u.touch.sens.map (fun x => x.id) = (List.range 32).filter (fun i => kind i ≠ 0) ∧ u.touch.fifo = s.touch.fifo
        ∧ u.touch.scanning = false ∧ (∀ x ∈ u.touch.sens, x.recal = none ∧ x.water = false ∧ x.onCnt = 0))
    ∧ (∀ i < 32, on = false → kind i ≠ 0 → ¬ fits i → (∀ j < i, kind j ≠ 0 → fits j) → Room s 0x162 → Ends .touchEnable s fun u =>
        u.flag ⟨treg 0xC, 31, 31⟩ = true ∧ u.fld ⟨treg 0xC, 28, 24⟩ = i ∧ Logs s u 4 0x162 0 0 i ∧ RegsKept s u [treg 0xC] ∧ u.touch = s.touch)
    ∧ (on = false → (∀ i < 32, kind i ≠ 0 → fits i) → ¬ dualFits → Ends .touchEnable s fun u => u.flag ⟨treg 0xC, 31, 31⟩ = true ∧ RegsKept s u [treg 0xC]
        ∧ u.touch = s.touch)
    ∧ (on = true → Idle .touchEnable s)
    ∧ (Ends .touchDisable s fun u => u.flag ⟨treg 0, 31, 31⟩ = false ∧ u.reg (treg 0x340) = 0#32 ∧ u.touch.sens = [] ∧ u.touch.scanning = false
        ∧ u.touch.fifo = s.touch.fifo ∧ u.fld ⟨0xA8, 15, 10⟩ = 0)
    ∧ (on = true → (s.touch.sens.map (fun x => x.id)).Nodup → Ends .touchRecal s fun u => (∀ x ∈ s.touch.sens, x.id < 32 → tch u x.id = false)
        ∧ u.touch.sens.map (fun x => (x.id, x.recal.map (fun r => (r.1, r.2.1)))) = s.touch.sens.map (fun x => (x.id, some (2, 0)))
        ∧ u.touch.seq % 256 = (s.touch.seq + (s.touch.sens.filter (fun x => tch s x.id)).length) % 256
        ∧ (s.touch.sens ≠ [] → u.flag ⟨0xA8, 13, 13⟩ = true))
    ∧ (∀ (i : Fin 32) (x : SensSt), TouchOn s → s.touch.sens.find? (fun y => y.id = i.val) = some x →
      (tch s i = true → s.touch.cfg.getD 0 0 / 2 ^ 24 % 256 ≠ 0 → Ends (.stuckRecal i) s fun u => tch u i = false ∧ Reported s u 2 i x.pos s.touch.free false (fun _ => True)
        ∧ (u.touch.sens.find? (fun y => y.id = i.val)).map (fun y => y.recal) = some (some (0, 0, x.anti.map (fun _ => 0))) ∧ u.flag ⟨0xA8, 13, 13⟩ = true)
      ∧ (tch s i = false ∨ s.touch.cfg.getD 0 0 / 2 ^ 24 % 256 = 0 → Idle (.stuckRecal i) s))
    ∧ (TouchOn s → (s.reg (treg 0x340) = 0#32 → s.fld ⟨0xA8, 11, 10⟩ < 2 → Ends .touchRateStep s fun u => u.fld ⟨0xA8, 11, 10⟩ = s.fld ⟨0xA8, 11, 10⟩ + 1
          ∧ OnlyRegs s u [0xA8])
        ∧ (s.reg (treg 0x340) ≠ 0#32 ∨ s.fld ⟨0xA8, 11, 10⟩ = 2 → Idle .touchRateStep s))

/-! ### Cameras, illuminators, audio -/

/-- Registers of camera k, of illuminator k (Table 17-1) and of the audio block (Table 17-3). -/
def Sys2Proof.Claims.creg (k off : Nat) : Nat := C (0x70000 + 0x100 * k + off)
def Sys2Proof.Claims.ireg (k off : Nat) : Nat := C (0x70300 + 0x10 * k + off)
def Sys2Proof.Claims.areg (off : Nat) : Nat := C (0x80000 + off)

/-- An address from bits 31:lo of one register and bits 15:0 of the next. -/
def Sys2Proof.Claims.pairAddr (s : State) (r lo : Nat) : Nat := s.fld ⟨r, 31, lo⟩ * 2 ^ lo + s.fld ⟨r + 4, 15, 0⟩ * 2 ^ 32

/-- The run lies wholly in DRAM below the check store. -/
def Sys2Proof.Claims.inDram (s : State) (a n : Nat) : Prop := a + n ≤ dramBytes s / 32 * 31 ∧ a + n ≤ 2 ^ 35

/-- The run lies wholly in DRAM below the check store, or wholly in SCRATCH or PINNED leas (R367). -/
def Sys2Proof.Claims.inRegion (s : State) (a n : Nat) : Prop :=
  n = 0 ∨ (a < 2 ^ 35 ∧ a + n ≤ dramBytes s / 32 * 31) ∨ (2 ^ 35 ≤ a ∧ ∀ i < n, ∃ o, target s (a + i) = .skein o)

/-- Bytes of DRAM read as given from an address on, and every other byte as in s. -/
def Sys2Proof.Claims.DirectWrote (s u : State) (ws : List (Nat × List Byte)) : Prop :=
  (∀ e ∈ ws, directRead u e.1 e.2.length = e.2)
    ∧ ∀ x, (∀ e ∈ ws, x < e.1 ∨ e.1 + e.2.length ≤ x) → directRead u x 1 = directRead s x 1

/-- A frame of camera k in buffer b has been delivered with a STATUS: record, then sequence word; the buffer is software-owned, NEXT and the counts advance
(R369, R371, R385). -/
def Sys2Proof.Claims.Delivered (s u : State) (k b : Nat) (f : CamFrame) (status : Nat) : Prop :=
  Claims.DirectWrote s u [(Claims.pairAddr s (Claims.creg k 0x1C) 5 + 32 * b, leBytes 8 f.fsync ++ leBytes 8 f.sof ++ leBytes 8 s.core.timebase.toNat
      ++ leBytes 2 f.number ++ leBytes 2 (min (s.fld ⟨Claims.creg k 4, 28, 16⟩) f.line) ++ leBytes 1 b ++ leBytes 1 status ++ leBytes 2 0),
    (Claims.pairAddr s (Claims.creg k 0x24) 3, leBytes 8 ((camAt s k).delivered + 1))]
  ∧ u.flag ⟨Claims.creg k 0x30, b, b⟩ = true ∧ u.fld ⟨Claims.creg k 0x30, 19, 16⟩ = (b + 1) % (s.fld ⟨Claims.creg k 0x18, 3, 0⟩ + 1)
  ∧ (u.reg (Claims.creg k 0x40)).toNat = ((s.reg (Claims.creg k 0x40)).toNat + 1) % 2 ^ 32
  ∧ (status &&& 0xF7 = 0 → u.reg (Claims.creg k 0x4C) = s.reg (Claims.creg k 0x4C))
  ∧ (status &&& 0xF7 ≠ 0 → (u.reg (Claims.creg k 0x4C)).toNat = min (2 ^ 32 - 1) ((s.reg (Claims.creg k 0x4C)).toNat + 1))
  ∧ (camAt u k).delivered = (camAt s k).delivered + 1

open Sys2Proof.Claims in
/-- R367, R369-R372, R385, R391: ENABLE checks the regions; a frame start takes buffer NEXT or drops the frame whole; a line packet is stored as the next line; a frame end, the next frame start or 5 ms without
a packet completes the frame; a line packet outside a frame counts once; CAM_RELEASE returns a buffer. -/
def Obligations.Camera_frames_are_captured : Prop :=
  ∀ (s : State) (cam : Fin 2), running s = true → s.cam.cams.length = 2 →
    let k := cam.val
    let on := s.flag ⟨creg k 0, 31, 31⟩
    let n := s.fld ⟨creg k 0x18, 3, 0⟩ + 1
    let width := s.fld ⟨creg k 4, 12, 0⟩
    let height := s.fld ⟨creg k 4, 28, 16⟩
    let raw12 := s.flag ⟨creg k 0, 16, 16⟩
    let line := if s.flag ⟨creg k 0, 8, 8⟩ then 2 * width else (width * (if raw12 then 12 else 10) + 7) / 8
    let pitch := s.fld ⟨creg k 0x14, 11, 0⟩ * 64
    let buf := fun i => pairAddr s (creg k 8) 12 + i * (s.fld ⟨creg k 0x10, 31, 12⟩ * 4096)
    let good := inRegion s (pairAddr s (creg k 0x1C) 5) (32 * n) ∧ inRegion s (pairAddr s (creg k 0x24) 3) 8
      ∧ ∀ i < n, inRegion s (buf i) ((height - 1) * pitch + line)
    let sat1 := fun (u : State) off => (u.reg (creg k off)).toNat = min (2 ^ 32 - 1) ((s.reg (creg k off)).toNat + 1)
    let records := fun b => b < n ∧ inDram s (pairAddr s (creg k 0x1C) 5 + 32 * b) 32 ∧ inDram s (pairAddr s (creg k 0x24) 3) 8
      ∧ (pairAddr s (creg k 0x24) 3 + 8 ≤ pairAddr s (creg k 0x1C) 5 + 32 * b ∨ pairAddr s (creg k 0x1C) 5 + 32 * b + 32 ≤ pairAddr s (creg k 0x24) 3)
    let short := fun (f : CamFrame) => if f.line < height then 2 else 0
    (on = false →
      (good → Ends (.cameraEnable cam) s fun u => u.flag ⟨creg k 0, 31, 31⟩ = true ∧ u.reg (creg k 0x30) = s.reg (creg k 0x30) &&& 0x3FF00000#32 ∧ u.mem = s.mem
        ∧ (camAt u k).frame = none ∧ (camAt u k).delivered = 0 ∧ RegsKept s u [creg k 0, creg k 0x30])
      ∧ (¬ good → Room s 0x182 → Ends (.cameraEnable cam) s fun u => u.flag ⟨creg k 0x30, 31, 31⟩ = true ∧ Logs s u 4 0x182 0 k 0 ∧ RegsKept s u [creg k 0x30]
        ∧ u.cam = s.cam))
    ∧ (on = true → Idle (.cameraEnable cam) s)
    ∧ (∀ index : BitVec 4, Ends (.camRelease cam index) s fun u => u.flag ⟨creg k 0x30, index.toNat, index.toNat⟩ = false
        ∧ (∀ i < 16, i ≠ index.toNat → u.flag ⟨creg k 0x30, i, i⟩ = s.flag ⟨creg k 0x30, i, i⟩) ∧ OnlyRegs s u [creg k 0x30])
    ∧ (∀ (vc : BitVec 2) (number : BitVec 16), on = true →
      let b := s.fld ⟨creg k 0x30, 19, 16⟩
      let fresh : CamFrame := { buf := some b, number := number.toNat, fsync := if s.flag ⟨C 0x70200, 31 - k, 31 - k⟩ then (camAt s k).rise else 0
                                sof := s.core.timebase.toNat, line := 0, cut := false
                                status := (if (camAt s k).limited then 8 else 0) + if s.flag ⟨ireg k 8, 31, 31⟩ then 16 else 0 }
      (vc.toNat ≠ s.fld ⟨creg k 0, 21, 20⟩ → Idle (.frameStart cam vc number) s ∧ Idle (.frameEnd cam vc) s)
      ∧ (vc.toNat = s.fld ⟨creg k 0, 21, 20⟩ → s.flag fQuiesce = false → s.core.entryQuiesce = false →
        ((camAt s k).frame = none → s.flag ⟨creg k 0x30, b, b⟩ = false → Ends (.frameStart cam vc number) s fun u => (camAt u k).frame = some fresh
          ∧ u.flag ⟨creg k 0x30, 30, 30⟩ = true ∧ RegsKept s u [creg k 0x30] ∧ u.mem = s.mem)
        ∧ ((camAt s k).frame = none → s.flag ⟨creg k 0x30, b, b⟩ = true → Ends (.frameStart cam vc number) s fun u =>
          (camAt u k).frame = some { fresh with buf := none } ∧ sat1 u 0x44 ∧ u.flag ⟨creg k 0x30, 30, 30⟩ = true ∧ u.fld ⟨creg k 0x30, 19, 16⟩ = b
          ∧ RegsKept s u [creg k 0x30, creg k 0x44] ∧ u.mem = s.mem)
        ∧ (∀ (f : CamFrame) (b' : Nat), (camAt s k).frame = some f → f.buf = some b' → records b' → s.flag ⟨creg k 0x30, (b' + 1) % n, (b' + 1) % n⟩ = false → 1 < n →
          Ends (.frameStart cam vc number) s fun u => Delivered s u k b' f (f.status ||| 0x81 ||| short f)
            ∧ (camAt u k).frame = some { fresh with buf := some ((b' + 1) % n) } ∧ u.flag ⟨creg k 0x30, 30, 30⟩ = true)))
    ∧ (∀ (f : CamFrame) (b : Nat) (vc : BitVec 2), on = true → vc.toNat = s.fld ⟨creg k 0, 21, 20⟩ → (camAt s k).frame = some f →
      (f.buf = some b → records b →
        (Ends (.frameEnd cam vc) s fun u => Delivered s u k b f (f.status ||| short f) ∧ (camAt u k).frame = none ∧ u.flag ⟨creg k 0x30, 30, 30⟩ = false ∧ u.log = s.log)
        ∧ (Ends (.frameTimeout cam) s fun u => Delivered s u k b f (f.status ||| 0x81 ||| short f) ∧ (camAt u k).frame = none
          ∧ u.flag ⟨creg k 0x30, 30, 30⟩ = false ∧ u.log = s.log))
      ∧ (f.buf = none → Ends (.frameEnd cam vc) s fun u => (camAt u k).frame = none ∧ u.flag ⟨creg k 0x30, 30, 30⟩ = false ∧ RegsKept s u [creg k 0x30]
          ∧ u.mem = s.mem))
    ∧ (∀ (vc : BitVec 2) (dt : BitVec 6) (payload : List Byte) (crc : Bool), on = true → vc.toNat = s.fld ⟨creg k 0, 21, 20⟩ →
      (dt.toNat = (if raw12 then 0x2C else 0x2B) →
        ((camAt s k).frame = none → (camAt s k).stray = false → Ends (.linePacket cam vc dt payload crc false none) s fun u => sat1 u 0x44 ∧ (camAt u k).stray = true
          ∧ RegsKept s u [creg k 0x44] ∧ u.mem = s.mem)
        ∧ ((camAt s k).frame = none → (camAt s k).stray = true → Idle (.linePacket cam vc dt payload crc false none) s)
        ∧ (∀ (f : CamFrame) (b : Nat), (camAt s k).frame = some f → f.buf = some b → f.cut = false →
          let a := buf b + f.line * pitch
          let pixels := if raw12 then payload.length / 3 * 2 else payload.length / 5 * 4
          let status := f.status ||| ((if crc then 0 else 4) + if pixels ≠ width ∨ height ≤ f.line then 2 else 0)
          (f.line < height → width ≠ 0 → inDram s a line → Ends (.linePacket cam vc dt payload crc false none) s fun u =>
            (camAt u k).frame = some { f with line := f.line + 1, status := status } ∧ (crc = false → sat1 u 0x48) ∧ RegsKept s u [creg k 0x48] ∧ u.log = s.log
            ∧ (s.flag ⟨creg k 0, 8, 8⟩ = false → DirectWrote s u [(a, payload.take line)])
            ∧ (s.flag ⟨creg k 0, 8, 8⟩ = true → ∃ bs, bs.length = 2 * min width pixels ∧ DirectWrote s u [(a, bs)]
                ∧ ∀ i < min width pixels, leNat ((bs.drop (2 * i)).take 2) =
                  if raw12 then leNat ((payload.drop (i / 2 * 3 + i % 2)).take 1) * 16 + leNat ((payload.drop (i / 2 * 3 + 2)).take 1) / 16 ^ (i % 2) % 16
                  else leNat ((payload.drop (i / 4 * 5 + i % 4)).take 1) * 4 + leNat ((payload.drop (i / 4 * 5 + 4)).take 1) / 4 ^ (i % 4) % 4))
          ∧ (height ≤ f.line → Ends (.linePacket cam vc dt payload crc false none) s fun u =>
              (camAt u k).frame = some { f with line := f.line + 1, status := status } ∧ u.mem = s.mem)
          ∧ Ends (.linePacket cam vc dt payload crc true none) s fun u => (camAt u k).frame = some { f with cut := true, status := f.status ||| 1 } ∧ u.mem = s.mem))
      ∧ (dt.toNat ≠ (if raw12 then 0x2C else 0x2B) → Idle (.linePacket cam vc dt payload crc false none) s))

open Sys2Proof.Claims in
/-- R374-R376, R385, R388, Table 17-1: FSYNC keeps the time of its rise; a strobe raises the pin unless FAULT holds or the pin has not rested, in which case it is suppressed and counted, and the frame it served
shows it; a strobe longer than the limit ends cut and counted; a low fault input sets FAULT, forces the pin low and logs. -/
def Obligations.Illuminators_are_limited : Prop :=
  ∀ (s : State) (k : Fin 2) (rested : Bool), running s = true → s.cam.cams.length = 2 → s.cam.ills.length = 2 →
    let i := illAt s k
    let mode := s.fld ⟨ireg k 0, 31, 30⟩
    let width := s.fld ⟨ireg k 4, 15, 0⟩
    let fault := s.flag ⟨ireg k 8, 31, 31⟩
    let trim := (trimWord s 0x0A k).toNat % 4096
    let quiet := s.flag fQuiesce = true ∨ s.core.entryQuiesce = true
    let limited := fun (u : State) => u.fld ⟨ireg k 8, 15, 0⟩ = min 65535 (s.fld ⟨ireg k 8, 15, 0⟩ + 1)
      ∧ (∀ f, (camAt s k).frame = some f → mode = 2 → (camAt u k).frame = some { f with status := f.status ||| 8 })
      ∧ ((camAt s k).frame = none → (camAt u k).limited = true)
    (s.flag ⟨C 0x70200, 31 - k.val, 31 - k.val⟩ = true → ¬ quiet → Ends (.fsyncPulse k) s fun u => (camAt u k).rise = s.core.timebase.toNat ∧ RegsKept s u []
        ∧ u.mem = s.mem ∧ (camAt u k).frame = (camAt s k).frame)
    ∧ (s.flag ⟨C 0x70200, 31 - k.val, 31 - k.val⟩ = false ∨ quiet → Idle (.fsyncPulse k) s)
    ∧ (mode ≠ 0 → ¬ quiet →
      (fault = true ∨ i.high = true ∨ (i.used = true ∧ rested = false) → Ends (.strobeRequest k rested) s fun u => limited u ∧ illAt u k = i ∧ RegsKept s u [ireg k 8])
      ∧ (fault = false → i.high = false → (i.used = true → rested = true) → width ≠ 0 → Ends (.strobeRequest k rested) s fun u =>
          illAt u k = { high := true, width := width, limit := if trim = 0 ∨ 2000 < trim then 2000 else trim, used := true } ∧ RegsKept s u [] ∧ u.mem = s.mem))
    ∧ (mode = 0 ∨ quiet → Idle (.strobeRequest k rested) s)
    ∧ (i.high = true → Ends (.strobeEnd k) s fun u => illAt u k = { i with high := false } ∧ (i.limit < i.width → limited u ∧ RegsKept s u [ireg k 8])
        ∧ (i.width ≤ i.limit → RegsKept s u [] ∧ u.cam.cams = s.cam.cams))
    ∧ (i.high = false → Idle (.strobeEnd k) s)
    ∧ (Room s 0x181 → Ends (.illFault k true) s fun u => u.flag ⟨ireg k 8, 31, 31⟩ = true ∧ u.flag ⟨ireg k 8, 30, 30⟩ = true ∧ (illAt u k).high = false
        ∧ Logs s u 5 0x181 0 k 0 ∧ (i.high = true → u.fld ⟨ireg k 8, 15, 0⟩ = min 65535 (s.fld ⟨ireg k 8, 15, 0⟩ + 1))
        ∧ ∀ f, (camAt s k).frame = some f → ∃ g, (camAt u k).frame = some g ∧ bitN g.status 4 = true)
    ∧ (Ends (.illFault k false) s fun u => u.flag ⟨ireg k 8, 30, 30⟩ = false ∧ u.flag ⟨ireg k 8, 31, 31⟩ = fault ∧ OnlyRegs s u [ireg k 8])

/-- A sample scaled by a gain over 32,768 and saturated to 24 bits; which neighbour an inexact quotient becomes is open (R383, log entry 90). -/
def Sys2Proof.Claims.Scaled (v y : Int) : Prop :=
  if 8388607 * 32768 < v then y = 8388607 else if v < -8388608 * 32768 then y = -8388608 else y * 32768 - v < 32768 ∧ v - y * 32768 < 32768

/-- A signed value of 24 bits. -/
def Sys2Proof.Claims.signed24 (n : Nat) : Int := (BitVec.ofNat 24 n).toInt

/-- A ring with its registers from off on, of frames with m channels, is in use and fits (R367, R379, R387). -/
def Sys2Proof.Claims.ringFits (s : State) (off m : Nat) : Prop :=
  s.fld ⟨Claims.areg (off + 8), 21, 16⟩ = 0 ∨ (m ≠ 0
    ∧ Claims.inRegion s (Claims.pairAddr s (Claims.areg off) 6) (s.fld ⟨Claims.areg (off + 8), 21, 16⟩ * s.fld ⟨Claims.areg (off + 8), 12, 0⟩ * 4 * m)
    ∧ Claims.inRegion s (Claims.pairAddr s (Claims.areg (off + 12)) 4) 16)

/-- The position record that frame n of a ring ends: TIME of its block's first frame, and FRAMES; no write where it ends no block (R379). -/
def Sys2Proof.Claims.positionRecord (s : State) (off n first : Nat) : List (Nat × List Byte) :=
  let frames := s.fld ⟨Claims.areg (off + 8), 12, 0⟩
  if (n + 1) % frames = 0 then
    [(Claims.pairAddr s (Claims.areg (off + 12)) 4, leBytes 8 (n + 1) ++ leBytes 8 (if n % frames = 0 then s.core.timebase.toNat else first))]
  else []

/-- No run of a list overlaps another, and all lie in DRAM. -/
def Sys2Proof.Claims.Apart (s : State) (ws : List (Nat × Nat)) : Prop :=
  (∀ e ∈ ws, e.2 ≠ 0 ∧ Claims.inDram s e.1 e.2) ∧ ws.Pairwise (fun e f => e.1 + e.2 ≤ f.1 ∨ f.1 + f.2 ≤ e.1)

open Sys2Proof.Claims in
/-- R54, R367, R377-R383, R386-R388, R390: ENABLE checks the rings; at a frame boundary the enabled channels are captured in order, trimmed and saturated, and a frame is played while
FRAMES is below PLAY_LIMIT, else zeros with a count; a block's end writes its position record; a full buffer or a freeze loses the frame; AUDCLK's loss and return are logged. -/
def Obligations.Audio_frames_are_captured_and_played : Prop :=
  ∀ (s : State) (adc : List (BitVec 24)) (tdm : List W32), running s = true → s.flag fQuiesce = false → s.core.entryQuiesce = false →
    let on := s.flag ⟨areg 0, 31, 31⟩
    let tdmOn := s.flag ⟨areg 0, 27, 27⟩
    let bit := fun off b => bitN (s.reg (areg off)).toNat b
    let adcs := (List.range 8).filter (fun k => bit 4 k)
    let refs := (List.range 4).filter (fun k => bit 0x10 (8 * k + 7))
    let rx := (List.range 16).filter (fun i => tdmOn && bit 0x14 (16 + i))
    let dacs := (List.range 4).filter (fun k => bit 0xC k)
    let tx := (List.range 16).filter (fun i => tdmOn && bit 0x14 i)
    let m := adcs.length + refs.length + rx.length
    let q := dacs.length + tx.length
    let blocks := fun off => s.fld ⟨areg (off + 8), 21, 16⟩
    let frames := fun off => s.fld ⟨areg (off + 8), 12, 0⟩
    let place := fun off n ch => pairAddr s (areg off) 6 + (n % (blocks off * frames off)) * (4 * ch)
    let record := fun off n => (if (n + 1) % frames off = 0 then [(pairAddr s (areg (off + 12)) 4, 16)] else [])
    let goes := on = true ∧ s.core.audclkLost = false
    (on = false →
      (ringFits s 0x20 m → ringFits s 0x40 q → Ends .audioEnable s fun u => u.flag ⟨areg 0, 31, 31⟩ = true ∧ u.flag ⟨areg 0x60, 31, 31⟩ = false
        ∧ u.flag ⟨areg 0x60, 30, 30⟩ = true ∧ u.flag ⟨areg 0x60, 29, 29⟩ = !s.core.audclkLost ∧ u.aud.cap = 0 ∧ u.aud.play = 0
        ∧ u.aud.ramp = List.replicate 4 (if s.flag ⟨areg 0, 30, 30⟩ then 160 else 480) ∧ RegsKept s u [areg 0, areg 0x60] ∧ u.mem = s.mem)
      ∧ (¬ ringFits s 0x20 m ∨ ¬ ringFits s 0x40 q → Room s 0x182 → Ends .audioEnable s fun u => u.flag ⟨areg 0x60, 31, 31⟩ = true ∧ Logs s u 4 0x182 0 2 0
        ∧ RegsKept s u [areg 0x60] ∧ u.aud = s.aud))
    ∧ (on = true → Idle .audioEnable s)
    ∧ (goes → blocks 0x40 = 0 → blocks 0x20 ≠ 0 → frames 0x20 ≠ 0 → Apart s ((place 0x20 s.aud.cap m, 4 * m) :: record 0x20 s.aud.cap) →
      Ends (.audioFrame adc tdm false) s fun u => u.aud.cap = s.aud.cap + 1 ∧ RegsKept s u [areg 0x60] ∧ u.log = s.log
        ∧ ∃ ws : List Nat, ws.length = m ∧ DirectWrote s u ((place 0x20 s.aud.cap m, ws.flatMap (leBytes 4)) :: positionRecord s 0x20 s.aud.cap s.aud.capTime)
          ∧ (∀ j < adcs.length, let k := adcs.getD j 0
              let v := ((adc.getD k 0#24).toInt - signed24 (trimWord s 4 k).toNat) * (((trimWord s 3 k).toNat % 65536 : Nat) : Int)
              ws.getD j 0 % 256 = 0 ∧ ws.getD j 0 < 2 ^ 32 ∧ Scaled v (signed24 (ws.getD j 0 / 256))
              ∧ (8388608 * 32768 ≤ v ∨ v ≤ -8388609 * 32768 → u.flag ⟨areg 0x60, 8 + k, 8 + k⟩ = true))
          ∧ (∀ j < refs.length, let src := s.fld ⟨areg 0x10, 8 * refs.getD j 0 + 4, 8 * refs.getD j 0⟩
              ws.getD (adcs.length + j) 0 = if src < 4 then (s.aud.dacs.getD 39 []).getD src 0 else (s.aud.tdms.getD 17 []).getD (src - 16) 0)
          ∧ ∀ j < rx.length, ws.getD (adcs.length + refs.length + j) 0 = (tdm.getD (rx.getD j 0) 0#32).toNat / 256 * 256)
    ∧ (goes → blocks 0x20 = 0 → blocks 0x40 ≠ 0 → frames 0x40 ≠ 0 → q ≠ 0 →
      let a := place 0x40 s.aud.play q
      let word := fun j => leNat (directRead s (a + 4 * j) 4)
      (s.aud.play < s.aud.limit → Apart s ((a, 4 * q) :: record 0x40 s.aud.play) → Ends (.audioFrame adc tdm false) s fun u => u.aud.play = s.aud.play + 1 ∧ RegsKept s u []
        ∧ DirectWrote s u (positionRecord s 0x40 s.aud.play s.aud.playTime)
        ∧ (∀ j < dacs.length, let k := dacs.getD j 0
            s.aud.ramp.getD k 0 = 0 → bit 0xC (4 + k) = false →
              let v := signed24 (word j / 256) * (((trimWord s 5 k).toNat % 65536 : Nat) : Int)
              ∃ y, y * 32768 - v < 32768 ∧ v - y * 32768 < 32768
              ∧ signed24 ((u.aud.dacs.getD 0 []).getD k 0 / 256) = max (-8388608) (min 8388607 (y + signed24 (trimWord s 6 k).toNat)))
        ∧ ∀ j < tx.length, (u.aud.tdms.getD 0 []).getD (tx.getD j 0) 0 = word (dacs.length + j) / 256 * 256)
      ∧ (s.aud.limit ≤ s.aud.play → Ends (.audioFrame adc tdm false) s fun u => u.aud.play = s.aud.play ∧ u.mem = s.mem ∧ RegsKept s u [areg 0x64]
        ∧ (u.reg (areg 0x64)).toNat = min (2 ^ 32 - 1) ((s.reg (areg 0x64)).toNat + 1) ∧ ∀ i < 16, (u.aud.tdms.getD 0 []).getD i 0 = 0))
    ∧ (goes → blocks 0x40 = 0 → blocks 0x20 ≠ 0 → Room s 0x183 → Ends (.audioFrame adc tdm true) s fun u => u.aud.cap = s.aud.cap ∧ u.mem = s.mem
        ∧ (u.reg (areg 0x68)).toNat = min (2 ^ 32 - 1) ((s.reg (areg 0x68)).toNat + 1) ∧ RegsKept s u [areg 0x68] ∧ Logs s u 5 0x183 0 0 1)
    ∧ (on = false ∨ s.core.audclkLost = true → Idle (.audioFrame adc tdm false) s)
    ∧ (∀ hi : W32, Ends (.playLimitSet hi) s fun u => u.aud.limit = hi.toNat * 2 ^ 32 + (s.reg (areg 0x54)).toNat ∧ u.reg (areg 0x58) = hi ∧ RegsKept s u [areg 0x58]
        ∧ u.mem = s.mem)
    ∧ (Room s 0x184 →
      (s.core.audclkLost = false → Ends .audclkLoss s fun u => u.core.audclkLost = true ∧ u.flag ⟨areg 0x60, 29, 29⟩ = false ∧ u.flag ⟨areg 0x60, 0, 0⟩ = true
        ∧ Logs s u 5 0x184 0 0 0 ∧ RegsKept s u [areg 0x60] ∧ u.aud = s.aud)
      ∧ (s.core.audclkLost = true → Ends .audclkResume s fun u => u.core.audclkLost = false ∧ u.flag ⟨areg 0x60, 29, 29⟩ = true ∧ Logs s u 5 0x184 0 0 1
        ∧ u.aud.ramp = List.replicate 4 (if s.flag ⟨areg 0, 30, 30⟩ then 160 else 480) ∧ RegsKept s u [areg 0x60]))

/-! ### Peer ports -/

/-- Register of port n (Table 18-6); LINK_STATUS.STATE of port n. -/
def Sys2Proof.Claims.preg (n off : Nat) : Nat := C (0x90000 + 0x4000 * n + off)
def Sys2Proof.Claims.lstate (s : State) (n : Nat) : Nat := s.fld ⟨0x9C, 8 * n + 6, 8 * n + 4⟩
def Sys2Proof.Claims.credit (s : State) (n v : Nat) : Nat := s.fld ⟨Claims.preg n (0x70 + 4 * v), 15, 0⟩

/-- The link of port n carries packets: up or quiesced. -/
def Sys2Proof.Claims.Live (s : State) (n : Nat) : Prop :=
  running s = true ∧ s.peer.ports.length = 4 ∧ (Claims.lstate s n = 2 ∨ Claims.lstate s n = 3) ∧ (peerAt s n).freed.length = 4

/-- Port counter i has counted k, where CNT_EN is set and no counter is held; else it is as before (R416, Table 18-8). -/
def Sys2Proof.Claims.PeerCounted (s u : State) (n i k : Nat) : Prop :=
  counter u (0x90100 + 0x4000 * n + 8 * i) =
    if s.flag ⟨Claims.preg n 0, 0, 0⟩ = true ∧ s.flag ⟨C 0xD0040, 0, 0⟩ = false then (counter s (0x90100 + 0x4000 * n + 8 * i) + k) % 2 ^ 64
    else counter s (0x90100 + 0x4000 * n + 8 * i)

/-- With no packet waiting, the packet bs is ready for the next flits against credit of virtual channel v, or waits for credit (R400). -/
def Sys2Proof.Claims.Sends (s u : State) (n v : Nat) (bs : List Byte) : Prop :=
  let p := peerAt s n
  let q := peerAt u n
  p.waiting = [] →
    (bs.length / 16 ≤ Claims.credit s n v → q.ready = p.ready ++ bs ∧ Claims.credit u n v = Claims.credit s n v - bs.length / 16 ∧ q.waiting = [])
    ∧ (Claims.credit s n v < bs.length / 16 → q.ready = p.ready ∧ Claims.credit u n v = Claims.credit s n v ∧ q.waiting = [(v, bs)])

/-- The oldest packet of PTYPE t that port n has received is b. -/
def Sys2Proof.Claims.Oldest (s : State) (n t : Nat) (b : List Byte) : Prop :=
  (peerAt s n).inbox.find? (fun k => fieldAt k.bytes 0 1 = t) = some ⟨b⟩

/-- The packet b of virtual channel v has been taken, and its slots are free again (R396). -/
def Sys2Proof.Claims.Takes (s u : State) (n v : Nat) (b : List Byte) : Prop :=
  (peerAt u n).inbox = (peerAt s n).inbox.erase ⟨b⟩ ∧ (peerAt u n).freed.getD v 0 = ((peerAt s n).freed.getD v 0 + b.length / 16) % 65536

/-- The link of port n is down with a cause: requests lost, credits, replay buffer and tags gone, LINK set; with no request outstanding the cause is the
one event (R414). -/
def Sys2Proof.Claims.WentDown (s u : State) (n cause : Nat) : Prop :=
  let p := peerAt s n
  let q := peerAt u n
  Claims.lstate u n = 0 ∧ IntSet u 9 ∧ (∀ v < 4, Claims.credit u n v = 0) ∧ q.tags = [] ∧ q.replay = [] ∧ q.waiting = [] ∧ q.ready = [] ∧ q.inbox = [] ∧ q.tx = none
  ∧ q.ended = p.ended ++ (p.tags.filter (fun t => t.owner ≠ [2])).map (fun t => ⟨t.owner, 0x10, []⟩)
  ∧ Claims.PeerCounted s u n 3 1 ∧ Claims.PeerCounted s u n 6 p.tags.length ∧ (p.tags ≠ [] → u.fld ⟨Claims.preg n 8, 12, 0⟩ = 0)
  ∧ (p.tags = [] → Logs s u 5 0x1A1 0 n (cause + Claims.lstate s n * 2 ^ 8))

open Sys2Proof.Claims in
/-- R394-R400, R414, R420: a good flit's ACK and credit counts are taken; the next PAYLOAD flit's packets are received; another SEQ and a bad flit are discarded, with one NAK to send
for a run of them; a NAK or no progress replays from ACK + 1, and after 8 replays of a flit takes the link down, as silence does; ERR follows the bad flits of a millisecond. -/
def Obligations.Flits_are_received_and_replayed : Prop :=
  ∀ (s : State) (port : Fin 4), Live s port.val →
    let n := port.val
    let p := peerAt s n
    (∀ (f b : List Byte) (fixed : Nat), f.length = 256 → flitDecode f = some (b, fixed) →
      let ftype := (b.getD 224 0#8).toNat
      let seq := leNat ((b.drop 225).take 3) % 4096
      let ack := leNat ((b.drop 225).take 3) / 4096
      let cr := fun v => leNat ((b.drop (228 + 2 * v)).take 2)
      let back := fun v => (cr v + 65536 - p.seen.getD v 0) % 65536
      let controls := fun (u : State) => PeerCounted s u n 0 fixed ∧ (∀ v < 4, credit u n v = credit s n v + back v ∧ (peerAt u n).seen.getD v 0 = cr v)
        ∧ (peerAt u n).replay = p.replay.filter (fun r => 2048 ≤ (ack + 4096 - r.seq) % 4096)
      (∀ v < 4, credit s n v + back v ≤ p.advert.getD v 0 ∧ credit s n v + back v < 65536) → p.waiting = [] →
        (ftype = 1 → Ends (.flitReceive port f) s fun u => controls u ∧ (peerAt u n).ack = p.ack ∧ (peerAt u n).inbox = p.inbox ∧ lstate u n = lstate s n ∧ u.log = s.log)
        ∧ (ftype = 2 → Ends (.flitReceive port f) s fun u => controls u ∧ (peerAt u n).nakGot = true ∧ (peerAt u n).inbox = p.inbox)
        ∧ (ftype = 0 → seq ≠ (p.ack + 1) % 4096 → Ends (.flitReceive port f) s fun u => controls u ∧ (peerAt u n).ack = p.ack ∧ (peerAt u n).inbox = p.inbox
            ∧ (peerAt u n).skipping = true ∧ (peerAt u n).nakDue = (p.nakDue || !p.skipping))
        ∧ (∀ ps : List (List Byte), ftype = 0 → seq = (p.ack + 1) % 4096 → p.part = [] → p.inbox = [] → p.tags = [] → p.heldTags = [] →
            (∃ zeros, b.take 224 = ps.flatten ++ zeros ∧ ∀ z ∈ zeros, z = 0#8) →
            (∀ k ∈ ps, let t := (k.getD 0 0#8).toNat
              (t = 1 ∧ k.length = 16) ∨ (t = 2 ∧ k.length = 16 * (1 + ((k.getD 1 0#8).toNat % 64 + 16) / 16)) ∨ (t = 3 ∧ k.length = 32)
                ∨ ((t = 0x81 ∨ t = 0x41 ∨ (0xC1 ≤ t ∧ t ≤ 0xC6)) ∧ k.length = 16)) →
          Ends (.flitReceive port f) s fun u => controls u ∧ (peerAt u n).ack = seq ∧ (peerAt u n).skipping = false ∧ (peerAt u n).inbox = ps.map (fun k => ⟨k⟩)
            ∧ (peerAt u n).part = []))
    ∧ (∀ f : List Byte, f.length = 256 → flitDecode f = none → Ends (.flitReceive port f) s fun u => PeerCounted s u n 1 1
        ∧ peerAt u n = { p with bad := p.bad + 1, skipping := true, nakDue := p.nakDue || !p.skipping } ∧ lstate u n = lstate s n ∧ u.log = s.log ∧ u.mem = s.mem)
    ∧ (∀ cmd, (cmd = .nakReceived port ∧ p.nakGot = true) ∨ (cmd = .replayTimeout port ∧ p.replay ≠ []) → (∀ r ∈ p.replay.head?, r.times < 8) → Ends cmd s fun u =>
        (peerAt u n).nakGot = false ∧ (peerAt u n).replay = p.replay ∧ lstate u n = lstate s n
        ∧ (∀ r ∈ p.replay.head?, (peerAt u n).resend = some r.seq ∧ PeerCounted s u n 2 1) ∧ u.log = s.log ∧ u.mem = s.mem)
    ∧ (∀ (cmd : Instr) (r : Replay), (cmd = .nakReceived port ∧ p.nakGot = true) ∨ cmd = .replayTimeout port → p.replay.head? = some r → 8 ≤ r.times → Room s 0x1A1 → Ends cmd s fun u =>
        WentDown s u n 2 ∧ u.fld ⟨preg n 8, 31, 28⟩ = 7)
    ∧ (p.nakGot = false → Idle (.nakReceived port) s) ∧ (p.replay = [] → Idle (.replayTimeout port) s)
    ∧ (Room s 0x1A1 → Ends (.linkSilence port) s fun u => WentDown s u n 1)
    ∧ (Ends (.linkErrWindow port) s fun u => (peerAt u n).bad = 0 ∧ RegsKept s u [0x9C]
        ∧ (u.flag ⟨0x9C, 8 * n + 1, 8 * n + 1⟩ = true ↔ s.fld ⟨preg n 0, 15, 4⟩ ≠ 0 ∧ s.fld ⟨preg n 0, 15, 4⟩ ≤ p.bad))

open Sys2Proof.Claims in
/-- R400, R402, R403, R406, R411, R415, R416: a completion ends its request, delays its next issue or is stray; a delayed request is issued again with the same TAG; a request that times out ends, and its
tag rests; a message goes to the ring, then its count; PING is answered, PONG gives the round trip; QUIESCE, RESUME and DETACH are heeded; MSG_SEND and PING_SEND send. -/
def Obligations.Requests_end_and_messages_move : Prop :=
  ∀ (s : State) (port : Fin 4), Live s port.val →
    let n := port.val
    let p := peerAt s n
    let base := fun (u : State) => lstate u n = lstate s n ∧ u.core = s.core
    (∀ b : List Byte, Oldest s n 0x81 b →
      let status := fieldAt b 1 1
      let tag := fieldAt b 2 2 % 4096
      (∀ t : PeerTag, p.tags.find? (fun x => x.tag = tag) = some t →
        let ended := fun (u : State) (code : Nat) (data : List Byte) => (peerAt u n).tags = p.tags.filter (fun x => x.tag ≠ tag)
          ∧ (peerAt u n).ended = (if t.owner = [2] then p.ended else p.ended ++ [⟨t.owner, code, data⟩])
          ∧ u.fld ⟨preg n 8, 12, 0⟩ = (p.tags.filter (fun x => x.tag ≠ tag)).length % 2 ^ 13
        (status = 0 → Ends (.completion port) s fun u => ended u 0 (b.drop 16) ∧ Takes s u n 1 b ∧ u.log = s.log ∧ u.mem = s.mem ∧ base u)
        ∧ (2 ≤ status → Room s 0x1A3 → Ends (.completion port) s fun u => ended u status (b.drop 16) ∧ Takes s u n 1 b ∧ Logs s u 5 0x1A3 0 n (status + tag * 2 ^ 16) ∧ base u)
        ∧ (status = 1 → t.retry < s.fld ⟨preg n 0, 31, 24⟩ → Ends (.completion port) s fun u => Takes s u n 1 b ∧ PeerCounted s u n 5 1
            ∧ (peerAt u n).tags = p.tags.map (fun x => if x.tag = tag then { x with delayed := true } else x) ∧ (peerAt u n).ended = p.ended ∧ base u)
        ∧ (status = 1 → s.fld ⟨preg n 0, 31, 24⟩ ≤ t.retry → Room s 0x1A3 → Ends (.completion port) s fun u => ended u 0x12 [] ∧ PeerCounted s u n 6 1
            ∧ Logs s u 5 0x1A3 0 n (0x12 + tag * 2 ^ 16) ∧ base u))
      ∧ (p.tags.find? (fun x => x.tag = tag) = none → Ends (.completion port) s fun u => Takes s u n 1 b ∧ PeerCounted s u n 7 1 ∧ (peerAt u n).tags = p.tags
          ∧ (peerAt u n).ended = p.ended ∧ u.log = s.log ∧ u.mem = s.mem))
    ∧ (∀ (tag : BitVec 12) (t : PeerTag),
      (p.tags.find? (fun x => x.tag = tag.toNat && x.delayed) = some t → t.packet.length % 16 = 0 → 16 ≤ t.packet.length → Ends (.peerRequestReissue port tag) s fun u =>
        Sends s u n 0 (t.packet.take 12 ++ leBytes 1 (min 255 (t.retry + 1)) ++ t.packet.drop 13)
        ∧ (peerAt u n).tags.map (fun x => x.tag) = p.tags.map (fun x => x.tag) ∧ (∃ x ∈ (peerAt u n).tags, x.tag = t.tag ∧ x.retry = t.retry + 1 ∧ x.delayed = false) ∧ base u)
      ∧ (p.tags.find? (fun x => x.tag = tag.toNat && !x.delayed) = some t → Room s 0x1A3 → Ends (.peerRequestTimeout port tag) s fun u =>
        (peerAt u n).tags = p.tags.filter (fun x => x.tag ≠ tag.toNat) ∧ (peerAt u n).heldTags = p.heldTags ++ [(tag.toNat, fieldAt t.packet 0 1)]
        ∧ (peerAt u n).ended = (if t.owner = [2] then p.ended else p.ended ++ [⟨t.owner, 0x11, []⟩]) ∧ PeerCounted s u n 6 1
        ∧ Logs s u 5 0x1A3 0 n (0x11 + tag.toNat * 2 ^ 16) ∧ base u)
      ∧ (Ends (.tagHoldExpiry port tag) s fun u => peerAt u n = { p with heldTags := p.heldTags.filter (fun x => x.1 ≠ tag.toNat) } ∧ RegsKept s u [] ∧ u.log = s.log))
    ∧ (∀ b : List Byte, Oldest s n 0x41 b → b.length = 16 →
      let entries := s.fld ⟨preg n 0x58, 15, 0⟩
      let at' := pairAddr s (preg n 0x50) 4 + (p.msgs % entries) * 16
      let pos := pairAddr s (preg n 0x5C) 3
      (entries ≠ 0 → Apart s [(at', 16), (pos, 8)] → Ends (.msg port) s fun u => DirectWrote s u [(at', b), (pos, leBytes 8 (p.msgs + 1))]
        ∧ (peerAt u n).msgs = p.msgs + 1 ∧ Takes s u n 2 b ∧ RegsKept s u [] ∧ u.log = s.log)
      ∧ (entries = 0 → Ends (.msg port) s fun u => Takes s u n 2 b ∧ PeerCounted s u n 7 1 ∧ u.mem = s.mem ∧ base u))
    ∧ (∀ b : List Byte, (Oldest s n 0xC2 b → Ends (.ping port) s fun u => Takes s u n 3 b ∧ u.mem = s.mem ∧ base u
          ∧ Sends s u n 3 (leBytes 1 0xC3 ++ leBytes 7 0 ++ leBytes 8 (fieldAt b 8 8)))
      ∧ (Oldest s n 0xC3 b → p.pingAt ≤ s.core.timebase.toNat → Ends (.pong port) s fun u => Takes s u n 3 b ∧ RegsKept s u [preg n 0x68]
          ∧ (u.reg (preg n 0x68)).toNat = (s.core.timebase.toNat - p.pingAt) % 2 ^ 32)
      ∧ (Oldest s n 0xC4 b → Ends (.quiesce port) s fun u => Takes s u n 3 b ∧ u.flag ⟨preg n 8, 19, 19⟩ = true ∧ RegsKept s u [preg n 8] ∧ u.log = s.log)
      ∧ (Oldest s n 0xC5 b → Ends (.resume port) s fun u => Takes s u n 3 b ∧ u.flag ⟨preg n 8, 19, 19⟩ = false ∧ RegsKept s u [preg n 8] ∧ u.log = s.log)
      ∧ (Oldest s n 0xC6 b → Room s 0x1A1 → Ends (.detach port) s fun u => WentDown s u n 4))
    ∧ (Ends (.msgSend port) s fun u => Sends s u n 2 (leBytes 1 0x41 ++ leBytes 7 0 ++ leBytes 4 (s.reg (preg n 0x40)).toNat ++ leBytes 4 (s.reg (preg n 0x44)).toNat)
        ∧ u.log = s.log ∧ base u)
    ∧ (Ends (.pingSend port) s fun u => (peerAt u n).pingAt = s.core.timebase.toNat ∧ u.log = s.log ∧ base u
        ∧ ∃ v < 2 ^ 64, Sends s u n 3 (leBytes 1 0xC2 ++ leBytes 7 0 ++ leBytes 8 v))

open Sys2Proof.Claims in
/-- R400, R411-R415, R417: a port enabled with its peer present trains step by step, with fast equalisation where every trim word is valid, and comes up when the peer's CREDIT_ADVERT arrives; a failed step,
a role conflict or two responders end training, recorded and logged; AUTO_RETRAIN starts it again, and a cleared ENABLE takes the link down. -/
def Obligations.Ports_train_and_come_up : Prop :=
  ∀ (s : State) (port : Fin 4), running s = true → s.peer.ports.length = 4 →
    let n := port.val
    let p := peerAt s n
    let enable := s.flag ⟨0xA0, 8 * n + 7, 8 * n + 7⟩
    let loop := s.flag ⟨0xA0, 8 * n + 5, 8 * n + 5⟩
    let present := s.flag ⟨0x9C, 8 * n + 7, 8 * n + 7⟩
    let quiet := s.flag fQuiesce = true ∨ s.core.entryQuiesce = true
    let stat := fun (u : State) hi lo => u.fld ⟨preg n 8, hi, lo⟩
    let starts := fun (u : State) => lstate u n = 1 ∧ IntSet u 9 ∧ stat u 31 28 = 0 ∧ stat u 27 20 = 0 ∧ (∀ v < 3, credit u n v = 0) ∧ credit u n 3 = 4
      ∧ (peerAt u n).step = 1 ∧ (peerAt u n).seq = 4095 ∧ (peerAt u n).ack = 4095 ∧ (peerAt u n).replay = [] ∧ Logs s u 5 0x1A1 0 n 0x10
    let fails := fun (u : State) result lanes => lstate u n = 0 ∧ IntSet u 9 ∧ stat u 31 28 = result ∧ stat u 27 20 = lanes ∧ (∀ v < 4, credit u n v = 0)
      ∧ (peerAt u n).step = 0 ∧ (peerAt u n).ready = [] ∧ Logs s u 5 0x1A2 0 n (result + lanes * 2 ^ 8)
    let valid := ∀ i < 8, bitN (trimWord s 0x0B (8 * n + i)).toNat 31 = true ∧ bitN (trimWord s 0x0C (8 * n + i)).toNat 31 = true
    (enable = false → lstate s n = 0 → loop = false →
      (present = true → ¬ quiet → Room s 0x1A1 → Ends (.linkEnable port) s fun u => u.flag ⟨0xA0, 8 * n + 7, 8 * n + 7⟩ = true ∧ starts u)
      ∧ (present = false ∨ quiet → Ends (.linkEnable port) s fun u => u.flag ⟨0xA0, 8 * n + 7, 8 * n + 7⟩ = true ∧ OnlyRegs s u [0xA0]))
    ∧ (enable = true → Idle (.linkEnable port) s)
    ∧ (enable = true → lstate s n = 0 → loop = false → present = true → ¬ quiet → p.downWait = true → s.flag ⟨0xA0, 8 * n + 4, 8 * n + 4⟩ = true → Room s 0x1A1 →
        Ends (.autoRetrainStart port) s fun u => starts u ∧ (peerAt u n).downWait = false)
    ∧ (p.downWait = false ∨ s.flag ⟨0xA0, 8 * n + 4, 8 * n + 4⟩ = false → Idle (.autoRetrainStart port) s)
    ∧ (lstate s n = 1 → ∀ learned : List W32,
      (p.step = 1 → Ends (.trainStepDone port .ok learned) s fun u => (peerAt u n).step = 2 ∧ (u.flag ⟨preg n 8, 18, 18⟩ = true ↔ valid) ∧ RegsKept s u [preg n 8] ∧ u.trim = s.trim)
      ∧ (p.step = 2 → learned.length = 16 → Ends (.trainStepDone port .ok learned) s fun u => (peerAt u n).step = 3 ∧ RegsKept s u []
          ∧ (s.flag ⟨preg n 8, 18, 18⟩ = true → u.trim = s.trim)
          ∧ (s.flag ⟨preg n 8, 18, 18⟩ = false → ∀ i < 8, trimWord u 0x0B (8 * n + i) = learned.getD i 0#32 ||| 0x80000000#32
              ∧ trimWord u 0x0C (8 * n + i) = learned.getD (8 + i) 0#32 ||| 0x80000000#32))
      ∧ (p.step = 3 → Ends (.trainStepDone port .ok learned) s fun u => (peerAt u n).step = 4 ∧ lstate u n = 1
          ∧ Sends s u n 3 (leBytes 2 0xC1 ++ leBytes 2 2048 ++ leBytes 2 2048 ++ leBytes 2 64 ++ leBytes 2 16 ++ leBytes 6 0))
      ∧ (∀ lanes : BitVec 8, 1 ≤ p.step → p.step ≤ 3 →
        (p.step = 2 → s.flag ⟨preg n 8, 18, 18⟩ = true → Ends (.trainStepDone port (.failed lanes) learned) s fun u => u.flag ⟨preg n 8, 18, 18⟩ = false
          ∧ OnlyRegs s u [preg n 8])
        ∧ (p.step ≠ 2 ∨ s.flag ⟨preg n 8, 18, 18⟩ = false → Room s 0x1A2 → Ends (.trainStepDone port (.failed lanes) learned) s fun u => fails u p.step lanes.toNat)
        ∧ (Room s 0x1A2 → Ends (.trainStepDone port .roleConflict learned) s fun u => fails u 5 0))
      ∧ (p.step = 1 → s.flag ⟨0xA0, 8 * n + 6, 8 * n + 6⟩ = true → Room s 0x1A2 → Ends (.noLead port) s fun u => fails u 6 0)
      ∧ (p.step ≠ 1 ∨ s.flag ⟨0xA0, 8 * n + 6, 8 * n + 6⟩ = false → Idle (.noLead port) s)
      ∧ (∀ b : List Byte, p.step = 4 → p.waiting = [] → p.freed.length = 4 → Oldest s n 0xC1 b → Room s 0x1A1 → 4 ≤ credit s n 3 + fieldAt b 8 2 → credit s n 3 ≤ 4 → Ends (.creditAdvert port) s fun u =>
          lstate u n = 2 ∧ IntSet u 9 ∧ (peerAt u n).step = 0 ∧ (∀ v < 3, credit u n v = fieldAt b (2 + 2 * v) 2)
          ∧ credit u n 3 = (credit s n 3 + fieldAt b 8 2 - 4) % 65536
          ∧ Takes s u n 3 b ∧ u.flag ⟨0x9C, 8 * n + 3, 8 * n + 3⟩ = s.flag ⟨0xA0, 8 * n + 6, 8 * n + 6⟩ ∧ u.flag ⟨0x9C, 8 * n + 2, 8 * n + 2⟩ = loop
          ∧ Logs s u 5 0x1A1 0 n 0x127))
    ∧ (enable = true → lstate s n ≠ 0 → lstate s n ≠ 1 → s.flag ⟨0xA0, 8 * (if n % 2 = 0 then n + 1 else n - 1) + 5, 8 * (if n % 2 = 0 then n + 1 else n - 1) + 5⟩ = false →
        Room s 0x1A1 → Ends (.linkDisable port) s fun u => u.flag ⟨0xA0, 8 * n + 7, 8 * n + 7⟩ = false ∧ WentDown s u n 0 ∧ (peerAt u n).downWait = false)
    ∧ (enable = true → lstate s n = 0 → Ends (.linkDisable port) s fun u => u.flag ⟨0xA0, 8 * n + 7, 8 * n + 7⟩ = false ∧ RegsKept s u [0xA0])
    ∧ (enable = false → Idle (.linkDisable port) s)

/-- The port's state once the request b has been taken from its inbox. -/
def Sys2Proof.Claims.taken (s : State) (n : Nat) (b : List Byte) : State :=
  let p := peerAt s n
  setPeer n { p with inbox := p.inbox.erase ⟨b⟩, freed := setAt p.freed 0 ((p.freed.getD 0 0 + b.length / 16) % 65536) } s

/-- The request b is answered with a STATUS and data (Table 18-4). -/
def Sys2Proof.Claims.PeerAnswers (s u : State) (n : Nat) (b : List Byte) (status : Nat) (data : List Byte) : Prop :=
  Claims.Takes s u n 0 b ∧ Claims.Sends s u n 1 (leBytes 1 0x81 ++ leBytes 1 status ++ (b.drop 2).take 2 ++ (b.drop 1).take 1 ++ leBytes 11 0 ++ data
    ++ leBytes ((data.length + 15) / 16 * 16 - data.length) 0)

open Sys2Proof.Claims in
/-- R118, R136, R399, R401, R402, R407-R410: the oldest incoming request is checked in order and answered: malformed or not accepted BAD_REQUEST, a disabled context UNAVAILABLE, no memory UNMAPPED;
a READ answers the bytes, a WRITE stores its data, an ATOMIC is one update and answers the value before; uncorrectable data answers DATA_ERROR; a virtual request that faults
is answered ACCESS_FAULT, or BUSY_RETRY with its record raised or joined; one not issued in time BUSY_RETRY. That a virtual request to a peer window is answered UNMAPPED is the model's
reading (log entry 93). -/
def Obligations.Incoming_requests_are_checked_and_answered : Prop :=
  ∀ (s : State) (port : Fin 4) (b : List Byte), Live s port.val → (peerAt s port.val).inbox.find? (fun k => [1, 2, 3].contains (fieldAt k.bytes 0 1)) = some ⟨b⟩ →
      16 ≤ b.length → b.length % 16 = 0 → s.mem.applying = none →
    let n := port.val
    let byte := fun i => (b.getD i 0#8).toNat
    let kind := byte 0
    let len := byte 1 % 64 + 1
    let type := byte 5 / 16 % 8
    let sub := byte 5 % 8
    let virtual := byte 4 % 2 = 1
    let ctx := byte 4 / 2 % 16
    let addr := leNat ((b.drop 6).take 6)
    let data := (b.drop 16).take len
    let wellFormed := byte 1 < 64 ∧ byte 3 < 16 ∧ byte 4 < 32 ∧ byte 5 / 8 % 2 = 0 ∧ byte 5 < 128 ∧ byte 13 = 0 ∧ byte 14 = 0 ∧ byte 15 = 0 ∧ addr % 64 + len ≤ 64
      ∧ (kind = 3 → type ∈ [0, 1, 2, 4, 5] ∧ len = (if type = 4 ∨ type = 5 then 8 else 4) ∧ atomSubOk type sub = true)
    let control := 0x110000000000 ≤ addr ∧ addr < 0x110001000000
    let accepted := if virtual then bitN (s.reg (preg n 4)).toNat ctx = true
      else s.flag ⟨preg n 4, 31, 31⟩ = true ∧ (control → s.flag ⟨preg n 4, 30, 30⟩ = true)
    let access : Access := if kind = 1 then .peerRead else .peerWrite
    let s0 := taken s n b
    let reaches := fun (s1 : State) pa un => (¬ virtual ∧ pa = addr ∧ un = false ∧ s1 = s0)
      ∨ (virtual ∧ s.flag ⟨0x4C, ctx, ctx⟩ = true ∧ translate .peer ctx addr access false s0 = (.ok pa un, s1))
    ∀ cmd : Ecc → Instr, ((kind = 1 ∧ cmd = fun e => .peerRead port e) ∨ (kind = 2 ∧ cmd = fun _ => .peerWrite port) ∨ (kind = 3 ∧ cmd = fun e => .peerAtomic port e)) →
      (¬ wellFormed ∨ ¬ accepted → ∀ e, Ends (cmd e) s fun u => PeerAnswers s u n b 5 [] ∧ RegsKept s u [preg n 0x74] ∧ u.mem = s.mem ∧ u.log = s.log)
      ∧ (wellFormed → accepted → virtual → s.flag ⟨0x4C, ctx, ctx⟩ = false → ∀ e, Ends (cmd e) s fun u => PeerAnswers s u n b 6 [] ∧ RegsKept s u [preg n 0x74] ∧ u.mem = s.mem)
      ∧ (wellFormed → accepted → ∀ (s1 : State) (pa : Nat) (un : Bool), reaches s1 pa un →
        (isMem s1 pa → pa % 64 = addr % 64 → MergeSound s1 → poisoned s1 pa len = false →
          (kind = 1 → Ends (cmd .clean) s fun u => PeerAnswers s u n b 0 (memRead s1 pa len) ∧ MemKept s1 u ∧ u.log = s1.log)
          ∧ (kind = 1 ∨ kind = 3 → Ends (cmd .uncorrectable) s fun u => PeerAnswers s u n b 4 [] ∧ MemKept s1 u ∧ IntSet u 5)
          ∧ (kind = 2 → len ≤ b.length - 16 → Ends (cmd .clean) s fun u => PeerAnswers s u n b 0 [] ∧ Wrote s1 u pa data ∧ u.log = s1.log)
          ∧ (kind = 3 → Ends (cmd .clean) s fun u => PeerAnswers s u n b 0 (leBytes 8 (leNat (memRead s1 pa len)))
              ∧ Wrote s1 u pa (leBytes len (atomic type sub (leNat (memRead s1 pa len)) (leNat (((b.drop 16).take len))) (leNat ((b.drop 24).take len))))))
        ∧ (target s1 pa = .unmapped ∨ (∃ p o, target s1 pa = .peer p o) → ∀ e, Ends (cmd e) s fun u => PeerAnswers s u n b 3 [] ∧ u.mem = s1.mem)
        ∧ (∀ off, target s1 pa = .ctl off →
          (kind = 3 ∨ ctlWhole off len = false → ∀ e, Ends (cmd e) s fun u => PeerAnswers s u n b 3 [] ∧ u.mem = s1.mem)
          ∧ (kind ≠ 3 → ctlWhole off len = true → (∃ i < len / 4, ctlErr s1 (off + 4 * i) ≠ 0) → ∀ e, Ends (cmd e) s fun u => PeerAnswers s u n b 6 [] ∧ u.mem = s1.mem)
          ∧ (kind = 1 → len = 4 → ctlWhole off 4 = true → ctlErr s1 off = 0 → ∀ e, Ends (cmd e) s fun u => PeerAnswers s u n b 0 (leBytes 4 (ctlPeek s1 off).toNat) ∧ u.mem = s1.mem)))
      ∧ (wellFormed → accepted → virtual → s.flag ⟨0x4C, ctx, ctx⟩ = true → ∀ cause lv s1, translate .peer ctx addr access false s0 = (.fault cause lv, s1) →
        (s1.flag (fFaultMode ctx) = true ∨ cause ≠ 1 → ∀ e, Ends (cmd e) s fun u => PeerAnswers s u n b 2 [] ∧ MemKept s1 u)
        ∧ (s1.flag (fFaultMode ctx) = false → cause = 1 → joinedBusy s1 ctx addr = none → s1.fld ⟨C 0x10810, 15, 0⟩ ≠ 0 → ∀ e, Ends (cmd e) s fun u =>
            PeerAnswers s u n b 1 [] ∧ PeerCounted s u n 4 1 ∧ MemKept s1 u)
        ∧ (∀ k, s1.flag (fFaultMode ctx) = false → cause = 1 → joinedBusy s1 ctx addr = some k →
          (k < s1.fld ⟨C 0x10810, 15, 0⟩ → ∀ e, Ends (cmd e) s fun u => PeerAnswers s u n b 1 [] ∧ joinedBusy u ctx addr = some (k + 1) ∧ PeerCounted s u n 4 1 ∧ MemKept s1 u)
          ∧ (s1.fld ⟨C 0x10810, 15, 0⟩ ≤ k → ∀ e, Ends (cmd e) s fun u => PeerAnswers s u n b 2 [] ∧ MemKept s1 u)))
      ∧ (Ends (.peerIssueDeadline port) s fun u => PeerAnswers s u n b 1 [] ∧ PeerCounted s u n 4 1 ∧ u.mem = s.mem ∧ u.log = s.log)
      ∧ (∀ e, (kind ≠ 1 → Idle (.peerRead port e) s) ∧ (kind ≠ 2 → Idle (.peerWrite port) s) ∧ (kind ≠ 3 → Idle (.peerAtomic port e) s))

/-! ### Reel engines -/

/-- First source and destination byte of row r of a COPY or FILL descriptor: plane r / Y, row r mod Y (R424). -/
def Sys2Proof.Claims.reelRow (d : List Byte) (r : Nat) : Nat × Nat :=
  let y := if (d.getD 1 0#8).toNat % 4 = 0 then 1 else fieldAt d 24 2
  ((fieldAt d 8 6 + r / y * fieldAt d 36 4 + r % y * fieldAt d 28 4) % 2 ^ 48, (fieldAt d 16 6 + r / y * fieldAt d 40 4 + r % y * fieldAt d 32 4) % 2 ^ 48)

/-- Rows of a COPY or FILL descriptor. -/
def Sys2Proof.Claims.reelRows (d : List Byte) : Nat :=
  (if (d.getD 1 0#8).toNat % 4 = 0 then 1 else fieldAt d 24 2) * if (d.getD 1 0#8).toNat % 4 < 2 then 1 else fieldAt d 26 2

/-- Segment g of row r: source, destination and length of the part of the destination row in its g-th line (R424). -/
def Sys2Proof.Claims.reelSegment (d : List Byte) (r g : Nat) : Nat × Nat × Nat :=
  let (src, dst) := Claims.reelRow d r
  let first := if g = 0 then dst else (dst / 64 + g) * 64
  let last := min (dst + fieldAt d 4 4) ((dst / 64 + g + 1) * 64)
  (src + (first - dst), first, last - first)

/-- Segments of row r. -/
def Sys2Proof.Claims.reelSegments (d : List Byte) (r : Nat) : Nat := ((Claims.reelRow d r).2 % 64 + fieldAt d 4 4 + 63) / 64

/-- The place after segment g of row r. -/
def Sys2Proof.Claims.reelNext (d : List Byte) (p : Nat × Nat) : Nat × Nat :=
  if p.2 + 1 < Claims.reelSegments d p.1 then (p.1, p.2 + 1) else (p.1 + 1, 0)

/-- Reel counter i of a channel has counted k, where CNT_EN is set and no counter is held (Table 19-2). -/
def Sys2Proof.Claims.ReelCounted (s u : State) (ch i k : Nat) : Prop :=
  counter u (0xA0010 + 0x40 * ch + 8 * i) =
    if s.flag ⟨C 0xA0800, 0, 0⟩ = true ∧ s.flag ⟨C 0xD0040, 0, 0⟩ = false then (counter s (0xA0010 + 0x40 * ch + 8 * i) + k) % 2 ^ 64
    else counter s (0xA0010 + 0x40 * ch + 8 * i)

/-- The chain of a channel has ended with a status: its packet is over with it, or the host reads it as RESULT (R423, R432). -/
def Sys2Proof.Claims.ChainEnded (s u : State) (ch : Nat) (c : Chain) (status : Nat) : Prop :=
  chainOf u ch = none
  ∧ (c.index = none → u.flag ⟨C 0xA081C, 31, 31⟩ = false ∧ u.fld ⟨C 0xA081C, 15, 0⟩ = status % 2 ^ 16)
  ∧ (∀ i, c.index = some i → (ctxQ s c.ctx).saved = none → (ctxQ u c.ctx).flight = (ctxQ s c.ctx).flight.map (fun p =>
      if p.index = i then { p with ended := true, status := mergeStatus p.status status } else p))

open Sys2Proof.Claims in
/-- R422-R425, R427, R430, R432, R435: a descriptor is read and checked; segments of a COPY or FILL are issued in order with their source bytes or pattern, and written whole; the
cursor and the mask follow what has been written; past its last segment a descriptor is done, and the next is read or the chain ends; uncorrectable source data ends a chain; a
block of a UMZ_COPY is issued once its header is read, and its header is written last; REEL15_GO starts a chain in context 0. -/
def Obligations.Reel_chains_run : Prop :=
  ∀ (s : State) (channel : Fin 16), running s = true →
    let ch := channel.val
    (chainOf s ch = none → ∀ e k, Idle (.reelDescriptorRead channel e) s ∧ Idle (.segmentIssue channel e) s ∧ Idle (.segmentComplete channel k) s)
    ∧ (∀ (c : Chain) (d : List Byte), chainOf s ch = some c → c.stop = 0 → (ch = 15 ∨ (s.flag fQuiesce = false ∧ s.core.entryQuiesce = false)) →
        (c.index = none ∨ ctxRuns s c.ctx = true) → s.reel.host = none →
      let va := (c.addr + 64 * c.cur) % 2 ^ 48
      let place := (c.nextRow, c.nextSeg)
      let op := fieldAt d 0 1
      let (src, dst, n) := reelSegment d c.nextRow c.nextSeg
      let enters := fun (u : State) (bytes : List Byte) => ∃ ps : List (List Byte), ps.flatten = bytes ∧
        chainOf u ch = some { c with flight := c.flight ++ [{ n := c.next, row := c.nextRow, seg := c.nextSeg, parts := ps.map some, sent := false }]
                                     next := c.next + 1, nextRow := (reelNext d place).1, nextSeg := (reelNext d place).2 }
      (c.desc = none → plainAt s c.ctx va 64 → d = memRead s va 64 →
        (reelBad d = false → Ends (.reelDescriptorRead channel .clean) s fun u => chainOf u ch = some { c with desc := some d } ∧ MemKept s u ∧ u.log = s.log)
        ∧ (∀ i, reelBad d = true → c.index = some i → (ctxQ s c.ctx).halted = [] → c.ctx < 16 → Ends (.reelDescriptorRead channel .clean) s fun u =>
            chainOf u ch = some { c with stop := 4 } ∧ (ctxQ u c.ctx).halted = [(i, 2)] ∧ u.fld (fQState c.ctx) = 6 ∧ u.fld (fQError c.ctx) = 2 ∧ IntSet u 21)
        ∧ (reelBad d = true → c.index = none → Ends (.reelDescriptorRead channel .clean) s fun u => ChainEnded s u ch c 5))
      ∧ (c.desc = some d → Idle (.reelDescriptorRead channel .clean) s)
      ∧ (c.desc = some d → op = 1 ∨ op = 2 → fieldAt d 4 4 ≠ 0 → c.nextRow < reelRows d → c.nextSeg < reelSegments d c.nextRow → c.flight.length < 32 → c.next ≤ c.cursor + 32 →
          c.hasSeg c.next = false → plainAt s c.ctx dst n → (∀ i < n, isMem s (dst + i)) →
        (op = 1 → (∀ i < n, isMem s (src + i)) → poisoned s src n = false → Ends (.segmentIssue channel .clean) s fun u => enters u (memRead s src n) ∧ MemKept s u ∧ u.log = s.log)
        ∧ (op = 1 → (∀ i < n, isMem s (src + i)) → poisoned s src n = false → c.index = none → c.flight = [] → c.status = 0 → Ends (.segmentIssue channel .uncorrectable) s fun u =>
            ChainEnded s u ch c 6 ∧ MemKept s u ∧ IntSet u 5)
        ∧ (op = 2 → Ends (.segmentIssue channel .clean) s fun u => enters u ((List.range n).map (fun i => d.getD (8 + (dst + i) % 8) 0#8)) ∧ MemKept s u ∧ u.log = s.log))
      ∧ (c.desc = some d → op = 3 → c.nextSeg = 0 → c.nextRow < rdRows d → c.flight.length < 32 → c.next ≤ c.cursor + 32 → c.hasSeg c.next = false →
          Sparse.find c.hdrs c.nextRow = none →
        let h := leNat (memRead s (rdHdrSrc d c.nextRow) 4)
        let m := min 64 (umzBytes h)
        plainAt s c.ctx (rdHdrSrc d c.nextRow) 4 → rdHdrSrc d c.nextRow % 4 = 0 → rdRowSrc d c.nextRow % 64 = 0 → rdRowDst d c.nextRow % 64 = 0 → rdHdrDst d c.nextRow % 4 = 0 →
          isMem s (rdRowSrc d c.nextRow) → isMem s (rdRowDst d c.nextRow) → isMem s (rdHdrDst d c.nextRow) → poisoned s (rdRowSrc d c.nextRow) 64 = false →
          partAnswer ch c.next 99 s = none → Ends (.segmentIssue channel .clean) s fun u => MemKept s u ∧ ∃ c' f, chainOf u ch = some c' ∧ c'.flight = c.flight ++ [f]
            ∧ f.n = c.next ∧ f.row = c.nextRow ∧ f.seg = 0 ∧ c'.hdr c.nextRow = h ∧ c'.malformed = c.malformed + (if umzMalformed h then 1 else 0)
            ∧ f.parts = [some (if m = 0 then leBytes 4 h else memRead s (rdRowSrc d c.nextRow) m)]))
    ∧ (∀ (c : Chain) (d : List Byte) (k : Fin 32) (f : SegFly), chainOf s ch = some c → c.stop = 0 → c.desc = some d → c.flight[k.val]? = some f → s.reel.host = none →
      (fieldAt d 0 1 = 3 → f.seg + 1 = c.segs d f.row → (∃ x ∈ c.flight, x.row = f.row ∧ x.n < f.n) → Idle (.segmentComplete channel k) s)
      ∧ (fieldAt d 0 1 = 1 ∨ fieldAt d 0 1 = 2 → (c.flight.map (fun x => x.n)).Nodup → c.mask < 2 ^ 32 → c.cursor ≤ f.n → f.n ≤ c.cursor + 32 → c.curRow < reelRows d →
        let (src, dst, n) := reelSegment d f.row f.seg
        ∀ ps : List (List Byte), f.parts = ps.map some → (ps.length = 1 ∨ (ps.length = 2 ∧ 64 < src % 64 + n)) → ps.flatten.length = n → 0 < n → plainAt s c.ctx dst n →
          resultOf s [1, ch, f.n, 100] = none → outstanding s [1, ch, f.n, 100] = false → (∀ i < n, isMem s (dst + i)) → f.seg < reelSegments d f.row →
        let written := fun (u : State) => Wrote s u dst ps.flatten ∧ ReelCounted s u ch 0 n
        let left := c.flight.filter (fun x => x.n ≠ f.n)
        (f.n ≠ c.cursor → Ends (.segmentComplete channel k) s fun u => written u ∧ ∃ c', chainOf u ch = some c' ∧ c'.flight = left ∧ c'.cursor = c.cursor
            ∧ c'.mask = c.mask ||| 2 ^ (f.n - c.cursor - 1) ∧ c'.desc = some d)
        ∧ (∀ j, f.n = c.cursor → (∀ i < j, bitN c.mask i = true) → bitN c.mask j = false →
          let at' := (reelNext d)^[j + 1] (c.curRow, c.curSeg)
          (at'.1 < reelRows d → Ends (.segmentComplete channel k) s fun u => written u ∧ ∃ c', chainOf u ch = some c' ∧ c'.flight = left ∧ c'.cursor = c.cursor + j + 1
            ∧ c'.mask = c.mask / 2 ^ (j + 1) ∧ (c'.curRow, c'.curSeg) = at')
          ∧ (reelRows d ≤ at'.1 → c.malformed = 0 → c.cur + 1 < c.count → Ends (.segmentComplete channel k) s fun u => written u ∧ ReelCounted s u ch 1 1
            ∧ chainOf u ch = some { Chain.fresh c.ctx c.index c.addr c.count with cur := c.cur + 1, status := c.status })
          ∧ (reelRows d ≤ at'.1 → c.malformed = 0 → c.count ≤ c.cur + 1 → Ends (.segmentComplete channel k) s fun u => written u ∧ ChainEnded s u ch c c.status))))
    ∧ (∀ count : BitVec 15, count ≠ 0#15 → s.flag ⟨C 0xA081C, 31, 31⟩ = false →
      let a := s.fld ⟨C 0xA0810, 31, 6⟩ * 64 + s.fld ⟨C 0xA0814, 15, 0⟩ * 2 ^ 32
      (chainOf s 15 = none → Ends (.reel15Go count) s fun u => u.flag ⟨C 0xA081C, 31, 31⟩ = true ∧ chainOf u 15 = some (.fresh 0 none a count.toNat) ∧ u.mem = s.mem)
      ∧ (chainOf s 15 ≠ none → Ends (.reel15Go count) s fun u => u.flag ⟨C 0xA081C, 31, 31⟩ = true ∧ chainOf u 15 = chainOf s 15 ∧ u.reel.host = some (a, count.toNat)
          ∧ u.mem = s.mem))
    ∧ (s.flag ⟨C 0xA081C, 31, 31⟩ = true → ∀ count, Idle (.reel15Go count) s) ∧ Idle (.reel15Go 0#15) s

/-! ### Commands, time, reset -/

/-- The command at the front of the queue is taken and run on the queue's rest; exec leaves what waits behind it alone (the queue is the model's way of handing
commands to the block, log entry 1). -/
def Obligations.The_front_command_is_executed : Prop :=
  ∀ (c : Instr) (rest : List Instr) (s : State), s.pending = c :: rest → step s = exec c { s with pending := rest }

open Sys2Proof.Claims in
/-- With no command waiting, time passes (what a step with an empty queue does is the model's choice, log entry 5): the oldest posted host write takes effect (R60); where the interior runs TIMEBASE counts one
cycle (R78) and a port whose link is up sends one flit, a PAYLOAD flit of its next slots where some are ready (R393, R396); where the interior does not run,
nothing but a posted write happens. -/
def Obligations.Time_passes_while_no_command_waits : Prop :=
  ∀ s : State, s.pending = [] →
    let quietPorts := ∀ n < 4, lstate s n ≠ 2 ∧ lstate s n ≠ 3 ∧ (lstate s n = 1 → (peerAt s n).step ≠ 4)
    let next := (s.core.timebase.toNat + 1) % 2 ^ 64
    (s.host.posted = [] → interior s = true → quietPorts → next % 500000 ≠ 0 → ∃ u, step s = .next u ∧ u.core = { s.core with timebase := s.core.timebase + 1#64 }
        ∧ RegsKept s u [] ∧ { u with core := s.core, regs := s.regs } = s)
    ∧ (s.host.posted = [] → interior s = false → inDoze s = false → ∃ u, step s = .next u ∧ OnlyRegs s u [])
    ∧ (s.host.posted = [] → interior s = true → quietPorts → next % 500000 = 0 → 1 < s.fld fWdRemain → s.fld fWdPeriod ≠ 0 → s.fld fWdRemain - 1 ≠ s.fld fWdPeriod * 8 →
        ∃ u, step s = .next u ∧ u.fld fWdRemain = s.fld fWdRemain - 1 ∧ RegsKept s u [0xB0] ∧ u.mem = s.mem ∧ u.log = s.log)
    ∧ (∀ (v : W32) (rest : List (Nat × W32)), s.host.posted = (0x1C, v) :: rest → running s = true → s.flag fQuiesce = false → quietPorts → next % 500000 ≠ 0 →
        ∃ u, step s = .next u ∧ u.reg 0x1C = (s.reg 0x1C &&& ~~~0x3FFFFF#32) ||| (v &&& 0x3FFFFF#32) ∧ u.host = { s.host with posted := rest, wait := false } ∧ RegsKept s u [0x1C]
          ∧ u.core.timebase = s.core.timebase + 1#64)
    ∧ (∀ n < 4, Live s n → s.host.posted = [] → (∀ m < 4, m ≠ n → lstate s m = 0) → s.flag ⟨0xA0, 8 * n + 5, 8 * n + 5⟩ = false → next % 500000 ≠ 0 →
      let p := peerAt s n
      p.nakDue = false → p.resend = none → p.replay.length < 256 → ∃ u f, step s = .next u ∧ (peerAt u n).tx = some f ∧ f.length = 256 ∧ RegsKept s u [] ∧ u.mem = s.mem
        ∧ fieldAt f 236 4 = crc32c (f.take 236) ∧ fieldAt f 225 3 / 4096 = p.ack % 4096
        ∧ (p.ready = [] → fieldAt f 224 1 = 1 ∧ fieldAt f 225 3 % 4096 = p.seq % 4096 ∧ (peerAt u n).seq = p.seq ∧ (peerAt u n).replay = p.replay)
        ∧ (p.ready ≠ [] → p.ready.length % 16 = 0 → fieldAt f 224 1 = 0 ∧ fieldAt f 225 3 % 4096 = (p.seq + 1) % 4096 ∧ f.take (min 224 p.ready.length) = p.ready.take 224
            ∧ (peerAt u n).seq = (p.seq + 1) % 4096 ∧ (peerAt u n).ready = p.ready.drop 224
            ∧ (peerAt u n).replay = p.replay ++ [⟨(p.seq + 1) % 4096, p.ready.take 224, 0⟩]))

/-- R70: no command stops the block, and after every command and every step each condition source whose condition holds has its INT_STATUS bit set. -/
def Obligations.No_command_stops_and_conditions_show : Prop :=
  (∀ (c : Instr) (s : State), ∃ t, exec c s = .next t ∧ ConditionsShown t) ∧ ∀ s : State, ∃ t, step s = .next t ∧ ConditionsShown t

/-- R10, R43, R89 and the reset columns of Tables 3-25, 16-7, 17-1, 17-3, 18-6, 19-3, 21-8 and 23-6: right after PORST# no command waits, PHASE is CLOCK, MCLK does not run, every host register
but those of Table 3-25 reads zero, the block registers have their reset values, memory is in canonical form and every condition shows. -/
def Obligations.Reset_leaves_the_stated_values : Prop :=
  let s := State.reset
  s.pending = [] ∧ s.fld fPhase = 0 ∧ s.core.mclk = false ∧ s.core.timebase = 0#64 ∧ s.boot.released = false ∧ ConditionsShown s ∧ MemoryCanonical s ∧ MergeSound s
  ∧ (∀ i < 46, s.reg (4 * i) = (match 4 * i with
      | 0x00 => 0x1040B010#32
      | 0x04 => 0x0040F442#32
      | 0x4C => 1#32
      | 0x50 => 1#32
      | 0x70 => 0x800#32
      | 0x78 => 0x44C#32
      | _ => 0#32))
  ∧ (∀ e ∈ [(0xB0000, 0x00E87069#32), (0xC0000, 0x80000000#32), (0x60000, 0#32), (0x60004, 0x0F1E0200#32), (0x60008, 0x2620#32), (0x70000, 0x04000100#32), (0x70200, 0xA#32)
      , (0x80000, 0x10000000#32), (0x90000, 0x10020101#32), (0xA0800, 1#32), (0xE0000, 2#32), (0xD0040, 0#32)], s.reg (C e.1) = e.2)
  ∧ (∀ g < 8, s.reg (C (0x60010 + 4 * g)) = 0x00400000#32 ∧ s.reg (C (0x60030 + 4 * g)) = 0x20#32)
  ∧ s.touch.fifo = [] ∧ s.log.count = 0 ∧ s.log.queued = [] ∧ s.reel.chains = [] ∧ s.fly.plies = [] ∧ s.q.ctxs = [] ∧ s.mmu.recs = []
end

