-- ==== Sys2Proof/Laws/Word.lean ====
section
/-! SUPPORT. What a field of a word reads after a field of it is written, and what a sparse map reads after a write. -/

namespace Sys2Proof

/-- The mask of bits hi:lo has exactly those bits. -/
theorem fieldMask_testBit (hi lo i : Nat) :
    ((2 ^ (hi + 1 - lo) - 1) * 2 ^ lo).testBit i = (decide (lo ≤ i) && decide (i ≤ hi)) := by
  rw [Nat.testBit_mul_two_pow, Nat.testBit_two_pow_sub_one]
  by_cases h : lo ≤ i
  · simp only [h, decide_true, Bool.true_and, decide_eq_decide]
    omega
  · simp [h]

/-- The bits of a word with a field written. -/
theorem withBits_getLsbD (w : W32) (hi lo v i : Nat) (hh : i < 32) :
    (withBits w hi lo v).getLsbD i = if lo ≤ i ∧ i ≤ hi then v.testBit (i - lo) else w.getLsbD i := by
  have h1 : (BitVec.ofNat 32 ((2 ^ (hi + 1 - lo) - 1) * 2 ^ lo)).getLsbD i = (decide (lo ≤ i) && decide (i ≤ hi)) := by
    rw [BitVec.getLsbD_ofNat, fieldMask_testBit]; simp [hh]
  have h2 : (BitVec.ofNat 32 (v * 2 ^ lo)).getLsbD i = (decide (lo ≤ i) && v.testBit (i - lo)) := by
    rw [BitVec.getLsbD_ofNat, Nat.testBit_mul_two_pow]; simp [hh]
  simp only [withBits, BitVec.getLsbD_or, BitVec.getLsbD_and, BitVec.getLsbD_not, h1, h2, hh, decide_true, Bool.true_and]
  by_cases a : lo ≤ i <;> by_cases b : i ≤ hi <;> simp [a, b]

/-- The bits of a field's value. -/
theorem bitsOf_testBit {n : Nat} (w : BitVec n) (hi lo i : Nat) :
    (bitsOf w hi lo).testBit i = (decide (i < hi + 1 - lo) && w.getLsbD (i + lo)) := by
  rw [bitsOf, Nat.testBit_mod_two_pow, Nat.testBit_div_two_pow, BitVec.testBit_toNat]

/-- A field just written reads the value's low bits. -/
@[simp] theorem bitsOf_withBits (w : W32) (hi lo v : Nat) (h : hi < 32) :
    bitsOf (withBits w hi lo v) hi lo = v % 2 ^ (hi + 1 - lo) := by
  apply Nat.eq_of_testBit_eq
  intro i
  rw [bitsOf_testBit, Nat.testBit_mod_two_pow]
  by_cases hi' : i < hi + 1 - lo
  · rw [withBits_getLsbD _ _ _ _ _ (by omega)]
    have h3 : lo ≤ i + lo ∧ i + lo ≤ hi := by omega
    rw [if_pos h3, Nat.add_sub_cancel]
  · simp [hi']

/-- A field that shares no bit with the field written keeps its value. -/
theorem bitsOf_withBits_disjoint (w : W32) (hi lo v hi' lo' : Nat) (h : hi' < 32) (hd : hi' < lo ∨ hi < lo') :
    bitsOf (withBits w hi lo v) hi' lo' = bitsOf w hi' lo' := by
  apply Nat.eq_of_testBit_eq
  intro i
  rw [bitsOf_testBit, bitsOf_testBit]
  by_cases hi' : i < hi' + 1 - lo'
  · rw [withBits_getLsbD _ _ _ _ _ (by omega), if_neg (by omega)]
  · simp [hi']

/-- A field's value is below two to its width. -/
theorem bitsOf_lt {n : Nat} (w : BitVec n) (hi lo : Nat) : bitsOf w hi lo < 2 ^ (hi + 1 - lo) :=
  Nat.mod_lt _ (Nat.two_pow_pos _)

/-! ### Sparse maps -/

variable {α : Type}

@[simp] theorem Sparse.find_nil (a : Nat) : Sparse.find ([] : Sparse α) a = none := rfl

@[simp] theorem Sparse.get_nil (d : Nat → α) (a : Nat) : Sparse.get d [] a = d a := rfl

/-- What a map lists after an erase. -/
@[simp] theorem Sparse.find_erase (m : Sparse α) (a b : Nat) :
    Sparse.find (Sparse.erase m a) b = if a = b then none else Sparse.find m b := by
  induction m with
  | nil => simp [Sparse.erase, Sparse.find]
  | cons e t ih =>
    obtain ⟨k, v⟩ := e
    simp only [Sparse.erase]
    by_cases h : k = a
    · simp only [h, if_true, ih, Sparse.find]
      by_cases hb : a = b <;> simp [hb]
    · simp only [h, if_false, Sparse.find, ih]
      by_cases hk : k = b
      · subst hk; simp [Ne.symm h]
      · simp [hk]

/-- What a map lists after an insert. -/
@[simp] theorem Sparse.find_insert (m : Sparse α) (a b : Nat) (x : α) :
    Sparse.find (Sparse.insert m a x) b = if a = b then some x else Sparse.find m b := by
  induction m with
  | nil => simp [Sparse.insert, Sparse.find]
  | cons e t ih =>
    obtain ⟨k, v⟩ := e
    simp only [Sparse.insert]
    by_cases h : k = a
    · subst h
      by_cases hb : k = b <;> simp [Sparse.find, hb]
    · by_cases hl : a < k
      · simp [h, hl, Sparse.find]
      · simp only [h, hl, if_false, Sparse.find, ih]
        by_cases hk : k = b
        · subst hk; simp [Ne.symm h]
        · simp [hk]

/-- What a map reads after a write. -/
@[simp] theorem Sparse.get_put [DecidableEq α] (d : Nat → α) (m : Sparse α) (a b : Nat) (x : α) :
    Sparse.get d (Sparse.put d m a x) b = if a = b then x else Sparse.get d m b := by
  unfold Sparse.put Sparse.get
  by_cases hx : x = d a
  · by_cases hb : a = b
    · subst hb; simp [hx]
    · simp [hx, hb]
  · by_cases hb : a = b
    · subst hb; simp [hx]
    · simp [hx, hb]

@[simp] theorem Sparse.erase_erase (m : Sparse α) (a : Nat) : Sparse.erase (Sparse.erase m a) a = Sparse.erase m a := by
  induction m with
  | nil => rfl
  | cons e t ih =>
    obtain ⟨k, v⟩ := e
    by_cases h : k = a <;> simp [Sparse.erase, h, ih]

@[simp] theorem Sparse.insert_insert (m : Sparse α) (a : Nat) (x y : α) :
    Sparse.insert (Sparse.insert m a x) a y = Sparse.insert m a y := by
  induction m with
  | nil => simp [Sparse.insert]
  | cons e t ih =>
    obtain ⟨k, v⟩ := e
    by_cases h : k = a
    · simp [Sparse.insert, h]
    · by_cases hl : a < k <;> simp [Sparse.insert, h, hl, ih]

/-- Writing the same value to one key twice is writing it once. -/
@[simp] theorem Sparse.put_put_same [DecidableEq α] (d : Nat → α) (m : Sparse α) (a : Nat) (x : α) :
    Sparse.put d (Sparse.put d m a x) a x = Sparse.put d m a x := by
  by_cases h : x = d a <;> simp [Sparse.put, h]

/-- A write of what is read changes no reading. -/
theorem Sparse.get_put_same [DecidableEq α] (d : Nat → α) (m : Sparse α) (a b : Nat) :
    Sparse.get d (Sparse.put d m a (Sparse.get d m a)) b = Sparse.get d m b := by
  rw [Sparse.get_put]; split
  · next h => rw [h]
  · rfl

/-- What a map lists after a filter on keys. -/
@[simp] theorem Sparse.find_drop (p : Nat → Bool) (m : Sparse α) (a : Nat) :
    Sparse.find (Sparse.drop p m) a = if p a then none else Sparse.find m a := by
  induction m with
  | nil => simp [Sparse.drop]
  | cons e t ih =>
    obtain ⟨k, v⟩ := e
    simp only [Sparse.drop] at ih ⊢
    by_cases hk : p k
    · rw [List.filter_cons_of_neg (by simp [hk]), ih, Sparse.find]
      by_cases h : k = a
      · subst h; simp [hk]
      · simp [h]
    · rw [List.filter_cons_of_pos (by simp [hk]), Sparse.find, ih, Sparse.find]
      by_cases h : k = a
      · subst h; simp [hk]
      · simp [h]

/-! ### The canonical form -/

theorem Sparse.sortedFrom_mono {m : Sparse α} {b c : Nat} (h : b ≤ c) (hm : Sparse.sortedFrom c m) :
    Sparse.sortedFrom b m := by
  cases m with
  | nil => rfl
  | cons e t =>
    obtain ⟨k, v⟩ := e
    simp only [Sparse.sortedFrom, Bool.and_eq_true, decide_eq_true_eq] at hm ⊢
    exact ⟨by omega, hm.2⟩

theorem Sparse.sortedFrom_erase {m : Sparse α} {b : Nat} (a : Nat) (hm : Sparse.sortedFrom b m) :
    Sparse.sortedFrom b (Sparse.erase m a) := by
  induction m generalizing b with
  | nil => rfl
  | cons e t ih =>
    obtain ⟨k, v⟩ := e
    simp only [Sparse.sortedFrom, Bool.and_eq_true, decide_eq_true_eq] at hm
    simp only [Sparse.erase]
    split
    · exact Sparse.sortedFrom_mono (by omega) (ih hm.2)
    · simp only [Sparse.sortedFrom, Bool.and_eq_true, decide_eq_true_eq]
      exact ⟨hm.1, ih hm.2⟩

theorem Sparse.sortedFrom_insert {m : Sparse α} {b a : Nat} (x : α) (hb : b ≤ a) (hm : Sparse.sortedFrom b m) :
    Sparse.sortedFrom b (Sparse.insert m a x) := by
  induction m generalizing b with
  | nil => simp [Sparse.insert, Sparse.sortedFrom, hb]
  | cons e t ih =>
    obtain ⟨k, v⟩ := e
    simp only [Sparse.sortedFrom, Bool.and_eq_true, decide_eq_true_eq] at hm
    simp only [Sparse.insert]
    split
    · next h => simp only [Sparse.sortedFrom, Bool.and_eq_true, decide_eq_true_eq]; exact ⟨hb, h ▸ hm.2⟩
    · split
      · simp only [Sparse.sortedFrom, Bool.and_eq_true, decide_eq_true_eq]; exact ⟨hb, by omega, hm.2⟩
      · simp only [Sparse.sortedFrom, Bool.and_eq_true, decide_eq_true_eq]; exact ⟨hm.1, ih (by omega) hm.2⟩

theorem Sparse.noDefault_erase [DecidableEq α] {d : Nat → α} {m : Sparse α} (a : Nat) (hm : Sparse.noDefault d m) :
    Sparse.noDefault d (Sparse.erase m a) := by
  induction m with
  | nil => rfl
  | cons e t ih =>
    obtain ⟨k, v⟩ := e
    simp only [Sparse.noDefault, Bool.and_eq_true] at hm
    simp only [Sparse.erase]
    split
    · exact ih hm.2
    · simp only [Sparse.noDefault, Bool.and_eq_true]; exact ⟨hm.1, ih hm.2⟩

theorem Sparse.noDefault_insert [DecidableEq α] {d : Nat → α} {m : Sparse α} {a : Nat} {x : α} (hx : x ≠ d a)
    (hm : Sparse.noDefault d m) : Sparse.noDefault d (Sparse.insert m a x) := by
  induction m with
  | nil => simp [Sparse.insert, Sparse.noDefault, hx]
  | cons e t ih =>
    obtain ⟨k, v⟩ := e
    simp only [Sparse.noDefault, Bool.and_eq_true] at hm
    simp only [Sparse.insert]
    split
    · simp [Sparse.noDefault, hx, hm.2]
    · split
      · simp only [Sparse.noDefault, Bool.and_eq_true]; exact ⟨by simpa using hx, hm⟩
      · simp only [Sparse.noDefault, Bool.and_eq_true]; exact ⟨hm.1, ih hm.2⟩

/-- A write keeps the canonical form. -/
theorem Sparse.wf_put [DecidableEq α] {d : Nat → α} {m : Sparse α} (a : Nat) (x : α) (hm : Sparse.wf d m) :
    Sparse.wf d (Sparse.put d m a x) := by
  simp only [Sparse.wf, Bool.and_eq_true] at hm ⊢
  unfold Sparse.put
  split
  · exact ⟨Sparse.sortedFrom_erase _ hm.1, Sparse.noDefault_erase _ hm.2⟩
  · next hx => exact ⟨Sparse.sortedFrom_insert _ (Nat.zero_le _) hm.1, Sparse.noDefault_insert hx hm.2⟩

theorem Sparse.wf_putAll [DecidableEq α] {d : Nat → α} (l : List (Nat × α)) {m : Sparse α} (hm : Sparse.wf d m) :
    Sparse.wf d (Sparse.putAll d m l) := by
  induction l generalizing m with
  | nil => exact hm
  | cons e t ih => exact ih (Sparse.wf_put _ _ hm)

theorem Sparse.sortedFrom_drop {m : Sparse α} {b : Nat} (p : Nat → Bool) (hm : Sparse.sortedFrom b m) :
    Sparse.sortedFrom b (Sparse.drop p m) := by
  induction m generalizing b with
  | nil => rfl
  | cons e t ih =>
    obtain ⟨k, v⟩ := e
    simp only [Sparse.sortedFrom, Bool.and_eq_true, decide_eq_true_eq] at hm
    simp only [Sparse.drop] at ih ⊢
    by_cases hk : p k
    · rw [List.filter_cons_of_neg (by simp [hk])]
      exact Sparse.sortedFrom_mono (by omega) (ih hm.2)
    · rw [List.filter_cons_of_pos (by simp [hk])]
      simp only [Sparse.sortedFrom, Bool.and_eq_true, decide_eq_true_eq]
      exact ⟨hm.1, ih hm.2⟩

theorem Sparse.noDefault_drop [DecidableEq α] {d : Nat → α} {m : Sparse α} (p : Nat → Bool) (hm : Sparse.noDefault d m) :
    Sparse.noDefault d (Sparse.drop p m) := by
  induction m with
  | nil => rfl
  | cons e t ih =>
    obtain ⟨k, v⟩ := e
    simp only [Sparse.noDefault, Bool.and_eq_true] at hm
    simp only [Sparse.drop] at ih ⊢
    by_cases hk : p k
    · rw [List.filter_cons_of_neg (by simp [hk])]; exact ih hm.2
    · rw [List.filter_cons_of_pos (by simp [hk])]
      simp only [Sparse.noDefault, Bool.and_eq_true]; exact ⟨hm.1, ih hm.2⟩

/-- Dropping keys keeps the canonical form. -/
theorem Sparse.wf_drop [DecidableEq α] {d : Nat → α} {m : Sparse α} (p : Nat → Bool) (hm : Sparse.wf d m) :
    Sparse.wf d (Sparse.drop p m) := by
  simp only [Sparse.wf, Bool.and_eq_true] at hm ⊢
  exact ⟨Sparse.sortedFrom_drop p hm.1, Sparse.noDefault_drop p hm.2⟩

/-- A key below a sorted map's bound is not listed. -/
theorem Sparse.find_none_of_sortedFrom {m : Sparse α} {b a : Nat} (hm : Sparse.sortedFrom b m) (h : a < b) :
    Sparse.find m a = none := by
  induction m generalizing b with
  | nil => rfl
  | cons e t ih =>
    obtain ⟨k, v⟩ := e
    simp only [Sparse.sortedFrom, Bool.and_eq_true, decide_eq_true_eq] at hm
    simp only [Sparse.find, show k ≠ a by omega, if_false]
    exact ih hm.2 (by omega)

theorem Sparse.get_eq_of_noDefault [DecidableEq α] {d : Nat → α} {m : Sparse α} {a : Nat} (hm : Sparse.noDefault d m)
    (h : Sparse.get d m a = d a) : Sparse.find m a = none := by
  induction m with
  | nil => rfl
  | cons e t ih =>
    obtain ⟨k, v⟩ := e
    simp only [Sparse.noDefault, Bool.and_eq_true, decide_eq_true_eq] at hm
    by_cases hk : k = a
    · subst hk; simp [Sparse.get, Sparse.find] at h; exact absurd h (by simpa using hm.1)
    · simp only [Sparse.get, Sparse.find, hk, if_false] at h ⊢
      exact ih hm.2 h

/-- The form is canonical: two maps in it that read the same everywhere are equal. -/
theorem Sparse.ext_of_wf [DecidableEq α] {d : Nat → α} {m n : Sparse α} (hm : Sparse.wf d m) (hn : Sparse.wf d n)
    (h : ∀ a, Sparse.get d m a = Sparse.get d n a) : m = n := by
  have hf : ∀ a, Sparse.find m a = Sparse.find n a := by
    intro a
    simp only [Sparse.wf, Bool.and_eq_true] at hm hn
    have ha := h a
    cases e1 : Sparse.find m a with
    | none =>
      have : Sparse.get d n a = d a := by rw [← ha]; simp [Sparse.get, e1]
      rw [Sparse.get_eq_of_noDefault hn.2 this]
    | some v =>
      cases e2 : Sparse.find n a with
      | none =>
        have : Sparse.get d m a = d a := by rw [ha]; simp [Sparse.get, e2]
        rw [Sparse.get_eq_of_noDefault hm.2 this] at e1; cases e1
      | some w => simp [Sparse.get, e1, e2] at ha; rw [ha]
  simp only [Sparse.wf, Bool.and_eq_true] at hm hn
  have key : ∀ (b : Nat) (m n : Sparse α), Sparse.sortedFrom b m → Sparse.sortedFrom b n →
      (∀ a, Sparse.find m a = Sparse.find n a) → m = n := by
    intro b m
    induction m generalizing b with
    | nil =>
      intro n _ _ hf
      cases n with
      | nil => rfl
      | cons e t => have := hf e.1; simp [Sparse.find] at this
    | cons e t ih =>
      intro n h1 h2 hf
      obtain ⟨k, v⟩ := e
      cases n with
      | nil => have := hf k; simp [Sparse.find] at this
      | cons e' t' =>
        obtain ⟨k', v'⟩ := e'
        simp only [Sparse.sortedFrom, Bool.and_eq_true, decide_eq_true_eq] at h1 h2
        have hk : k = k' := by
          by_contra hne
          rcases Nat.lt_or_gt_of_ne hne with hlt | hlt
          · have := hf k
            simp only [Sparse.find, if_true, Ne.symm hne, if_false] at this
            rw [Sparse.find_none_of_sortedFrom h2.2 (by omega)] at this; cases this
          · have := hf k'
            simp only [Sparse.find, if_true, hne, if_false] at this
            rw [Sparse.find_none_of_sortedFrom h1.2 (by omega)] at this; cases this
        subst hk
        have hv := hf k
        simp only [Sparse.find, if_true, Option.some.injEq] at hv
        subst hv
        have : t = t' := ih (k + 1) t' h1.2 h2.2 (fun a => by
          by_cases hka : k = a
          · subst hka
            rw [Sparse.find_none_of_sortedFrom h1.2 (by omega), Sparse.find_none_of_sortedFrom h2.2 (by omega)]
          · have := hf a; simpa [Sparse.find, hka] using this)
        rw [this]
  exact key 0 m n hm.1 hn.1 hf

end Sys2Proof
end

