-- ==== Sys2Proof/Laws/State.lean ====
section
/-! SUPPORT. What each named operation on registers leaves of a state, field by field. Registers are brought to one form, State.reg of
nested State.setReg, in which numbers decide which write a read sees. -/

namespace Sys2Proof.Machine

open Sys2Proof

/-! ### Registers and their fields -/

/-- A register after a register write. -/
@[simp] theorem State.reg_setReg (s : State) (r q : Nat) (v : W32) :
    (s.setReg r v).reg q = if r = q then v else s.reg q := Sparse.get_put _ _ _ _ _

/-- Writing the same value to a register twice is writing it once. -/
theorem State.setReg_setReg (s : State) (r : Nat) (v : W32) : (s.setReg r v).setReg r v = s.setReg r v := by
  simp only [State.setReg, Sparse.put_put_same]

/-- A register of a state whose other parts were replaced. -/
@[simp] theorem State.reg_mk_regs (s : State) (q : Nat) (p : List Instr) (fr : Nat) (c h b t l m qq f me w ra rs d tc ca a pe re db pw) :
    State.reg ⟨p, fr, s.regs, c, h, b, t, l, m, qq, f, me, w, ra, rs, d, tc, ca, a, pe, re, db, pw⟩ q = s.reg q := rfl

/-- A field, by its register's bits. -/
@[simp] theorem State.fld_mk (s : State) (r hi lo : Nat) : s.fld ⟨r, hi, lo⟩ = bitsOf (s.reg r) hi lo := rfl

/-- A flag is a field that is not zero. -/
@[simp] theorem State.flag_mk (s : State) (r hi lo : Nat) : s.flag ⟨r, hi, lo⟩ = decide (bitsOf (s.reg r) hi lo ≠ 0) := rfl

/-- Setting a field writes its register. -/
@[simp] theorem State.setFld_mk (s : State) (r hi lo v : Nat) :
    s.setFld ⟨r, hi, lo⟩ v = s.setReg r (withBits (s.reg r) hi lo v) := rfl

@[simp] theorem State.setFlag_true (s : State) (f : Fld) : s.setFlag f true = s.setFld f 1 := rfl

@[simp] theorem State.setFlag_false (s : State) (f : Fld) : s.setFlag f false = s.setFld f 0 := rfl

@[simp] theorem State.setFlds_nil (s : State) : s.setFlds [] = s := rfl

@[simp] theorem State.setFlds_cons (s : State) (f : Fld) (v : Nat) (t : List (Fld × Nat)) :
    s.setFlds ((f, v) :: t) = (s.setFld f v).setFlds t := rfl

@[simp] theorem State.addSat_mk (s : State) (r hi lo n : Nat) :
    s.addSat ⟨r, hi, lo⟩ n = s.setReg r (withBits (s.reg r) hi lo (satN (2 ^ (hi + 1 - lo) - 1) (bitsOf (s.reg r) hi lo + n))) := rfl

/-- The number of a control-space register. -/
@[simp] theorem C_eq (off : Nat) : C off = 16777216 + off := rfl

/-- Raising an interrupt bit writes INT_STATUS. -/
@[simp] theorem raiseInt_eq (bit : Nat) (s : State) : raiseInt bit s = s.setReg 0x18 (withBits (s.reg 0x18) bit bit 1) := rfl

/-- Every register but INT_STATUS is as it was after a refresh. -/
@[simp] theorem reg_refresh (s : State) (q : Nat) : (refresh s).reg q = if 0x18 = q then s.reg 0x18 ||| conditions s else s.reg q :=
  State.reg_setReg _ _ _ _

theorem setCounter_eq (off v : Nat) (s : State) :
    setCounter off v s = (s.setReg (C off) (BitVec.ofNat 32 v)).setReg (C (off + 4)) (BitVec.ofNat 32 (v / 2 ^ 32)) := rfl

/-- A field whose register a write leaves alone. -/
theorem State.fld_setReg_of_ne (s : State) (f : Fld) (r : Nat) (v : W32) (h : r ≠ f.reg) : (s.setReg r v).fld f = s.fld f := by
  simp [State.fld, h]

/-- A field of a register a refresh leaves alone. -/
theorem fld_refresh (s : State) (f : Fld) (h : f.reg ≠ 0x18) : (refresh s).fld f = s.fld f :=
  State.fld_setReg_of_ne _ _ _ _ (Ne.symm h)

/-- A field just set reads the low bits of what it was set to. -/
theorem State.fld_setFld (s : State) (f : Fld) (v : Nat) (h : f.hi < 32) : (s.setFld f v).fld f = v % 2 ^ (f.hi + 1 - f.lo) := by
  obtain ⟨r, hi, lo⟩ := f
  simp only [State.setFld_mk, State.fld_mk, State.reg_setReg, if_true]
  exact bitsOf_withBits _ _ _ _ h

/-- The conditions look at no bit of INT_STATUS. -/
theorem conditions_setReg_status (s : State) (v : W32) : conditions (s.setReg 0x18 v) = conditions s := by
  simp only [conditions, displayCondition, undelivered, numsFrom, List.any, State.fld, State.reg_setReg]
  rfl

/-- Bringing INT_STATUS up to date twice is doing it once. -/
theorem refresh_refresh (s : State) : refresh (refresh s) = refresh s := by
  have h : conditions (refresh s) = conditions s := conditions_setReg_status s _
  have h2 : (refresh s).reg 0x18 = s.reg 0x18 ||| conditions s := by simp
  have h3 : refresh (refresh s) = (refresh s).setReg 0x18 ((refresh s).reg 0x18) := by
    show (refresh s).setReg 0x18 ((refresh s).reg 0x18 ||| conditions (refresh s)) = _
    rw [h, h2, BitVec.or_assoc, BitVec.or_self]
  rw [h3, h2]
  exact State.setReg_setReg _ _ _


/-! ### The fields of registers that rules name -/

@[simp] theorem fPhase_eq : fPhase = ⟨0x08, 31, 28⟩ := rfl
@[simp] theorem fReady_eq : fReady = ⟨0x08, 27, 27⟩ := rfl
@[simp] theorem fDramReady_eq : fDramReady = ⟨0x08, 26, 26⟩ := rfl
@[simp] theorem fTrimDefaults_eq : fTrimDefaults = ⟨0x08, 25, 25⟩ := rfl
@[simp] theorem fQuiesced_eq : fQuiesced = ⟨0x08, 24, 24⟩ := rfl
@[simp] theorem fRmreq_eq : fRmreq = ⟨0x08, 23, 23⟩ := rfl
@[simp] theorem fFrozen_eq : fFrozen = ⟨0x08, 22, 22⟩ := rfl
@[simp] theorem fHardFrozen_eq : fHardFrozen = ⟨0x08, 21, 21⟩ := rfl
@[simp] theorem fAonOnly_eq : fAonOnly = ⟨0x08, 20, 20⟩ := rfl
@[simp] theorem fDramGib_eq : fDramGib = ⟨0x04, 31, 24⟩ := rfl
@[simp] theorem fRmAck_eq : fRmAck = ⟨0x0C, 1, 1⟩ := rfl
@[simp] theorem fQuiesce_eq : fQuiesce = ⟨0x0C, 0, 0⟩ := rfl
@[simp] theorem fCause_eq : fCause = ⟨0x14, 31, 28⟩ := rfl
@[simp] theorem fPgFell_eq : fPgFell = ⟨0x14, 27, 23⟩ := rfl
@[simp] theorem fFuncBusy_eq : fFuncBusy = ⟨0x14, 13, 0⟩ := rfl
@[simp] theorem fPreBusy_eq : fPreBusy = ⟨0x54, 31, 31⟩ := rfl
@[simp] theorem fPreCtx_eq : fPreCtx = ⟨0x54, 19, 16⟩ := rfl
@[simp] theorem fHead_eq : fHead = ⟨0x58, 8, 0⟩ := rfl
@[simp] theorem fTail_eq : fTail = ⟨0x5C, 8, 0⟩ := rfl
@[simp] theorem fRecord_eq : fRecord = ⟨0x60, 23, 16⟩ := rfl
@[simp] theorem fWordIndex_eq : fWordIndex = ⟨0x64, 25, 16⟩ := rfl
@[simp] theorem fReadSeq_eq : fReadSeq = ⟨0x64, 15, 0⟩ := rfl
@[simp] theorem fLost_eq : fLost = ⟨0x68, 31, 16⟩ := rfl
@[simp] theorem fWriteSeq_eq : fWriteSeq = ⟨0x68, 15, 0⟩ := rfl
@[simp] theorem fPageCount_eq : fPageCount = ⟨0x70, 23, 15⟩ := rfl
@[simp] theorem fPageHeld_eq : fPageHeld = ⟨0x70, 14, 14⟩ := rfl
@[simp] theorem fThresh_eq : fThresh = ⟨0x70, 11, 3⟩ := rfl
@[simp] theorem fPwrBusy_eq : fPwrBusy = ⟨0x74, 31, 31⟩ := rfl
@[simp] theorem fCurrent_eq : fCurrent = ⟨0x74, 5, 4⟩ := rfl
@[simp] theorem fTarget_eq : fTarget = ⟨0x74, 1, 0⟩ := rfl
@[simp] theorem fHottest_eq : fHottest = ⟨0x7C, 31, 24⟩ := rfl
@[simp] theorem fSensorIx_eq : fSensorIx = ⟨0x7C, 23, 18⟩ := rfl
@[simp] theorem fZone_eq : fZone = ⟨0x7C, 17, 16⟩ := rfl
@[simp] theorem fSourcePin_eq : fSourcePin = ⟨0x88, 2, 2⟩ := rfl
@[simp] theorem fDoffActive_eq : fDoffActive = ⟨0x8C, 31, 31⟩ := rfl
@[simp] theorem fJtagOwns_eq : fJtagOwns = ⟨0x8C, 30, 30⟩ := rfl
@[simp] theorem fDoffPage_eq : fDoffPage = ⟨0x8C, 29, 16⟩ := rfl
@[simp] theorem fDoffChain_eq : fDoffChain = ⟨0x8C, 15, 8⟩ := rfl
@[simp] theorem fCalBusy_eq : fCalBusy = ⟨0x98, 31, 31⟩ := rfl
@[simp] theorem fCalResult_eq : fCalResult = ⟨0x98, 30, 28⟩ := rfl
@[simp] theorem fCalDefaults_eq : fCalDefaults = ⟨0x98, 27, 27⟩ := rfl
@[simp] theorem fCalSlot_eq : fCalSlot = ⟨0x98, 26, 26⟩ := rfl
@[simp] theorem fCalGen_eq : fCalGen = ⟨0x98, 23, 0⟩ := rfl
@[simp] theorem fWdRemain_eq : fWdRemain = ⟨0xB0, 31, 20⟩ := rfl
@[simp] theorem fWdPeriod_eq : fWdPeriod = ⟨0xB0, 19, 12⟩ := rfl
@[simp] theorem fWdAction_eq : fWdAction = ⟨0xB0, 11, 10⟩ := rfl
@[simp] theorem fWdLock_eq : fWdLock = ⟨0xB0, 9, 9⟩ := rfl
@[simp] theorem fSync_eq : fSync = ⟨0xB4, 1, 1⟩ := rfl
@[simp] theorem fQspiRelease_eq : fQspiRelease = ⟨C 0x104, 1, 1⟩ := rfl
@[simp] theorem fResumed_eq : fResumed = ⟨C 0x100, 0, 0⟩ := rfl
@[simp] theorem fStoreStep_eq : fStoreStep = ⟨C 0xF0008, 2, 0⟩ := rfl
@[simp] theorem fAuditBusy_eq : fAuditBusy = ⟨C 0xC0804, 31, 31⟩ := rfl
@[simp] theorem fMismatch_eq : fMismatch = ⟨C 0xC0804, 30, 30⟩ := rfl
@[simp] theorem fFirst_eq : fFirst = ⟨C 0xC0804, 25, 16⟩ := rfl
@[simp] theorem fSnaps_eq : fSnaps = ⟨C 0xC0804, 15, 0⟩ := rfl
@[simp] theorem fWinErr_eq (w : Nat) : fWinErr w = ⟨if w = 0 then 0x30 else 0x40, 31, 29⟩ := rfl
@[simp] theorem fCtxState_eq (c : Nat) : fCtxState c = ⟨0x50, 2 * c + 1, 2 * c⟩ := rfl
@[simp] theorem fCtxEn_eq (c : Nat) : fCtxEn c = ⟨0x4C, c, c⟩ := rfl

/-! ### State.setReg changes registers alone -/

@[simp] theorem State.setReg_pending (s : State) (r : Nat) (v : W32) : (s.setReg r v).pending = s.pending := rfl
@[simp] theorem State.setReg_free (s : State) (r : Nat) (v : W32) : (s.setReg r v).free = s.free := rfl
@[simp] theorem State.setReg_core (s : State) (r : Nat) (v : W32) : (s.setReg r v).core = s.core := rfl
@[simp] theorem State.setReg_host (s : State) (r : Nat) (v : W32) : (s.setReg r v).host = s.host := rfl
@[simp] theorem State.setReg_boot (s : State) (r : Nat) (v : W32) : (s.setReg r v).boot = s.boot := rfl
@[simp] theorem State.setReg_trim (s : State) (r : Nat) (v : W32) : (s.setReg r v).trim = s.trim := rfl
@[simp] theorem State.setReg_log (s : State) (r : Nat) (v : W32) : (s.setReg r v).log = s.log := rfl
@[simp] theorem State.setReg_mmu (s : State) (r : Nat) (v : W32) : (s.setReg r v).mmu = s.mmu := rfl
@[simp] theorem State.setReg_q (s : State) (r : Nat) (v : W32) : (s.setReg r v).q = s.q := rfl
@[simp] theorem State.setReg_fly (s : State) (r : Nat) (v : W32) : (s.setReg r v).fly = s.fly := rfl
@[simp] theorem State.setReg_mem (s : State) (r : Nat) (v : W32) : (s.setReg r v).mem = s.mem := rfl
@[simp] theorem State.setReg_weft (s : State) (r : Nat) (v : W32) : (s.setReg r v).weft = s.weft := rfl
@[simp] theorem State.setReg_ray (s : State) (r : Nat) (v : W32) : (s.setReg r v).ray = s.ray := rfl
@[simp] theorem State.setReg_ras (s : State) (r : Nat) (v : W32) : (s.setReg r v).ras = s.ras := rfl
@[simp] theorem State.setReg_disp (s : State) (r : Nat) (v : W32) : (s.setReg r v).disp = s.disp := rfl
@[simp] theorem State.setReg_touch (s : State) (r : Nat) (v : W32) : (s.setReg r v).touch = s.touch := rfl
@[simp] theorem State.setReg_cam (s : State) (r : Nat) (v : W32) : (s.setReg r v).cam = s.cam := rfl
@[simp] theorem State.setReg_aud (s : State) (r : Nat) (v : W32) : (s.setReg r v).aud = s.aud := rfl
@[simp] theorem State.setReg_peer (s : State) (r : Nat) (v : W32) : (s.setReg r v).peer = s.peer := rfl
@[simp] theorem State.setReg_reel (s : State) (r : Nat) (v : W32) : (s.setReg r v).reel = s.reel := rfl
@[simp] theorem State.setReg_dbg (s : State) (r : Nat) (v : W32) : (s.setReg r v).dbg = s.dbg := rfl
@[simp] theorem State.setReg_pwr (s : State) (r : Nat) (v : W32) : (s.setReg r v).pwr = s.pwr := rfl

/-! ### State.setFld changes registers alone -/

@[simp] theorem State.setFld_pending (s : State) (f : Fld) (v : Nat) : (s.setFld f v).pending = s.pending := rfl
@[simp] theorem State.setFld_free (s : State) (f : Fld) (v : Nat) : (s.setFld f v).free = s.free := rfl
@[simp] theorem State.setFld_core (s : State) (f : Fld) (v : Nat) : (s.setFld f v).core = s.core := rfl
@[simp] theorem State.setFld_host (s : State) (f : Fld) (v : Nat) : (s.setFld f v).host = s.host := rfl
@[simp] theorem State.setFld_boot (s : State) (f : Fld) (v : Nat) : (s.setFld f v).boot = s.boot := rfl
@[simp] theorem State.setFld_trim (s : State) (f : Fld) (v : Nat) : (s.setFld f v).trim = s.trim := rfl
@[simp] theorem State.setFld_log (s : State) (f : Fld) (v : Nat) : (s.setFld f v).log = s.log := rfl
@[simp] theorem State.setFld_mmu (s : State) (f : Fld) (v : Nat) : (s.setFld f v).mmu = s.mmu := rfl
@[simp] theorem State.setFld_q (s : State) (f : Fld) (v : Nat) : (s.setFld f v).q = s.q := rfl
@[simp] theorem State.setFld_fly (s : State) (f : Fld) (v : Nat) : (s.setFld f v).fly = s.fly := rfl
@[simp] theorem State.setFld_mem (s : State) (f : Fld) (v : Nat) : (s.setFld f v).mem = s.mem := rfl
@[simp] theorem State.setFld_weft (s : State) (f : Fld) (v : Nat) : (s.setFld f v).weft = s.weft := rfl
@[simp] theorem State.setFld_ray (s : State) (f : Fld) (v : Nat) : (s.setFld f v).ray = s.ray := rfl
@[simp] theorem State.setFld_ras (s : State) (f : Fld) (v : Nat) : (s.setFld f v).ras = s.ras := rfl
@[simp] theorem State.setFld_disp (s : State) (f : Fld) (v : Nat) : (s.setFld f v).disp = s.disp := rfl
@[simp] theorem State.setFld_touch (s : State) (f : Fld) (v : Nat) : (s.setFld f v).touch = s.touch := rfl
@[simp] theorem State.setFld_cam (s : State) (f : Fld) (v : Nat) : (s.setFld f v).cam = s.cam := rfl
@[simp] theorem State.setFld_aud (s : State) (f : Fld) (v : Nat) : (s.setFld f v).aud = s.aud := rfl
@[simp] theorem State.setFld_peer (s : State) (f : Fld) (v : Nat) : (s.setFld f v).peer = s.peer := rfl
@[simp] theorem State.setFld_reel (s : State) (f : Fld) (v : Nat) : (s.setFld f v).reel = s.reel := rfl
@[simp] theorem State.setFld_dbg (s : State) (f : Fld) (v : Nat) : (s.setFld f v).dbg = s.dbg := rfl
@[simp] theorem State.setFld_pwr (s : State) (f : Fld) (v : Nat) : (s.setFld f v).pwr = s.pwr := rfl

/-! ### State.setFlag changes registers alone -/

@[simp] theorem State.setFlag_pending (s : State) (f : Fld) (b : Bool) : (s.setFlag f b).pending = s.pending := rfl
@[simp] theorem State.setFlag_free (s : State) (f : Fld) (b : Bool) : (s.setFlag f b).free = s.free := rfl
@[simp] theorem State.setFlag_core (s : State) (f : Fld) (b : Bool) : (s.setFlag f b).core = s.core := rfl
@[simp] theorem State.setFlag_host (s : State) (f : Fld) (b : Bool) : (s.setFlag f b).host = s.host := rfl
@[simp] theorem State.setFlag_boot (s : State) (f : Fld) (b : Bool) : (s.setFlag f b).boot = s.boot := rfl
@[simp] theorem State.setFlag_trim (s : State) (f : Fld) (b : Bool) : (s.setFlag f b).trim = s.trim := rfl
@[simp] theorem State.setFlag_log (s : State) (f : Fld) (b : Bool) : (s.setFlag f b).log = s.log := rfl
@[simp] theorem State.setFlag_mmu (s : State) (f : Fld) (b : Bool) : (s.setFlag f b).mmu = s.mmu := rfl
@[simp] theorem State.setFlag_q (s : State) (f : Fld) (b : Bool) : (s.setFlag f b).q = s.q := rfl
@[simp] theorem State.setFlag_fly (s : State) (f : Fld) (b : Bool) : (s.setFlag f b).fly = s.fly := rfl
@[simp] theorem State.setFlag_mem (s : State) (f : Fld) (b : Bool) : (s.setFlag f b).mem = s.mem := rfl
@[simp] theorem State.setFlag_weft (s : State) (f : Fld) (b : Bool) : (s.setFlag f b).weft = s.weft := rfl
@[simp] theorem State.setFlag_ray (s : State) (f : Fld) (b : Bool) : (s.setFlag f b).ray = s.ray := rfl
@[simp] theorem State.setFlag_ras (s : State) (f : Fld) (b : Bool) : (s.setFlag f b).ras = s.ras := rfl
@[simp] theorem State.setFlag_disp (s : State) (f : Fld) (b : Bool) : (s.setFlag f b).disp = s.disp := rfl
@[simp] theorem State.setFlag_touch (s : State) (f : Fld) (b : Bool) : (s.setFlag f b).touch = s.touch := rfl
@[simp] theorem State.setFlag_cam (s : State) (f : Fld) (b : Bool) : (s.setFlag f b).cam = s.cam := rfl
@[simp] theorem State.setFlag_aud (s : State) (f : Fld) (b : Bool) : (s.setFlag f b).aud = s.aud := rfl
@[simp] theorem State.setFlag_peer (s : State) (f : Fld) (b : Bool) : (s.setFlag f b).peer = s.peer := rfl
@[simp] theorem State.setFlag_reel (s : State) (f : Fld) (b : Bool) : (s.setFlag f b).reel = s.reel := rfl
@[simp] theorem State.setFlag_dbg (s : State) (f : Fld) (b : Bool) : (s.setFlag f b).dbg = s.dbg := rfl
@[simp] theorem State.setFlag_pwr (s : State) (f : Fld) (b : Bool) : (s.setFlag f b).pwr = s.pwr := rfl

/-! ### State.addSat changes registers alone -/

@[simp] theorem State.addSat_pending (s : State) (f : Fld) (n : Nat) : (s.addSat f n).pending = s.pending := rfl
@[simp] theorem State.addSat_free (s : State) (f : Fld) (n : Nat) : (s.addSat f n).free = s.free := rfl
@[simp] theorem State.addSat_core (s : State) (f : Fld) (n : Nat) : (s.addSat f n).core = s.core := rfl
@[simp] theorem State.addSat_host (s : State) (f : Fld) (n : Nat) : (s.addSat f n).host = s.host := rfl
@[simp] theorem State.addSat_boot (s : State) (f : Fld) (n : Nat) : (s.addSat f n).boot = s.boot := rfl
@[simp] theorem State.addSat_trim (s : State) (f : Fld) (n : Nat) : (s.addSat f n).trim = s.trim := rfl
@[simp] theorem State.addSat_log (s : State) (f : Fld) (n : Nat) : (s.addSat f n).log = s.log := rfl
@[simp] theorem State.addSat_mmu (s : State) (f : Fld) (n : Nat) : (s.addSat f n).mmu = s.mmu := rfl
@[simp] theorem State.addSat_q (s : State) (f : Fld) (n : Nat) : (s.addSat f n).q = s.q := rfl
@[simp] theorem State.addSat_fly (s : State) (f : Fld) (n : Nat) : (s.addSat f n).fly = s.fly := rfl
@[simp] theorem State.addSat_mem (s : State) (f : Fld) (n : Nat) : (s.addSat f n).mem = s.mem := rfl
@[simp] theorem State.addSat_weft (s : State) (f : Fld) (n : Nat) : (s.addSat f n).weft = s.weft := rfl
@[simp] theorem State.addSat_ray (s : State) (f : Fld) (n : Nat) : (s.addSat f n).ray = s.ray := rfl
@[simp] theorem State.addSat_ras (s : State) (f : Fld) (n : Nat) : (s.addSat f n).ras = s.ras := rfl
@[simp] theorem State.addSat_disp (s : State) (f : Fld) (n : Nat) : (s.addSat f n).disp = s.disp := rfl
@[simp] theorem State.addSat_touch (s : State) (f : Fld) (n : Nat) : (s.addSat f n).touch = s.touch := rfl
@[simp] theorem State.addSat_cam (s : State) (f : Fld) (n : Nat) : (s.addSat f n).cam = s.cam := rfl
@[simp] theorem State.addSat_aud (s : State) (f : Fld) (n : Nat) : (s.addSat f n).aud = s.aud := rfl
@[simp] theorem State.addSat_peer (s : State) (f : Fld) (n : Nat) : (s.addSat f n).peer = s.peer := rfl
@[simp] theorem State.addSat_reel (s : State) (f : Fld) (n : Nat) : (s.addSat f n).reel = s.reel := rfl
@[simp] theorem State.addSat_dbg (s : State) (f : Fld) (n : Nat) : (s.addSat f n).dbg = s.dbg := rfl
@[simp] theorem State.addSat_pwr (s : State) (f : Fld) (n : Nat) : (s.addSat f n).pwr = s.pwr := rfl

/-! ### raiseInt changes registers alone -/

@[simp] theorem raiseInt_pending (bit : Nat) (s : State) : (raiseInt bit s).pending = s.pending := rfl
@[simp] theorem raiseInt_free (bit : Nat) (s : State) : (raiseInt bit s).free = s.free := rfl
@[simp] theorem raiseInt_core (bit : Nat) (s : State) : (raiseInt bit s).core = s.core := rfl
@[simp] theorem raiseInt_host (bit : Nat) (s : State) : (raiseInt bit s).host = s.host := rfl
@[simp] theorem raiseInt_boot (bit : Nat) (s : State) : (raiseInt bit s).boot = s.boot := rfl
@[simp] theorem raiseInt_trim (bit : Nat) (s : State) : (raiseInt bit s).trim = s.trim := rfl
@[simp] theorem raiseInt_log (bit : Nat) (s : State) : (raiseInt bit s).log = s.log := rfl
@[simp] theorem raiseInt_mmu (bit : Nat) (s : State) : (raiseInt bit s).mmu = s.mmu := rfl
@[simp] theorem raiseInt_q (bit : Nat) (s : State) : (raiseInt bit s).q = s.q := rfl
@[simp] theorem raiseInt_fly (bit : Nat) (s : State) : (raiseInt bit s).fly = s.fly := rfl
@[simp] theorem raiseInt_mem (bit : Nat) (s : State) : (raiseInt bit s).mem = s.mem := rfl
@[simp] theorem raiseInt_weft (bit : Nat) (s : State) : (raiseInt bit s).weft = s.weft := rfl
@[simp] theorem raiseInt_ray (bit : Nat) (s : State) : (raiseInt bit s).ray = s.ray := rfl
@[simp] theorem raiseInt_ras (bit : Nat) (s : State) : (raiseInt bit s).ras = s.ras := rfl
@[simp] theorem raiseInt_disp (bit : Nat) (s : State) : (raiseInt bit s).disp = s.disp := rfl
@[simp] theorem raiseInt_touch (bit : Nat) (s : State) : (raiseInt bit s).touch = s.touch := rfl
@[simp] theorem raiseInt_cam (bit : Nat) (s : State) : (raiseInt bit s).cam = s.cam := rfl
@[simp] theorem raiseInt_aud (bit : Nat) (s : State) : (raiseInt bit s).aud = s.aud := rfl
@[simp] theorem raiseInt_peer (bit : Nat) (s : State) : (raiseInt bit s).peer = s.peer := rfl
@[simp] theorem raiseInt_reel (bit : Nat) (s : State) : (raiseInt bit s).reel = s.reel := rfl
@[simp] theorem raiseInt_dbg (bit : Nat) (s : State) : (raiseInt bit s).dbg = s.dbg := rfl
@[simp] theorem raiseInt_pwr (bit : Nat) (s : State) : (raiseInt bit s).pwr = s.pwr := rfl

/-! ### refresh changes registers alone -/

@[simp] theorem refresh_pending (s : State) : (refresh s).pending = s.pending := rfl
@[simp] theorem refresh_free (s : State) : (refresh s).free = s.free := rfl
@[simp] theorem refresh_core (s : State) : (refresh s).core = s.core := rfl
@[simp] theorem refresh_host (s : State) : (refresh s).host = s.host := rfl
@[simp] theorem refresh_boot (s : State) : (refresh s).boot = s.boot := rfl
@[simp] theorem refresh_trim (s : State) : (refresh s).trim = s.trim := rfl
@[simp] theorem refresh_log (s : State) : (refresh s).log = s.log := rfl
@[simp] theorem refresh_mmu (s : State) : (refresh s).mmu = s.mmu := rfl
@[simp] theorem refresh_q (s : State) : (refresh s).q = s.q := rfl
@[simp] theorem refresh_fly (s : State) : (refresh s).fly = s.fly := rfl
@[simp] theorem refresh_mem (s : State) : (refresh s).mem = s.mem := rfl
@[simp] theorem refresh_weft (s : State) : (refresh s).weft = s.weft := rfl
@[simp] theorem refresh_ray (s : State) : (refresh s).ray = s.ray := rfl
@[simp] theorem refresh_ras (s : State) : (refresh s).ras = s.ras := rfl
@[simp] theorem refresh_disp (s : State) : (refresh s).disp = s.disp := rfl
@[simp] theorem refresh_touch (s : State) : (refresh s).touch = s.touch := rfl
@[simp] theorem refresh_cam (s : State) : (refresh s).cam = s.cam := rfl
@[simp] theorem refresh_aud (s : State) : (refresh s).aud = s.aud := rfl
@[simp] theorem refresh_peer (s : State) : (refresh s).peer = s.peer := rfl
@[simp] theorem refresh_reel (s : State) : (refresh s).reel = s.reel := rfl
@[simp] theorem refresh_dbg (s : State) : (refresh s).dbg = s.dbg := rfl
@[simp] theorem refresh_pwr (s : State) : (refresh s).pwr = s.pwr := rfl

/-! ### setCounter changes registers alone -/

@[simp] theorem setCounter_pending (off v : Nat) (s : State) : (setCounter off v s).pending = s.pending := rfl
@[simp] theorem setCounter_free (off v : Nat) (s : State) : (setCounter off v s).free = s.free := rfl
@[simp] theorem setCounter_core (off v : Nat) (s : State) : (setCounter off v s).core = s.core := rfl
@[simp] theorem setCounter_host (off v : Nat) (s : State) : (setCounter off v s).host = s.host := rfl
@[simp] theorem setCounter_boot (off v : Nat) (s : State) : (setCounter off v s).boot = s.boot := rfl
@[simp] theorem setCounter_trim (off v : Nat) (s : State) : (setCounter off v s).trim = s.trim := rfl
@[simp] theorem setCounter_log (off v : Nat) (s : State) : (setCounter off v s).log = s.log := rfl
@[simp] theorem setCounter_mmu (off v : Nat) (s : State) : (setCounter off v s).mmu = s.mmu := rfl
@[simp] theorem setCounter_q (off v : Nat) (s : State) : (setCounter off v s).q = s.q := rfl
@[simp] theorem setCounter_fly (off v : Nat) (s : State) : (setCounter off v s).fly = s.fly := rfl
@[simp] theorem setCounter_mem (off v : Nat) (s : State) : (setCounter off v s).mem = s.mem := rfl
@[simp] theorem setCounter_weft (off v : Nat) (s : State) : (setCounter off v s).weft = s.weft := rfl
@[simp] theorem setCounter_ray (off v : Nat) (s : State) : (setCounter off v s).ray = s.ray := rfl
@[simp] theorem setCounter_ras (off v : Nat) (s : State) : (setCounter off v s).ras = s.ras := rfl
@[simp] theorem setCounter_disp (off v : Nat) (s : State) : (setCounter off v s).disp = s.disp := rfl
@[simp] theorem setCounter_touch (off v : Nat) (s : State) : (setCounter off v s).touch = s.touch := rfl
@[simp] theorem setCounter_cam (off v : Nat) (s : State) : (setCounter off v s).cam = s.cam := rfl
@[simp] theorem setCounter_aud (off v : Nat) (s : State) : (setCounter off v s).aud = s.aud := rfl
@[simp] theorem setCounter_peer (off v : Nat) (s : State) : (setCounter off v s).peer = s.peer := rfl
@[simp] theorem setCounter_reel (off v : Nat) (s : State) : (setCounter off v s).reel = s.reel := rfl
@[simp] theorem setCounter_dbg (off v : Nat) (s : State) : (setCounter off v s).dbg = s.dbg := rfl
@[simp] theorem setCounter_pwr (off v : Nat) (s : State) : (setCounter off v s).pwr = s.pwr := rfl

/-! ### State.setFlds changes registers alone -/

@[simp] theorem State.setFlds_pending (s : State) (l : List (Fld × Nat)) : (s.setFlds l).pending = s.pending := by
  induction l generalizing s with
  | nil => rfl
  | cons e t ih => exact ih _
@[simp] theorem State.setFlds_free (s : State) (l : List (Fld × Nat)) : (s.setFlds l).free = s.free := by
  induction l generalizing s with
  | nil => rfl
  | cons e t ih => exact ih _
@[simp] theorem State.setFlds_core (s : State) (l : List (Fld × Nat)) : (s.setFlds l).core = s.core := by
  induction l generalizing s with
  | nil => rfl
  | cons e t ih => exact ih _
@[simp] theorem State.setFlds_host (s : State) (l : List (Fld × Nat)) : (s.setFlds l).host = s.host := by
  induction l generalizing s with
  | nil => rfl
  | cons e t ih => exact ih _
@[simp] theorem State.setFlds_boot (s : State) (l : List (Fld × Nat)) : (s.setFlds l).boot = s.boot := by
  induction l generalizing s with
  | nil => rfl
  | cons e t ih => exact ih _
@[simp] theorem State.setFlds_trim (s : State) (l : List (Fld × Nat)) : (s.setFlds l).trim = s.trim := by
  induction l generalizing s with
  | nil => rfl
  | cons e t ih => exact ih _
@[simp] theorem State.setFlds_log (s : State) (l : List (Fld × Nat)) : (s.setFlds l).log = s.log := by
  induction l generalizing s with
  | nil => rfl
  | cons e t ih => exact ih _
@[simp] theorem State.setFlds_mmu (s : State) (l : List (Fld × Nat)) : (s.setFlds l).mmu = s.mmu := by
  induction l generalizing s with
  | nil => rfl
  | cons e t ih => exact ih _
@[simp] theorem State.setFlds_q (s : State) (l : List (Fld × Nat)) : (s.setFlds l).q = s.q := by
  induction l generalizing s with
  | nil => rfl
  | cons e t ih => exact ih _
@[simp] theorem State.setFlds_fly (s : State) (l : List (Fld × Nat)) : (s.setFlds l).fly = s.fly := by
  induction l generalizing s with
  | nil => rfl
  | cons e t ih => exact ih _
@[simp] theorem State.setFlds_mem (s : State) (l : List (Fld × Nat)) : (s.setFlds l).mem = s.mem := by
  induction l generalizing s with
  | nil => rfl
  | cons e t ih => exact ih _
@[simp] theorem State.setFlds_weft (s : State) (l : List (Fld × Nat)) : (s.setFlds l).weft = s.weft := by
  induction l generalizing s with
  | nil => rfl
  | cons e t ih => exact ih _
@[simp] theorem State.setFlds_ray (s : State) (l : List (Fld × Nat)) : (s.setFlds l).ray = s.ray := by
  induction l generalizing s with
  | nil => rfl
  | cons e t ih => exact ih _
@[simp] theorem State.setFlds_ras (s : State) (l : List (Fld × Nat)) : (s.setFlds l).ras = s.ras := by
  induction l generalizing s with
  | nil => rfl
  | cons e t ih => exact ih _
@[simp] theorem State.setFlds_disp (s : State) (l : List (Fld × Nat)) : (s.setFlds l).disp = s.disp := by
  induction l generalizing s with
  | nil => rfl
  | cons e t ih => exact ih _
@[simp] theorem State.setFlds_touch (s : State) (l : List (Fld × Nat)) : (s.setFlds l).touch = s.touch := by
  induction l generalizing s with
  | nil => rfl
  | cons e t ih => exact ih _
@[simp] theorem State.setFlds_cam (s : State) (l : List (Fld × Nat)) : (s.setFlds l).cam = s.cam := by
  induction l generalizing s with
  | nil => rfl
  | cons e t ih => exact ih _
@[simp] theorem State.setFlds_aud (s : State) (l : List (Fld × Nat)) : (s.setFlds l).aud = s.aud := by
  induction l generalizing s with
  | nil => rfl
  | cons e t ih => exact ih _
@[simp] theorem State.setFlds_peer (s : State) (l : List (Fld × Nat)) : (s.setFlds l).peer = s.peer := by
  induction l generalizing s with
  | nil => rfl
  | cons e t ih => exact ih _
@[simp] theorem State.setFlds_reel (s : State) (l : List (Fld × Nat)) : (s.setFlds l).reel = s.reel := by
  induction l generalizing s with
  | nil => rfl
  | cons e t ih => exact ih _
@[simp] theorem State.setFlds_dbg (s : State) (l : List (Fld × Nat)) : (s.setFlds l).dbg = s.dbg := by
  induction l generalizing s with
  | nil => rfl
  | cons e t ih => exact ih _
@[simp] theorem State.setFlds_pwr (s : State) (l : List (Fld × Nat)) : (s.setFlds l).pwr = s.pwr := by
  induction l generalizing s with
  | nil => rfl
  | cons e t ih => exact ih _

/-! ### Lists -/

/-- The element at one position of a list after setAt. -/
theorem getElem?_setAt {α : Type} (l : List α) (i j : Nat) (x : α) :
    (setAt l i x)[j]? = if i = j ∧ i < l.length then some x else l[j]? := by
  induction l generalizing i j with
  | nil => simp [setAt]
  | cons h t ih =>
    cases i with
    | zero => cases j <;> simp [setAt]
    | succ i =>
      cases j with
      | zero => simp [setAt]
      | succ j => simp [setAt, ih]

@[simp] theorem length_setAt {α : Type} (l : List α) (i : Nat) (x : α) : (setAt l i x).length = l.length := by
  induction l generalizing i with
  | nil => rfl
  | cons h t ih => cases i <;> simp [setAt, ih]

end Sys2Proof.Machine
end

