-- ==== Sys2Proof/Laws/Ply.lean ====
section
/-! SUPPORT. The registers of a ply after a result is written, and what an issue that retires does. -/

namespace Sys2Proof.Machine

open Sys2Proof Sys2Proof.Safety

/-! ### Registers of a ply -/

theorem Ply.vget_vset (y : Ply) (r l v r' l' : Nat) (h : l < 32) (h' : l' < 32) :
    (y.vset r l v).vget r' l' = if r = r' ∧ l = l' then v % 2 ^ 32 else y.vget r' l' := by
  simp only [Ply.vget, Ply.vset, Sparse.get_put]
  by_cases e : r = r' ∧ l = l'
  · obtain ⟨rfl, rfl⟩ := e; simp
  · rw [if_neg e, if_neg (by omega)]

theorem Ply.sget_sset (y : Ply) (r v r' : Nat) : (y.sset r v).sget r' = if r = r' then v % 2 ^ 32 else y.sget r' := by
  simp only [Ply.sget, Ply.sset, Sparse.get_put]
  split <;> simp

@[simp] theorem Ply.sget_vset (y : Ply) (r l v q : Nat) : (y.vset r l v).sget q = y.sget q := rfl
@[simp] theorem Ply.vget_sset (y : Ply) (r v q l : Nat) : (y.sset r v).vget q l = y.vget q l := rfl

/-- The lane registers after one write to a specifier. -/
theorem Ply.vget_wr (y : Ply) (n l v r l' : Nat) (hl : l < 32) (hl' : l' < 32) (hr : r < 128) :
    (y.wr n l v).vget r l' = if n = r ∧ l = l' then v % 2 ^ 32 else y.vget r l' := by
  unfold Ply.wr
  by_cases h : spV n
  · rw [if_pos h, Ply.vget_vset _ _ _ _ _ _ hl hl']
  · have : n ≠ r := by simp [spV] at h; omega
    rw [if_neg h]
    split <;> simp [this]

/-- The scalars after one write to a specifier. -/
theorem Ply.sget_wr (y : Ply) (n l v r : Nat) (hr : r < 32) :
    (y.wr n l v).sget r = if n = 0x80 + r then v % 2 ^ 32 else y.sget r := by
  unfold Ply.wr
  by_cases h : spV n
  · rw [if_pos h, Ply.sget_vset, if_neg]; simp [spV] at h; omega
  · rw [if_neg h]
    by_cases hs : spS n
    · rw [if_pos hs, Ply.sget_sset]
      simp [spS] at hs
      by_cases e : n = 0x80 + r
      · rw [if_pos e, if_pos (by omega)]
      · rw [if_neg e, if_neg (by omega)]
    · rw [if_neg hs, if_neg]
      rintro rfl; simp [spS] at hs; omega

/-- A specifier whose pair a 64-bit value may go to, or ZERO; any specifier for narrower types. -/
def dstForm (t d : Nat) : Prop := is64 t = true → spZero d ∨ (spV d ∧ d % 2 = 0) ∨ (spS d ∧ d % 2 = 0)

theorem dstForm_of_dstOk {vr t d : Nat} (h : dstOk vr t d = true) : dstForm t d := by
  intro ht
  simp only [dstOk, ht, if_true, pair64, Bool.or_eq_true, Bool.and_eq_true, decide_eq_true_eq] at h
  rcases h with (⟨⟨a, b⟩, _⟩ | ⟨a, b⟩) | a
  · exact .inr (.inl ⟨a, b⟩)
  · exact .inr (.inr ⟨a, b⟩)
  · exact .inl a

/-- The lane registers after one typed write. -/
theorem Ply.vget_wrT (y : Ply) (t d l v r l' : Nat) (hd : dstForm t d) (hl : l < 32) (hl' : l' < 32) (hr : r < 128) :
    (y.wrT t d l v).vget r l' =
      if l = l' ∧ r = d then v % 2 ^ 32
      else if l = l' ∧ is64 t ∧ spV d ∧ r = d + 1 then v / 2 ^ 32 % 2 ^ 32 else y.vget r l' := by
  unfold Ply.wrT
  by_cases h : is64 t
  · rw [if_pos h]
    by_cases hz : spZero d
    · have : d = 0xC0 := by simpa [spZero] using hz
      rw [if_pos hz, if_neg (by omega), if_neg (by simp [spV]; omega)]
    · rw [if_neg hz, Ply.vget_wr _ _ _ _ _ _ hl hl' hr, Ply.vget_wr _ _ _ _ _ _ hl hl' hr]
      have hd' := hd h
      simp only [hz, Bool.false_eq_true, false_or] at hd'
      simp only [h, true_and, Nat.mod_mod]
      rcases hd' with ⟨hv, he⟩ | ⟨hv, he⟩
      · simp only [hv, true_and]
        by_cases e1 : d + 1 = r ∧ l = l'
        · rw [if_pos e1, if_neg (by omega), if_pos (by omega)]
        · rw [if_neg e1]
          by_cases e2 : d = r ∧ l = l'
          · rw [if_pos e2, if_pos (by omega)]
          · rw [if_neg e2, if_neg (by omega), if_neg (by omega)]
      · have hd80 : 0x80 ≤ d := by simp [spS] at hv; omega
        rw [if_neg (by omega), if_neg (by omega), if_neg (by omega), if_neg (by simp [spV]; omega)]
  · rw [if_neg h, Ply.vget_wr _ _ _ _ _ _ hl hl' hr]
    simp only [h, false_and, and_false, if_false, Bool.false_eq_true]
    by_cases e : d = r ∧ l = l'
    · rw [if_pos e, if_pos (by omega)]
    · rw [if_neg e, if_neg (by omega)]

/-- The scalars after one typed write. -/
theorem Ply.sget_wrT (y : Ply) (t d l v r : Nat) (hd : dstForm t d) (hr : r < 32) :
    (y.wrT t d l v).sget r =
      if 0x80 + r = d then v % 2 ^ 32
      else if is64 t ∧ spS d ∧ 0x80 + r = d + 1 then v / 2 ^ 32 % 2 ^ 32 else y.sget r := by
  unfold Ply.wrT
  by_cases h : is64 t
  · rw [if_pos h]
    by_cases hz : spZero d
    · have : d = 0xC0 := by simpa [spZero] using hz
      rw [if_pos hz, if_neg (by omega), if_neg (by simp [spS]; omega)]
    · rw [if_neg hz, Ply.sget_wr _ _ _ _ _ hr, Ply.sget_wr _ _ _ _ _ hr]
      have hd' := hd h
      simp only [hz, Bool.false_eq_true, false_or] at hd'
      simp only [h, true_and, Nat.mod_mod]
      rcases hd' with ⟨hv, he⟩ | ⟨hv, he⟩
      · have hd80 : d < 0x80 := by simpa [spV] using hv
        rw [if_neg (by omega), if_neg (by omega), if_neg (by omega), if_neg (by simp [spS]; omega)]
      · simp only [hv, true_and]
        by_cases e1 : d + 1 = 0x80 + r
        · rw [if_pos e1, if_neg (by omega), if_pos (by omega)]
        · rw [if_neg e1]
          by_cases e2 : d = 0x80 + r
          · rw [if_pos e2, if_pos (by omega)]
          · rw [if_neg e2, if_neg (by omega), if_neg (by omega)]
  · rw [if_neg h, Ply.sget_wr _ _ _ _ _ hr]
    simp only [h, false_and, if_false, Bool.false_eq_true]
    by_cases e : d = 0x80 + r
    · rw [if_pos e, if_pos (by omega)]
    · rw [if_neg e, if_neg (by omega)]

/-- What a typed write leaves alone: everything of the ply but its lane registers and scalars. -/
theorem Ply.wrT_rest (y : Ply) (t d l v : Nat) : { y.wrT t d l v with v := y.v, sc := y.sc } = y := by
  have hw : ∀ (y : Ply) (n l v : Nat), { y.wr n l v with v := y.v, sc := y.sc } = y := by
    intro y n l v; unfold Ply.wr; split
    · rfl
    · split <;> rfl
  unfold Ply.wrT
  split
  · split
    · rfl
    · have h1 := hw y d l (v % 2 ^ 32)
      have h2 := hw (y.wr d l (v % 2 ^ 32)) (d + 1) l (v / 2 ^ 32)
      generalize y.wr d l (v % 2 ^ 32) = z at h1 h2
      generalize z.wr (d + 1) l (v / 2 ^ 32) = q at h2
      rw [← h1, ← h2]
  · exact hw _ _ _ _

theorem mem_numsFrom (a n x : Nat) : x ∈ numsFrom a n ↔ a ≤ x ∧ x < a + n := by
  induction n generalizing a with
  | zero => simp [numsFrom]
  | succ n ih => simp only [numsFrom, List.mem_cons, ih]; omega

theorem nodup_numsFrom (a n : Nat) : (numsFrom a n).Nodup := by
  induction n generalizing a with
  | zero => simp [numsFrom]
  | succ n ih => simp only [numsFrom, List.nodup_cons, mem_numsFrom]; exact ⟨by omega, ih _⟩

@[simp] theorem length_numsFrom (a n : Nat) : (numsFrom a n).length = n := by
  induction n generalizing a with
  | zero => rfl
  | succ n ih => simp [numsFrom, ih]

theorem getElem?_numsFrom (a n i : Nat) : (numsFrom a n)[i]? = if i < n then some (a + i) else none := by
  induction n generalizing a i with
  | zero => simp [numsFrom]
  | succ n ih =>
    cases i with
    | zero => simp [numsFrom]
    | succ i => simp only [numsFrom, List.getElem?_cons_succ, ih]; split <;> (simp_all; try omega)

theorem mem_lanesOf (m : BitVec 32) (l : Nat) : l ∈ lanesOf m ↔ l < 32 ∧ m.getLsbD l = true := by
  simp [lanesOf, mem_numsFrom]

/-- One result per lane, lane registers and scalars, with everything else kept. -/
theorem Ply.writes_fold (t d : Nat) (f : Nat → Nat) (hd : dstForm t d) (hs : spS d = false) :
    ∀ (ls : List Nat) (y : Ply), ls.Nodup → (∀ l ∈ ls, l < 32) →
      (∀ r < 128, ∀ l < 32, (ls.foldl (fun y l => y.wrT t d l (f l)) y).vget r l =
        if l ∈ ls ∧ r = d then f l % 2 ^ 32
        else if l ∈ ls ∧ is64 t ∧ spV d ∧ r = d + 1 then f l / 2 ^ 32 % 2 ^ 32 else y.vget r l)
      ∧ (∀ r < 32, (ls.foldl (fun y l => y.wrT t d l (f l)) y).sget r = y.sget r)
      ∧ { ls.foldl (fun y l => y.wrT t d l (f l)) y with v := y.v, sc := y.sc } = y := by
  intro ls
  induction ls with
  | nil => intro y _ _; simp
  | cons a ls ih =>
    intro y hn hlt
    have hn' := List.nodup_cons.mp hn
    obtain ⟨i1, i2, i3⟩ := ih (y.wrT t d a (f a)) hn'.2 (fun l hl => hlt l (List.mem_cons_of_mem _ hl))
    have ha : a < 32 := hlt a (List.mem_cons_self)
    refine ⟨?_, ?_, ?_⟩
    · intro r hr l hl
      rw [List.foldl_cons, i1 r hr l hl, Ply.vget_wrT _ _ _ _ _ _ _ hd ha hl hr]
      by_cases e : a = l
      · subst e; simp only [hn'.1, List.mem_cons, true_or, true_and, false_and, if_false]
      · have : l ∈ a :: ls ↔ l ∈ ls := by simp [Ne.symm e]
        simp only [this, e, false_and, if_false]
    · intro r hr
      rw [List.foldl_cons, i2 r hr, Ply.sget_wrT _ _ _ _ _ _ hd hr]
      have h80 : ∀ q, q < 32 → 0x80 + q ≠ d := by intro q hq h; subst h; simp [spS] at hs; omega
      rw [if_neg (h80 r hr), if_neg (by simp [hs])]
    · rw [List.foldl_cons]
      have h1 := Ply.wrT_rest y t d a (f a)
      generalize y.wrT t d a (f a) = z at h1 i3
      generalize List.foldl (fun y l => y.wrT t d l (f l)) z ls = q at i3
      rw [← h1, ← i3]

theorem lanesOf_nodup (m : BitVec 32) : (lanesOf m).Nodup := (nodup_numsFrom _ _).filter _

/-- Ply.wrLanes writes one result per lane, and nothing else of the ply (R183, R184). -/
theorem Ply.wrLanes_writes (y : Ply) (t d : Nat) (g : BitVec 32) (f : Nat → Nat) (hd : dstForm t d) :
    Writes y (y.wrLanes t d g f) t d g f ∧ { y.wrLanes t d g f with v := y.v, sc := y.sc } = y := by
  unfold Ply.wrLanes Writes
  by_cases hs : spS d
  · rw [if_pos hs]
    have h80 : 0x80 ≤ d := by simp [spS] at hs; omega
    cases hh : (lanesOf g).head? with
    | none =>
      have hnil : lanesOf g = [] := by simpa using hh
      refine ⟨⟨?_, fun r _ => rfl⟩, rfl⟩
      intro r hr l hl
      rw [if_neg, if_neg]
      · rintro ⟨_, _, h, _⟩; simp [spV] at h; omega
      · omega
    | some a =>
      have ha : a < 32 := ((mem_lanesOf g a).mp (List.mem_of_mem_head? (by simp [hh]))).1
      refine ⟨⟨?_, ?_⟩, Ply.wrT_rest _ _ _ _ _⟩
      · intro r hr l hl
        rw [Ply.vget_wrT _ _ _ _ _ _ _ hd ha hl hr]
        have hv : spV d = false := by simp [spV]; omega
        rw [if_neg (by omega), if_neg (by simp [hv]), if_neg (by omega), if_neg (by simp [hv])]
      · intro r hr
        simp only [Ply.sget_wrT _ _ _ _ _ _ hd hr]
  · rw [if_neg hs]
    have hs' : spS d = false := by simpa using hs
    obtain ⟨h1, h2, h3⟩ := Ply.writes_fold t d f hd hs' (lanesOf g) y (lanesOf_nodup g) (fun l hl => ((mem_lanesOf g l).mp hl).1)
    refine ⟨⟨?_, ?_⟩, h3⟩
    · intro r hr l hl
      rw [h1 r hr l hl]
      have : l ∈ lanesOf g ↔ g.getLsbD l = true := by rw [mem_lanesOf]; simp [hl]
      simp only [this]
    · intro r hr
      rw [h2 r hr]
      have h80 : 0x80 + r ≠ d := by rintro rfl; simp [spS] at hs; omega
      cases (lanesOf g).head? <;> simp [h80, hs]

end Sys2Proof.Machine
end

