-- ==== Sys2Proof/Laws/Issue.lean ====
section
/-! SUPPORT. What issuing an instruction does, whatever the instruction computes: the one lemma about issue, and the frame of an
instruction of the register file that retires. -/

namespace Sys2Proof.Machine

open Sys2Proof Sys2Proof.Safety

/-- A state that keeps the registers of a list's complement keeps them through a refresh. -/
theorem regsKept_refresh {s x : State} {rs : List Nat} (h : ∀ r, r ∉ rs → x.reg r = s.reg r) : RegsKept s (refresh x) rs := by
  refine ⟨fun r hr h18 => ?_, fun h18 => ?_⟩
  · rw [reg_refresh, if_neg (Ne.symm h18)]; exact h r hr
  · have hc : conditions (refresh x) = conditions x := conditions_setReg_status x _
    rw [reg_refresh, if_pos rfl, hc, h _ h18]

/-- A state that differs from another by registers alone does so through a refresh. -/
theorem onlyRegs_refresh {s x : State} {rs : List Nat} (h : ∀ r, r ∉ rs → x.reg r = s.reg r) (h2 : { x with regs := s.regs } = s) :
    OnlyRegs s (refresh x) rs := ⟨regsKept_refresh h, h2⟩

/-- What issue hands to the instruction for the ply y at place p and PC pc. -/
def Iss.of (p : PlyId) (y : Ply) (w : W64) (pc : Nat) : Iss :=
  { k := plyKey p, y := y, w := w, pc := pc, mask := y.issuers pc, g := y.guardMask w (y.issuers pc) }

/-- A word that issues and raises no exception does what its instruction does, and the issue is noted. -/
theorem issue_of_issues {s : State} {p : PlyId} {w : W64} {uses : List Nat} {y : Ply} {pc : Nat} {opOk : Bool}
    {chk : Iss → Option Nat} {next : Iss → BitVec 32} {act : Iss → State → Act} (h : Issues s p w uses y pc) (hop : opOk = true)
    (hc : chk (Iss.of p y w pc) = none) :
    issue p w opOk uses chk next act s =
      match act (Iss.of p y w pc) s with
      | .hold s => s
      | .retire s => noteIssue (Iss.of p y w pc) s := by
  obtain ⟨h1, h2, h3, h4, h5, h6, h7, h8, h9⟩ := h
  have hb : (if y.passBp = some pc then none else bpMatch s (plyKey p) pc y.owner.ctx) = none := by
    rcases h7 with h | h
    · rw [if_pos h]
    · rw [h, ite_self]
  have hs : ((y.mem.flatMap MemOp.regs).any (fun r => (fieldRegs w uses).contains r)) = false := by
    rw [List.any_eq_false]
    intro r hr
    simpa using h8 r hr
  have hc' : chk { k := plyKey p, y := y, w := w, pc := pc, mask := y.issuers pc, g := y.guardMask w (y.issuers pc) } = none := hc
  have h9' : ¬ 2 ^ 48 ≤ pc + 8 := by omega
  unfold issue
  simp only [h1, h2, h3, h4, h5, h6, hop, hs, hc', Bool.not_true, Bool.false_eq_true, if_false, Bool.false_and, Bool.or_false,
    Bool.not_false, decide_eq_true_eq, h9', afterStep, decide_false]
  simp only [hb, if_true]
  rfl

/-- The spindle's own counters: bump leaves every register but the two words of its counter. -/
theorem reg_bump (e : Bool) (off n : Nat) (s : State) (q : Nat) (h1 : q ≠ C off) (h2 : q ≠ C (off + 4)) :
    (bump e off n s).reg q = s.reg q := by
  unfold bump
  split
  · simp only [setCounter, State.reg_setReg, if_neg (Ne.symm h1), if_neg (Ne.symm h2)]
  · rfl

theorem setCounter_regs_only (off v : Nat) (s : State) : { setCounter off v s with regs := s.regs } = s := rfl

theorem bump_regs_only (e : Bool) (off n : Nat) (s : State) : { bump e off n s with regs := s.regs } = s := by
  unfold bump
  split
  · exact setCounter_regs_only _ _ _
  · rfl

theorem bumpSp_regs_only (sp off n : Nat) (s : State) : { bumpSp sp off n s with regs := s.regs } = s := bump_regs_only _ _ _ _

/-- A map over the places' plies that keeps the keys. -/
theorem find_map_keys (f : Nat → Ply → Ply) (m : List (Nat × Ply)) (k : Nat) :
    Sparse.find (m.map (fun e => (e.1, f e.1 e.2))) k = (Sparse.find m k).map (f k) := by
  induction m with
  | nil => rfl
  | cons e t ih =>
    obtain ⟨a, z⟩ := e
    simp only [List.map_cons, Sparse.find]
    by_cases h : a = k
    · simp [h]
    · simp [h, ih]

@[simp] theorem plyAt_putPly (k k' : Nat) (y : Ply) (s : State) : plyAt (putPly k y s) k' = if k = k' then some y else plyAt s k' := by
  simp [plyAt, putPly]

/-- The plies after a bump. -/
@[simp] theorem fly_bumpSp (sp off n : Nat) (s : State) : (bumpSp sp off n s).fly = s.fly := by
  unfold bumpSp bump
  split
  · exact setCounter_fly _ _ _
  · rfl

@[simp] theorem pwr_bumpSp (sp off n : Nat) (s : State) : (bumpSp sp off n s).pwr = s.pwr := by
  unfold bumpSp bump
  split
  · exact setCounter_pwr _ _ _
  · rfl

theorem skipOf_map (f : Nat → Nat) (l : Nat) (h : l < 32) : (((numsFrom 0 32).map f)[l]?).getD 0 = f l := by
  rw [List.getElem?_map, getElem?_numsFrom, if_pos h]; simp

/-- What is left of an issue: after the store of the ply, the PCs and the note, the ply has issued. -/
theorem noteIssue_issued (s : State) (p : PlyId) (w : W64) (y y1 : Ply) (pc : Nat) (f : Nat → Nat) (y0 : Ply)
    (hy : plyAt s (plyKey p) = some y0) (hp : y1.pcs = y.pcs) :
    ∃ y', Issued s (refresh (noteIssue (Iss.of p y w pc) (setPcs (plyKey p) (y.issuers pc) f (putPly (plyKey p) y1 s)))) p y y1 y' pc f
      ∧ y'.v = y1.v ∧ y'.sc = y1.sc ∧ y'.pr = y1.pr ∧ y'.fpflags = y1.fpflags ∧ y'.tbLatch = y1.tbLatch := by
  have hp : ∀ l, y1.pcOf l = y.pcOf l := by intro l; simp only [Ply.pcOf, hp]
  let pcs' := (numsFrom 0 32).map (fun l => if (y.issuers pc).getLsbD l then f l else y1.pcOf l)
  let rdy := y.readyMask
  let skip' := (numsFrom 0 32).map (fun l =>
      if (y.issuers pc).getLsbD l then 0 else if rdy.getLsbD l then satN 64 (y.skipOf l + 1) else y.skipOf l)
  let y' : Ply := { y1 with pcs := pcs', skip := skip', unchosen := 0, passBp := none, passBkpt := none }
  let s1 := setPcs (plyKey p) (y.issuers pc) f (putPly (plyKey p) y1 s)
  have hs1 : s1 = putPly (plyKey p) { y1 with pcs := pcs' } (putPly (plyKey p) y1 s) := by
    simp only [s1, setPcs, plyAt_putPly, if_true]; rfl
  have hat : plyAt s1 (plyKey p) = some { y1 with pcs := pcs' } := by rw [hs1]; simp
  let m2 := s1.fly.plies.map (fun e =>
      if flyOf e.1 = flyOf (plyKey p) && e.1 ≠ plyKey p then (e.1, { e.2 with unchosen := e.2.unchosen + 1 }) else e)
  let s2 : State := { s1 with fly := { s1.fly with plies := m2 } }
  let s3 := putPly (plyKey p) y' s2
  let base := 0x100 + 0x40 * (flyOf (plyKey p) % 4)
  let s4 := bumpSp (spOf (plyKey p)) base 1 s3
  let s5 := bumpSp (spOf (plyKey p)) (base + 8) (lanesOf (y.issuers pc)).length s4
  let s6 := if s5.pwr.issued.contains (spOf (plyKey p)) then s5
    else { s5 with pwr := { s5.pwr with issued := s5.pwr.issued ++ [spOf (plyKey p)] } }
  have hn : noteIssue (Iss.of p y w pc) s1 = s6 := by
    unfold noteIssue
    rw [show (Iss.of p y w pc).k = plyKey p from rfl, hat]
    rfl
  have hfly : (refresh s6).fly = s3.fly := by
    have : s6.fly = s5.fly := by simp only [s6]; split <;> rfl
    rw [refresh_fly, this, show s5.fly = s4.fly from fly_bumpSp _ _ _ _, show s4.fly = s3.fly from fly_bumpSp _ _ _ _]
  refine ⟨y', ?_, rfl, rfl, rfl, rfl, rfl⟩
  show Issued s (refresh (noteIssue (Iss.of p y w pc) s1)) p y y1 y' pc f
  rw [hn]
  refine ⟨?_, ?_, ?_, rfl, rfl, rfl, rfl, ?_, ?_, ?_⟩
  · show plyAt (refresh s6) (plyKey p) = some y'
    unfold plyAt; rw [hfly]
    show plyAt s3 (plyKey p) = some y'
    simp [s3]
  · intro l hl
    have : y'.pcOf l = if (y.issuers pc).getLsbD l then f l else y1.pcOf l := by
      show (pcs'[l]?).getD 0 = _
      exact skipOf_map _ l hl
    rw [this, hp]
  · intro l hl
    show (skip'[l]?).getD 0 = _
    exact skipOf_map _ l hl
  · intro k hk
    show plyAt (refresh s6) k = _
    unfold plyAt; rw [hfly]
    show plyAt s3 k = _
    simp only [s3, plyAt_putPly, if_neg (Ne.symm hk)]
    show Sparse.find m2 k = _
    have hm2 : m2 = s1.fly.plies.map (fun e => (e.1,
        if flyOf e.1 = flyOf (plyKey p) && e.1 ≠ plyKey p then { e.2 with unchosen := e.2.unchosen + 1 } else e.2)) := by
      apply List.map_congr_left
      rintro ⟨a, z⟩ _
      by_cases h : flyOf a = flyOf (plyKey p) && a ≠ plyKey p
      · rw [if_pos h, if_pos h]
      · rw [if_neg h, if_neg h]
    rw [hm2, find_map_keys (fun a z => if flyOf a = flyOf (plyKey p) && a ≠ plyKey p then { z with unchosen := z.unchosen + 1 } else z)]
    have hk1 : Sparse.find s1.fly.plies k = plyAt s k := by
      show plyAt s1 k = plyAt s k
      rw [hs1]; simp [Ne.symm hk]
    rw [hk1]
    congr 1
    funext z
    by_cases h : flyOf k = flyOf (plyKey p)
    · have h' : k / 16 = plyKey p / 16 := h
      simp [h, h', hk]
    · have h' : ¬ k / 16 = plyKey p / 16 := h
      simp [h, h']
  · apply regsKept_refresh
    intro r hr
    have hc : ∀ n, n < 16 → r ≠ C (0x100000 + plyKey p / 64 * 0x1000 + 0x100 + 0x40 * (plyKey p / 16 % 4) + 4 * n) :=
      fun n hn h => hr (List.mem_map.mpr ⟨n, List.mem_range.mpr hn, h.symm⟩)
    have e1 : s6.reg r = s5.reg r := by simp only [s6]; split <;> rfl
    have e2 : s5.reg r = s4.reg r := by
      apply reg_bump
      · intro h; apply hc 2 (by omega); rw [h]; simp [base, C_eq, spOf, flyOf]; omega
      · intro h; apply hc 3 (by omega); rw [h]; simp [base, C_eq, spOf, flyOf]; omega
    have e3 : s4.reg r = s3.reg r := by
      apply reg_bump
      · intro h; apply hc 0 (by omega); rw [h]; simp [base, C_eq, spOf, flyOf]; omega
      · intro h; apply hc 1 (by omega); rw [h]; simp [base, C_eq, spOf, flyOf]; omega
    rw [e1, e2, e3]
    show s2.reg r = s.reg r
    show s1.reg r = s.reg r
    rw [hs1]; rfl
  · have e4 : { s4 with regs := s3.regs } = s3 := bumpSp_regs_only _ _ _ _
    have e5 : { s5 with regs := s4.regs } = s4 := bumpSp_regs_only _ _ _ _
    have e6 : { refresh s6 with regs := s.regs, pwr := { (refresh s6).pwr with issued := s.pwr.issued } } =
        { s5 with regs := s.regs, pwr := { s5.pwr with issued := s.pwr.issued } } := by
      simp only [s6]; split <;> rfl
    have e3 : { s3 with regs := s.regs, fly := { s3.fly with plies := s.fly.plies }, pwr := { s3.pwr with issued := s.pwr.issued } } = s := by
      simp only [s3, s2, hs1]; rfl
    calc { refresh s6 with
            regs := s.regs, fly := { (refresh s6).fly with plies := s.fly.plies }
            pwr := { (refresh s6).pwr with issued := s.pwr.issued } }
        = { { refresh s6 with regs := s.regs, pwr := { (refresh s6).pwr with issued := s.pwr.issued } } with
              fly := { (refresh s6).fly with plies := s.fly.plies } } := rfl
      _ = { s5 with
              regs := s.regs, fly := { s5.fly with plies := s.fly.plies }, pwr := { s5.pwr with issued := s.pwr.issued } } := by
            rw [e6, hfly, show s5.fly = s3.fly from (fly_bumpSp _ _ _ _).trans (fly_bumpSp _ _ _ _)]
      _ = { { s5 with regs := s4.regs } with
              regs := s.regs, fly := { s5.fly with plies := s.fly.plies }, pwr := { s5.pwr with issued := s.pwr.issued } } := rfl
      _ = { { s4 with regs := s3.regs } with
              regs := s.regs, fly := { s4.fly with plies := s.fly.plies }, pwr := { s4.pwr with issued := s.pwr.issued } } := by
            rw [e5, show s5.fly = s4.fly from fly_bumpSp _ _ _ _, show s5.pwr = s4.pwr from pwr_bumpSp _ _ _ _]
      _ = s := by
            rw [e4, show s4.fly = s3.fly from fly_bumpSp _ _ _ _, show s4.pwr = s3.pwr from pwr_bumpSp _ _ _ _]
            exact e3

/-- The frame of an instruction that writes only its ply's registers. -/
theorem noteIssue_retired (s : State) (p : PlyId) (w : W64) (y y1 : Ply) (pc : Nat) (f : Nat → Nat) (hy : plyAt s (plyKey p) = some y)
    (h1 : { y1 with v := y.v, sc := y.sc, pr := y.pr, fpflags := y.fpflags, tbLatch := y.tbLatch } = y) :
    ∃ y', Retired s (refresh (noteIssue (Iss.of p y w pc) (setPcs (plyKey p) (y.issuers pc) f (putPly (plyKey p) y1 s)))) p y y' pc f
      ∧ y'.v = y1.v ∧ y'.sc = y1.sc ∧ y'.pr = y1.pr ∧ y'.fpflags = y1.fpflags ∧ y'.tbLatch = y1.tbLatch := by
  have hp : y1.pcs = y.pcs := by rw [← h1]
  obtain ⟨y', h, e1, e2, e3, e4, e5⟩ := noteIssue_issued s p w y y1 pc f y hy hp
  refine ⟨y', ?_, e1, e2, e3, e4, e5⟩
  have : { y with v := y'.v, sc := y'.sc, pr := y'.pr, fpflags := y'.fpflags, tbLatch := y'.tbLatch } = y1 := by
    rw [e1, e2, e3, e4, e5, ← h1]
  unfold Retired
  rw [this]; exact h

end Sys2Proof.Machine
end

