-- ==== Sys2Proof/Laws/Alu.lean ====
section
/-! SUPPORT. The one lemma about instructions of the register file (aluOp), and masks of lanes. -/

namespace Sys2Proof.Machine

open Sys2Proof Sys2Proof.Safety

theorem numsFrom_succ_right (a n : Nat) : numsFrom a (n + 1) = numsFrom a n ++ [a + n] := by
  induction n generalizing a with
  | zero => rfl
  | succ n ih =>
    show a :: numsFrom (a + 1) (n + 1) = _
    rw [ih (a + 1)]
    show _ = a :: (numsFrom (a + 1) n ++ [a + (n + 1)])
    simp; omega

/-- A sum of single bits at distinct places has exactly those bits. -/
theorem bitSum_spec (f : Nat → Bool) (n : Nat) :
    (numsFrom 0 n).foldl (fun a i => a + bitVal (f i) i) 0 < 2 ^ n ∧
      ∀ j, ((numsFrom 0 n).foldl (fun a i => a + bitVal (f i) i) 0).testBit j = (decide (j < n) && f j) := by
  induction n with
  | zero => simp [numsFrom]
  | succ n ih =>
    obtain ⟨i1, i2⟩ := ih
    rw [numsFrom_succ_right, List.foldl_append]
    simp only [List.foldl_cons, List.foldl_nil, Nat.zero_add]
    generalize (numsFrom 0 n).foldl (fun a i => a + bitVal (f i) i) 0 = x at i1 i2
    cases hf : f n with
    | false =>
      simp only [bitVal, Bool.false_eq_true, if_false, Nat.add_zero]
      refine ⟨by rw [Nat.pow_succ]; omega, fun j => ?_⟩
      rw [i2]
      by_cases h : j = n
      · subst h; simp [hf]
      · have : j < n ↔ j < n + 1 := by omega
        simp [this]
    | true =>
      simp only [bitVal, if_true]
      refine ⟨by rw [Nat.pow_succ]; omega, fun j => ?_⟩
      have e : x + 2 ^ n = 2 ^ n * 1 ||| x := by rw [← Nat.two_pow_add_eq_or_of_lt i1]; omega
      rw [e, Nat.testBit_or, i2, Nat.mul_one, Nat.testBit_two_pow]
      by_cases h : j = n
      · subst h; simp [hf]
      · have h1 : j < n ↔ j < n + 1 := by omega
        simp [h1, Ne.symm h]

/-- The bits of a mask made from a test of the lane. -/
@[simp] theorem maskOf_getLsbD (f : Nat → Bool) (l : Nat) : (maskOf f).getLsbD l = (decide (l < 32) && f l) := by
  unfold maskOf
  rw [BitVec.getLsbD_ofNat, (bitSum_spec f 32).2]
  by_cases h : l < 32 <;> simp [h]

/-- An issued instruction of the register file that raises no exception writes its result lane by lane, and the flags it raises. -/
theorem aluOp_retires {s : State} {p : PlyId} {w : W64} {y : Ply} {pc op nsrc : Nat} {types : List Nat} {iform : Bool}
    {subOk : Nat → Bool} {f : Nat → Nat → Nat → Nat → Nat → Nat × Fl}
    (h : Issues s p w (wD w :: wA w :: (if wIform w then [] else if nsrc = 3 then [wB w, wC w] else if nsrc = 2 then [wB w] else []))
      y pc)
    (hop : wOp w = op ∨ iform = true ∧ wOp w = op + 1) (ht : types.contains (wType w) = true)
    (hd : dstOk y.vregs (wType w) (wD w) = true) (ha : srcOk y.vregs (wType w) (wA w) = true)
    (hb : wIform w = true ∨ nsrc < 2 ∨ srcOk y.vregs (wType w) (wB w) = true)
    (hc : wIform w = true ∨ nsrc < 3 ∨ srcOk y.vregs (wType w) (wC w) = true)
    (hs : wIform w = true ∨ subOk (mSub (wMod w)) = true) :
    let g := y.guardMask w (y.issuers pc)
    let val := fun l => f (wType w) (wMod' w) (y.rdT (wType w) (wA w) l)
      (if wIform w then (if wType w = 5 then wrapN 64 (signedN 32 (wImm w)) else wImm w) else y.rdT (wType w) (wB w) l)
      (y.rdT (wType w) (wC w) l)
    ∃ t y', done (aluOp op types iform nsrc subOk f p w s) = .next t ∧ Retired s t p y y' pc (fun _ => pc + 8)
      ∧ Writes y y' (wType w) (wD w) g (fun l => (val l).1)
      ∧ y'.fpflags = y.fpflags ||| BitVec.ofNat 5 ((lanesOf g).foldl (fun a l => a ||| (val l).2) 0)
      ∧ y'.pr = y.pr ∧ y'.tbLatch = y.tbLatch := by
  intro g val
  let y1 := (y.wrLanes (wType w) (wD w) g (fun l => (val l).1)).orFlags ((lanesOf g).foldl (fun a l => a ||| (val l).2) 0)
  have hw := Ply.wrLanes_writes y (wType w) (wD w) g (fun l => (val l).1) (dstForm_of_dstOk hd)
  have hrest : { y1 with v := y.v, sc := y.sc, pr := y.pr, fpflags := y.fpflags, tbLatch := y.tbLatch } = y := by
    have h2 := hw.2
    simp only [y1, Ply.orFlags]
    generalize y.wrLanes (wType w) (wD w) g (fun l => (val l).1) = z at h2
    rw [← h2]
  obtain ⟨y', hr, e1, e2, e3, e4, e5⟩ := noteIssue_retired s p w y y1 pc (fun _ => pc + 8) h.2.1 hrest
  have hz : ∀ z : Ply, { z with v := y.v, sc := y.sc } = y → z.pr = y.pr ∧ z.fpflags = y.fpflags ∧ z.tbLatch = y.tbLatch := by
    intro z hz; rw [← hz]; exact ⟨rfl, rfl, rfl⟩
  obtain ⟨z1, z2, z3⟩ := hz _ hw.2
  refine ⟨_, y', ?_, hr, ?_, ?_, ?_, ?_⟩
  · unfold aluOp done
    rw [issue_of_issues h]
    · rfl
    · simp only [Bool.or_eq_true, Bool.and_eq_true, decide_eq_true_eq]; exact hop
    · have q1 : (wIform w || decide (nsrc < 2) || srcOk y.vregs (wType w) (wB w)) = true := by
        simp only [Bool.or_eq_true, decide_eq_true_eq]; tauto
      have q2 : (wIform w || decide (nsrc < 3) || srcOk y.vregs (wType w) (wC w)) = true := by
        simp only [Bool.or_eq_true, decide_eq_true_eq]; tauto
      have q3 : (wIform w || subOk (mSub (wMod w))) = true := by simp only [Bool.or_eq_true]; exact hs
      simp only [Iss.of, firstCode, ht, if_true, hd, ha, q1, q2, q3, Bool.and_self]
  · have := hw.1
    unfold Writes Ply.vget Ply.sget at this ⊢
    rw [e1, e2]; exact this
  · rw [e4]; simp only [y1, Ply.orFlags, z2]
  · rw [e3]; exact z1
  · rw [e5]; exact z3

/-- The one lemma about instructions that store their ply, set the PCs of the issuing threads and retire: what f leaves of the ply's
registers, flags and timebase latch stands, and the rest is as an issue leaves it. -/
theorem storePly_retires {s : State} {p : PlyId} {w : W64} {uses : List Nat} {y : Ply} {pc : Nat} {opOk : Bool}
    {chk : Iss → Option Nat} {next : Iss → BitVec 32} {act : Iss → State → Act} {tgt : Nat → Nat} {y1 : Ply}
    (h : Issues s p w uses y pc) (hop : opOk = true) (hc : chk (Iss.of p y w pc) = none)
    (ha : act (Iss.of p y w pc) s = .retire (setPcs (plyKey p) (y.issuers pc) tgt (putPly (plyKey p) y1 s)))
    (hrest : { y1 with v := y.v, sc := y.sc, pr := y.pr, fpflags := y.fpflags, tbLatch := y.tbLatch } = y) :
    ∃ t y', done (issue p w opOk uses chk next act s) = .next t ∧ Retired s t p y y' pc tgt
      ∧ y'.v = y1.v ∧ y'.sc = y1.sc ∧ y'.pr = y1.pr ∧ y'.fpflags = y1.fpflags ∧ y'.tbLatch = y1.tbLatch := by
  obtain ⟨y', hr, e⟩ := noteIssue_retired s p w y y1 pc tgt h.2.1 hrest
  refine ⟨_, y', ?_, hr, e⟩
  unfold done
  rw [issue_of_issues h hop hc, ha]

/-- The lanes of a predicate after a write to one. -/
theorem Ply.pget_pset (y : Ply) (r q : Nat) (m : BitVec 32) : (y.pset r m).pget q = if r = q then m else y.pget q := by
  simp [Ply.pget, Ply.pset]

/-- A predicate written in the lanes of a mask. -/
theorem Ply.pget_wrPred (y : Ply) (d q l : Nat) (m : BitVec 32) (f : Nat → Bool) (hl : l < 32) :
    ((y.wrPred d m f).pget q).getLsbD l = if q = d - 0xA0 ∧ m.getLsbD l then f l else (y.pget q).getLsbD l := by
  simp only [Ply.wrPred, Ply.pget_pset]
  by_cases h : d - 0xA0 = q
  · rw [if_pos h]
    simp only [BitVec.getLsbD_or, BitVec.getLsbD_and, BitVec.getLsbD_not, maskOf_getLsbD, hl, h]
    cases hm : m.getLsbD l <;> simp
  · rw [if_neg h, if_neg (fun e => h e.1.symm)]

end Sys2Proof.Machine
end

