-- ==== Sys2Proof/Tests/Slice0.lean ====
section
/-! SUPPORT. Tests: a smoke test of every check of WellFormed, single steps on small states with results taken from the tables of spec/, and
witnesses of the hypotheses of the statements. -/

set_option maxRecDepth 20000

open Sys2Proof Sys2Proof.Machine Sys2Proof.Safety

namespace Sys2Proof.Tests

/-! ### WellFormed -/

/-- A word with an opcode and SUB. -/
def wordOf (op sub : Nat) : W64 := BitVec.ofNat 64 (op * 2 ^ 56 + sub * 16)

/-- Place 0 of spindle 0. -/
def p0 : PlyId := ⟨0, 0, 0⟩

/-- A slot image of n bytes. -/
def imageOf (n : Nat) : SlotImage := ⟨List.replicate n 0#8, 0#32⟩

theorem test_wf_header : Instr.wf (.headerReadDone (List.replicate 31 0#8)) = false := by decide
theorem test_wf_trim_phase : Instr.wf (.trimPhaseDone (imageOf 0) (imageOf 0xFFFD)) = false := by
  simp only [Instr.wf, imageOf, List.length_replicate]; decide
theorem test_wf_reapply : Instr.wf (.reapplyDone (imageOf 0xFFFD) (imageOf 0)) = false := by
  simp only [Instr.wf, imageOf, List.length_replicate]; decide
theorem test_wf_register : Instr.wf (.registerWrite 2#25 0#32) = false := by decide
theorem test_wf_counter : Instr.wf (.counterLoRead 0x90104#24) = false := by decide
theorem test_wf_aux : Instr.wf (.auxReply 0 0#2 (List.replicate 17 0#8)) = false := by decide
theorem test_wf_line : ∀ n, 65536 ≤ n → Instr.wf (.linePacket 0 0 0 (List.replicate n 0#8) true true none) = false := by
  intro n h; simp only [Instr.wf, List.length_replicate, decide_eq_false_iff_not]; omega
theorem test_wf_flit : Instr.wf (.flitReceive 0 (List.replicate 255 0#8)) = false := by decide
theorem test_wf_learned : Instr.wf (.trainStepDone 0 .ok [1#32]) = false := by decide
theorem test_wf_boundary : Instr.wf (.samplePreload [true] []) = false ∧ Instr.wf (.extest [] [true]) = false := by decide
theorem test_wf_thermal : Instr.wf (.thermalSample []) = false := by decide
theorem test_wf_boot_table : Instr.wf (.bootTableReadDone (List.replicate 15 0#8)) = false := by decide

/-- Every instruction of a flyer, with its opcode and SUB (Tables 9-4 to 9-9). -/
def isaRows : List ((W64 → Instr) × Nat × Nat) :=
  [ (.add p0, 0x00, 0), (.sub p0, 0x02, 0), (.mul p0, 0x04, 0), (.mulhi p0, 0x06, 0), (.mad p0, 0x08, 0), (.min p0, 0x0A, 0), (.max p0, 0x0C, 0)
  , (.and p0, 0x0E, 0), (.or p0, 0x10, 0), (.xor p0, 0x12, 0), (.shl p0, 0x14, 0), (.shr p0, 0x16, 0), (.bfe p0, 0x18, 0), (.popc p0, 0x1A, 0)
  , (.clz p0, 0x1A, 1), (.brev p0, 0x1A, 2), (.sel p0, 0x1C, 0), (.mov p0, 0x1E, 0), (.fadd p0, 0x20, 0), (.fmul p0, 0x22, 0), (.ffma p0, 0x24, 0)
  , (.fmin p0, 0x26, 0), (.fmax p0, 0x28, 0), (.fdiv p0, 0x2A, 0), (.fsqrt p0, 0x2C, 0), (.rcp p0, 0x2E, 0), (.rsq p0, 0x2E, 1), (.exp2 p0, 0x2E, 2)
  , (.log2 p0, 0x2E, 3), (.sin p0, 0x2E, 4), (.cos p0, 0x2E, 5) ] ++
  [ (.cvt p0, 0x40, 0), (.cvtf8Pack p0, 0x42, 1), (.cvtf8Unpack p0, 0x42, 3), (.cvtbfPack p0, 0x44, 0), (.cvtbfUnpack p0, 0x44, 1)
  , (.isetp p0, 0x50, 0), (.fsetp p0, 0x52, 0), (.plop p0, 0x54, 0), (.voteAll p0, 0x56, 0), (.voteAny p0, 0x56, 1), (.voteBallot p0, 0x56, 2)
  , (.shfl p0, 0x58, 0), (.movsr p0, 0x5A, 0), (.bra p0, 0x60, 0), (.jmp p0, 0x62, 0), (.call p0, 0x64, 0), (.callr p0, 0x66, 0), (.exit p0, 0x68, 0)
  , (.nop p0, 0x6A, 0), (.ld p0, 0x70, 0), (.st p0, 0x72, 0), (.atomAdd p0, 0x80, 0), (.atomMin p0, 0x80, 1), (.atomMax p0, 0x80, 2)
  , (.atomAnd p0, 0x80, 3), (.atomOr p0, 0x80, 4), (.atomXor p0, 0x80, 5), (.exch p0, 0x80, 6), (.cas p0, 0x80, 7), (.bar p0, 0x90, 0)
  , (.fence p0, 0x92, 0), (.twait p0, 0x94, 0), (.trace p0, 0xA0, 0), (.weft p0, 0xB0, 0), (.bkpt p0, 0xF0, 0), (.trap p0, 0xF2, 0), (.logev p0, 0xF4, 0) ]

/-- Every instruction refuses a word of another opcode and takes one of its own. -/
theorem test_wf_opcode : (isaRows.all fun e => (e.1 (wordOf 0xEE e.2.2)).wf == false && (e.1 (wordOf e.2.1 e.2.2)).wf) = true := by decide

/-- Where Tables 9-5 to 9-8 and R225 give an instruction a SUB of its own, another SUB is refused. -/
theorem test_wf_sub : (isaRows.all fun e =>
    !([0x1A, 0x2E, 0x42, 0x44, 0x56, 0x80].contains e.2.1) || (e.1 (wordOf e.2.1 ((e.2.2 + 4) % 8))).wf == false) = true := by decide

/-! ### Single steps -/

/-- The interior runs, the functions are released, context 1 runs (Table 7-1). -/
def upS : State :=
  let s : State := { State.reset with
    core := { State.reset.core with mclk := true, timebase := 5#64 }, boot := { State.reset.boot with released := true } }
  s.setFlds [(fPhase, 7), (fReady, 1), (fDramReady, 1), (fDramGib, 16), (⟨C 0xE0000, 23, 16⟩, 16), (fQState 1, 2), (fQState 0, 2)]

/-- A ply of context 1 with two threads at PC 0x1000, v0 = 0xFFFFFFFF and v1 = 2 in lane 0, v0 = 3 and v1 = 33 in lane 1. -/
def twoThreads : Ply :=
  (((Ply.fresh { ctx := 1, source := 0, packet := 0, group := 0 } 7 16 false 0x1000 3#32).vset 0 0 0xFFFFFFFF).vset 1 0 2).vset 0 1 3 |>.vset 1 1 33

/-- upS with that ply at place 0. -/
def plyS : State := putPly 0 twoThreads upS

/-- Register r of lane l of the ply at place 0 after a command. -/
def after (c : Instr) (s : State) (f : State → Nat) : Nat :=
  match exec c s with
  | .next t => f t
  | _ => 2 ^ 70

def regAfter (r l : Nat) (t : State) : Nat := ((plyAt t 0).map (fun y => y.vget r l)).getD (2 ^ 70)

/-- D = v2, A = v0, B = v1, TYPE and MOD as given (Table 9-2). -/
def rword (op ty md : Nat) : W64 := BitVec.ofNat 64 (op * 2 ^ 56 + ty * 2 ^ 48 + 2 * 2 ^ 40 + 1 * 2 ^ 24 + md)

/-- Table 9-5: ADD wraps at 2^32. -/
theorem test_add_wraps : after (.add p0 (rword 0x00 0 0)) plyS (regAfter 2 0) = 1 := by decide +kernel
/-- Table 9-5: SUB of S32 wraps below zero. -/
theorem test_sub_wraps : after (.sub p0 (rword 0x02 1 0)) plyS (regAfter 2 1) = 0xFFFFFFE2 := by decide +kernel
/-- Table 9-5: MULHI of U32 is the high half of the 64-bit product. -/
theorem test_mulhi : after (.mulhi p0 (rword 0x06 0 0)) plyS (regAfter 2 0) = 1 := by decide +kernel
/-- Table 9-5: a shift count is taken modulo 32. -/
theorem test_shl_by_33 : after (.shl p0 (rword 0x14 0 0)) plyS (regAfter 2 1) = 6 := by decide +kernel
/-- Table 9-5: CLZ of 3. -/
theorem test_clz : after (.clz p0 (rword 0x1A 0 0x10)) plyS (regAfter 2 1) = 30 := by decide +kernel
/-- Table 22-3: the identification code. -/
theorem test_idcode : after .idcode State.reset (fun t => t.dbg.tdo.toNat) = 0xB10407AB := by decide +kernel
/-- Table 3-22: KICK reloads REMAIN with PERIOD x 16. -/
theorem test_kick : after .watchdogKick (upS.setFld fWdPeriod 9) (fun t => t.fld fWdRemain) = 144 := by decide +kernel
/-- Table 3-9: INT_STATUS is write-one-to-clear. -/
theorem test_int_clear : after (.intStatusClear 0x30#32) (upS.setReg 0x18 0x70#32) (fun t => (t.reg 0x18).toNat) = 0x40 := by decide +kernel
/-- R93: the check value of CRC-32C over the digits 1 to 9. -/
theorem test_crc32c : crc32c [0x31#8, 0x32#8, 0x33#8, 0x34#8, 0x35#8, 0x36#8, 0x37#8, 0x38#8, 0x39#8] = 0xE3069283 := by decide +kernel
/-- No row of the table spells a command in bits. -/
theorem test_no_word_decodes : decodeTableWord 64 0 = none := by decide

end Sys2Proof.Tests
end

section
/-! SUPPORT. What a write of a register's fields leaves by their access codes (R8, R9, Table 0-2). -/

namespace Sys2Proof.Machine

open Sys2Proof

/-- The bits of a field. -/
def Fd.bits (f : Fd) : W32 := withBits 0#32 f.hi f.lo (2 ^ 32 - 1)

/-- The field takes the value written to it. -/
def Fd.isRw (f : Fd) : Bool := f.acc = .rw || f.acc = .rws

/-- A one written to a bit of the field clears it. -/
def Fd.isW1c (f : Fd) : Bool := f.acc = .w1c

/-- The bits of the fields that p picks. -/
def bitsWhere (p : Fd → Bool) : List Fd → W32
  | [] => 0#32
  | f :: t => if p f then f.bits ||| bitsWhere p t else bitsWhere p t

theorem Fd.getLsbD_bits (f : Fd) {i : Nat} (h : i < 32) : f.bits.getLsbD i = decide (f.lo ≤ i ∧ i ≤ f.hi) := by
  rw [Fd.bits, withBits_getLsbD _ _ _ _ _ h, Nat.testBit_two_pow_sub_one]
  by_cases hf : f.lo ≤ i ∧ i ≤ f.hi
  · simp [hf, show i - f.lo < 32 by omega]
  · simp [hf]

theorem getLsbD_bitsWhere (p : Fd → Bool) (fs : List Fd) (i : Nat) :
    (bitsWhere p fs).getLsbD i = fs.any (fun f => p f && f.bits.getLsbD i) := by
  induction fs with
  | nil => simp [bitsWhere]
  | cons f t ih => cases hp : p f <;> simp [bitsWhere, hp, ih]

/-- A field that takes the bits of u, bit by bit. -/
theorem getLsbD_withBits_bitsOf (f : Fd) (a u : W32) {i : Nat} (h : i < 32) :
    (withBits a f.hi f.lo (bitsOf u f.hi f.lo)).getLsbD i = if f.bits.getLsbD i then u.getLsbD i else a.getLsbD i := by
  rw [withBits_getLsbD _ _ _ _ _ h, bitsOf_testBit, f.getLsbD_bits h]
  by_cases hf : f.lo ≤ i ∧ i ≤ f.hi
  · simp [hf, show i - f.lo < f.hi + 1 - f.lo by omega]
  · simp [hf]

/-- The last field of a list is written last. -/
theorem writeFields_concat (fs : List Fd) (f : Fd) (w v : W32) :
    writeFields (fs ++ [f]) w v =
      if f.isRw then withBits (writeFields fs w v) f.hi f.lo (bitsOf v f.hi f.lo)
      else if f.isW1c then withBits (writeFields fs w v) f.hi f.lo (bitsOf (w &&& ~~~v) f.hi f.lo)
      else writeFields fs w v := by
  obtain ⟨hi, lo, acc, rst, ok⟩ := f
  cases acc <;> simp [writeFields, Fd.isRw, Fd.isW1c]

/-- The last field of a list, bit by bit. -/
theorem getLsbD_writeFields_concat (fs : List Fd) (f : Fd) (w v : W32) {i : Nat} (h : i < 32) :
    (writeFields (fs ++ [f]) w v).getLsbD i =
      if f.isRw && f.bits.getLsbD i then v.getLsbD i
      else if f.isW1c && f.bits.getLsbD i then w.getLsbD i && !v.getLsbD i else (writeFields fs w v).getLsbD i := by
  have hn : (w &&& ~~~v).getLsbD i = (w.getLsbD i && !v.getLsbD i) := by
    rw [BitVec.getLsbD_and, BitVec.getLsbD_not, decide_eq_true h, Bool.true_and]
  rw [writeFields_concat]
  cases hr : f.isRw
  · cases hc : f.isW1c
    · simp
    · simp [-BitVec.getLsbD_eq_getElem, getLsbD_withBits_bitsOf f _ _ h, hn]
  · have hc : f.isW1c = false := by
      rw [Fd.isW1c, decide_eq_false_iff_not]; intro ha; rw [Fd.isRw, ha] at hr; cases hr
    simp [-BitVec.getLsbD_eq_getElem, getLsbD_withBits_bitsOf f _ _ h, hc]

/-- A write, bit by bit, at a bit that is not both of an RW and of a W1C field. -/
theorem getLsbD_writeFields (fs : List Fd) (w v : W32) {i : Nat} (h : i < 32)
    (hd : ((bitsWhere Fd.isRw fs).getLsbD i && (bitsWhere Fd.isW1c fs).getLsbD i) = false) :
    (writeFields fs w v).getLsbD i =
      if (bitsWhere Fd.isRw fs).getLsbD i then v.getLsbD i
      else if (bitsWhere Fd.isW1c fs).getLsbD i then w.getLsbD i && !v.getLsbD i else w.getLsbD i := by
  simp only [getLsbD_bitsWhere] at hd ⊢
  induction fs using List.reverseRecOn with
  | nil => rfl
  | append_singleton fs f ih =>
    simp only [List.any_append, List.any_cons, List.any_nil, Bool.or_false] at hd ⊢
    rw [getLsbD_writeFields_concat fs f w v h]
    generalize (f.isRw && f.bits.getLsbD i) = r at hd ⊢
    generalize (f.isW1c && f.bits.getLsbD i) = c at hd ⊢
    generalize fs.any (fun f => f.isRw && f.bits.getLsbD i) = rs at hd ih ⊢
    generalize fs.any (fun f => f.isW1c && f.bits.getLsbD i) = cs at hd ih ⊢
    cases r
    · cases c
      · simp_all
      · cases rs <;> simp_all
    · simp

/-- What a write leaves: RW fields take the written bits, ones clear W1C fields, all else stays (Table 0-2). -/
theorem writeFields_eq (fs : List Fd) (w v : W32) (hd : bitsWhere Fd.isRw fs &&& bitsWhere Fd.isW1c fs = 0#32) :
    writeFields fs w v =
      (w &&& ~~~(bitsWhere Fd.isRw fs ||| (bitsWhere Fd.isW1c fs &&& v))) ||| (v &&& bitsWhere Fd.isRw fs) := by
  apply BitVec.eq_of_getLsbD_eq
  intro i h
  have hi : ((bitsWhere Fd.isRw fs).getLsbD i && (bitsWhere Fd.isW1c fs).getLsbD i) = false := by
    rw [← BitVec.getLsbD_and, hd, BitVec.getLsbD_zero]
  rw [getLsbD_writeFields fs w v h hi]
  simp only [BitVec.getLsbD_or, BitVec.getLsbD_and, BitVec.getLsbD_not, h, decide_true, Bool.true_and]
  cases (bitsWhere Fd.isRw fs).getLsbD i <;> cases (bitsWhere Fd.isW1c fs).getLsbD i <;> simp

/-- A range of RW bits reads as it was written. -/
theorem bitsOf_writeFields_rw (fs : List Fd) (w v : W32) {hi lo : Nat} (hh : hi < 32)
    (hd : bitsWhere Fd.isRw fs &&& bitsWhere Fd.isW1c fs = 0#32)
    (hr : ∀ i < 32, lo ≤ i → i ≤ hi → (bitsWhere Fd.isRw fs).getLsbD i = true) :
    bitsOf (writeFields fs w v) hi lo = bitsOf v hi lo := by
  apply Nat.eq_of_testBit_eq
  intro i
  rw [bitsOf_testBit, bitsOf_testBit]
  by_cases hi' : i < hi + 1 - lo
  · have h : i + lo < 32 := by omega
    have hb := hr _ h (by omega) (by omega)
    have hx : (bitsWhere Fd.isW1c fs).getLsbD (i + lo) = false := by
      have := congrArg (·.getLsbD (i + lo)) hd
      simpa [hb] using this
    rw [getLsbD_writeFields fs w v h (by rw [hb, hx]; rfl), if_pos hb]
  · simp [hi']

end Sys2Proof.Machine
end

section
/-! SUPPORT. The host bus: when a write takes effect, and what writes that only their access codes decide leave of a state (chapter 3). -/

namespace Sys2Proof.Machine

open Sys2Proof Sys2Proof.Safety

/-! ### What a command leaves, by its next state -/

/-- A command that completes leaves what q says of the state it makes. -/
theorem ends_of_done {c : Instr} {s x : State} {q : State → Prop} (h : exec c s = done x) (hq : q (refresh x)) : Ends c s q :=
  ⟨refresh x, h, hq⟩

/-- A command that makes the state it found is idle. -/
theorem idle_of_done {c : Instr} {s : State} (h : exec c s = done s) : Idle c s :=
  ends_of_done h (onlyRegs_refresh (fun _ _ => rfl) rfl)

@[simp] theorem conditions_refresh (s : State) : conditions (refresh s) = conditions s := conditions_setReg_status s _

/-- One register written, of those of a list. -/
theorem onlyRegs_setReg {s : State} {r : Nat} {v : W32} {rs : List Nat} (h : r ∈ rs) : OnlyRegs s (refresh (s.setReg r v)) rs :=
  onlyRegs_refresh (fun q hq => by rw [State.reg_setReg, if_neg (fun e : r = q => hq (e ▸ h))]) rfl

/-! ### When writes take effect -/

theorem interior_iff (s : State) : interior s = true ↔
    s.core.mclk = true ∧ s.core.porstLow = false ∧ s.flag fFrozen = false ∧ s.core.clockLost = none ∧ s.core.critical = false := by
  simp only [interior, Bool.and_eq_true, Bool.not_eq_true', Option.isNone_iff_eq_none, and_assoc]

theorem interior_of_running {s : State} (h : running s = true) : interior s = true := (Bool.and_eq_true_iff.mp h).1

theorem inDoze_of_interior {s : State} (h : interior s = true) : inDoze s = false := by
  obtain ⟨hm, -⟩ := (interior_iff s).mp h
  rw [inDoze, hm, Bool.not_true, Bool.and_false]

theorem hostServed_of_interior {s : State} (h : interior s = true) : hostServed s = true := by
  obtain ⟨hm, hp, -, hl, hc⟩ := (interior_iff s).mp h
  simp [hostServed, hm, hp, hl, hc]

/-- Where the interior runs every host register takes its writes (Table 3-3). -/
theorem hostApply_of_interior {s : State} (h : interior s = true) (r : Nat) (v : W32) :
    hostApply r v s = quiesceAgain (hostReg r v s) := by
  obtain ⟨-, -, hf, -⟩ := (interior_iff s).mp h
  simp only [hostApply, hostServed_of_interior h, inDoze_of_interior h, hf, Bool.not_true, Bool.false_and, Bool.or_self,
    Bool.false_eq_true, if_false]

/-- With no quiesce in force nothing is quiesced again. -/
theorem quiesceAgain_of_not_quiesce {s : State} (h : s.flag fQuiesce = false) : quiesceAgain s = s := by
  rw [quiesceAgain, h, Bool.false_and, Bool.false_and]; rfl

/-- A flag of a register that a write leaves alone. -/
theorem State.flag_setReg_of_ne (s : State) (f : Fld) (r : Nat) (v : W32) (h : r ≠ f.reg) : (s.setReg r v).flag f = s.flag f := by
  rw [State.flag, State.flag, State.fld_setReg_of_ne s f r v h]

/-- A flag of a register that a field's write leaves alone. -/
theorem State.flag_setFld_of_ne (s : State) (f g : Fld) (v : Nat) (h : g.reg ≠ f.reg) : (s.setFld g v).flag f = s.flag f :=
  State.flag_setReg_of_ne s f g.reg _ h

/-- With nothing posted, nothing drains. -/
theorem drainHost_of_posted_nil {s : State} (h : s.host.posted = []) : drainHost s = s := by rw [drainHost, h]; rfl

/-! ### Bus cycles -/

/-- A write is not accepted while an access waits, in a clock-loss stop or in reset (R55, R59). -/
theorem postWriteHost_of_held {s : State} (h : s.host.wait = true ∨ s.core.clockLost ≠ none ∨ s.core.porstLow = true) (r : Nat) (v : W32) :
    postWriteHost r v s = s := by
  rw [postWriteHost, if_pos]
  rcases h with h | h | h
  · simp [h]
  · simp [Option.isSome_iff_ne_none.mpr h]
  · simp [h]

/-- A write is posted, and holds the bus where the buffer was full or MCLK does not run (R59, R60). -/
theorem postWriteHost_of_accepted {s : State} (hp : s.core.porstLow = false) (hc : s.core.critical = false) (hl : s.core.clockLost = none)
    (hw : s.host.wait = false) (hd : inDoze s = false) (r : Nat) (v : W32) :
    postWriteHost r v s =
      { s with host := { s.host with posted := s.host.posted ++ [(r, v)], wait := 8 ≤ s.host.posted.length || !s.core.mclk } } := by
  simp only [postWriteHost, hp, hc, hl, hw, hd, Option.isSome_none, Bool.or_self, Bool.false_eq_true, if_false]

/-! ### Writes that do no more than their access codes say -/

/-- A write of the register does no more than the access codes of its fields say. -/
def WritesPlainly (r : Nat) : Prop :=
  (r < 0x100 ∧ r % 4 = 0 ∧ r ≠ 0x0C ∧ ∀ v s, hostReg r v s = plainWrite r v s)
    ∨ (C 0 ≤ r ∧ ∀ v s, ctlWriteBlock 0 (r - C 0) v s = plainWrite r v s)

/-- A write of listed encodings writes the fields by their access codes. -/
theorem plainWrite_of_listed {r : Nat} {row : RegRow} {v : W32} (hr : regRow r = some row) (hl : fieldsListed row.flds v = true) (s : State) :
    plainWrite r v s = s.setReg r (writeFields row.flds (s.reg r) v) := by
  rw [plainWrite, hr]; exact if_pos hl

/-- A write with an unlisted encoding is ignored whole and logged (R11). -/
theorem plainWrite_of_unlisted {r : Nat} {row : RegRow} {v : W32} (hr : regRow r = some row) (hl : fieldsListed row.flds v = false) (s : State) :
    plainWrite r v s = logIgnored r s := by
  rw [plainWrite, hr]; exact if_neg (by rw [hl]; decide)

/-- A write of a register the manual does not list changes nothing (R88). -/
theorem plainWrite_of_unmapped {r : Nat} (hr : regRow r = none) (v : W32) (s : State) : plainWrite r v s = s := by
  rw [plainWrite, hr]

/-- REGISTER_WRITE of a host register is that write taking effect. -/
theorem exec_registerWrite_host {rb : BitVec 25} (h : rb.toNat < 0x100) (h4 : rb.toNat % 4 = 0) (v : W32) (s : State) :
    exec (.registerWrite rb v) s = done (hostApply rb.toNat v s) := by
  show execRegisterWrite rb v s = _
  have hc : rb.toNat < ctlBase := Nat.lt_trans h (by decide)
  simp [execRegisterWrite, h, h4, hc]

/-- REGISTER_WRITE of a control-space register whose block answers writes the control space. -/
theorem exec_registerWrite_ctl {rb : BitVec 25} {s : State} (h : C 0 ≤ rb.toNat) (he : ctlErr s (rb.toNat - C 0) = 0) (v : W32) :
    exec (.registerWrite rb v) s = done (ctlWrite 0 (rb.toNat - C 0) v s) := by
  show execRegisterWrite rb v s = _
  have hc : ¬ rb.toNat < ctlBase := by simpa using h
  rw [execRegisterWrite]
  simp only [hc, if_false]
  rw [if_pos (show ctlErr s (rb.toNat - ctlBase) = 0 from he)]

/-- REGISTER_WRITE of a control-space register whose block cannot answer changes nothing. -/
theorem exec_registerWrite_ctlErr {rb : BitVec 25} {s : State} (h : C 0 ≤ rb.toNat) (he : ctlErr s (rb.toNat - C 0) ≠ 0) (v : W32) :
    exec (.registerWrite rb v) s = done s := by
  show execRegisterWrite rb v s = _
  have hc : ¬ rb.toNat < ctlBase := by simpa using h
  rw [execRegisterWrite]
  simp only [hc, if_false]
  rw [if_neg (show ¬ ctlErr s (rb.toNat - ctlBase) = 0 from he)]

open Claims in
/-- REGISTER_WRITE of such a register whose block answers. -/
theorem exec_registerWrite_plain {rb : BitVec 25} {s : State} (hp : WritesPlainly rb.toNat) (ha : Answers s rb.toNat) (v : W32) :
    exec (.registerWrite rb v) s = done (quiesceAgain (plainWrite rb.toNat v s)) := by
  obtain ⟨hrun, hans⟩ := ha
  rcases hp with ⟨hlt, h4, -, heq⟩ | ⟨hge, heq⟩
  · rw [exec_registerWrite_host hlt h4, hostApply_of_interior (interior_of_running hrun), heq]
  · rw [exec_registerWrite_ctl hge (hans hge), ctlWrite, heq]

theorem WritesPlainly.ne_devControl {r : Nat} (h : WritesPlainly r) : r ≠ fQuiesce.reg := by
  rcases h with ⟨-, -, h, -⟩ | ⟨h, -⟩
  · exact h
  · intro e; rw [e] at h; exact absurd h (by decide)

open Claims in
/-- With no quiesce in force, a write of listed encodings to such a register leaves its fields written, and nothing else changed. -/
theorem exec_registerWrite_plain_listed {rb : BitVec 25} {s : State} {row : RegRow} {v : W32} (hp : WritesPlainly rb.toNat)
    (ha : Answers s rb.toNat) (hq : s.flag fQuiesce = false) (hr : regRow rb.toNat = some row) (hl : fieldsListed row.flds v = true) :
    exec (.registerWrite rb v) s = done (s.setReg rb.toNat (writeFields row.flds (s.reg rb.toNat) v)) := by
  rw [exec_registerWrite_plain hp ha, plainWrite_of_listed hr hl, quiesceAgain_of_not_quiesce]
  rw [State.flag_setReg_of_ne _ _ _ _ hp.ne_devControl, hq]

/-! ### Ignored writes are logged -/

/-- The log with an event more in its unit's queue. -/
def LogSt.queue (l : LogSt) (e : LogEntry) : LogSt := { l with queued := l.queued ++ [(codeUnit e.code, e)] }

/-- An event goes into its unit's queue where that has room (R448). -/
theorem queueEvent_of_room {s : State} {e : LogEntry} (hr : Room s e.code) : queueEvent e s = { s with log := s.log.queue e } := by
  rw [queueEvent]; exact if_neg (Nat.not_le.mpr hr)

/-- While the interior runs, an event that is neither corrected nor uncorrected is queued with the timebase. -/
theorem logEvent_of_room {s : State} {cls code : Nat} (h : interior s = true) (hc : cls ∉ [1, 2, 3]) (hr : Room s code) (ctx src arg : Nat) :
    logEvent cls code ctx src arg s =
      { s with log := s.log.queue { cls := cls, ctx := ctx % 16, code := code, src := src % 65536,
                                    time := s.core.timebase.toNat % 2 ^ 48, arg := arg % 2 ^ 48 } } := by
  obtain ⟨-, -, hf, -⟩ := (interior_iff s).mp h
  simp only [List.mem_cons, List.not_mem_nil, or_false, not_or] at hc
  simp only [logEvent, inDoze_of_interior h, hf, Bool.or_self, Bool.false_eq_true, if_false, reportEvent, hc, decide_false]
  exact queueEvent_of_room hr

open Claims in
/-- With no quiesce in force, a write with an unlisted encoding to such a register leaves an event in the log's queue, and nothing else
changed (R11). -/
theorem ends_registerWrite_plain_unlisted {rb : BitVec 25} {s : State} {row : RegRow} {v : W32} (hp : WritesPlainly rb.toNat)
    (ha : Answers s rb.toNat) (hq : s.flag fQuiesce = false) (hr : regRow rb.toNat = some row) (hl : fieldsListed row.flds v = false)
    (hroom : Room s 0x041) :
    Ends (.registerWrite rb v) s fun u => RegsKept s u [] ∧ Logs s u 4 0x041 0 0 (regPa rb.toNat) := by
  have he : exec (.registerWrite rb v) s = done (logEvent 4 0x041 0 0 (regPa rb.toNat) s) := by
    rw [exec_registerWrite_plain hp ha, plainWrite_of_unlisted hr hl, logIgnored, quiesceAgain_of_not_quiesce]
    rw [logEvent_of_room (interior_of_running ha.1) (by decide) hroom]; exact hq
  rw [logEvent_of_room (interior_of_running ha.1) (by decide) hroom] at he
  exact ends_of_done he ⟨regsKept_refresh (fun _ _ => rfl), fun _ => rfl⟩

end Sys2Proof.Machine
end

section
/-! PROOFS. O60: the state right after PORST# is released (R10, R43, R89). -/

namespace Sys2Proof.Machine

open Sys2Proof Sys2Proof.Safety

/-- After power-on reset every register holds its reset value (R10), so that what reset leaves is a fact of the register tables. -/
theorem reg_reset (r : Nat) : State.reset.reg r = regReset r := rfl

/-- No condition holds after reset, so each of them shows (R70). -/
theorem conditionsShown_reset : ConditionsShown State.reset := by
  have hd : ∀ n < 4, regReset (C (0x50000 + 0x4000 * n + 0x12C)) = 0#32 := by decide
  refine ⟨fun h => absurd rfl h, fun h => absurd h (by decide), fun n hn h => absurd ?_ h, fun h => absurd rfl h, fun h => absurd rfl h⟩
  rw [reg_reset, hd n hn, BitVec.zero_and]

/-- Memory after reset lists no byte. -/
theorem memoryCanonical_reset : MemoryCanonical State.reset := rfl

/-- No merge buffer is in use after reset. -/
theorem mergeSound_reset : MergeSound State.reset := ⟨List.nodup_nil, fun _ h => absurd h List.not_mem_nil, fun _ => rfl⟩

/-- Settles O60: the registers' values are the tables' reset columns (reg_reset); the rest is what State.reset lists. -/
theorem resetLeavesTheStatedValues : Obligations.Reset_leaves_the_stated_values := by
  unfold Obligations.Reset_leaves_the_stated_values
  simp only [reg_reset]
  exact ⟨rfl, rfl, rfl, rfl, rfl, conditionsShown_reset, memoryCanonical_reset, mergeSound_reset, by decide, by decide, by decide,
    rfl, rfl, rfl, rfl, rfl, rfl, rfl⟩

end Sys2Proof.Machine
end

section
/-! PROOFS. O10: which registers take a write by their access codes alone, and what the commands of the host bus do (chapters 0 and 3). -/

namespace Sys2Proof.Machine

open Sys2Proof Sys2Proof.Safety Sys2Proof.Claims

/-! ### Registers whose writes do no more than their access codes say -/

/-- The host registers whose writes have an action (Tables 3-4 to 3-22). -/
def hostActions : List Nat :=
  [0x0C, 0x10, 0x20, 0x2C, 0x30, 0x34, 0x38, 0x3C, 0x40, 0x44, 0x48, 0x4C, 0x54, 0x58, 0x60, 0x70, 0x74, 0x88, 0x8C, 0x94, 0xA0, 0xB0]

theorem hostReg_of_not_mem_hostActions {r : Nat} (h : r ∉ hostActions) (v : W32) (s : State) : hostReg r v s = plainWrite r v s := by
  unfold hostReg
  split <;> simp_all [hostActions]

theorem writesPlainly_host {r : Nat} (hr : r < 0x100 ∧ r % 4 = 0 ∧ r ∉ hostActions) : WritesPlainly r := by
  obtain ⟨hlt, h4, h⟩ := hr
  exact .inl ⟨hlt, h4, fun e => h (e ▸ by decide), hostReg_of_not_mem_hostActions h⟩

/-- Offsets of control-space registers whose writes have no action (Tables 6-6, 7-1, 12-10, 13-3, 15-1, 16-1, 17-1, 20-2, 10-5 and 22-4). -/
def plainOffsets : List Nat :=
  [0x10800, 0x10804, 0x10810, 0x20404, 0x20408, 0x30008, 0x50010, 0x5012C, 0x50130, 0x60304, 0x70304, 0xC0004, 0xE0008, 0x30010, 0x70204
  , 0xD000C]

/-- Each of them reaches no action in the branch of its block. -/
theorem ctlWriteBlock_of_mem_plainOffsets : ∀ off ∈ plainOffsets, ∀ v s, ctlWriteBlock 0 off v s = plainWrite (C off) v s := by
  simp only [plainOffsets, List.forall_mem_cons]
  exact ⟨fun _ _ => rfl, fun _ _ => rfl, fun _ _ => rfl, fun _ _ => rfl, fun _ _ => rfl, fun _ _ => rfl, fun _ _ => rfl,
    fun _ _ => rfl, fun _ _ => rfl, fun _ _ => rfl, fun _ _ => rfl, fun _ _ => rfl, fun _ _ => rfl, fun _ _ => rfl,
    fun _ _ => rfl, fun _ _ => rfl, fun _ h => absurd h List.not_mem_nil⟩

theorem writesPlainly_ctl {off : Nat} (h : off ∈ plainOffsets) : WritesPlainly (C off) := by
  refine .inr ⟨Nat.add_le_add_left (Nat.zero_le off) _, fun v s => ?_⟩
  rw [show C off - C 0 = off from Nat.add_sub_cancel_left _ _]
  exact ctlWriteBlock_of_mem_plainOffsets off h v s

/-- No access to a register of the plain list has an action of its own. -/
theorem writesPlainly_of_mem_plainRegs {e : Nat × W32 × W32} (he : e ∈ plainRegs) : WritesPlainly e.1 := by
  have h : ∀ e ∈ plainRegs, (e.1 < 0x100 ∧ e.1 % 4 = 0 ∧ e.1 ∉ hostActions) ∨ ∃ off ∈ plainOffsets, C off = e.1 := by decide
  rcases h e he with hh | ⟨off, hoff, e⟩
  · exact writesPlainly_host hh
  · exact e ▸ writesPlainly_ctl hoff

/-- The rows of the plain registers: every encoding is listed, and the access codes give the RW and the W1C bits. -/
theorem regRow_of_mem_plainRegs {e : Nat × W32 × W32} (he : e ∈ plainRegs) : ∃ row, regRow e.1 = some row
    ∧ (∀ f ∈ row.flds, f.ok = []) ∧ bitsWhere Fd.isRw row.flds = e.2.1 ∧ bitsWhere Fd.isW1c row.flds = e.2.2 ∧ e.2.1 &&& e.2.2 = 0#32 := by
  have h : ∀ e ∈ plainRegs, ∃ row ∈ regRow e.1, (∀ f ∈ row.flds, f.ok = []) ∧ bitsWhere Fd.isRw row.flds = e.2.1
    ∧ bitsWhere Fd.isW1c row.flds = e.2.2 ∧ e.2.1 &&& e.2.2 = 0#32 := by
    decide
  exact h e he

/-- A word is listed whole where every encoding of every field is. -/
theorem fieldsListed_of_ok_nil {fs : List Fd} (h : ∀ f ∈ fs, f.ok = []) (v : W32) : fieldsListed fs v = true := by
  rw [fieldsListed, List.all_eq_true]
  intro f hf
  have hl : ∀ n, f.listed n = true := fun n => by simp [Fd.listed, h f hf]
  cases f.acc <;> simp [hl]


/-- A write to a plain register. -/
theorem ends_registerWrite_plainRegs {s : State} (hq : s.flag fQuiesce = false) {e : Nat × W32 × W32} (he : e ∈ plainRegs)
    (ha : Answers s e.1) {rb : BitVec 25} (hrb : rb.toNat = e.1) (v : W32) :
    Ends (.registerWrite rb v) s fun u =>
      u.reg e.1 = (s.reg e.1 &&& ~~~(e.2.1 ||| (e.2.2 &&& v))) ||| (v &&& e.2.1) ∧ OnlyRegs s u [e.1] := by
  obtain ⟨row, hrow, hok, hrw, hw1c, hd⟩ := regRow_of_mem_plainRegs he
  have hne : 0x18 ≠ e.1 := by
    have : ∀ e ∈ plainRegs, 0x18 ≠ e.1 := by decide
    exact this e he
  have hx := exec_registerWrite_plain_listed (rb := rb) (hrb ▸ writesPlainly_of_mem_plainRegs he) (hrb ▸ ha) hq (hrb ▸ hrow)
    (fieldsListed_of_ok_nil hok v)
  rw [hrb] at hx
  refine ends_of_done hx ⟨?_, onlyRegs_setReg (List.mem_singleton.mpr rfl)⟩
  rw [reg_refresh, if_neg hne, State.reg_setReg, if_pos rfl, writeFields_eq _ _ _ (by rw [hrw, hw1c, hd]), hrw, hw1c]

/-! ### Fields with unlisted encodings -/

/-- A register one of whose fields, at hi:lo, takes the encodings from a to b and its reset value rst, and whose other fields take all. -/
structure RangedField (row : RegRow) (hi lo a b rst : Nat) : Prop where
  hi_lt : hi < 32
  rw_disjoint : bitsWhere Fd.isRw row.flds &&& bitsWhere Fd.isW1c row.flds = 0#32
  rw_bits : ∀ i < 32, lo ≤ i → i ≤ hi → (bitsWhere Fd.isRw row.flds).getLsbD i = true
  listed_iff : ∀ v, fieldsListed row.flds v = true ↔ bitsOf v hi lo = rst ∨ a ≤ bitsOf v hi lo ∧ bitsOf v hi lo ≤ b

/-- A listed encoding is taken. -/
theorem ends_registerWrite_inRange {s : State} {rb : BitVec 25} {row : RegRow} {hi lo a b rst : Nat} (hq : s.flag fQuiesce = false)
    (hp : WritesPlainly rb.toNat) (h18 : rb.toNat ≠ 0x18) (ha : Answers s rb.toNat) (hr : regRow rb.toNat = some row)
    (hf : RangedField row hi lo a b rst) {v : W32} (h1 : a ≤ bitsOf v hi lo) (h2 : bitsOf v hi lo ≤ b) :
    Ends (.registerWrite rb v) s fun u => u.fld ⟨rb.toNat, hi, lo⟩ = bitsOf v hi lo ∧ OnlyRegs s u [rb.toNat] := by
  have hl : fieldsListed row.flds v = true := (hf.listed_iff v).mpr (.inr ⟨h1, h2⟩)
  refine ends_of_done (exec_registerWrite_plain_listed hp ha hq hr hl) ⟨?_, onlyRegs_setReg (List.mem_singleton.mpr rfl)⟩
  rw [fld_refresh _ _ h18, State.fld_mk, State.reg_setReg, if_pos rfl, bitsOf_writeFields_rw _ _ _ hf.hi_lt hf.rw_disjoint hf.rw_bits]

/-- An unlisted encoding has the write ignored whole and logged. -/
theorem ends_registerWrite_outOfRange {s : State} {rb : BitVec 25} {row : RegRow} {hi lo a b rst : Nat} (hq : s.flag fQuiesce = false)
    (hp : WritesPlainly rb.toNat) (ha : Answers s rb.toNat) (hr : regRow rb.toNat = some row) (hf : RangedField row hi lo a b rst)
    (hroom : Room s 0x041) {v : W32} (h1 : bitsOf v hi lo < a ∨ b < bitsOf v hi lo) (h2 : bitsOf v hi lo ≠ rst) :
    Ends (.registerWrite rb v) s fun u => RegsKept s u [] ∧ Logs s u 4 0x041 0 0 (regPa rb.toNat) := by
  have hl : fieldsListed row.flds v = false := by
    rw [Bool.eq_false_iff, Ne, hf.listed_iff]
    omega
  exact ends_registerWrite_plain_unlisted hp ha hq hr hl hroom

theorem rangedField_spoolCfg : RangedField (one "SPOOL_CFG" (C 0x30010) [rwOk 23 16 0x40 [(1, 255)]]) 23 16 1 255 0x40 where
  hi_lt := by decide
  rw_disjoint := by decide
  rw_bits := by decide
  listed_iff v := by simp [fieldsListed, Fd.listed]

theorem rangedField_fsyncPeriod :
    RangedField (one "FSYNC_PERIOD" (C 0x70204) [rwOk 19 0 0 [(1000, 1000000)]]) 19 0 1000 1000000 0 where
  hi_lt := by decide
  rw_disjoint := by decide
  rw_bits := by decide
  listed_iff v := by simp [fieldsListed, Fd.listed]

theorem rangedField_dbgAcc : RangedField (one "DBG_ACC" (C 0xD000C) [rwOk 31 28 0 [(0, 6)], rw 15 8, rw 4 0]) 31 28 0 6 0 where
  hi_lt := by decide
  rw_disjoint := by decide
  rw_bits := by decide
  listed_iff v := by simp [fieldsListed, Fd.listed]

/-- The three registers have those rows, and their writes have no action (Tables 13-3, 17-1 and 22-4). -/
theorem ranged_of_mem {e : Nat × Nat × Nat × Nat × Nat × Nat}
    (he : e ∈ [(0x30010, 23, 16, 1, 255, 0x40), (0x70204, 19, 0, 1000, 1000000, 0), (0xD000C, 31, 28, 0, 6, 0)]) :
    e.1 ∈ plainOffsets ∧ ∃ row, regRow (C e.1) = some row ∧ RangedField row e.2.1 e.2.2.1 e.2.2.2.1 e.2.2.2.2.1 e.2.2.2.2.2 := by
  simp only [List.mem_cons, List.not_mem_nil, or_false] at he
  rcases he with rfl | rfl | rfl
  · exact ⟨by decide, _, by decide, rangedField_spoolCfg⟩
  · exact ⟨by decide, _, by decide, rangedField_fsyncPeriod⟩
  · exact ⟨by decide, _, by decide, rangedField_dbgAcc⟩

/-! ### Writes that change nothing -/

/-- The reserved host offsets: no row, no action, no window. -/
theorem reserved_host_offset {r : Nat} (h : 0xB8 ≤ r) (hlt : r < 0x100) : regRow r = none ∧ r ∉ hostActions ∧ winOf r = none := by
  have hr : ∀ i < 0x48, regRow (0xB8 + i) = none ∧ 0xB8 + i ∉ hostActions ∧ winOf (0xB8 + i) = none := by decide
  have := hr (r - 0xB8) (by omega)
  rwa [Nat.add_sub_cancel' h] at this

/-- A write of a reserved host offset changes nothing (R88). -/
theorem hostApply_reserved {s : State} {r : Nat} (h : 0xB8 ≤ r) (hlt : r < 0x100) (hq : s.flag fQuiesce = false) (v : W32) :
    hostApply r v s = s := by
  obtain ⟨hrow, hact, hwin⟩ := reserved_host_offset h hlt
  rw [hostApply, hostReg_of_not_mem_hostActions hact, plainWrite_of_unmapped hrow, quiesceAgain_of_not_quiesce hq, hwin, ite_self, ite_self]

/-- An offset past the host registers and a control-space register that cannot answer ignore a write. -/
theorem idle_registerWrite {s : State} {rb : BitVec 25} (hc : C 0 ≤ rb.toNat → ctlErr s (rb.toNat - C 0) ≠ 0)
    (hh : rb.toNat < C 0 → 0xB8 ≤ rb.toNat) (hq : s.flag fQuiesce = false) (v : W32) : Idle (.registerWrite rb v) s := by
  apply idle_of_done
  by_cases h : C 0 ≤ rb.toNat
  · exact exec_registerWrite_ctlErr h (hc h) v
  · have hlt : rb.toNat < ctlBase := Nat.lt_of_not_le h
    show execRegisterWrite rb v s = _
    simp only [execRegisterWrite, hlt, if_true]
    split
    · next hb =>
      rw [hostApply_reserved (hh hlt) (by simp at hb; exact hb.1) hq]
    · rfl

/-! ### INT_STATUS, INT_FORCE and commands that follow every earlier write -/

/-- A write of a host register with no action, all of whose encodings are listed. -/
theorem hostApply_plain {s : State} {r : Nat} {row : RegRow} (hi : interior s = true) (hq : s.flag fQuiesce = false) (hr : r ∉ hostActions)
    (hrow : regRow r = some row) (hok : ∀ f ∈ row.flds, f.ok = []) (v : W32) :
    hostApply r v s = s.setReg r (writeFields row.flds (s.reg r) v) := by
  have hne : r ≠ fQuiesce.reg := fun e => hr (e ▸ by decide)
  rw [hostApply_of_interior hi, hostReg_of_not_mem_hostActions hr, plainWrite_of_listed hrow (fieldsListed_of_ok_nil hok v),
    quiesceAgain_of_not_quiesce (by rw [State.flag_setReg_of_ne _ _ _ _ hne, hq])]

/-- Ones written to INT_STATUS clear their bits (Table 3-9). -/
theorem hostApply_intStatus {s : State} (hi : interior s = true) (hq : s.flag fQuiesce = false) (v : W32) :
    hostApply 0x18 v s = s.setReg 0x18 (s.reg 0x18 &&& ~~~(v &&& 0x3FFFFF#32)) := by
  have hrow : regRow 0x18 = some (one "INT_STATUS" 0x18 [w1c 21 0]) := by decide
  have hrw : bitsWhere Fd.isRw [w1c 21 0] = 0#32 := by decide
  have hw1c : bitsWhere Fd.isW1c [w1c 21 0] = 0x3FFFFF#32 := by decide
  rw [hostApply_plain hi hq (by decide) hrow (by simp), writeFields_eq _ _ _ (by decide), hrw, hw1c, BitVec.and_zero, BitVec.or_zero,
    BitVec.zero_or, BitVec.and_comm v]

/-- INT_FORCE sets bits of INT_STATUS (R77). -/
theorem hostApply_intForce {s : State} (hi : interior s = true) (hq : s.flag fQuiesce = false) (v : W32) :
    hostApply 0x20 v s = s.setReg 0x18 (s.reg 0x18 ||| (v &&& 0x3FFFFF#32)) := by
  rw [hostApply_of_interior hi]
  exact quiesceAgain_of_not_quiesce ((State.flag_setReg_of_ne _ _ _ _ (by decide)).trans hq)

/-- SCRATCH takes every bit (Table 3-21). -/
theorem hostApply_scratch {s : State} (hi : interior s = true) (hq : s.flag fQuiesce = false) (v : W32) :
    hostApply 0xAC v s = s.setReg 0xAC v := by
  have hrow : regRow 0xAC = some (one "SCRATCH" 0xAC [rws 31 0]) := by decide
  have hrw : bitsWhere Fd.isRw [rws 31 0] = BitVec.allOnes 32 := by decide
  have hw1c : bitsWhere Fd.isW1c [rws 31 0] = 0#32 := by decide
  rw [hostApply_plain hi hq (by decide) hrow (by simp), writeFields_eq _ _ _ (by decide), hrw, hw1c, BitVec.zero_and, BitVec.or_zero,
    BitVec.not_allOnes, BitVec.and_zero, BitVec.zero_or, BitVec.and_allOnes]

/-- A write of INT_STATUS alone leaves it so, but that what holds shows again (R70). -/
theorem ends_setReg_intStatus {c : Instr} {s : State} {w : W32} (h : exec c s = done (s.setReg 0x18 w)) :
    Ends c s fun u => u.reg 0x18 = w ||| conditions u ∧ OnlyRegs s u [0x18] := by
  refine ends_of_done h ⟨?_, onlyRegs_setReg (List.mem_singleton.mpr rfl)⟩
  rw [conditions_refresh, reg_refresh, if_pos rfl, State.reg_setReg, if_pos rfl]

/-- With nothing posted, an aborted write strobe is the write taking effect (R87). -/
theorem exec_hostStrobeAbort_write {s : State} (hi : interior s = true) (hp : s.host.posted = []) (slot : Fin 64) (v : W32) :
    exec (.hostStrobeAbort true slot v) s = done (hostApply (slotReg slot) v s) := by
  show done (onlyIf (hostServed s) _ s) = _
  rw [hostServed_of_interior hi]
  show done (hostApply (slotReg slot) v (drainHost s)) = _
  rw [drainHost_of_posted_nil hp]

/-- With nothing posted, an aborted read strobe changes nothing (R87). -/
theorem exec_hostStrobeAbort_read {s : State} (hi : interior s = true) (hp : s.host.posted = []) (slot : Fin 64) (v : W32) :
    exec (.hostStrobeAbort false slot v) s = done s := by
  show done (onlyIf (hostServed s) _ s) = _
  rw [hostServed_of_interior hi]
  show done (drainHost s) = _
  rw [drainHost_of_posted_nil hp]

/-- With nothing posted, SYNC_MODE_SWITCH sets HOST_BUS_CFG.SYNC (R58). -/
theorem ends_syncModeSwitch {s : State} (hi : interior s = true) (hp : s.host.posted = []) (b : Bool) :
    Ends (.syncModeSwitch b) s fun u => u.flag fSync = b ∧ OnlyRegs s u [0xB4] := by
  have h : exec (.syncModeSwitch b) s = done (s.setFlag fSync b) := by
    show done (onlyIf (hostServed s) _ s) = _
    rw [hostServed_of_interior hi]
    show done ((drainHost s).setFlag fSync b) = _
    rw [drainHost_of_posted_nil hp]
  refine ends_of_done h ⟨?_, onlyRegs_setReg (List.mem_singleton.mpr rfl)⟩
  rw [State.flag, fld_refresh _ _ (by decide), State.setFlag, State.fld_setFld _ _ _ (by decide)]
  cases b <;> rfl

/-! ### The windows' addresses -/

/-- Reports given up with a held page count in two fields, and no other register changes (R67). -/
theorem reg_dropTaken (s : State) {r : Nat} (h1 : r ≠ fDropCount.reg) (h2 : r ≠ fTouchDropped.reg) : (dropTaken s).reg r = s.reg r := by
  rw [dropTaken]
  split
  · rfl
  · show (State.setFld _ fTouchDropped _).reg r = _
    rw [State.setFld, State.reg_setReg, if_neg (Ne.symm h2), State.addSat, State.setFld, State.reg_setReg, if_neg (Ne.symm h1)]

theorem drainTaken_dropTaken (s : State) : (dropTaken s).host.drainTaken = 0 := by
  rw [dropTaken]
  split
  · omega
  · rfl

/-- The state in which a window's address is written: WIN0's held page is given up (R66). -/
def winOpened (w : Nat) (s : State) : State := if w = 0 then winAbandon s else s

theorem winAddrWrite_low (w : Nat) (v : W32) (s : State) :
    winAddrWrite w false v s = ((winOpened w s).setFld ⟨winLo w, 31, 2⟩ (bitsOf v 31 2)).setFld (fWinErr w) 0 := rfl

theorem winAddrWrite_high (w : Nat) (v : W32) (s : State) :
    winAddrWrite w true v s = ((winOpened w s).setFld ⟨winHi w, 15, 0⟩ (bitsOf v 15 0)).setFld (fWinErr w) 0 := rfl

theorem reg_winOpened (w : Nat) (s : State) {r : Nat} (h : r < 0xA8) : (winOpened w s).reg r = s.reg r := by
  rw [winOpened]
  split
  · exact reg_dropTaken s (fun e => absurd (e ▸ h) (by decide)) (fun e => absurd (e ▸ h) (by decide))
  · rfl

theorem host_winOpened_zero (s : State) : (winOpened 0 s).host.win0 = none ∧ (winOpened 0 s).host.drainTaken = 0 :=
  ⟨rfl, drainTaken_dropTaken s⟩

theorem winLo_lt (w : Nat) : winLo w < 0xA8 := by rw [winLo]; split <;> decide

theorem winHi_lt (w : Nat) : winHi w < 0xA8 := by rw [winHi]; split <;> decide

theorem winLo_ne (w : Nat) {r : Nat} (h : r ∉ [0x2C, 0x3C]) : winLo w ≠ r := by
  rintro rfl
  rw [winLo] at h
  split at h <;> exact h (by decide)

theorem winHi_ne (w : Nat) {r : Nat} (h : r ∉ [0x30, 0x40]) : winHi w ≠ r := by
  rintro rfl
  rw [winHi] at h
  split at h <;> exact h (by decide)

theorem winLo_ne_winHi (w : Nat) : winLo w ≠ winHi w := by rw [winLo, winHi]; split <;> decide

/-- WINx_ADDR_LO and WINx_ADDR_HI after a write of the low half: the address bits are written, ERR is clear. -/
theorem reg_winAddrWrite_low (w : Nat) (v : W32) (s : State) :
    (winAddrWrite w false v s).reg (winLo w) = withBits (s.reg (winLo w)) 31 2 (bitsOf v 31 2)
      ∧ (winAddrWrite w false v s).reg (winHi w) = withBits (s.reg (winHi w)) 31 29 0 := by
  have h1 : fWinErr w = ⟨winHi w, 31, 29⟩ := rfl
  have h2 := winLo_ne_winHi w
  rw [winAddrWrite_low, h1]
  simp [h2, h2.symm, reg_winOpened w s (winLo_lt w), reg_winOpened w s (winHi_lt w), -fWinErr_eq]

/-- The same after a write of the high half. -/
theorem reg_winAddrWrite_high (w : Nat) (v : W32) (s : State) :
    (winAddrWrite w true v s).reg (winLo w) = s.reg (winLo w)
      ∧ (winAddrWrite w true v s).reg (winHi w) = withBits (withBits (s.reg (winHi w)) 15 0 (bitsOf v 15 0)) 31 29 0 := by
  have h1 : fWinErr w = ⟨winHi w, 31, 29⟩ := rfl
  have h2 := winLo_ne_winHi w
  rw [winAddrWrite_high, h1]
  simp [h2.symm, reg_winOpened w s (winLo_lt w), reg_winOpened w s (winHi_lt w), -fWinErr_eq]

/-- A write of the low half gives the address its low 32 bits, word-aligned. -/
theorem winAddr_winAddrWrite_low (w : Nat) (v : W32) (s : State) :
    winAddr (winAddrWrite w false v s) w = winAddr s w / 2 ^ 32 * 2 ^ 32 + v.toNat / 4 * 4 := by
  obtain ⟨hlo, hhi⟩ := reg_winAddrWrite_low w v s
  have hl := bitsOf_lt (s.reg (winLo w)) 31 2
  have hv : bitsOf v 31 2 = v.toNat / 4 := by have := v.isLt; simp only [bitsOf]; omega
  simp only [winAddr, State.fld_mk, hlo, hhi, bitsOf_withBits _ _ _ _ (by decide : 31 < 32),
    bitsOf_withBits_disjoint _ 31 29 0 15 0 (by decide) (.inl (by decide)), hv]
  have := v.isLt
  omega

/-- A write of the high half gives the address its high 16 bits. -/
theorem winAddr_winAddrWrite_high (w : Nat) (v : W32) (s : State) :
    winAddr (winAddrWrite w true v s) w = v.toNat % 65536 * 2 ^ 32 + winAddr s w % 2 ^ 32 := by
  obtain ⟨hlo, hhi⟩ := reg_winAddrWrite_high w v s
  have hl := bitsOf_lt (s.reg (winLo w)) 31 2
  have hv : bitsOf v 15 0 = v.toNat % 65536 := by simp only [bitsOf]; omega
  simp only [winAddr, State.fld_mk, hlo, hhi, bitsOf_withBits _ _ _ _ (by decide : 15 < 32),
    bitsOf_withBits_disjoint _ 31 29 0 15 0 (by decide) (.inl (by decide)), hv]
  omega

/-- An address write clears the window's ERR. -/
theorem fld_winErr_winAddrWrite (w : Nat) (high : Bool) (v : W32) (s : State) : (winAddrWrite w high v s).fld (fWinErr w) = 0 :=
  State.fld_setFld _ _ 0 (by decide : 31 < 32)

/-- A refresh leaves a window's address alone. -/
theorem winAddr_refresh (s : State) (w : Nat) : winAddr (refresh s) w = winAddr s w := by
  rw [winAddr, winAddr, fld_refresh _ _ (winLo_ne w (by decide)), fld_refresh _ _ (winHi_ne w (by decide))]

/-- A refresh leaves a window's ERR alone. -/
theorem fld_refresh_winErr (s : State) (w : Nat) : (refresh s).fld (fWinErr w) = s.fld (fWinErr w) :=
  fld_refresh _ (fWinErr w) (winHi_ne w (by decide))

/-- No window's address is in DEV_CONTROL. -/
theorem flag_fQuiesce_winAddrWrite (w : Nat) (high : Bool) (v : W32) (s : State) :
    (winAddrWrite w high v s).flag fQuiesce = s.flag fQuiesce := by
  have hl : winLo w ≠ fQuiesce.reg := winLo_ne w (by decide)
  have hh : winHi w ≠ fQuiesce.reg := winHi_ne w (by decide)
  have ho : (winOpened w s).flag fQuiesce = s.flag fQuiesce := by rw [State.flag, State.flag, State.fld, reg_winOpened w s (by decide)]; rfl
  cases high
  · rw [winAddrWrite_low, State.flag_setFld_of_ne _ _ _ _ hh, State.flag_setFld_of_ne _ _ _ _ hl, ho]
  · rw [winAddrWrite_high, State.flag_setFld_of_ne _ _ _ _ hh, State.flag_setFld_of_ne _ _ _ _ hh, ho]

/-- The four address registers are the windows' (Table 3-3). -/
theorem hostReg_winAddr (w : Fin 2) (high : Bool) (v : W32) (s : State) :
    hostReg (if w = 0 then (if high then 0x30 else 0x2C) else (if high then 0x40 else 0x3C)) v s = winAddrWrite w.val high v s := by
  fin_cases w <;> cases high <;> rfl

/-- Where the interior runs and no quiesce is in force, WIN_ADDR_WRITE is that write. -/
theorem exec_winAddrWrite {s : State} (hi : interior s = true) (hq : s.flag fQuiesce = false) (w : Fin 2) (high : Bool) (v : W32) :
    exec (.winAddrWrite w high v) s = done (winAddrWrite w.val high v s) := by
  show done (hostApply _ v s) = _
  rw [hostApply_of_interior hi, hostReg_winAddr, quiesceAgain_of_not_quiesce ((flag_fQuiesce_winAddrWrite _ _ _ _).trans hq)]

/-- WIN0's held page is given up at either write. -/
theorem host_winAddrWrite_zero (high : Bool) (v : W32) (s : State) :
    (winAddrWrite 0 high v s).host.win0 = none ∧ (winAddrWrite 0 high v s).host.drainTaken = 0 := by
  have h : (winAddrWrite 0 high v s).host = (winOpened 0 s).host := by cases high <;> rfl
  rw [h]; exact host_winOpened_zero s

/-- Two registers written, both of a list. -/
theorem onlyRegs_setReg_setReg {s : State} {r1 r2 : Nat} {v1 v2 : W32} {rs : List Nat} (h1 : r1 ∈ rs) (h2 : r2 ∈ rs) :
    OnlyRegs s (refresh ((s.setReg r1 v1).setReg r2 v2)) rs :=
  onlyRegs_refresh (fun q hq => by
    rw [State.reg_setReg, if_neg (fun e : r2 = q => hq (e ▸ h2)), State.reg_setReg, if_neg (fun e : r1 = q => hq (e ▸ h1))]) rfl

/-- WIN_ADDR_WRITE of the low half. -/
theorem ends_winAddrWrite_low {s : State} (hi : interior s = true) (hq : s.flag fQuiesce = false) (w : Fin 2) (v : W32) :
    Ends (.winAddrWrite w false v) s fun u => winAddr u w.val = winAddr s w.val / 2 ^ 32 * 2 ^ 32 + v.toNat / 4 * 4
      ∧ u.fld (fWinErr w.val) = 0 ∧ (w = 0 → u.host.win0 = none ∧ u.host.drainTaken = 0) ∧ (w = 1 → OnlyRegs s u [0x3C, 0x40]) := by
  refine ends_of_done (exec_winAddrWrite hi hq w false v) ⟨?_, ?_, ?_, ?_⟩
  · rw [winAddr_refresh, winAddr_winAddrWrite_low]
  · rw [fld_refresh_winErr, fld_winErr_winAddrWrite]
  · rintro rfl
    exact host_winAddrWrite_zero false v s
  · rintro rfl
    exact onlyRegs_setReg_setReg (r1 := 0x3C) (r2 := 0x40) (by decide) (by decide)

/-- WIN_ADDR_WRITE of the high half. -/
theorem ends_winAddrWrite_high {s : State} (hi : interior s = true) (hq : s.flag fQuiesce = false) (w : Fin 2) (v : W32) :
    Ends (.winAddrWrite w true v) s fun u => winAddr u w.val = v.toNat % 65536 * 2 ^ 32 + winAddr s w.val % 2 ^ 32
      ∧ u.fld (fWinErr w.val) = 0 ∧ (w = 0 → u.host.win0 = none ∧ u.host.drainTaken = 0) ∧ (w = 1 → OnlyRegs s u [0x40]) := by
  refine ends_of_done (exec_winAddrWrite hi hq w true v) ⟨?_, ?_, ?_, ?_⟩
  · rw [winAddr_refresh, winAddr_winAddrWrite_high]
  · rw [fld_refresh_winErr, fld_winErr_winAddrWrite]
  · rintro rfl
    exact host_winAddrWrite_zero true v s
  · rintro rfl
    exact onlyRegs_setReg_setReg (r1 := 0x40) (r2 := 0x40) (by decide) (by decide)

/-! ### The statement -/

/-- Settles O10: each clause is a lemma above; a register write goes through the access codes of its row's fields (writeFields_eq). -/
theorem hostWritesAndRegisterAccessCodes : Obligations.Host_writes_and_register_access_codes := by
  unfold Obligations.Host_writes_and_register_access_codes
  intro s
  refine ⟨?posted, ?held, ?noClock, ?plain, ?ranged, ?ignored, ?interior⟩
  case posted =>
    intro slot v hm hp hc hl hw
    refine ends_of_done (congrArg done (postWriteHost_of_accepted hp hc hl hw (by simp [inDoze, hm]) _ v)) ⟨regsKept_refresh fun _ _ => rfl, ?_⟩
    simp only [hm, Bool.not_true, Bool.or_false]; rfl
  case held =>
    intro slot v h
    exact idle_of_done (congrArg done (postWriteHost_of_held h _ v))
  case noClock =>
    intro slot v hm hp hc hl hw hd
    refine ends_of_done (congrArg done (postWriteHost_of_accepted hp hc hl hw hd _ v)) ⟨?_, regsKept_refresh fun _ _ => rfl⟩
    simp [hm, slotReg]
  case plain =>
    intro hq e he ha rb v hrb
    exact ends_registerWrite_plainRegs hq he ha hrb v
  case ranged =>
    intro hq hroom e he ha rb v hrb
    obtain ⟨hoff, row, hrow, hf⟩ := ranged_of_mem he
    have hp := writesPlainly_ctl hoff
    have hpa : regPa (C e.1) = 0x110000000000 + e.1 := by simp [regPa]
    rw [← hrb] at ha hrow hp hpa ⊢
    rw [← hpa]
    exact ⟨fun h1 h2 => ends_registerWrite_inRange hq hp (by rw [hrb, C_eq]; omega) ha hrow hf h1 h2,
      fun h1 h2 => ends_registerWrite_outOfRange hq hp ha hrow hf hroom h1 h2⟩
  case ignored =>
    intro rb v hc hh hq
    exact idle_registerWrite hc hh hq v
  case interior =>
    intro hi hq
    refine ⟨fun v => ends_setReg_intStatus (congrArg done (hostApply_intStatus hi hq v)),
      fun v => ends_setReg_intStatus (congrArg done (hostApply_intForce hi hq v)), fun hp => ⟨ends_syncModeSwitch hi hp, fun slot v => ⟨?_, ?_, ?_⟩⟩,
      fun w v => ⟨ends_winAddrWrite_low hi hq w v, ends_winAddrWrite_high hi hq w v⟩⟩
    · exact idle_of_done (exec_hostStrobeAbort_read hi hp slot v)
    · intro hslot
      have hs : slotReg slot = 0xAC := by rw [slotReg, hslot]
      have he := exec_hostStrobeAbort_write hi hp slot v
      rw [hs, hostApply_scratch hi hq] at he
      exact ends_of_done he ⟨by simp, onlyRegs_setReg (List.mem_singleton.mpr rfl)⟩
    · intro rb hrb
      rw [exec_hostStrobeAbort_write hi hp, exec_registerWrite_host (by omega) (by omega), hrb]; rfl

end Sys2Proof.Machine
end

section
/-! SUPPORT. Frames: what a run of operations leaves unchanged of the registers' fields and of the rest of the state, so that an
operation says once which fields it writes. -/

namespace Sys2Proof.Machine

open Sys2Proof Sys2Proof.Safety

/-! ### Fields that share no bit -/

/-- Two fields share no bit. -/
@[reducible] def Fld.Apart (f g : Fld) : Prop := f.reg ≠ g.reg ∨ f.hi < g.lo ∨ g.hi < f.lo

/-- A field keeps its value where another one, of which it shares no bit, is set. -/
theorem State.fld_setFld_of_apart {s : State} {f g : Fld} {v : Nat} (h : f.hi < 32) (hd : f.Apart g) : (s.setFld g v).fld f = s.fld f := by
  by_cases hr : g.reg = f.reg
  · obtain ⟨r, hi, lo⟩ := f
    obtain ⟨q, hi', lo'⟩ := g
    obtain rfl : q = r := hr
    have hb : hi < lo' ∨ hi' < lo := hd.resolve_left (fun e => e rfl)
    simp only [State.setFld_mk, State.fld_mk, State.reg_setReg, if_true]
    exact bitsOf_withBits_disjoint _ _ _ _ _ _ h hb
  · exact State.fld_setReg_of_ne _ _ _ _ hr

theorem State.flag_setFld_of_apart {s : State} {f g : Fld} {v : Nat} (h : f.hi < 32) (hd : f.Apart g) : (s.setFld g v).flag f = s.flag f := by
  rw [State.flag, State.flag, State.fld_setFld_of_apart h hd]

/-- A register keeps its value where a field of another one is set. -/
theorem State.reg_setFld_of_ne {s : State} {f : Fld} {v r : Nat} (h : f.reg ≠ r) : (s.setFld f v).reg r = s.reg r := by
  rw [State.setFld, State.reg_setReg, if_neg h]

theorem State.fld_setFlds_of_apart (l : List (Fld × Nat)) (s : State) {f : Fld} (h : f.hi < 32) (ha : ∀ e ∈ l, f.Apart e.1) :
    (s.setFlds l).fld f = s.fld f := by
  induction l generalizing s with
  | nil => rfl
  | cons e l ih =>
    rw [State.setFlds, ih _ fun x hx => ha x (List.mem_cons_of_mem e hx), State.fld_setFld_of_apart h (ha e List.mem_cons_self)]

theorem State.reg_setFlds_of_ne (l : List (Fld × Nat)) (s : State) {r : Nat} (h : ∀ e ∈ l, e.1.reg ≠ r) : (s.setFlds l).reg r = s.reg r := by
  induction l generalizing s with
  | nil => rfl
  | cons e l ih =>
    rw [State.setFlds, ih _ fun x hx => h x (List.mem_cons_of_mem e hx), State.setFld, State.reg_setReg, if_neg (h e List.mem_cons_self)]

theorem State.fld_of_regs_eq {x y : State} (h : x.regs = y.regs) (f : Fld) : x.fld f = y.fld f := by
  rw [State.fld, State.fld, State.reg, State.reg, h]

theorem State.reg_of_regs_eq {x y : State} (h : x.regs = y.regs) (r : Nat) : x.reg r = y.reg r := by rw [State.reg, State.reg, h]

/-- A field of a list of fields cleared is clear. -/
theorem State.flag_setFlds_zero (l : List Fld) (s : State) {f : Fld} (h : f.hi < 32) (hm : f ∈ l ∨ s.flag f = false)
    (hl : ∀ g ∈ l, g = f ∨ f.Apart g) : (s.setFlds (l.map fun g => (g, 0))).flag f = false := by
  induction l generalizing s with
  | nil => exact hm.resolve_left List.not_mem_nil
  | cons g l ih =>
    have hg : f = g ∨ s.flag f = false → (s.setFld g 0).flag f = false := fun e => by
      by_cases hgf : g = f
      · rw [hgf, State.flag, State.fld_setFld _ _ _ h, Nat.zero_mod]; rfl
      · rw [State.flag_setFld_of_apart h ((hl g List.mem_cons_self).resolve_left hgf)]
        exact e.resolve_left (Ne.symm hgf)
    refine ih _ ?_ fun k hk => hl k (List.mem_cons_of_mem g hk)
    rcases hm with hm | hm
    · exact (List.mem_cons.mp hm).symm.imp id fun e => hg (.inl e)
    · exact .inr (hg (.inr hm))

/-- A one-bit field just set. -/
theorem State.flag_setFlag (s : State) (r b : Nat) (v : Bool) (h : b < 32) : (s.setFlag ⟨r, b, b⟩ v).flag ⟨r, b, b⟩ = v := by
  rw [State.flag, State.setFlag, State.fld_setFld _ _ _ h, Nat.add_sub_cancel_left]
  cases v <;> rfl

/-- A bit just set. -/
theorem State.flag_setFld_one (s : State) (r b : Nat) (h : b < 32) : (s.setFld ⟨r, b, b⟩ 1).flag ⟨r, b, b⟩ = true :=
  State.flag_setFlag s r b true h

/-- A register, read as the field of all its bits. -/
theorem State.reg_toNat (s : State) (r : Nat) : (s.reg r).toNat = s.fld ⟨r, 31, 0⟩ := by
  have := (s.reg r).isLt
  simp only [State.fld, bitsOf]
  omega

/-- A refresh leaves a flag outside INT_STATUS alone. -/
theorem flag_refresh (s : State) (f : Fld) (h : f.reg ≠ 0x18) : (refresh s).flag f = s.flag f := by
  rw [State.flag, State.flag, fld_refresh _ _ h]

/-- A refresh leaves a register other than INT_STATUS alone. -/
theorem reg_refresh_of_ne (s : State) {r : Nat} (h : r ≠ 0x18) : (refresh s).reg r = s.reg r := by
  rw [reg_refresh, if_neg (Ne.symm h)]

/-! ### Frames -/

/-- From s to t no field has changed that is apart from all that W names, and nothing that the view shows. -/
structure Keeps (W : Fld → Prop) (view : State → State) (s t : State) : Prop where
  fld : ∀ f, f.hi < 32 → (∀ g, W g → f.Apart g) → t.fld f = s.fld f
  view : view t = view s

variable {W V : Fld → Prop} {view view' : State → State} {s t u : State}

theorem Keeps.refl (s : State) : Keeps W view s s := ⟨fun _ _ _ => rfl, rfl⟩

theorem Keeps.trans (h : Keeps W view s t) (k : Keeps W view t u) : Keeps W view s u :=
  ⟨fun f hf ha => (k.fld f hf ha).trans (h.fld f hf ha), k.view.trans h.view⟩

theorem Keeps.mono (h : Keeps W view s t) (hw : ∀ g, W g → V g) : Keeps V view s t :=
  ⟨fun f hf ha => h.fld f hf fun g hg => ha g (hw g hg), h.view⟩

/-- A view that shows less is kept with one that shows more. -/
theorem Keeps.coarsen (h : Keeps W view s t) (c : State → State) : Keeps W (fun x => c (view x)) s t :=
  ⟨h.fld, congrArg c h.view⟩

theorem Keeps.flag (h : Keeps W view s t) {f : Fld} (hf : f.hi < 32) (ha : ∀ g, W g → f.Apart g) : t.flag f = s.flag f := by
  rw [State.flag, State.flag, h.fld f hf ha]

/-- A register none of whose fields is written keeps its value. -/
theorem Keeps.reg (h : Keeps W view s t) (r : Nat) (ha : ∀ g, W g → g.reg ≠ r) : t.reg r = s.reg r := by
  apply BitVec.eq_of_toNat_eq
  rw [State.reg_toNat, State.reg_toNat]
  exact h.fld ⟨r, 31, 0⟩ (Nat.lt_succ_self 31) fun g hg => .inl (Ne.symm (ha g hg))

/-- A state that differs in no register and shows the same. -/
theorem Keeps.of_regs_eq (hr : t.regs = s.regs) (hv : view t = view s) : Keeps W view s t :=
  ⟨fun f _ _ => by rw [State.fld, State.fld, State.reg, State.reg, hr], hv⟩

/-- A field of W is set. -/
theorem keeps_setFld {f : Fld} (hw : W f) (v : Nat) (hv : view (s.setFld f v) = view s) : Keeps W view s (s.setFld f v) :=
  ⟨fun _ hg ha => State.fld_setFld_of_apart hg (ha f hw), hv⟩

/-- A register all of whose fields are in W is written. -/
theorem keeps_setReg {r : Nat} (v : W32) (hw : W ⟨r, 31, 0⟩) (hv : view (s.setReg r v) = view s) : Keeps W view s (s.setReg r v) :=
  ⟨fun g hg ha => by
    rcases ha _ hw with h | h | h
    · exact State.fld_setReg_of_ne _ _ _ _ (Ne.symm h)
    · exact absurd h (Nat.not_lt_zero _)
    · have h0 : g.hi + 1 - g.lo = 0 := by simp only at h; omega
      simp only [State.fld, bitsOf, h0, Nat.pow_zero, Nat.mod_one], hv⟩

/-- Each step of a fold keeps the frame, so the fold does. -/
theorem Keeps.foldl {α : Type} {f : State → α → State} (l : List α) (s : State) (h : ∀ a ∈ l, ∀ s, Keeps W view s (f s a)) :
    Keeps W view s (l.foldl f s) := by
  induction l generalizing s with
  | nil => exact .refl s
  | cons a t ih => exact (h a List.mem_cons_self s).trans (ih _ fun b hb => h b (List.mem_cons_of_mem a hb))

theorem Keeps.ite {c : Prop} [Decidable c] (h : c → Keeps W view s t) (k : ¬ c → Keeps W view s u) : Keeps W view s (if c then t else u) := by
  split
  · next hc => exact h hc
  · next hc => exact k hc

/-- Fields of a list, all in W, are set. -/
theorem keeps_setFlds (l : List (Fld × Nat)) (s : State) (hw : ∀ e ∈ l, W e.1) (hv : ∀ x f v, view (State.setFld x f v) = view x) :
    Keeps W view s (s.setFlds l) := by
  induction l generalizing s with
  | nil => exact .refl s
  | cons e l ih => exact (keeps_setFld (hw e List.mem_cons_self) e.2 (hv _ _ _)).trans (ih _ fun x hx => hw x (List.mem_cons_of_mem e hx))

/-! ### INT_STATUS -/

/-- One bit set by a field of one bit. -/
theorem withBits_one (w : W32) (b : Nat) (h : b < 32) : withBits w b b 1 = w ||| 1#32 <<< b := by
  apply BitVec.eq_of_getLsbD_eq
  intro i hi
  have hs : (1#32 <<< b).getLsbD i = decide (i = b) := by
    rw [BitVec.getLsbD_shiftLeft, BitVec.getLsbD_one]
    rcases Nat.lt_trichotomy i b with hlt | rfl | hgt
    · simp [hlt, Nat.ne_of_lt hlt]
    · simp [hi]
    · simp [Nat.not_lt_of_gt hgt, Nat.ne_of_gt hgt, Nat.sub_ne_zero_of_lt hgt]
  rw [withBits_getLsbD _ _ _ _ _ hi, BitVec.getLsbD_or, hs]
  by_cases hb : i = b
  · subst hb; simp
  · rw [if_neg (by omega)]; simp [hb]

/-- An interrupt bit is a bit of INT_STATUS. -/
theorem reg_raiseInt (bit : Nat) (s : State) (h : bit < 32) : (raiseInt bit s).reg 0x18 = s.reg 0x18 ||| 1#32 <<< bit := by
  rw [raiseInt_eq, State.reg_setReg, if_pos rfl, withBits_one _ _ h]

/-- What has rung before a refresh has rung after it. -/
theorem rings_refresh {s x : State} {bits : List Nat} (h : x.reg 0x18 = bits.foldl (fun w b => w ||| 1#32 <<< b) (s.reg 0x18)) :
    Rings s (refresh x) bits := by
  rw [Rings, conditions_refresh, reg_refresh, if_pos rfl, h]

/-- A bit of a register, as a flag. -/
theorem flag_eq_bitN (s : State) (r b : Nat) : s.flag ⟨r, b, b⟩ = bitN (s.reg r).toNat b := by
  rw [State.flag_mk, bitsOf, Nat.add_sub_cancel_left, Nat.pow_one, bitN, Nat.testBit_eq_decide_div_mod_eq, decide_eq_decide]
  omega

/-- A bit that is set stays set through a refresh. -/
theorem intSet_refresh {s : State} {b : Nat} (h : s.flag ⟨0x18, b, b⟩ = true) : IntSet (refresh s) b := by
  rw [flag_eq_bitN] at h
  rw [IntSet, reg_refresh, if_pos rfl, bitN, BitVec.toNat_or, Nat.testBit_or, show (s.reg 0x18).toNat.testBit b = true from h, Bool.true_or]

/-! ### The log -/

/-- The fields that reporting an event may write: INT_STATUS, and the four counters of Table 21-4. -/
def logFld (f : Fld) : Prop := f.reg = 0x18 ∨ f.reg ∈ [C 0xC0004, C 0xC0008, C 0xC000C, C 0xC0010]

/-- All but the registers. -/
def offRegs (s : State) : State := { s with regs := [] }

/-- All but the registers and the log. -/
def offLog (s : State) : State := { offRegs s with log := State.reset.log }

theorem keeps_queueEvent (e : LogEntry) (s : State) : Keeps logFld offLog s (queueEvent e s) := by
  rw [queueEvent]
  refine .ite (fun _ => ?_) fun _ => .of_regs_eq rfl rfl
  exact (keeps_setFld (f := ⟨C 0xC000C, 31, 0⟩) (.inr (by decide)) _ rfl).trans (keeps_setFld (.inl rfl) _ rfl)

/-- One of the four counters counts. -/
theorem keeps_errCount (s : State) {r : Nat} (hr : r ∈ [C 0xC0004, C 0xC0008, C 0xC000C, C 0xC0010]) :
    Keeps logFld offLog s (s.addSat ⟨r, 31, 0⟩ 1) := keeps_setFld (f := ⟨r, 31, 0⟩) (.inr hr) _ rfl

theorem keeps_reportEvent (e : LogEntry) (s : State) : Keeps logFld offLog s (reportEvent e s) := by
  have h1 : Keeps logFld offLog s (raiseInt iErrCorr (s.addSat ⟨C 0xC0004, 31, 0⟩ 1)) :=
    (keeps_errCount s (by decide)).trans (keeps_setFld (.inl rfl) 1 rfl)
  unfold reportEvent
  split
  · refine h1.trans ?_
    generalize raiseInt iErrCorr (s.addSat ⟨C 0xC0004, 31, 0⟩ 1) = x
    simp only []
    split
    · exact keeps_errCount x (by decide)
    · refine Keeps.trans (.of_regs_eq ?_ ?_) (keeps_queueEvent e _) <;> rfl
  · refine Keeps.trans ?_ (keeps_queueEvent e _)
    split
    · exact keeps_errCount s (by decide)
    · exact .refl s

theorem keeps_logEvent (cls code ctx src arg : Nat) (s : State) : Keeps logFld offLog s (logEvent cls code ctx src arg s) := by
  rw [logEvent]
  exact .ite (fun _ => .of_regs_eq rfl rfl) fun _ => keeps_reportEvent _ s

/-- Events are reported as they come: no freeze, and MCLK runs. -/
def Awake (s : State) : Prop := s.flag fFrozen = false ∧ s.core.mclk = true

/-- Only a freeze or DOZE holds an event back. -/
theorem later_queueEvent (e : LogEntry) (s : State) : (queueEvent e s).log.later = s.log.later := by
  rw [queueEvent]
  split <;> rfl

theorem later_reportEvent (e : LogEntry) (s : State) : (reportEvent e s).log.later = s.log.later := by
  unfold reportEvent
  split
  · extract_lets x lim spent
    split
    · rfl
    · exact later_queueEvent e _
  · rw [later_queueEvent]
    split <;> rfl

theorem later_logEvent {s : State} (h : Awake s) (cls code ctx src arg : Nat) :
    (logEvent cls code ctx src arg s).log.later = s.log.later := by
  have hd : inDoze s = false := by rw [inDoze, h.2, Bool.not_true, Bool.and_false]
  rw [logEvent, h.1, hd, if_neg (by decide)]
  exact later_reportEvent _ s

/-- While the interior runs, an event of no error CLASS is queued where its unit's queue has room, and nothing else changes. -/
theorem logEvent_log_of_room {s : State} {cls code : Nat} (h : interior s = true) (hc : cls ∉ [1, 2, 3]) (hr : Room s code) (ctx src arg : Nat) :
    Logs s (logEvent cls code ctx src arg s) cls code ctx src arg :=
  fun _ => congrArg State.log (logEvent_of_room h hc hr ctx src arg)

/-- An interrupt raised is a field of INT_STATUS written. -/
theorem keeps_raiseInt (bit : Nat) (s : State) (hw : ∀ f : Fld, f.reg = 0x18 → W f) (hv : ∀ x f v, view (State.setFld x f v) = view x) :
    Keeps W view s (raiseInt bit s) := keeps_setFld (hw _ rfl) 1 (hv _ _ _)

/-! ### Frames of operations that log -/

/-- The fields and the view of a frame inside which events may be logged. -/
structure Frame (W : Fld → Prop) (view : State → State) : Prop where
  frozen : ∀ g, W g → fFrozen.Apart g
  core : ∀ x y, view x = view y → x.core = y.core
  log : ∀ f, logFld f → W f
  logView : ∀ x y, offLog x = offLog y → view x = view y

/-- An operation that stays inside a frame; where events are reported as they come it holds none back. -/
structure Moves (W : Fld → Prop) (view : State → State) (s t : State) : Prop where
  keeps : Keeps W view s t
  awake : Awake s → Awake t
  later : Awake s → t.log.later = s.log.later

theorem Moves.refl (s : State) : Moves W view s s := ⟨.refl s, id, fun _ => rfl⟩

theorem Moves.trans (h : Moves W view s t) (k : Moves W view t u) : Moves W view s u :=
  ⟨h.keeps.trans k.keeps, fun a => k.awake (h.awake a), fun a => (k.later (h.awake a)).trans (h.later a)⟩

theorem Moves.mono (h : Moves W view s t) (hw : ∀ g, W g → V g) : Moves V view s t := ⟨h.keeps.mono hw, h.awake, h.later⟩

theorem Moves.coarsen (h : Moves W view s t) (c : State → State) : Moves W (fun x => c (view x)) s t := ⟨h.keeps.coarsen c, h.awake, h.later⟩

theorem Moves.of_awake (hf : Frame W view) (h : Keeps W view s t) (hl : Awake s → t.log.later = s.log.later) : Moves W view s t :=
  ⟨h, fun a => ⟨(h.flag (by decide) hf.frozen).trans a.1, (congrArg CoreSt.mclk (hf.core _ _ h.view)).trans a.2⟩, hl⟩

theorem Moves.of_keeps (hf : Frame W view) (h : Keeps W view s t) (hl : t.log.later = s.log.later) : Moves W view s t := .of_awake hf h fun _ => hl

/-- A frame of what events write holds in every frame. -/
theorem Keeps.in_frame (hf : Frame W view) (h : Keeps logFld offLog s t) : Keeps W view s t :=
  ⟨fun f hhi ha => h.fld f hhi fun g hg => ha g (hf.log g hg), hf.logView _ _ h.view⟩

theorem moves_logEvent (hf : Frame W view) (cls code ctx src arg : Nat) (s : State) : Moves W view s (logEvent cls code ctx src arg s) :=
  .of_awake hf ((keeps_logEvent cls code ctx src arg s).in_frame hf) fun a => later_logEvent a cls code ctx src arg

theorem moves_reportEvent (hf : Frame W view) (e : LogEntry) (s : State) : Moves W view s (reportEvent e s) :=
  .of_keeps hf ((keeps_reportEvent e s).in_frame hf) (later_reportEvent e s)

theorem moves_raiseInt (hf : Frame W view) (bit : Nat) (s : State) : Moves W view s (raiseInt bit s) :=
  .of_keeps hf (keeps_raiseInt bit s (fun _ h => hf.log _ (.inl h)) fun _ _ _ => hf.logView _ _ rfl) rfl

theorem moves_setFld (hf : Frame W view) {f : Fld} (hw : W f) (v : Nat) : Moves W view s (s.setFld f v) :=
  .of_keeps hf (keeps_setFld hw v (hf.logView _ _ rfl)) rfl

theorem moves_setReg (hf : Frame W view) {r : Nat} (v : W32) (hw : W ⟨r, 31, 0⟩) : Moves W view s (s.setReg r v) :=
  .of_keeps hf (keeps_setReg v hw (hf.logView _ _ rfl)) rfl

theorem Moves.ite {c : Prop} [Decidable c] (h : c → Moves W view s t) (k : ¬ c → Moves W view s u) : Moves W view s (if c then t else u) := by
  split
  · next hc => exact h hc
  · next hc => exact k hc

/-- A step that stays inside the frame, or none. -/
theorem Moves.ite_refl {c : Prop} [Decidable c] (h : Moves W view s t) : Moves W view s (if c then t else s) := .ite (fun _ => h) fun _ => .refl s

theorem Moves.foldl {α : Type} {f : State → α → State} (l : List α) (s : State) (h : ∀ a ∈ l, ∀ s, Moves W view s (f s a)) :
    Moves W view s (l.foldl f s) := by
  induction l generalizing s with
  | nil => exact .refl s
  | cons a t ih => exact (h a List.mem_cons_self s).trans (ih _ fun b hb => h b (List.mem_cons_of_mem a hb))

theorem moves_setFlds (hf : Frame W view) (l : List (Fld × Nat)) (s : State) (hw : ∀ e ∈ l, W e.1) : Moves W view s (s.setFlds l) := by
  induction l generalizing s with
  | nil => exact .refl s
  | cons e l ih => exact (moves_setFld hf (hw e List.mem_cons_self) e.2).trans (ih _ fun x hx => hw x (List.mem_cons_of_mem e hx))

/-- Over the four ports: what every other port's step keeps, its own step turns into what they keep too. -/
theorem foldl_ports {f : State → Nat → State} {P Q : State → Prop} {n : Nat} (hn : n < 4) (pre : ∀ m < 4, m ≠ n → ∀ s, Q s → Q (f s m))
    (own : ∀ s, Q s → P (f s n)) (post : ∀ m < 4, m ≠ n → ∀ s, P s → P (f s m)) (s : State) (h : Q s) : P ((numsFrom 0 4).foldl f s) := by
  change P (f (f (f (f s 0) 1) 2) 3)
  have h4 : n = 0 ∨ n = 1 ∨ n = 2 ∨ n = 3 := by omega
  rcases h4 with rfl | rfl | rfl | rfl
  · exact post 3 (by decide) (by decide) _ (post 2 (by decide) (by decide) _ (post 1 (by decide) (by decide) _ (own s h)))
  · exact post 3 (by decide) (by decide) _ (post 2 (by decide) (by decide) _ (own _ (pre 0 (by decide) (by decide) s h)))
  · exact post 3 (by decide) (by decide) _ (own _ (pre 1 (by decide) (by decide) _ (pre 0 (by decide) (by decide) s h)))
  · exact own _ (pre 2 (by decide) (by decide) _ (pre 1 (by decide) (by decide) _ (pre 0 (by decide) (by decide) s h)))

/-- A 64-bit counter counts. -/
theorem moves_bump (hf : Frame W view) (e : Bool) {off : Nat} (h0 : W ⟨C off, 31, 0⟩) (h4 : W ⟨C (off + 4), 31, 0⟩) (n : Nat) (s : State) :
    Moves W view s (bump e off n s) := by
  rw [bump]
  exact .ite (fun _ => (moves_setReg hf _ h0).trans (moves_setReg hf _ h4)) fun _ => .refl s

end Sys2Proof.Machine
end

section
/-! SUPPORT. Pins that a freeze, a quiesce or a clock loss drives low: the illuminators' (Table 17-5). -/

namespace Sys2Proof.Machine

open Sys2Proof Sys2Proof.Safety

/-- All but the registers and the cameras. -/
def offCam (s : State) : State := { offRegs s with cam := State.reset.cam }

/-- The registers that count cut and suppressed strobes. -/
def limitedFld (f : Fld) : Prop := f.reg = C 0x70308 ∨ f.reg = C 0x70318

/-- What forces pins low: the strobe counters, the cameras and illuminators, and no pin rises. -/
structure PinsFall (s t : State) : Prop where
  keeps : Keeps limitedFld offCam s t
  low : ∀ k, (illAt s k).high = false → (illAt t k).high = false

theorem PinsFall.refl (s : State) : PinsFall s s := ⟨.refl s, fun _ h => h⟩

theorem PinsFall.trans {s t u : State} (h : PinsFall s t) (k : PinsFall t u) : PinsFall s u :=
  ⟨h.keeps.trans k.keeps, fun i hi => k.low i (h.low i hi)⟩

theorem PinsFall.core {s t : State} (h : PinsFall s t) : t.core = s.core := (congrArg State.core h.keeps.view :)
theorem PinsFall.mem {s t : State} (h : PinsFall s t) : t.mem = s.mem := (congrArg State.mem h.keeps.view :)
theorem PinsFall.fly {s t : State} (h : PinsFall s t) : t.fly = s.fly := (congrArg State.fly h.keeps.view :)
theorem PinsFall.log {s t : State} (h : PinsFall s t) : t.log = s.log := (congrArg State.log h.keeps.view :)
theorem PinsFall.host {s t : State} (h : PinsFall s t) : t.host = s.host := (congrArg State.host h.keeps.view :)
theorem PinsFall.dbg {s t : State} (h : PinsFall s t) : t.dbg = s.dbg := (congrArg State.dbg h.keeps.view :)
theorem PinsFall.peer {s t : State} (h : PinsFall s t) : t.peer = s.peer := (congrArg State.peer h.keeps.view :)
theorem PinsFall.reg {s t : State} (h : PinsFall s t) {r : Nat} (hr : r ∉ [C 0x70308, C 0x70318]) : t.reg r = s.reg r :=
  h.keeps.reg r fun g hg e => hr (by rcases hg with h | h <;> simp [← e, h])

/-- A camera written drives no pin. -/
theorem pinsFall_setCam (k : Nat) (c : CamSt) (s : State) : PinsFall s (setCam k c s) := ⟨.of_regs_eq rfl rfl, fun _ h => h⟩

theorem pinsFall_strobeLimited {k : Nat} (hk : k < 2) (s : State) : PinsFall s (strobeLimited k s) := by
  have h1 : PinsFall s (s.addSat (fLimited k) 1) := by
    refine ⟨keeps_setFld (f := fLimited k) ?_ _ rfl, fun _ h => h⟩
    rcases k with _ | _ | k
    · exact .inl rfl
    · exact .inr rfl
    · omega
  rw [strobeLimited]
  refine h1.trans ?_
  split
  · split
    · exact pinsFall_setCam _ _ _
    · exact pinsFall_setCam _ _ _
  · exact pinsFall_setCam _ _ _

theorem illAt_setIll (k : Nat) (i : IllSt) (s : State) (j : Nat) :
    illAt (setIll k i s) j = if k = j ∧ k < s.cam.ills.length then i else illAt s j := by
  rw [illAt, setIll, illAt, getElem?_setAt]
  split <;> rfl

/-- The pin falls. -/
theorem pinsFall_setIll (k : Nat) (s : State) : PinsFall s (setIll k { illAt s k with high := false } s) := by
  refine ⟨.of_regs_eq rfl rfl, fun j hj => ?_⟩
  rw [illAt_setIll]
  split
  · rfl
  · exact hj

theorem pinsFall_illForceLow {k : Nat} (hk : k < 2) (s : State) : PinsFall s (illForceLow k s) := by
  rw [illForceLow]
  split
  · exact (pinsFall_setIll k s).trans (pinsFall_strobeLimited hk _)
  · exact .refl s

/-- The pin is low after it. -/
theorem high_illForceLow {k : Nat} (hk : k < 2) (s : State) : (illAt (illForceLow k s) k).high = false := by
  rw [illForceLow]
  by_cases h : (illAt s k).high = true
  · rw [if_pos h]
    refine (pinsFall_strobeLimited hk _).low k ?_
    have hl : k < s.cam.ills.length := by
      by_contra hn
      rw [illAt, List.getElem?_eq_none (Nat.le_of_not_lt hn)] at h
      exact absurd h (by decide)
    rw [illAt_setIll, if_pos ⟨rfl, hl⟩]
  · rw [if_neg h]
    exact Bool.eq_false_iff.mpr h

/-- Both pins fall where each step forces its own low. -/
theorem PinsFall.both {f : State → Nat → State} (h : ∀ k, k < 2 → ∀ s, PinsFall (illForceLow k s) (f s k)) (s : State) :
    PinsFall s ((numsFrom 0 2).foldl f s) ∧ ∀ k < 2, (illAt ((numsFrom 0 2).foldl f s) k).high = false := by
  have one : ∀ k, k < 2 → ∀ s, PinsFall s (f s k) ∧ (illAt (f s k) k).high = false := fun k hk s =>
    ⟨(pinsFall_illForceLow hk s).trans (h k hk s), (h k hk s).low k (high_illForceLow hk s)⟩
  obtain ⟨p0, l0⟩ := one 0 (by decide) s
  obtain ⟨p1, l1⟩ := one 1 (by decide) (f s 0)
  refine ⟨p0.trans p1, fun k hk => ?_⟩
  rcases k with _ | _ | k
  · exact p1.low 0 l0
  · exact l1
  · omega

theorem pinsFall_cameraQuiesce (s : State) : PinsFall s (cameraQuiesce s) ∧ ∀ k < 2, (illAt (cameraQuiesce s) k).high = false :=
  PinsFall.both (fun _ _ _ => .refl _) s

theorem pinsFall_cameraFreeze (s : State) : PinsFall s (cameraFreeze s) ∧ ∀ k < 2, (illAt (cameraFreeze s) k).high = false := by
  refine PinsFall.both (fun k _ s => ?_) s
  simp only []
  split
  · exact pinsFall_setCam _ _ _
  · exact .refl _

end Sys2Proof.Machine
end

section
/-! SUPPORT. Peer links: which fields a link's training and its end may write, and the STATE they leave (R412-R414). -/

namespace Sys2Proof.Machine

open Sys2Proof Sys2Proof.Safety

/-! ### The frame of a port -/

/-- What a port's operations may write besides its STATE: its registers, and what reporting an event writes. -/
def portFld (f : Fld) : Prop := f.reg = 0x18 ∨ C 0x90000 ≤ f.reg

/-- What they may write with STATE. -/
def linkFld (n : Nat) (f : Fld) : Prop := portFld f ∨ f = fLkState n

/-- All but the registers, the log and the ports. -/
def offPeer (s : State) : State := { offLog s with peer := State.reset.peer }

theorem portFld_of_logFld {f : Fld} (h : logFld f) : portFld f := by
  rcases h with h | h
  · exact .inl h
  · right
    simp only [List.mem_cons, List.not_mem_nil, or_false] at h
    rcases h with h | h | h | h <;> rw [h] <;> decide

theorem frame_port : Frame portFld offPeer where
  frozen g hg := .inl (by
    have h8 : fFrozen.reg = 8 := rfl
    rcases hg with h | h
    · rw [h]; decide
    · simp only [C_eq] at h; omega)
  core _ _ h := (congrArg State.core h :)
  log _ h := portFld_of_logFld h
  logView _ _ h := congrArg (fun x : State => { x with peer := State.reset.peer }) h

theorem frame_link (n : Nat) : Frame (linkFld n) offPeer where
  frozen g hg := by
    rcases hg with h | rfl
    · exact frame_port.frozen g h
    · exact .inl (by change 8 ≠ 0x9C; decide)
  core := frame_port.core
  log _ h := .inl (portFld_of_logFld h)
  logView := frame_port.logView

/-- A port's operation stays in the frame of its link. -/
theorem Moves.link {s t : State} (n : Nat) (h : Moves portFld offPeer s t) : Moves (linkFld n) offPeer s t := h.mono fun _ => .inl

/-- A register of a port. -/
theorem portFld_peerR (n off hi lo : Nat) : portFld ⟨peerR n off, hi, lo⟩ := .inr (by simp only [peerR, C_eq]; omega)

/-! ### What it sends -/

theorem moves_setPeer (n : Nat) (p : PeerPort) (s : State) : Moves portFld offPeer s (setPeer n p s) :=
  .of_keeps frame_port (.of_regs_eq rfl rfl) rfl

theorem moves_pumpGo (n : Nat) (l : List (Nat × List Byte)) (blocked : List Nat) (s : State) : Moves portFld offPeer s (pumpGo n l blocked s).2 := by
  induction l generalizing blocked s with
  | nil => exact .refl s
  | cons e l ih =>
    obtain ⟨v, bs⟩ := e
    unfold pumpGo
    extract_lets k s1 p
    split
    · exact ((moves_setFld frame_port (portFld_peerR _ _ _ _) _).trans (moves_setPeer n _ s1)).trans (ih blocked _)
    · exact ih _ s

theorem moves_sendPacket (n v : Nat) (bs : List Byte) (s : State) : Moves portFld offPeer s (sendPacket n v bs s) := by
  unfold sendPacket pump
  exact ((moves_setPeer n _ s).trans (moves_pumpGo n _ _ _)).trans (moves_setPeer n _ _)

theorem moves_bumpPeer (n i k : Nat) (s : State) : Moves portFld offPeer s (bumpPeer n i k s) :=
  moves_bump frame_port _ (.inr (by simp only [C_eq]; omega)) (.inr (by simp only [C_eq]; omega)) k s

theorem moves_credits (n : Nat) (g : Nat → Nat) (s : State) :
    Moves portFld offPeer s (s.setFlds ((numsFrom 0 4).map fun v => (fCredit n v, g v))) := by
  refine moves_setFlds frame_port _ s fun e he => ?_
  obtain ⟨v, -, rfl⟩ := List.mem_map.mp he
  exact portFld_peerR _ _ _ _

/-! ### Its link -/

theorem moves_endRequest (n : Nat) (t : PeerTag) (status : Nat) (data : List Byte) (s : State) :
    Moves portFld offPeer s (endRequest n t status data s) := by
  unfold endRequest
  extract_lets p p1 p2 s1 s2
  have h1 : Moves portFld offPeer s s1 := (moves_setPeer n p2 s).trans (moves_setFld frame_port (portFld_peerR _ _ _ _) _)
  have h2 : Moves portFld offPeer s s2 := h1.trans (.ite_refl (moves_bumpPeer n 6 1 s1))
  exact h2.trans (.ite (fun _ => .refl s2) fun _ => moves_logEvent frame_port _ _ _ _ _ s2)

theorem moves_loseRequests (n : Nat) (l : List PeerTag) (s : State) : Moves portFld offPeer s (loseRequests n l s) := by
  induction l generalizing s with
  | nil => exact .refl s
  | cons t l ih => exact (moves_endRequest n t 0x10 [] s).trans (ih _)

theorem moves_setLink (n st cause : Nat) (s : State) : Moves (linkFld n) offPeer s (setLink n st cause s) := by
  unfold setLink
  refine .ite (fun _ => .refl s) fun _ => ?_
  exact ((moves_setFld (frame_link n) (.inr rfl) st).trans (moves_logEvent (frame_link n) _ _ _ _ _ _)).trans (moves_raiseInt (frame_link n) _ _)

theorem moves_linkDown (n cause : Nat) (s : State) : Moves (linkFld n) offPeer s (linkDown n cause s) := by
  unfold linkDown
  refine .ite (fun _ => .refl s) fun _ => ?_
  extract_lets s1 p empty s2 s3
  have h3 : Moves portFld offPeer s s3 := ((moves_loseRequests n _ s).trans (moves_setPeer n _ s1)).trans (moves_credits n (fun _ => 0) s2)
  exact (h3.link n).trans ((moves_setLink n 0 cause s3).trans ((moves_bumpPeer n 3 1 _).link n))

/-- Fields of a port's own registers are set. -/
theorem moves_portFlds (n : Nat) (l : List (Fld × Nat)) (s : State) (h : ∀ e ∈ l, ∃ off hi lo, e.1 = ⟨peerR n off, hi, lo⟩) :
    Moves portFld offPeer s (s.setFlds l) :=
  moves_setFlds frame_port l s fun e he => by
    obtain ⟨off, hi, lo, h⟩ := h e he
    rw [h]
    exact portFld_peerR n off hi lo

theorem credits_peerR (n : Nat) (g : Nat → Nat) : ∀ e ∈ (numsFrom 0 4).map fun v => (fCredit n v, g v), ∃ off hi lo, e.1 = ⟨peerR n off, hi, lo⟩ := by
  intro e he
  obtain ⟨v, -, rfl⟩ := List.mem_map.mp he
  exact ⟨_, _, _, rfl⟩

/-- What a start of training sets beside STATE. -/
theorem moves_trainFields (n : Nat) (s : State) : Moves portFld offPeer s (s.setFlds
    ([(fTrainResult n, 0), (fBadLanes n, 0), (fFastEq n, 0)] ++ (numsFrom 0 4).map fun v => (fCredit n v, if v = 3 then 4 else 0))) := by
  refine moves_portFlds n _ s fun e he => ?_
  rcases List.mem_append.mp he with h | h
  · simp only [List.mem_cons, List.not_mem_nil, or_false] at h
    rcases h with rfl | rfl | rfl <;> exact ⟨_, _, _, rfl⟩
  · exact credits_peerR n _ e h

theorem moves_trainStart (n : Nat) (s : State) : Moves (linkFld n) offPeer s (trainStart n s) := by
  unfold trainStart
  extract_lets s1 s2 p
  exact (moves_setLink n 1 0 s).trans (((moves_trainFields n s1).trans (moves_setPeer n _ s2)).link n)

/-- What a failure of training sets beside STATE. -/
theorem moves_failFields (n result lanes : Nat) (s : State) : Moves portFld offPeer s (s.setFlds
    ((fTrainResult n, result) :: (fBadLanes n, lanes) :: (numsFrom 0 4).map fun v => (fCredit n v, 0))) := by
  refine moves_portFlds n _ s fun e he => ?_
  rcases List.mem_cons.mp he with rfl | h
  · exact ⟨_, _, _, rfl⟩
  rcases List.mem_cons.mp h with rfl | h
  · exact ⟨_, _, _, rfl⟩
  · exact credits_peerR n _ e h

/-- STATE is set before them. -/
theorem failFields_eq (n result lanes : Nat) (s : State) : s.setFlds
      ([(fLkState n, 0), (fTrainResult n, result), (fBadLanes n, lanes)] ++ (numsFrom 0 4).map fun v => (fCredit n v, 0))
    = (s.setFld (fLkState n) 0).setFlds
      ((fTrainResult n, result) :: (fBadLanes n, lanes) :: (numsFrom 0 4).map fun v => (fCredit n v, 0)) := by
  rw [List.cons_append, State.setFlds_cons, List.cons_append, List.cons_append, List.nil_append]

theorem moves_trainFail (n result lanes : Nat) (s : State) : Moves (linkFld n) offPeer s (trainFail n result lanes s) := by
  unfold trainFail
  extract_lets p empty s1 s2
  have e2 : s2 = _ := failFields_eq n result lanes s1
  have h2 : Moves (linkFld n) offPeer s1 s2 := by
    rw [e2]
    exact (moves_setFld (frame_link n) (.inr rfl) 0).trans ((moves_failFields n result lanes _).link n)
  exact ((moves_setPeer n _ s).link n).trans (h2.trans ((moves_logEvent (frame_link n) _ _ _ _ _ _).trans (moves_raiseInt (frame_link n) _ _)))

/-! ### The STATE it leaves -/

/-- STATE is apart from what a port may write besides. -/
theorem lkState_apart (n : Nat) : ∀ g, portFld g → (fLkState n).Apart g := fun g hg => .inl (by
  have h9 : (fLkState n).reg = 0x9C := rfl
  rcases hg with h | h
  · rw [h, h9]; decide
  · simp only [C_eq] at h; omega)

/-- Another port's operation leaves STATE alone. -/
theorem lkState_apart_link {m n : Nat} (h : m ≠ n) : ∀ g, linkFld m g → (fLkState n).Apart g := fun g hg => by
  rcases hg with hg | rfl
  · exact lkState_apart n g hg
  · exact .inr (by simp only [fLkState]; omega)

theorem lkState_setFld {n : Nat} (hn : n < 4) {v : Nat} (hv : v < 8) (s : State) : (s.setFld (fLkState n) v).fld (fLkState n) = v := by
  rw [State.fld_setFld _ _ _ (by simp only [fLkState]; omega)]
  have : (fLkState n).hi + 1 - (fLkState n).lo = 3 := by simp only [fLkState]; omega
  rw [this]
  omega

theorem Keeps.lkState {n : Nat} (hn : n < 4) {view : State → State} {s t : State} (h : Keeps portFld view s t) :
    t.fld (fLkState n) = s.fld (fLkState n) := h.fld _ (by simp only [fLkState]; omega) (lkState_apart n)

theorem lkState_setLink {n : Nat} (hn : n < 4) {st : Nat} (hst : st < 8) (cause : Nat) (s : State) :
    (setLink n st cause s).fld (fLkState n) = st := by
  unfold setLink
  extract_lets old
  split
  · assumption
  · rw [((moves_logEvent frame_port _ _ _ _ _ _).trans (moves_raiseInt frame_port _ _)).keeps.lkState hn, lkState_setFld hn hst]

theorem lkState_linkDown {n : Nat} (hn : n < 4) (cause : Nat) (s : State) : (linkDown n cause s).fld (fLkState n) = 0 := by
  unfold linkDown
  split
  · assumption
  · extract_lets s1 p empty s2 s3
    rw [(moves_bumpPeer n 3 1 _).keeps.lkState hn, lkState_setLink hn (by decide)]

theorem lkState_trainStart {n : Nat} (hn : n < 4) (s : State) : (trainStart n s).fld (fLkState n) = 1 := by
  unfold trainStart
  extract_lets s1 s2 p
  rw [((moves_trainFields n s1).trans (moves_setPeer n _ s2)).keeps.lkState hn, lkState_setLink hn (by decide)]

theorem lkState_trainFail {n : Nat} (hn : n < 4) (result lanes : Nat) (s : State) : (trainFail n result lanes s).fld (fLkState n) = 0 := by
  unfold trainFail
  extract_lets p empty s1 s2
  have e2 : s2 = _ := failFields_eq n result lanes s1
  have h2 : s2.fld (fLkState n) = 0 := by rw [e2, (moves_failFields n result lanes _).keeps.lkState hn, lkState_setFld hn (by decide)]
  rw [((moves_logEvent frame_port _ _ _ _ _ _).trans (moves_raiseInt frame_port _ _)).keeps.lkState hn, h2]

/-- A training that fails, or a link that goes down. -/
theorem lkState_down {n : Nat} (hn : n < 4) (cause : Nat) (s : State) :
    (if s.fld (fLkState n) = 1 then trainFail n (peerAt s n).step 0 s else linkDown n cause s).fld (fLkState n) = 0 := by
  split
  · exact lkState_trainFail hn _ _ s
  · exact lkState_linkDown hn cause s

theorem moves_down (n cause : Nat) (s : State) :
    Moves (linkFld n) offPeer s (if s.fld (fLkState n) = 1 then trainFail n (peerAt s n).step 0 s else linkDown n cause s) :=
  .ite (fun _ => moves_trainFail n _ _ s) fun _ => moves_linkDown n cause s

/-! ### All four links -/

/-- What the operations of several links may write: LINK_STATUS whole. -/
def linksFld (f : Fld) : Prop := portFld f ∨ f.reg = 0x9C

theorem frame_links : Frame linksFld offPeer where
  frozen g hg := by
    rcases hg with h | h
    · exact frame_port.frozen g h
    · exact .inl (by rw [h]; decide)
  core := frame_port.core
  log _ h := .inl (portFld_of_logFld h)
  logView := frame_port.logView

theorem Moves.links {n : Nat} {s t : State} (h : Moves (linkFld n) offPeer s t) : Moves linksFld offPeer s t :=
  h.mono fun _ hg => hg.imp id fun e => by rw [e]; rfl

theorem moves_tryTrain (n : Nat) (s : State) : Moves linksFld offPeer s (tryTrain n s) := by
  unfold tryTrain
  extract_lets s1
  have h1 : Moves linksFld offPeer s s1 := (moves_trainStart n s).links
  exact .ite_refl (h1.trans (.ite_refl (moves_trainStart _ s1).links))

theorem moves_presentChange (n : Nat) (b : Bool) (s : State) : Moves linksFld offPeer s (presentChange n b s) := by
  unfold presentChange
  extract_lets s1
  have h1 : Moves linksFld offPeer s s1 := moves_setFld frame_links (.inr rfl) _
  refine h1.trans (.ite (fun _ => .refl s1) fun _ => .ite (fun _ => moves_tryTrain n s1) fun _ => ?_)
  exact (moves_down n 5 s1).links

theorem moves_presenceSync (s : State) : Moves linksFld offPeer s (presenceSync s) := by
  refine .foldl _ s fun n _ s => ?_
  extract_lets b
  exact .ite (fun _ => .refl s) fun _ => moves_presentChange n b s

/-- PRESENT that follows the pins already stays as it is. -/
theorem presenceSync_of_present {s : State} (h : ∀ n < 4, s.flag (fLkPresent n) = (s.core.prsnt[n]?).getD false) : presenceSync s = s := by
  have step : ∀ l : List Nat, (∀ n ∈ l, n < 4) → l.foldl (fun s n =>
      let b := (s.core.prsnt[n]?).getD false
      if s.flag (fLkPresent n) = b then s else presentChange n b s) s = s := by
    intro l hl
    induction l with
    | nil => rfl
    | cons n l ih =>
      rw [List.foldl_cons]
      simp only [h n (hl n List.mem_cons_self), if_true]
      exact ih fun m hm => hl m (List.mem_cons_of_mem n hm)
  exact step _ fun n hn => by have := (mem_numsFrom 0 4 n).mp hn; omega

end Sys2Proof.Machine
end

section
/-! SUPPORT. Direct engines' writes and the end of a camera frame: their frame (R214, R371). -/

namespace Sys2Proof.Machine

open Sys2Proof Sys2Proof.Safety

/-! ### Memory as direct engines write it -/

/-- What a write to memory may write of the registers: those of the event log, of DRAM's errors and of the spindles, but not DBG_CNT. -/
def memFld (f : Fld) : Prop := f.reg = 0x18 ∨ (C 0xC0000 ≤ f.reg ∧ f.reg ≠ C 0xD0040)

/-- All but the registers, the log and memory. -/
def offMem (s : State) : State := { offLog s with mem := State.reset.mem }

theorem memFld_of_logFld {f : Fld} (h : logFld f) : memFld f := by
  rcases h with h | h
  · exact .inl h
  · right
    simp only [List.mem_cons, List.not_mem_nil, or_false] at h
    rcases h with h | h | h | h <;> rw [h] <;> decide

theorem frame_mem : Frame memFld offMem where
  frozen g hg := frame_port.frozen g (hg.imp id fun h => by simp only [C_eq] at h ⊢; omega)
  core _ _ h := (congrArg State.core h :)
  log _ h := memFld_of_logFld h
  logView _ _ h := congrArg (fun x : State => { x with mem := State.reset.mem }) h

/-- A state that differs in memory alone. -/
theorem moves_mem (s : State) (m : MemSt) : Moves memFld offMem s { s with mem := m } := .of_keeps frame_mem (.of_regs_eq rfl rfl) rfl

theorem moves_noteSkeinUe (pa : Nat) (s : State) : Moves memFld offMem s (noteSkeinUe pa s) :=
  (moves_logEvent frame_mem _ _ _ _ _ s).trans (moves_raiseInt frame_mem _ _)

theorem moves_noteDramUe (pa : Nat) (s : State) : Moves memFld offMem s (noteDramUe pa s) := by
  unfold noteDramUe
  extract_lets s1 s2
  have h1 : Moves memFld offMem s s1 := moves_setFld frame_mem (f := ⟨C 0xE0008, 31, 16⟩) (.inr (by decide)) _
  have h2 : Moves memFld offMem s1 s2 := moves_setFlds frame_mem _ s1 fun e he => by
    simp only [List.mem_cons, List.not_mem_nil, or_false] at he
    rcases he with rfl | rfl
    · exact .inr (by change C 0xC0000 ≤ C 0xE0010 ∧ C 0xE0010 ≠ C 0xD0040; decide)
    · exact .inr (by change C 0xC0000 ≤ C 0xE0014 ∧ C 0xE0014 ≠ C 0xD0040; decide)
  exact (h1.trans h2).trans ((moves_logEvent frame_mem _ _ _ _ _ _).trans (moves_raiseInt frame_mem _ _))

theorem moves_settleUe (line : Nat) (whole : Bool) (s : State) : Moves memFld offMem s (settleUe line whole s) := by
  unfold settleUe
  exact .ite (fun _ => moves_mem s _) fun _ => .ite_refl (moves_noteDramUe _ s)

theorem moves_dramWrite (a : Nat) (bs : List Byte) (s : State) : Moves memFld offMem s (dramWrite a bs s) :=
  (moves_mem s _).trans (moves_settleUe _ _ _)

theorem moves_skeinWrite (off : Nat) (bs : List Byte) (s : State) : Moves memFld offMem s (skeinWrite off bs s) := by
  unfold skeinWrite
  extract_lets whole part m0 s1
  exact (moves_mem s _).trans (.foldl part s1 fun _ _ _ => moves_noteSkeinUe _ _)

theorem moves_directWrite (pa : Nat) (bs : List Byte) (s : State) : Moves memFld offMem s (directWrite pa bs s) := by
  unfold directWrite
  split
  · exact .foldl _ s fun _ _ _ => (moves_dramWrite _ _ _).trans (moves_mem _ _)
  · exact moves_skeinWrite _ _ s
  · exact .refl s

theorem moves_engineWrite (pa : Nat) (bs : List Byte) (s : State) : Moves memFld offMem s (engineWrite pa bs s).2 := by
  unfold engineWrite
  split
  · exact moves_directWrite pa bs s
  · exact moves_directWrite pa bs s
  · exact .refl s

/-! ### Cameras -/

/-- What the end of a camera frame may write. -/
def camFld (f : Fld) : Prop := f.reg = 0x18 ∨ C 0x70000 ≤ f.reg

/-- All but the registers, the log, memory and the cameras. -/
def offCamMem (s : State) : State := { offMem s with cam := State.reset.cam }

theorem frame_cam : Frame camFld offCamMem where
  frozen g hg := .inl (by
    have h8 : fFrozen.reg = 8 := rfl
    rcases hg with h | h
    · rw [h]; decide
    · simp only [C_eq] at h; omega)
  core _ _ h := (congrArg State.core h :)
  log _ h := (memFld_of_logFld h).imp id fun h => by simp only [C_eq] at h ⊢; omega
  logView _ _ h := congrArg (fun x : State => { x with mem := State.reset.mem, cam := State.reset.cam }) h

theorem Moves.cam {s t : State} (h : Moves memFld offMem s t) : Moves camFld offCamMem s t :=
  (h.coarsen fun x => { x with cam := State.reset.cam }).mono fun _ hg => hg.imp id fun h => by simp only [C_eq] at h ⊢; omega

theorem moves_setCam (k : Nat) (c : CamSt) (s : State) : Moves camFld offCamMem s (setCam k c s) := .of_keeps frame_cam (.of_regs_eq rfl rfl) rfl

theorem camFld_camR (k off hi lo : Nat) : camFld ⟨camR k off, hi, lo⟩ := .inr (by simp only [camR, C_eq]; omega)

theorem moves_endCamFrame (k add : Nat) (s : State) : Moves camFld offCamMem s (endCamFrame k add s) := by
  obtain ⟨ok, put, e, hw⟩ : ∃ (ok : Nat → List Byte → State → Bool) (put : Nat → List Byte → State → State),
      engineWrite = (fun pa bs s => (ok pa bs s, put pa bs s)) ∧ ∀ pa bs s, Moves camFld offCamMem s (put pa bs s) :=
    ⟨_, _, rfl, fun pa bs s => (moves_engineWrite pa bs s).cam⟩
  unfold endCamFrame
  rw [e]
  dsimp -zeta only
  extract_lets c s1
  have h1 : Moves camFld offCamMem s s1 := moves_setFld frame_cam (camFld_camR k _ _ _) 0
  split
  · exact .refl s
  split
  · exact h1.trans (moves_setCam k _ s1)
  · extract_lets short status stored body lost s2 status2 s5 s6 s7
    have h2 : Moves camFld offCamMem s1 s2 := .ite_refl (moves_logEvent frame_cam _ _ _ _ _ s1)
    have h5 : Moves camFld offCamMem s2 s5 := (hw _ _ s2).trans ((hw _ _ _).trans (moves_setFlds frame_cam _ _ fun e he => by
      simp only [List.mem_cons, List.not_mem_nil, or_false] at he
      rcases he with rfl | rfl <;> exact camFld_camR k _ _ _))
    have h6 : Moves camFld offCamMem s5 s6 := moves_setFld frame_cam (camFld_camR k _ _ _) _
    have h7 : Moves camFld offCamMem s6 s7 := .ite (fun _ => .refl s6) fun _ => moves_setFld frame_cam (camFld_camR k _ _ _) _
    exact ((h1.trans h2).trans h5).trans (h6.trans (h7.trans (moves_setCam k _ s7)))

theorem moves_cameraThaw (s : State) : Moves camFld offCamMem s (cameraThaw s) := by
  refine .foldl _ s fun k _ s => ?_
  split
  · exact .ite_refl (moves_endCamFrame k 0 s)
  · exact .refl s

end Sys2Proof.Machine
end

section
/-! PROOFS. O5: the resets (chapters 2, 3 and 4). What a warm reset keeps is read off the list of kept registers and the list of kept
fields (R99, Table 4-9). -/

namespace Sys2Proof.Machine

open Sys2Proof Sys2Proof.Safety Sys2Proof.Claims

/-! ### Lists of fields that are set -/

/-- Fields copied from another state read as there, where no two of them overlap. -/
theorem State.fld_setFlds_copy (l : List Fld) (x s : State) {f : Fld} (h : f.hi < 32) (hm : f ∈ l) (hl : ∀ g ∈ l, g = f ∨ f.Apart g) :
    (x.setFlds (l.map fun g => (g, s.fld g))).fld f = s.fld f := by
  induction l generalizing x with
  | nil => exact absurd hm List.not_mem_nil
  | cons g l ih =>
    have hl' : ∀ k ∈ l, k = f ∨ f.Apart k := fun k hk => hl k (List.mem_cons_of_mem g hk)
    rw [List.map_cons, State.setFlds]
    by_cases hf : f ∈ l
    · exact ih _ hf hl'
    · obtain rfl : f = g := (List.mem_cons.mp hm).resolve_right hf
      rw [State.fld_setFlds_of_apart _ _ h, State.fld_setFld _ _ _ h, State.fld, Nat.mod_eq_of_lt (bitsOf_lt _ _ _)]
      rintro _ he
      obtain ⟨k, hk, rfl⟩ := List.mem_map.mp he
      exact (hl' k hk).resolve_left fun e => hf (e ▸ hk)

/-! ### What is lost -/

/-- A register of a bank of which only some registers are kept. -/
theorem get_filter_regs (keep : Nat → Bool) (m : Sparse W32) (r : Nat) :
    Sparse.get regReset (m.filter fun e => keep e.1) r = if keep r then Sparse.get regReset m r else regReset r := by
  have h : m.filter (fun e => keep e.1) = Sparse.drop (fun k => !keep k) m := by simp [Sparse.drop]
  rw [h, Sparse.get, Sparse.get, Sparse.find_drop]
  cases keep r <;> rfl

/-- The fields that interiorLost sets: those it keeps, and the three that show work under way. -/
def lostFlds : List Fld := keptFields ++ [fFuncBusy, fCalBusy, fCalResult]

theorem lostFlds_reg {f : Fld} (h : f ∈ lostFlds) : f.reg ∈ [0x04, 0x08, 0x14, 0x98, 0x9C, 0xB4] := by
  have : ∀ f ∈ lostFlds, f.reg ∈ [0x04, 0x08, 0x14, 0x98, 0x9C, 0xB4] := by decide
  exact this f h

theorem keptFields_apart : ∀ f ∈ keptFields, f.hi < 32 ∧ (∀ g ∈ keptFields, g = f ∨ f.Apart g) ∧ ∀ g ∈ [fFuncBusy, fCalBusy, fCalResult], f.Apart g := by
  unfold Fld.Apart; decide

/-- A register with none of those fields is kept whole or at its reset value. -/
theorem reg_interiorLost (keep : Nat → Bool) (s : State) {r : Nat} (h : r ∉ [0x04, 0x08, 0x14, 0x98, 0x9C, 0xB4]) :
    (interiorLost keep s).reg r = if keep r then s.reg r else regReset r := by
  rw [interiorLost, State.reg_setFlds_of_ne, State.reg_setFlds_of_ne]
  · exact get_filter_regs keep s.regs r
  · intro e he hr
    obtain ⟨k, hk, rfl⟩ := List.mem_map.mp he
    exact h (hr ▸ lostFlds_reg (List.mem_append_left _ hk))
  · intro e he hr
    have : ∀ e ∈ [(fFuncBusy, 0), (fCalBusy, 0), (fCalResult, 0)], e.1.reg ∈ [0x04, 0x08, 0x14, 0x98, 0x9C, 0xB4] := by decide
    exact h (hr ▸ this e he)

/-- A field apart from them is kept, or at its reset value. -/
theorem fld_interiorLost (keep : Nat → Bool) (s : State) {f : Fld} (hf : f.hi < 32) (h : ∀ g ∈ lostFlds, f.Apart g) :
    (interiorLost keep s).fld f = if keep f.reg then s.fld f else bitsOf (regReset f.reg) f.hi f.lo := by
  rw [interiorLost, State.fld_setFlds_of_apart _ _ hf, State.fld_setFlds_of_apart _ _ hf]
  · rw [State.fld, State.fld, State.reg, get_filter_regs, State.reg]
    split <;> rfl
  · intro e he
    obtain ⟨k, hk, rfl⟩ := List.mem_map.mp he
    exact h k (List.mem_append_left _ hk)
  · intro e he
    have : ∀ e ∈ [(fFuncBusy, 0), (fCalBusy, 0), (fCalResult, 0)], e.1 ∈ lostFlds := by decide
    exact h _ (this e he)

/-- A kept field keeps its value. -/
theorem fld_interiorLost_kept (keep : Nat → Bool) (s : State) {f : Fld} (h : f ∈ keptFields) : (interiorLost keep s).fld f = s.fld f := by
  obtain ⟨hf, hk, hb⟩ := keptFields_apart f h
  rw [interiorLost, State.fld_setFlds_of_apart _ _ hf, State.fld_setFlds_copy _ _ _ hf h hk]
  intro e he
  have : ∀ e ∈ [(fFuncBusy, 0), (fCalBusy, 0), (fCalResult, 0)], e.1 ∈ [fFuncBusy, fCalBusy, fCalResult] := by decide
  exact hb _ (this e he)

/-- Nothing is under way after it. -/
theorem fld_interiorLost_busy (keep : Nat → Bool) (s : State) {f : Fld} (h : f ∈ [fFuncBusy, fCalBusy, fCalResult]) :
    (interiorLost keep s).fld f = 0 := by
  rw [interiorLost, State.setFlds_cons, State.setFlds_cons, State.setFlds_cons, State.setFlds_nil]
  generalize State.setFlds _ (keptFields.map _) = x
  simp only [List.mem_cons, List.not_mem_nil, or_false] at h
  rcases h with rfl | rfl | rfl
  · rw [State.fld_setFld_of_apart (by decide) (.inl (by decide)), State.fld_setFld_of_apart (by decide) (.inl (by decide)),
      State.fld_setFld _ _ _ (by decide), Nat.zero_mod]
  · rw [State.fld_setFld_of_apart (by decide) (.inr (.inr (by decide))), State.fld_setFld _ _ _ (by decide), Nat.zero_mod]
  · rw [State.fld_setFld _ _ _ (by decide), Nat.zero_mod]

/-- What every warm start keeps of the rest of the state, registers apart. -/
def lostBut (s : State) : State :=
  { State.reset with
    pending := s.pending, free := s.free
    core := { State.reset.core with
      freezePin := s.core.freezePin, rails := s.core.rails, pwrreq := s.core.pwrreq, railWait := s.core.railWait
      mclk := s.core.mclk, ttrip := s.core.ttrip, prsnt := s.core.prsnt, audclkLost := s.core.audclkLost
      timebase := s.core.timebase, carryC := s.core.carryC, carryA := s.core.carryA }
    trim := { State.reset.trim with live := s.trim.live }
    log := { State.reset.log with ring := s.log.ring, count := s.log.count }
    mem := { State.reset.mem with lost := s.mem.lost, dram := s.mem.dram, dramUe := s.mem.dramUe }
    dbg := { s.dbg with doff := none } }

/-- A part that the registers do not show is as there. -/
theorem part_interiorLost (keep : Nat → Bool) (s : State) {α : Type} (g : State → α) (hg : ∀ x, g (offRegs x) = g x) :
    g (interiorLost keep s) = g (lostBut s) := by
  have hf : ∀ (x : State) l, offRegs (x.setFlds l) = offRegs x := fun x l =>
    (keeps_setFlds (W := fun _ => True) l x (fun _ _ => trivial) fun _ _ _ => rfl).view
  rw [← hg (interiorLost keep s), interiorLost, hf, hf]
  exact hg (lostBut s)

/-! ### Warm reset -/

section
variable {s x : State} {cause : Nat} (hx : x.regs = ((interiorLost keptWarm s).setFld fCause cause).regs)
include hx

/-- A register with no field of its own account is kept whole or at its reset value. -/
theorem reg_warm {r : Nat} (h : r ∉ [0x04, 0x08, 0x14, 0x98, 0x9C, 0xB4]) : x.reg r = if keptWarm r then s.reg r else regReset r := by
  have h14 : fCause.reg ≠ r := by rintro rfl; exact h (by decide)
  rw [State.reg_of_regs_eq hx, State.setFld, State.reg_setReg, if_neg h14, reg_interiorLost keptWarm s h]

/-- A field of a kept register. -/
theorem fld_warm_kept {f : Fld} (hf : f.hi < 32) (hk : keptWarm f.reg = true) (hc : f.Apart fCause) (h : ∀ g ∈ lostFlds, f.Apart g) :
    x.fld f = s.fld f := by
  rw [State.fld_of_regs_eq hx, State.fld_setFld_of_apart hf hc, fld_interiorLost _ _ hf h, if_pos hk]

/-- A field of another register is at its reset value. -/
theorem fld_warm_lost {f : Fld} (hf : f.hi < 32) (hk : keptWarm f.reg = false) (hc : f.Apart fCause) (h : ∀ g ∈ lostFlds, f.Apart g) :
    x.fld f = bitsOf (regReset f.reg) f.hi f.lo := by
  rw [State.fld_of_regs_eq hx, State.fld_setFld_of_apart hf hc, fld_interiorLost _ _ hf h, hk, if_neg (by decide)]

theorem fld_warm_keptFields {f : Fld} (h : f ∈ keptFields) : x.fld f = s.fld f := by
  have : ∀ f ∈ keptFields, f.Apart fCause := by unfold Fld.Apart; decide
  rw [State.fld_of_regs_eq hx, State.fld_setFld_of_apart (keptFields_apart f h).1 (this f h), fld_interiorLost_kept _ _ h]

theorem fld_warm_busy {f : Fld} (h : f ∈ [fFuncBusy, fCalBusy, fCalResult]) : x.fld f = 0 := by
  have : ∀ f ∈ [fFuncBusy, fCalBusy, fCalResult], f.hi < 32 ∧ f.Apart fCause := by unfold Fld.Apart; decide
  obtain ⟨hf, ha⟩ := this f h
  rw [State.fld_of_regs_eq hx, State.fld_setFld_of_apart hf ha, fld_interiorLost_busy _ _ h]

theorem fld_warm_cause (h : cause < 16) : x.fld fCause = cause := by
  rw [State.fld_of_regs_eq hx, State.fld_setFld _ _ _ (by decide)]
  exact Nat.mod_eq_of_lt h

end


/-- The state that a warm reset starts from, n being what it leaves of s. -/
def warmStart (cause : Nat) (s n : State) : State :=
  let n := n.setFld fCause cause
  { n with
    boot := { n.boot with warm := true, fullTrain := s.boot.fullTrain || cause = 5 }
    core := { n.core with
      mclk := s.core.mclk && s.core.pwrreq = some 3#2 && s.core.clockLost.isNone
      pwrreq := if s.core.railWait then s.core.pwrreq else some 3#2
      railWait := s.core.railWait || !(s.core.pwrreq = some 3#2 : Bool) } }

/-- A warm reset where no log page is held. -/
theorem warmReset_eq {s : State} (hp : s.core.porstLow = false) (hc : s.core.critical = false) (hl : s.host.logPage = none) (cause : Nat) :
    warmReset cause s = if cause = 5 then dramLost (warmStart cause s (interiorLost keptWarm s)) else warmStart cause s (interiorLost keptWarm s) := by
  have hr : rewindLog s = s := by rw [rewindLog, hl]
  rw [warmReset, if_neg (by rw [hp, hc]; decide), hr]
  rfl

/-- The registers after a warm start. -/
theorem warmedUp_regs (s : State) {cause : Nat} (hc : cause < 16) (x : State)
    (hx : x.regs = ((interiorLost keptWarm s).setFld fCause cause).regs) (u : State) (hu : u = refresh x) :
    u.fld fPhase = 0 ∧ u.flag fReady = false ∧ u.flag fFrozen = false ∧ u.fld fCause = cause ∧ u.fld fPgFell = s.fld fPgFell ∧ u.fld fFuncBusy = 0
      ∧ u.flag fCalBusy = false ∧ u.fld fCalResult = 0 ∧ u.flag fCalDefaults = s.flag fCalDefaults ∧ u.fld fCalSlot = s.fld fCalSlot
      ∧ u.fld fCalGen = s.fld fCalGen ∧ u.fld fDramGib = s.fld fDramGib ∧ u.flag fTrimDefaults = s.flag fTrimDefaults
      ∧ (∀ r ∈ [0x64, 0x68, 0x70, 0xAC, C 0xC0004, C 0xC0008, C 0xC000C, C 0xC0010, C 0xF0000, C 0xF0004], u.reg r = s.reg r)
      ∧ (∀ r, r ∉ [0x04, 0x08, 0x14, 0x18, 0x64, 0x68, 0x70, 0x98, 0x9C, 0xAC, 0xB4, C 0xF0000, C 0xF0004] →
          (r < C 0xC0004 ∨ C 0xC0014 ≤ r) → u.reg r = regReset r) := by
  subst hu
  have lost : ∀ f ∈ [fPhase, fReady, fFrozen], f.hi < 32 ∧ f.reg ≠ 0x18 ∧ keptWarm f.reg = false ∧ f.Apart fCause
      ∧ (∀ g ∈ lostFlds, f.Apart g) ∧ bitsOf (regReset f.reg) f.hi f.lo = 0 := by unfold Fld.Apart; decide
  have kept : ∀ f ∈ [fPgFell, fCalDefaults, fCalSlot, fCalGen], f.hi < 32 ∧ f.reg ≠ 0x18 ∧ keptWarm f.reg = true ∧ f.Apart fCause
      ∧ (∀ g ∈ lostFlds, f.Apart g) := by unfold Fld.Apart; decide
  have fldLost : ∀ f ∈ [fPhase, fReady, fFrozen], (refresh x).fld f = 0 := fun f hf => by
    obtain ⟨h1, h2, h3, h4, h5, h6⟩ := lost f hf
    rw [fld_refresh _ _ h2, fld_warm_lost hx h1 h3 h4 h5, h6]
  have fldKept : ∀ f ∈ [fPgFell, fCalDefaults, fCalSlot, fCalGen], (refresh x).fld f = s.fld f := fun f hf => by
    obtain ⟨h1, h2, h3, h4, h5⟩ := kept f hf
    rw [fld_refresh _ _ h2, fld_warm_kept hx h1 h3 h4 h5]
  have fldBusy : ∀ f ∈ [fFuncBusy, fCalBusy, fCalResult], (refresh x).fld f = 0 := fun f hf => by
    have : ∀ f ∈ [fFuncBusy, fCalBusy, fCalResult], f.reg ≠ 0x18 := by decide
    rw [fld_refresh _ _ (this f hf), fld_warm_busy hx hf]
  have fldOwn : ∀ f ∈ [fDramGib, fTrimDefaults], (refresh x).fld f = s.fld f := fun f hf => by
    have : ∀ f ∈ [fDramGib, fTrimDefaults], f.reg ≠ 0x18 ∧ f ∈ keptFields := by decide
    rw [fld_refresh _ _ (this f hf).1, fld_warm_keptFields hx (this f hf).2]
  have flagOf : ∀ {f : Fld} {a : Nat}, (refresh x).fld f = a → (refresh x).flag f = decide (a ≠ 0) := fun h => by rw [State.flag, h]
  refine ⟨fldLost _ (by decide), flagOf (fldLost _ (by decide)), flagOf (fldLost _ (by decide)), ?_, fldKept _ (by decide),
    fldBusy _ (by decide), flagOf (fldBusy _ (by decide)), fldBusy _ (by decide), flagOf (fldKept fCalDefaults (by decide)), fldKept _ (by decide),
    fldKept _ (by decide), fldOwn _ (by decide), flagOf (fldOwn fTrimDefaults (by decide)), ?_, ?_⟩
  · rw [fld_refresh _ _ (by decide), fld_warm_cause hx hc]
  · intro r hr
    have : ∀ r ∈ [0x64, 0x68, 0x70, 0xAC, C 0xC0004, C 0xC0008, C 0xC000C, C 0xC0010, C 0xF0000, C 0xF0004],
        r ≠ 0x18 ∧ r ∉ [0x04, 0x08, 0x14, 0x98, 0x9C, 0xB4] ∧ keptWarm r = true := by decide
    obtain ⟨h1, h2, h3⟩ := this r hr
    rw [reg_refresh_of_ne _ h1, reg_warm hx h2, if_pos h3]
  · intro r hr hb
    simp only [List.mem_cons, List.not_mem_nil, or_false, not_or] at hr
    have hk : keptWarm r = false := by
      simp only [keptWarm, C_eq] at hb ⊢
      simp [hr]
      omega
    rw [reg_refresh_of_ne _ (by omega), reg_warm hx (by simp [hr]), hk, if_neg (by decide)]

theorem regs_warmStart (cause : Nat) (s n : State) : (warmStart cause s n).regs = (n.setFld fCause cause).regs := rfl

/-- What a warm start leaves of the rest, n having lost all but what it keeps. -/
theorem warmedUp_rest {s n : State} (hv : ∀ {α : Type} (g : State → α), (∀ x, g (offRegs x) = g x) → g n = g (lostBut s)) :
    n.log.ring = s.log.ring ∧ n.log.count = s.log.count ∧ n.log.queued = [] ∧ n.trim.live = s.trim.live ∧ n.trim.store = none
      ∧ n.core.timebase = s.core.timebase ∧ true = true ∧ n.boot.released = false ∧ n.mem.skein = [] ∧ n.mem.roles = []
      ∧ n.fly = State.reset.fly ∧ n.q = State.reset.q ∧ n.mmu = State.reset.mmu ∧ n.ray = State.reset.ray ∧ n.ras = State.reset.ras
      ∧ n.weft = State.reset.weft ∧ n.disp = State.reset.disp ∧ n.touch = State.reset.touch ∧ n.cam = State.reset.cam
      ∧ n.aud = State.reset.aud ∧ n.peer = State.reset.peer ∧ n.reel = State.reset.reel ∧ n.pending = s.pending := by
  have hlog : n.log = { State.reset.log with ring := s.log.ring, count := s.log.count } := hv State.log fun _ => rfl
  have htrim : n.trim = { State.reset.trim with live := s.trim.live } := hv State.trim fun _ => rfl
  have hmem : n.mem = { State.reset.mem with lost := s.mem.lost, dram := s.mem.dram, dramUe := s.mem.dramUe } := hv State.mem fun _ => rfl
  have hboot : n.boot = State.reset.boot := hv State.boot fun _ => rfl
  have htime : n.core.timebase = s.core.timebase := hv (fun x => x.core.timebase) fun _ => rfl
  have hrest : n.fly = State.reset.fly ∧ n.q = State.reset.q ∧ n.mmu = State.reset.mmu ∧ n.ray = State.reset.ray ∧ n.ras = State.reset.ras
      ∧ n.weft = State.reset.weft ∧ n.disp = State.reset.disp ∧ n.touch = State.reset.touch ∧ n.cam = State.reset.cam
      ∧ n.aud = State.reset.aud ∧ n.peer = State.reset.peer ∧ n.reel = State.reset.reel ∧ n.pending = s.pending :=
    ⟨hv State.fly (fun _ => rfl), hv State.q (fun _ => rfl), hv State.mmu (fun _ => rfl), hv State.ray (fun _ => rfl), hv State.ras (fun _ => rfl), hv State.weft (fun _ => rfl),
      hv State.disp (fun _ => rfl), hv State.touch (fun _ => rfl), hv State.cam (fun _ => rfl), hv State.aud (fun _ => rfl), hv State.peer (fun _ => rfl),
      hv State.reel (fun _ => rfl), hv State.pending (fun _ => rfl)⟩
  rw [hlog, htrim, hmem, hboot, htime]
  exact ⟨rfl, rfl, rfl, rfl, rfl, rfl, rfl, rfl, rfl, rfl, hrest⟩

theorem warmedUp_warmStart_of {s n : State} {cause : Nat} (hc : cause < 16) (hn : n = interiorLost keptWarm s) :
    WarmedUp s (refresh (warmStart cause s n)) cause := by
  have hx : (warmStart cause s n).regs = ((interiorLost keptWarm s).setFld fCause cause).regs := by rw [regs_warmStart, hn]
  obtain ⟨h1, h2, h3, h4, h5, h6, h7, h8, h9, h10, h11, h12, h13, h14, h15⟩ := warmedUp_regs s hc (warmStart cause s n) hx _ rfl
  have hv := warmedUp_rest (s := s) (n := n) fun g hg => by rw [hn]; exact part_interiorLost keptWarm s g hg
  exact ⟨h1, h2, h3, h4, h5, h6, h7, h8, h9, h10, h11, h12, h13, h14, h15, hv⟩

theorem warmedUp_warmStart (s : State) {cause : Nat} (hc : cause < 16) : WarmedUp s (refresh (warmStart cause s (interiorLost keptWarm s))) cause :=
  warmedUp_warmStart_of hc rfl

theorem mem_warmStart (cause : Nat) (s n : State) : (warmStart cause s n).mem = n.mem := rfl

theorem mem_interiorLost (keep : Nat → Bool) (s : State) : (interiorLost keep s).mem
    = { State.reset.mem with lost := s.mem.lost, dram := s.mem.dram, dramUe := s.mem.dramUe } := part_interiorLost keep s State.mem fun _ => rfl

/-- A warm reset of another CAUSE than the clock loss. -/
theorem warmReset_keeps_dram {s : State} (hp : s.core.porstLow = false) (hc : s.core.critical = false) (hl : s.host.logPage = none)
    {cause : Nat} (h : cause < 5) : WarmedUp s (refresh (warmReset cause s)) cause ∧ (refresh (warmReset cause s)).mem.dram = s.mem.dram
      ∧ (refresh (warmReset cause s)).mem.dramUe = s.mem.dramUe ∧ (refresh (warmReset cause s)).mem.lost = s.mem.lost := by
  rw [warmReset_eq hp hc hl, if_neg (Nat.ne_of_lt h), refresh_mem, mem_warmStart, mem_interiorLost]
  exact ⟨warmedUp_warmStart s (by omega), rfl, rfl, rfl⟩

/-- Losing DRAM's content undoes nothing of a warm reset. -/
theorem warmedUp_dramLost {s x : State} {cause : Nat} (h : WarmedUp s (refresh x) cause) : WarmedUp s (refresh (dramLost x)) cause := h

/-- What the warm start after a clock loss shows besides. -/
theorem clockLoss_warmStart (s n : State) (hl : s.core.clockLost ≠ none) :
    (warmStart 5 s n).core.clockLost = n.core.clockLost ∧ (warmStart 5 s n).core.mclk = false ∧ (warmStart 5 s n).boot.fullTrain = true
      ∧ (warmStart 5 s n).free = n.free := by
  refine ⟨rfl, ?_, ?_, rfl⟩
  · change (s.core.mclk && _ && s.core.clockLost.isNone) = false
    rw [Option.isNone_eq_false_iff.mpr (Option.isSome_iff_ne_none.mpr hl), Bool.and_false]
  · exact Bool.or_true _

theorem ends_clockLossWarmReset {s : State} (hp : s.core.porstLow = false) (hc : s.core.critical = false) (hl : s.core.clockLost ≠ none)
    (hpage : s.host.logPage = none) :
    Ends .clockLossWarmReset s fun u => WarmedUp s u 5 ∧ u.core.clockLost = none ∧ u.core.mclk = false
      ∧ u.mem.dram = [] ∧ u.mem.lost = s.free + 1 ∧ u.boot.fullTrain = true := by
  have hx : exec .clockLossWarmReset s = done (dramLost (warmStart 5 s (interiorLost keptWarm s))) := by
    change execClockLossWarmReset s = _
    rw [execClockLossWarmReset, Option.isSome_iff_ne_none.mpr hl, onlyIf, if_pos rfl, warmReset_eq hp hc hpage, if_pos rfl]
  have hw := warmedUp_warmStart s (cause := 5) (by decide)
  have hfree : (interiorLost keptWarm s).free = s.free := part_interiorLost keptWarm s State.free fun _ => rfl
  have hlost : (interiorLost keptWarm s).core.clockLost = none := part_interiorLost keptWarm s (fun x => x.core.clockLost) fun _ => rfl
  generalize interiorLost keptWarm s = n at hx hw hfree hlost
  obtain ⟨h1, h2, h3, h4⟩ := clockLoss_warmStart s n hl
  generalize warmStart 5 s n = x at *
  exact ends_of_done hx ⟨warmedUp_dramLost hw, h1.trans hlost, h2, rfl, congrArg (· + 1) (h4.trans hfree), h3⟩

/-! ### Power-on reset -/

theorem reg_powerOn (s : State) {r : Nat} (h : r ≠ 0xB4) : (powerOn s).reg r = regReset r := by
  rw [powerOn]
  exact State.reg_setReg _ _ _ _ |>.trans (if_neg (Ne.symm h))

theorem fld_powerOn (s : State) {f : Fld} (h : f.reg ≠ 0xB4) : (powerOn s).fld f = bitsOf (regReset f.reg) f.hi f.lo := by
  rw [State.fld, reg_powerOn s h]

theorem poweredOn_powerOn (s : State) : PoweredOn s (refresh (powerOn s)) := by
  refine ⟨fun r h => ?_, ?_, rfl, rfl, rfl, rfl, Nat.succ_ne_zero s.free, rfl, rfl, rfl, rfl, rfl, rfl, rfl⟩
  · simp only [List.mem_cons, List.not_mem_nil, or_false, not_or] at h
    rw [reg_refresh_of_ne _ h.2.1, reg_powerOn s h.2.2]
  · rw [fld_refresh _ _ (by decide), powerOn]
    refine (State.fld_setFld _ _ _ (by decide)).trans ?_
    exact Nat.mod_eq_of_lt (bitsOf_lt _ _ _)

/-- RESET_CTRL written makes no difference to it. -/
theorem poweredOn_setFld {s x : State} (h : PoweredOn s (refresh x)) {f : Fld} (hf : f.reg = 0x14) (v : Nat) :
    PoweredOn s (refresh (x.setFld f v)) := by
  obtain ⟨hr, hs, hrest⟩ := h
  have h14 : ∀ r, r ≠ 0x14 → (x.setFld f v).reg r = x.reg r := fun r hr => by
    rw [State.setFld, State.reg_setReg, if_neg (fun e => hr (by rw [← e, hf]))]
  refine ⟨fun r hm => ?_, ?_, hrest⟩
  · have hn := hm
    simp only [List.mem_cons, List.not_mem_nil, or_false, not_or] at hn
    rw [← hr r hm, reg_refresh_of_ne _ hn.2.1, reg_refresh_of_ne _ hn.2.1, h14 r hn.1]
  · rw [← hs, fld_refresh _ _ (by decide), fld_refresh _ _ (by decide), State.fld, State.fld, h14 _ (by decide)]

/-- Nor do the pins. -/
theorem poweredOn_core {s x : State} (h : PoweredOn s (refresh x)) {c : CoreSt} (hc : c.timebase = 0#64) :
    PoweredOn s (refresh { x with core := c }) := by
  obtain ⟨hr, hs, hlog, htrim, -, hrest⟩ := h
  exact ⟨hr, hs, hlog, htrim, hc, hrest⟩

theorem poweredOn_porstState (s : State) : PoweredOn s (refresh (porstState s)) := poweredOn_core (poweredOn_powerOn s) rfl

/-- A field that is written the value it has elsewhere shows the bits it has there. -/
theorem flag_setFld_copy (x s : State) {r hi lo b : Nat} (h : hi < 32) (hl : lo ≤ b) (hb : b ≤ hi) :
    (x.setFld ⟨r, hi, lo⟩ (s.fld ⟨r, hi, lo⟩)).flag ⟨r, b, b⟩ = s.flag ⟨r, b, b⟩ := by
  have hw : lo ≤ b ∧ b ≤ hi := ⟨hl, hb⟩
  rw [flag_eq_bitN, flag_eq_bitN, bitN, bitN, BitVec.testBit_toNat, BitVec.testBit_toNat, State.setFld_mk, State.reg_setReg, if_pos rfl,
    withBits_getLsbD _ _ _ _ _ (by omega), if_pos hw, State.fld_mk, bitsOf_testBit, Nat.sub_add_cancel hl, decide_eq_true (by omega), Bool.true_and]

/-- The state after the fall of a requested rail (R50). -/
theorem execRailGoodFall_asked {s : State} {r : Rail} (hp : s.core.porstLow = false) (ha : railAsked (setRail r false s) r = true) :
    execRailGoodFall r s = done (
      let n := powerOn (setRail r false s)
      let n := { n with core := { n.core with railWait := true } }
      match railBit r with
      | none => n
      | some b => ((n.setFld fPgFell (s.fld fPgFell)).setFld ⟨0x14, b, b⟩ 1).setFld fCause 1) := by
  rw [execRailGoodFall, onlyIf, if_pos (by rw [hp]; decide), if_neg (by rw [ha]; decide)]
  rfl

theorem railAsked_of {s : State} {r : Rail}
    (h : s.core.pwrreq = some 3#2 ∨ (s.core.pwrreq = some 1#2 ∧ (r = .io ∨ r = .aon ∨ r = .ana))) : railAsked s r = true := by
  rcases h with h | ⟨h, rfl | rfl | rfl⟩ <;> rw [railAsked, h] <;> rfl

/-- The fall of a recorded rail: power-on reset, the rail's bit set next to those already set. -/
theorem ends_railGoodFall_recorded {s : State} {r : Rail} {b : Nat} (hp : s.core.porstLow = false) (ha : railAsked s r = true)
    (hb : railBit r = some b) (hlt : 23 ≤ b ∧ b ≤ 27) :
    Ends (.railGoodFall r) s fun u => PoweredOn s u ∧ u.core.railWait = true ∧ u.core.pwrreq = some 3#2 ∧ u.fld fCause = 1
      ∧ u.flag ⟨0x14, b, b⟩ = true ∧ (∀ b' ∈ [23, 24, 25, 26, 27], b' ≠ b → u.flag ⟨0x14, b', b'⟩ = s.flag ⟨0x14, b', b'⟩) := by
  have hx := execRailGoodFall_asked hp (r := r) (s := s) ha
  rw [hb] at hx
  have hcause : ∀ b', 23 ≤ b' ∧ b' ≤ 27 → Fld.Apart ⟨0x14, b', b'⟩ fCause := fun b' h => .inr (.inl (Nat.lt_of_le_of_lt h.2 (by decide)))
  have h18 : ∀ b : Nat, (⟨0x14, b, b⟩ : Fld).reg ≠ 0x18 := fun _ => by change 0x14 ≠ 0x18; decide
  have hon : PoweredOn s (refresh (powerOn (setRail r false s))) := poweredOn_powerOn (setRail r false s)
  refine ends_of_done hx ⟨poweredOn_setFld (poweredOn_setFld (poweredOn_setFld (poweredOn_core hon rfl) rfl _) rfl _) rfl _, rfl, rfl, ?_, ?_,
    fun b' hm hne => ?_⟩
  · rw [fld_refresh _ _ (by decide), State.fld_setFld _ _ _ (by decide)]
    rfl
  · rw [flag_refresh _ _ (h18 b), State.flag_setFld_of_apart (by simp only; omega) (hcause b hlt), State.flag_setFld_one _ _ _ (by omega)]
  · have h' : 23 ≤ b' ∧ b' ≤ 27 := by
      have : ∀ b ∈ [23, 24, 25, 26, 27], 23 ≤ b ∧ b ≤ 27 := by decide
      exact this b' hm
    have hd : Fld.Apart ⟨0x14, b', b'⟩ ⟨0x14, b, b⟩ := .inr (by simp only; omega)
    rw [flag_refresh _ _ (h18 b'), State.flag_setFld_of_apart (by simp only; omega) (hcause b' h'),
      State.flag_setFld_of_apart (by simp only; omega) hd]
    exact flag_setFld_copy _ s (by decide) h'.1 h'.2

/-- The fall of PG_AON leaves no record. -/
theorem ends_railGoodFall_aon {s : State} (hp : s.core.porstLow = false) (ha : railAsked s .aon = true) :
    Ends (.railGoodFall .aon) s fun u => PoweredOn s u ∧ u.core.railWait = true ∧ u.reg 0x14 = regReset 0x14 := by
  have hon : PoweredOn s (refresh (powerOn (setRail .aon false s))) := poweredOn_powerOn (setRail .aon false s)
  refine ends_of_done (execRailGoodFall_asked hp (r := .aon) ha) ⟨poweredOn_core hon rfl, rfl, ?_⟩
  rw [reg_refresh_of_ne _ (by decide)]
  exact reg_powerOn _ (by decide)

/-! ### The loss of a clock -/

/-- A clock loss drives the pins low and stops every branch. -/
theorem ends_refclkLoss {s : State} (hp : s.core.porstLow = false) (hc : s.core.critical = false) (hm : s.core.mclk = true)
    (hl : s.core.clockLost = none) (what : ClockLoss) :
    Ends (.refclkLoss what) s fun u => u.core = { s.core with clockLost := some what } ∧ (∀ k < 2, (illAt u k).high = false)
      ∧ interior u = false ∧ RegsKept s u [C 0x70308, C 0x70318] ∧ u.mem = s.mem ∧ u.fly = s.fly ∧ u.log = s.log := by
  obtain ⟨hf, hlow⟩ := pinsFall_cameraFreeze s
  have hx : exec (.refclkLoss what) s = done { peerFreeze (cameraFreeze s) with
      core := { (cameraFreeze s).core with clockLost := some what }, host := { (cameraFreeze s).host with wait := false, hd := 0#32 } } := by
    change execRefclkLoss what s = _
    rw [execRefclkLoss, onlyIf, if_pos (by rw [hp, hc, hm, hl]; rfl)]
    rfl
  generalize cameraFreeze s = y at hx hf hlow
  refine ends_of_done hx ⟨?_, hlow, ?_, regsKept_refresh fun r hr => hf.reg hr, hf.mem, hf.fly, hf.log⟩
  · rw [refresh_core, hf.core]
  · rw [Bool.eq_false_iff, ne_eq, interior_iff]
    rintro ⟨-, -, -, h, -⟩
    exact absurd h (Option.some_ne_none what)

theorem ends_porstAssert (s : State) :
    Ends .porstAssert s fun u => PoweredOn s u ∧ u.core.porstLow = true ∧ u.core.pwrreq = none ∧ u.fld fCause = 0 ∧ u.fld fPgFell = 0 := by
  have hf : ∀ f : Fld, f.reg = 0x14 → (refresh (porstState s)).fld f = bitsOf (regReset 0x14) f.hi f.lo := fun f h => by
    rw [fld_refresh _ _ (by rw [h]; decide)]
    exact (fld_powerOn s (by rw [h]; decide)).trans (by rw [h])
  exact ends_of_done (x := porstState s) rfl ⟨poweredOn_porstState s, rfl, rfl, (hf fCause rfl).trans rfl, (hf fPgFell rfl).trans rfl⟩

/-- Settles O5: a warm start is what the lists of kept registers and fields leave, a power-on reset is the reset state but for the
strap, and a clock loss is a frame of the camera and link blocks. -/
theorem resetsClearWhatTheirKindClears : Obligations.Resets_clear_what_their_kind_clears := by
  unfold Obligations.Resets_clear_what_their_kind_clears
  intro s hp hc
  have served : s.core.mclk = true → s.core.clockLost = none → hostServed s = true := fun hm hl => by
    rw [hostServed, hm, hp, hl, hc]; rfl
  refine ⟨fun hl hpage => ⟨?_, fun hm => ?_⟩, fun hl => ⟨?_, fun hpage => ?_⟩, ?_, ?_, fun r b ha hb => ?_, fun ha => ?_, fun what hm hl => ?_, fun what hm => ?_⟩
  · exact ends_of_done (by change execWrstAssert s = _; rw [execWrstAssert, hl, Option.isNone_none, onlyIf, if_pos rfl])
      (warmReset_keeps_dram hp hc hpage (by decide))
  · exact ends_of_done (by change execWarm s = _; rw [execWarm, served hm hl, onlyIf, if_pos rfl])
      (warmReset_keeps_dram hp hc hpage (by decide))
  · exact idle_of_done (by change execWrstAssert s = _; rw [execWrstAssert, Option.isNone_eq_false_iff.mpr (Option.isSome_iff_ne_none.mpr hl), onlyIf, if_neg (by decide)])
  · exact ends_clockLossWarmReset hp hc hl hpage
  · exact ends_porstAssert s
  · refine ends_of_done (x := { s with core := { s.core with pwrreq := some 3#2, rails := .allGood } })
      ?_ ⟨rfl, regsKept_refresh fun _ _ => rfl, rfl, rfl, rfl⟩
    change done { s with core := { s.core with porstLow := false, pwrreq := some 3#2, rails := .allGood } } = _
    rw [← hp]
  · exact ends_railGoodFall_recorded hp (railAsked_of (by tauto)) (by rcases hb with ⟨rfl, rfl⟩ | ⟨rfl, rfl⟩ | ⟨rfl, rfl⟩ | ⟨rfl, rfl⟩ | ⟨rfl, rfl⟩ <;> rfl) (by omega)
  · exact ends_railGoodFall_aon hp (railAsked_of (ha.imp id fun h => ⟨h, .inr (.inl rfl)⟩))
  · exact ends_refclkLoss hp hc hm hl what
  · exact idle_of_done (by change execRefclkLoss what s = _; rw [execRefclkLoss, hm, onlyIf, if_neg (by simp)])

end Sys2Proof.Machine
end

section
/-! PROOFS. O13: freeze, thaw and readout (chapters 3 and 22). -/

namespace Sys2Proof.Machine

open Sys2Proof Sys2Proof.Safety Sys2Proof.Claims

/-! ### A freeze -/

theorem freezable_iff (s : State) : freezable s = true ↔ interior s = true ∧ s.fld fPhase ≠ 0 ∧ s.flag fPwrBusy = false := by
  simp only [freezable, Bool.and_eq_true, Bool.not_eq_true', decide_eq_true_iff, and_assoc]

/-- The marks of a freeze in INT_STATUS, POWER_STATE's block and FREEZE_CTRL, but for FROZEN, y being the state with its pins low. -/
def freezeMarks (pin : Bool) (y : State) : State :=
  raiseInt iFrozen (((peerFreeze y).setFlag fHardFrozen (!y.flag fQuiesced || tapHolds y)).setFlag fSourcePin pin)

/-- The posted writes that a freeze keeps, and what its readout draws on. -/
def freezeRest (x : State) : State :=
  { x with
    host := { x.host with posted := x.host.posted.filter fun w => freezeWrites w.1 }
    dbg := { x.dbg with freezeSeed := x.free }, free := x.free + 1 }

theorem reg_freezeRest (x : State) (r : Nat) : (freezeRest x).reg r = x.reg r := rfl

theorem flag_freezeRest (x : State) (f : Fld) : (freezeRest x).flag f = x.flag f := rfl

/-- What a freeze leaves. -/
def frozenFrom (pin : Bool) (y : State) : State := (freezeRest (freezeMarks pin y)).setFld fFrozen 1

theorem freezeTake_of_freezable {s : State} (h : freezable s = true) (pin : Bool) : freezeTake pin s = frozenFrom pin (cameraFreeze s) := by
  rw [freezeTake, h, if_neg (by decide)]
  generalize cameraFreeze s = y
  rfl

theorem freezeTake_of_not_freezable {s : State} (h : freezable s = false) (pin : Bool) : freezeTake pin s = s := by
  rw [freezeTake, h]
  rfl

theorem reg_freezeMarks (pin : Bool) (y : State) {r : Nat} (h : r ∉ [0x08, 0x88]) :
    (freezeMarks pin y).reg r = if r = 0x18 then y.reg 0x18 ||| 1#32 <<< 17 else y.reg r := by
  simp only [List.mem_cons, List.not_mem_nil, or_false, not_or] at h
  obtain ⟨h8, h88⟩ := h
  have hy : ∀ r, r ≠ 0x08 → r ≠ 0x88 → (((peerFreeze y).setFlag fHardFrozen (!y.flag fQuiesced || tapHolds y)).setFlag fSourcePin pin).reg r
      = y.reg r := fun r h8 h88 => by
    rw [State.setFlag, State.reg_setFld_of_ne (Ne.symm h88), State.setFlag, State.reg_setFld_of_ne (Ne.symm h8)]
    rfl
  rw [freezeMarks]
  split
  · next h18 => rw [h18, reg_raiseInt _ _ (by decide), hy _ (by decide) (by decide)]; rfl
  · next h18 => rw [raiseInt_eq, State.reg_setReg, if_neg (Ne.symm h18), hy r h8 h88]

theorem reg_frozenFrom (pin : Bool) (y : State) {r : Nat} (h : r ∉ [0x08, 0x88]) :
    (frozenFrom pin y).reg r = if r = 0x18 then y.reg 0x18 ||| 1#32 <<< 17 else y.reg r := by
  have h8 : fFrozen.reg ≠ r := by rintro rfl; exact h (by decide)
  rw [frozenFrom, State.reg_setFld_of_ne h8, reg_freezeRest, reg_freezeMarks pin y h]

/-- The three bits that show the freeze. -/
theorem flags_frozenFrom (pin : Bool) (y : State) : (frozenFrom pin y).flag fFrozen = true
    ∧ (frozenFrom pin y).flag fHardFrozen = (!y.flag fQuiesced || tapHolds y) ∧ (frozenFrom pin y).flag fSourcePin = pin := by
  refine ⟨State.flag_setFld_one _ _ _ (by decide), ?_, ?_⟩
  · rw [frozenFrom, State.flag_setFld_of_apart (by decide) (.inr (by decide)), flag_freezeRest, freezeMarks, raiseInt_eq,
      State.flag_setReg_of_ne _ _ _ _ (by decide), State.setFlag, State.flag_setFld_of_ne _ _ _ _ (by decide)]
    exact State.flag_setFlag _ _ _ _ (by decide)
  · rw [frozenFrom, State.flag_setFld_of_ne _ _ _ _ (by decide), flag_freezeRest, freezeMarks, raiseInt_eq,
      State.flag_setReg_of_ne _ _ _ _ (by decide)]
    exact State.flag_setFlag _ _ _ _ (by decide)

theorem exec_freezePinRise (held : Bool) (s : State) :
    exec (.freezePinRise held) s = done (freezeTake true { s with core := { s.core with freezePin := held } }) := rfl

theorem exec_freezeRequest (s : State) : exec .freezeRequest s = done (freezeTake false s) := rfl

/-- A freeze that is taken. -/
theorem froze_freezeTake {s : State} (h : freezable s = true) (pin : Bool) :
    Froze s (refresh (freezeTake pin s)) pin ∧ (refresh (freezeTake pin s)).core = s.core := by
  obtain ⟨hp, hlow⟩ := pinsFall_cameraFreeze s
  rw [freezeTake_of_freezable h]
  generalize cameraFreeze s = y at hp hlow
  obtain ⟨hf, hh, hs⟩ := flags_frozenFrom pin y
  have hq : y.flag fQuiesced = s.flag fQuiesced := by rw [State.flag, State.fld, hp.reg (by decide), ← State.fld, ← State.flag]
  have ht : tapHolds y = tapHolds s := by rw [tapHolds, tapHolds, hp.dbg]
  have hfu : (refresh (frozenFrom pin y)).flag fFrozen = true := by rw [flag_refresh _ _ (by decide), hf]
  refine ⟨⟨hfu, ?_, ?_, ?_, ?_, ?_, hlow, ?_, hp.mem, hp.fly, hp.log, congrArg CoreSt.timebase hp.core, ?_⟩, hp.core⟩
  · rw [flag_refresh _ _ (by decide), hh, hq, ht, tapHolds]
  · rw [flag_refresh _ _ (by decide), hs]
  · refine rings_refresh ?_
    rw [reg_frozenFrom pin y (by decide), if_pos rfl, hp.reg (by decide)]
    rfl
  · rw [Bool.eq_false_iff, ne_eq, interior_iff]
    rintro ⟨-, -, hn, -⟩
    exact absurd (hn.symm.trans hfu) (by decide)
  · change { y.host with posted := y.host.posted.filter fun w => freezeWrites w.1 } = _
    rw [hp.host]
    rfl
  · intro p hm
    obtain ⟨q, -, rfl⟩ := List.mem_map.mp (show p ∈ y.peer.ports.map fun p => { p with tx := none } from hm)
    rfl
  · refine regsKept_refresh fun r hr => ?_
    simp only [List.mem_cons, List.not_mem_nil, or_false, not_or] at hr
    rw [reg_frozenFrom _ _ (by simp [hr]), if_neg hr.2.1, hp.reg (by simp [hr])]

/-! ### A thaw -/

/-- What a thaw may write once it has ended the freeze. -/
def thawFld (f : Fld) : Prop := f.reg = 0x18 ∨ f.reg = 0x9C ∨ C 0x70000 ≤ f.reg ∨ f = fRmreq

/-- All but the registers, the log, memory, the cameras and the ports. -/
def offThaw (s : State) : State := { offCamMem s with peer := State.reset.peer }

theorem frame_thaw : Frame thawFld offThaw where
  frozen g hg := by
    have h8 : fFrozen.reg = 8 := rfl
    rcases hg with h | h | h | rfl
    · exact .inl (by rw [h]; decide)
    · exact .inl (by rw [h]; decide)
    · exact .inl (by simp only [C_eq] at h; omega)
    · exact .inr (by decide)
  core _ _ h := (congrArg State.core h :)
  log _ h := (memFld_of_logFld h).elim .inl fun h => .inr (.inr (.inl (by simp only [C_eq] at h ⊢; omega)))
  logView _ _ h := congrArg (fun x : State => { x with mem := State.reset.mem, cam := State.reset.cam, peer := State.reset.peer }) h

theorem Moves.thaw_of_cam {s t : State} (h : Moves camFld offCamMem s t) : Moves thawFld offThaw s t :=
  (h.coarsen fun x => { x with peer := State.reset.peer }).mono fun _ hg => hg.elim .inl fun h => .inr (.inr (.inl h))

theorem linkFld_reg {n : Nat} {f : Fld} (h : linkFld n f) : f.reg = 0x18 ∨ f.reg = 0x9C ∨ C 0x90000 ≤ f.reg := by
  rcases h with (h | h) | rfl
  · exact .inl h
  · exact .inr (.inr h)
  · exact .inr (.inl rfl)

theorem Moves.thaw_of_link {n : Nat} {s t : State} (h : Moves (linkFld n) offPeer s t) : Moves thawFld offThaw s t :=
  (h.coarsen fun x => { x with mem := State.reset.mem, cam := State.reset.cam }).mono fun _ hg => by
    rcases linkFld_reg hg with h | h | h
    · exact .inl h
    · exact .inr (.inl h)
    · exact .inr (.inr (.inl (by simp only [C_eq] at h ⊢; omega)))

theorem Moves.thaw_of_links {s t : State} (h : Moves linksFld offPeer s t) : Moves thawFld offThaw s t :=
  (h.coarsen fun x => { x with mem := State.reset.mem, cam := State.reset.cam }).mono fun _ hg => by
    rcases hg with (h | h) | h
    · exact .inl h
    · exact .inr (.inr (.inl (by simp only [C_eq] at h ⊢; omega)))
    · exact .inr (.inl h)

/-- What reporting held events may write. -/
def heldFld (f : Fld) : Prop := logFld f ∨ f = fRmreq

theorem frame_held : Frame heldFld offLog where
  frozen g hg := by
    rcases hg with h | rfl
    · exact frame_port.frozen g (portFld_of_logFld h)
    · exact .inr (by decide)
  core _ _ h := (congrArg State.core h :)
  log _ h := .inl h
  logView _ _ h := h

theorem moves_rmreqSet (b : Bool) (s : State) : Moves heldFld offLog s (rmreqSet b s) := by
  unfold rmreqSet
  extract_lets s1
  have h1 : Moves heldFld offLog s s1 := moves_setFld frame_held (.inr rfl) _
  exact h1.trans (.ite_refl (moves_raiseInt frame_held _ _))

/-- The held events are reported one by one. -/
theorem moves_logHeld (s : State) : Moves heldFld offLog { s with log := { s.log with later := [] } } (logHeld s) := by
  unfold logHeld
  refine .foldl s.log.later _ fun e _ s => ?_
  extract_lets s1
  have h1 : Moves heldFld offLog s s1 := .ite_refl (moves_rmreqSet _ s)
  exact h1.trans (moves_reportEvent frame_held _ s1)

theorem Keeps.thaw_of_held {s t : State} (h : Keeps heldFld offLog s t) : Keeps thawFld offThaw s t :=
  (h.coarsen fun x => { x with mem := State.reset.mem, cam := State.reset.cam, peer := State.reset.peer }).mono fun g hg => by
    rcases hg with h | rfl
    · exact frame_thaw.log g h
    · exact .inr (.inr (.inr rfl))

theorem keeps_logHeld (s : State) : Keeps heldFld offLog s (logHeld s) := by
  have h : Keeps heldFld offLog s { s with log := { s.log with later := [] } } := .of_regs_eq rfl rfl
  exact h.trans (moves_logHeld s).keeps

/-- A frame keeps PRESENT and STATE of the ports where it writes no field of LINK_STATUS. -/
theorem lkPresent_apart_link (m n : Nat) : ∀ g, linkFld m g → (fLkPresent n).Apart g := fun g hg => by
  rcases hg with hg | rfl
  · refine .inl ?_
    have h9 : (fLkPresent n).reg = 0x9C := rfl
    rcases hg with h | h
    · rw [h, h9]; decide
    · simp only [C_eq] at h; omega
  · exact .inr (by simp only [fLkState, fLkPresent]; omega)

theorem linkStatus_apart_held {f : Fld} (h : f.reg = 0x9C) : ∀ g, heldFld g → f.Apart g := fun g hg => .inl (by
  rcases hg with hg | rfl
  · rcases portFld_of_logFld hg with e | e
    · rw [h, e]; decide
    · simp only [C_eq] at e; omega
  · rw [h]; decide)

theorem linkStatus_apart_cam {f : Fld} (h : f.reg = 0x9C) : ∀ g, camFld g → f.Apart g := fun g hg => .inl (by
  rcases hg with e | e
  · rw [h, e]; decide
  · simp only [C_eq] at e; omega)

theorem moves_peerThaw (s : State) : Moves thawFld offThaw s (peerThaw s) := .foldl _ s fun n _ s => (moves_down n 1 s).thaw_of_link

/-- After a thaw each link is down. -/
theorem lkState_peerThaw (s : State) : ∀ n < 4, (peerThaw s).fld (fLkState n) = 0 := fun n hn =>
  foldl_ports (P := fun s => s.fld (fLkState n) = 0) (Q := fun _ => True) hn (fun _ _ _ _ _ => trivial)
    (fun s _ => lkState_down hn 1 s)
    (fun m _ hm s h => ((moves_down m 1 s).keeps.fld _ (by simp only [fLkState]; omega) (lkState_apart_link hm)).trans h) s trivial

theorem lkPresent_peerThaw (s : State) {n : Nat} (hn : n < 4) : (peerThaw s).flag (fLkPresent n) = s.flag (fLkPresent n) :=
  foldl_ports (P := fun t => t.flag (fLkPresent n) = s.flag (fLkPresent n)) (Q := fun t => t.flag (fLkPresent n) = s.flag (fLkPresent n)) hn
    (fun m _ _ t h => ((moves_down m 1 t).keeps.flag (by simp only [fLkPresent]; omega) (lkPresent_apart_link m n)).trans h)
    (fun t h => ((moves_down n 1 t).keeps.flag (by simp only [fLkPresent]; omega) (lkPresent_apart_link n n)).trans h)
    (fun m _ _ t h => ((moves_down m 1 t).keeps.flag (by simp only [fLkPresent]; omega) (lkPresent_apart_link m n)).trans h) s rfl

theorem flag_doffEnd (s : State) : (doffEnd s).flag fDoffActive = false := by
  have : ∀ g ∈ [fDoffActive, fDoffPage], g = fDoffActive ∨ fDoffActive.Apart g := by unfold Fld.Apart; decide
  exact (State.flag_setFlds_zero [fDoffActive, fDoffPage] s (by decide) (.inl (by decide)) this :)

/-- The flags that end with a freeze. -/
def thawedFlags : List Fld := [fDoffActive, fJtagOwns, fFrozen, fHardFrozen, fSourcePin]

theorem flags_freezeClear (s : State) : ∀ f ∈ thawedFlags, (freezeClear s).flag f = false := fun f hf => by
  have hd : ∀ f ∈ thawedFlags, f.hi < 32 ∧ (f ∈ [fJtagOwns, fFrozen, fHardFrozen, fSourcePin] ∨ f = fDoffActive)
      ∧ ∀ g ∈ [fJtagOwns, fFrozen, fHardFrozen, fSourcePin], g = f ∨ f.Apart g := by unfold Fld.Apart; decide
  obtain ⟨hhi, hm, ha⟩ := hd f hf
  exact State.flag_setFlds_zero [fJtagOwns, fFrozen, fHardFrozen, fSourcePin] (doffEnd s) hhi
    (hm.imp id fun e => by rw [e]; exact flag_doffEnd s) ha

theorem thawedFlags_apart : ∀ f ∈ thawedFlags, f.hi < 32 ∧ f.reg ≠ 0x18 ∧ ∀ g, thawFld g → f.Apart g := fun f hf => by
  have hd : ∀ f ∈ thawedFlags, f.hi < 32 ∧ f.reg ≠ 0x18 ∧ f.reg ≠ 0x9C ∧ f.reg < 0x100 ∧ f.Apart fRmreq := by unfold Fld.Apart; decide
  obtain ⟨hhi, h18, h9, hlt, hr⟩ := hd f hf
  refine ⟨hhi, h18, fun g hg => ?_⟩
  rcases hg with h | h | h | rfl
  · exact .inl (by rw [h]; exact h18)
  · exact .inl (by rw [h]; exact h9)
  · exact .inl (by simp only [C_eq] at h; omega)
  · exact hr

theorem fld_freezeClear (s : State) {f : Fld} (h : f.reg = 0x9C) : (freezeClear s).fld f = s.fld f := by
  rw [State.fld, State.fld, h]
  refine congrArg (bitsOf · f.hi f.lo) ?_
  rw [freezeClear, State.reg_setFlds_of_ne _ _ (by decide)]
  exact State.reg_setFlds_of_ne _ _ (by decide)

/-- A thaw that is taken. -/
theorem ends_thaw {s : State} (hf : s.flag fFrozen = true) (hh : s.flag fHardFrozen = false) (hpin : s.core.freezePin = false)
    (hm : s.core.mclk = true) : Ends .thaw s fun u => u.flag fFrozen = false ∧ u.flag fHardFrozen = false ∧ u.flag fSourcePin = false
      ∧ u.flag fJtagOwns = false ∧ u.flag fDoffActive = false ∧ u.dbg.doff = none ∧ u.log.later = []
      ∧ ((∀ n < 4, s.flag (fLkPresent n) = (s.core.prsnt[n]?).getD false) → ∀ n < 4, u.fld (fLkState n) = 0) := by
  have hx : exec .thaw s = done (presenceSync (logHeld (peerThaw (cameraThaw (freezeClear s))))) := by
    change execThaw s = _
    rw [execThaw, thawTake, hf, hh, hpin]
    rfl
  have hclear := flags_freezeClear s
  have hcore : (freezeClear s).core = s.core := rfl
  have hdoff : (freezeClear s).dbg.doff = none := rfl
  have hlk : ∀ n, (freezeClear s).flag (fLkPresent n) = s.flag (fLkPresent n) := fun n => by
    rw [State.flag, State.flag, fld_freezeClear s rfl]
  generalize freezeClear s = x at *
  have hcam := moves_cameraThaw x
  have hlk2 : ∀ n < 4, (cameraThaw x).flag (fLkPresent n) = x.flag (fLkPresent n) := fun n hn =>
    hcam.keeps.flag (by simp only [fLkPresent]; omega) (linkStatus_apart_cam rfl)
  generalize cameraThaw x = y at *
  have hpeer := moves_peerThaw y
  have hdown := lkState_peerThaw y
  have hlk3 := fun n hn => lkPresent_peerThaw y (n := n) hn
  have hxz : Moves thawFld offThaw x (peerThaw y) := hcam.thaw_of_cam.trans hpeer
  generalize peerThaw y = z at *
  have hlog := moves_logHeld z
  have hlogk := keeps_logHeld z
  generalize logHeld z = w at *
  have hsync := (moves_presenceSync w).thaw_of_links
  have hxw : Keeps thawFld offThaw x w := hxz.keeps.trans hlogk.thaw_of_held
  have hall := hxw.trans hsync.keeps
  have flags : ∀ f ∈ thawedFlags, (refresh (presenceSync w)).flag f = false := fun f hf' => by
    obtain ⟨hhi, h18, ha⟩ := thawedFlags_apart f hf'
    rw [flag_refresh _ _ h18, hall.flag hhi ha, hclear f hf']
  have awz : Awake z := hxz.awake ⟨hclear _ (by decide), hcore ▸ hm⟩
  have awl : Awake { z with log := { z.log with later := [] } } := awz
  refine ends_of_done hx ⟨flags _ (by decide), flags _ (by decide), flags _ (by decide), flags _ (by decide), flags _ (by decide), ?_, ?_, fun hp n hn => ?_⟩
  · exact (congrArg (fun s => s.dbg.doff) hall.view :).trans hdoff
  · exact (hsync.later (hlog.awake awl)).trans (hlog.later awl)
  · have hwcore : w.core = s.core := (congrArg State.core hxw.view :).trans hcore
    have hw : ∀ n < 4, w.flag (fLkPresent n) = (w.core.prsnt[n]?).getD false := fun n hn => by
      rw [hwcore, ← hp n hn, ← hlk n, ← hlk2 n hn, ← hlk3 n hn]
      exact hlogk.flag (by simp only [fLkPresent]; omega) (linkStatus_apart_held rfl)
    rw [presenceSync_of_present hw, fld_refresh _ _ (by change 0x9C ≠ 0x18; decide),
      hlogk.fld _ (by simp only [fLkState]; omega) (linkStatus_apart_held rfl), hdown n hn]

/-! ### A readout -/

/-- DOFF_CTRL's fields. -/
def doffFlds : List Fd := [ro 31 31, ro 30 30, ro 29 16, rw 15 8, wo 1 1, wo 0 0]

theorem plainWrite_doffCtrl (v : W32) (s : State) : plainWrite 0x8C v s = s.setReg 0x8C (writeFields doffFlds (s.reg 0x8C) v) :=
  plainWrite_of_listed (row := one "DOFF_CTRL" 0x8C doffFlds) (by decide) (fieldsListed_of_ok_nil (by decide) v) s

/-- CHAIN takes the bits written to it, and JTAG_OWNS stays. -/
theorem doffChain_written (v : W32) (s : State) : (plainWrite 0x8C v s).fld fDoffChain = bitsOf v 15 8 := by
  rw [plainWrite_doffCtrl]
  change bitsOf ((s.setReg 0x8C _).reg 0x8C) 15 8 = _
  rw [State.reg_setReg, if_pos rfl]
  exact bitsOf_writeFields_rw doffFlds _ _ (by decide) (by decide) (by decide)

theorem jtagOwns_written (v : W32) (s : State) : (plainWrite 0x8C v s).flag fJtagOwns = s.flag fJtagOwns := by
  rw [plainWrite_doffCtrl, fJtagOwns, flag_eq_bitN, flag_eq_bitN, State.reg_setReg, if_pos rfl, bitN, bitN, BitVec.testBit_toNat,
    BitVec.testBit_toNat, getLsbD_writeFields doffFlds _ _ (by decide) (by decide)]
  exact (if_neg (by decide)).trans (if_neg (by decide))

/-- The word that DOFF_START writes. -/
theorem doffStart_word (c : BitVec 8) : bitsOf (BitVec.ofNat 32 (c.toNat * 256 + 1)) 15 8 = c.toNat
    ∧ bitN (BitVec.ofNat 32 (c.toNat * 256 + 1)).toNat 1 = false ∧ bitN (BitVec.ofNat 32 (c.toNat * 256 + 1)).toNat 0 = true := by
  have hc := c.isLt
  have hv : (BitVec.ofNat 32 (c.toNat * 256 + 1)).toNat = c.toNat * 256 + 1 := by rw [BitVec.toNat_ofNat]; omega
  refine ⟨?_, ?_, ?_⟩
  · rw [bitsOf, hv]; omega
  · rw [bitN, hv, Nat.testBit_eq_decide_div_mod_eq, decide_eq_false_iff_not]; omega
  · rw [bitN, hv, Nat.testBit_eq_decide_div_mod_eq, decide_eq_true_iff]; omega

theorem exec_doffStart (c : BitVec 8) (s : State) :
    exec (.doffStart c) s = done (hostDoffStart c.toNat (plainWrite 0x8C (BitVec.ofNat 32 (c.toNat * 256 + 1)) s)) := by
  obtain ⟨h1, h2, h3⟩ := doffStart_word c
  change execDoffStart c s = _
  rw [execDoffStart, doffCtrlWrite, h1, h2, h3]
  simp only [Bool.false_eq_true, if_false, if_true]

theorem reg_plainWrite_doffCtrl (v : W32) (s : State) {r : Nat} (h : r ≠ 0x8C) : (plainWrite 0x8C v s).reg r = s.reg r := by
  rw [plainWrite_doffCtrl, State.reg_setReg, if_neg (Ne.symm h)]

theorem reg_setDoff (x : State) (a b : Nat) {r : Nat} (h : r ≠ 0x8C) : (x.setFlds [(fDoffActive, a), (fDoffPage, b)]).reg r = x.reg r := by
  rw [State.setFlds_cons, State.setFlds_cons, State.setFlds_nil, State.reg_setFld_of_ne (Ne.symm h), State.reg_setFld_of_ne (Ne.symm h)]

/-- The registers that a start of a readout sets. -/
theorem fld_doffStart_marks (x : State) : (x.setFlds [(fDoffActive, 1), (fDoffPage, 0)]).flag fDoffActive = true
    ∧ (x.setFlds [(fDoffActive, 1), (fDoffPage, 0)]).fld fDoffPage = 0
    ∧ (x.setFlds [(fDoffActive, 1), (fDoffPage, 0)]).fld fDoffChain = x.fld fDoffChain := by
  refine ⟨?_, ?_, State.fld_setFlds_of_apart _ _ (by decide) (by unfold Fld.Apart; decide)⟩
  · exact (State.flag_setFld_of_apart (by decide) (.inr (by decide))).trans (State.flag_setFld_one _ _ _ (by decide))
  · exact State.fld_setFld _ _ _ (by decide)

theorem ends_doffStart_frozen {s : State} (c : BitVec 8) (hf : s.flag fFrozen = true) (hj : s.flag fJtagOwns = false) (hd : doffData c.toNat ≠ 0) :
    Ends (.doffStart c) s fun u => u.dbg = { s.dbg with doff := some ⟨c.toNat, 0, doffData c.toNat + doffCheck c.toNat⟩ }
      ∧ u.flag fDoffActive = true ∧ u.fld fDoffPage = 0 ∧ u.fld fDoffChain = c.toNat ∧ RegsKept s u [0x8C] := by
  have hx := exec_doffStart c s
  have hchain := doffChain_written (BitVec.ofNat 32 (c.toNat * 256 + 1)) s
  rw [(doffStart_word c).1] at hchain
  have hjx := (jtagOwns_written (BitVec.ofNat 32 (c.toNat * 256 + 1)) s).trans hj
  have hreg := fun r h => reg_plainWrite_doffCtrl (BitVec.ofNat 32 (c.toNat * 256 + 1)) s (r := r) h
  have hdbg : (plainWrite 0x8C (BitVec.ofNat 32 (c.toNat * 256 + 1)) s).dbg = s.dbg := by rw [plainWrite_doffCtrl]; rfl
  generalize plainWrite 0x8C _ s = x at *
  have hfx : x.flag fFrozen = true := by rw [State.flag, State.fld, hreg _ (by decide), ← State.fld, ← State.flag, hf]
  rw [hostDoffStart, hfx, hjx, if_pos (by decide), doffStart, if_neg (by omega)] at hx
  obtain ⟨h1, h2, h3⟩ := fld_doffStart_marks x
  refine ends_of_done hx ⟨?_, ?_, ?_, ?_, regsKept_refresh fun r hr => ?_⟩
  · rw [← hdbg]
    rfl
  · rw [flag_refresh _ _ (by decide)]; exact h1
  · rw [fld_refresh _ _ (by decide)]; exact h2
  · rw [fld_refresh _ _ (by decide)]; exact h3.trans hchain
  · have h8C : r ≠ 0x8C := fun e => hr (e ▸ List.mem_cons_self)
    exact (reg_setDoff x 1 0 h8C).trans (hreg r h8C)

theorem ends_doffStart_running {s : State} (c : BitVec 8) (hf : s.flag fFrozen = false) :
    Ends (.doffStart c) s fun u => u.fld fDoffChain = c.toNat ∧ OnlyRegs s u [0x8C] := by
  have hx := exec_doffStart c s
  have hchain := doffChain_written (BitVec.ofNat 32 (c.toNat * 256 + 1)) s
  have hfx : (plainWrite 0x8C (BitVec.ofNat 32 (c.toNat * 256 + 1)) s).flag fFrozen = false := by
    rw [plainWrite_doffCtrl, State.flag_setReg_of_ne _ _ _ _ (by decide), hf]
  rw [hostDoffStart, hfx, Bool.false_and, if_neg (by decide)] at hx
  refine ends_of_done hx ⟨?_, ?_⟩
  · rw [fld_refresh _ _ (by decide), hchain, (doffStart_word c).1]
  · rw [plainWrite_doffCtrl]
    exact onlyRegs_setReg List.mem_cons_self

/-- What the end of a readout shows. -/
theorem doffEnd_shows (s : State) : (refresh (doffEnd s)).dbg = { s.dbg with doff := none } ∧ (refresh (doffEnd s)).flag fDoffActive = false
    ∧ (refresh (doffEnd s)).fld fDoffPage = 0 ∧ RegsKept s (refresh (doffEnd s)) [0x8C] := by
  refine ⟨rfl, ?_, ?_, regsKept_refresh fun r hr => ?_⟩
  · rw [flag_refresh _ _ (by decide), flag_doffEnd]
  · rw [fld_refresh _ _ (by decide)]
    exact (State.fld_setFld _ fDoffPage 0 (by decide) :)
  · have h8C : r ≠ 0x8C := fun e => hr (e ▸ List.mem_cons_self)
    exact reg_setDoff s 0 0 h8C

/-! ### The words of a readout -/

/-- DOFF_DATA is read with nothing posted. -/
theorem exec_doffDataRead {s : State} (hs : hostServed s = true) (hl : s.core.clockLost = none) (hp : s.host.posted = []) (hj : s.flag fJtagOwns = false) :
    exec .doffDataRead s = done { doffNext s with host := { (doffNext s).host with hd := doffPeek s } } := by
  change execDoffDataRead s = _
  rw [execDoffDataRead, hostRead, hl, hs, drainHost_of_posted_nil hp, doffRead, hj]
  rfl

theorem doffWord_of_data {s : State} {c k : Nat} (h : k < doffData c * 1024) : doffWord s c k = doffDataWord s c k := by
  rw [doffWord]
  exact if_pos h

/-- The log ring is chain 4, four words to an entry. -/
theorem doffWord_log (s : State) {k : Nat} (h : k < 16384) :
    doffWord s 4 k = (((Sparse.find s.log.ring (k / 4)).map LogEntry.words).bind fun l => l[k % 4]?).getD 0#32 := by
  rw [doffWord_of_data (by rw [show doffData 4 = 16 from rfl]; omega)]
  rfl

theorem doffData_skein {n : Nat} (h : n < 64) : doffData (0x80 + n) = 128 := by
  simp only [doffData]
  rw [if_neg (by omega), if_neg (by omega), if_neg (by omega), if_neg (by omega), if_neg (by omega), if_neg (by omega),
    if_neg (by simp only [Bool.and_eq_true, decide_eq_true_eq]; omega), if_pos (by simp only [Bool.and_eq_true, decide_eq_true_eq]; omega)]

/-- Skein n is chain 0x80 + n. -/
theorem doffWord_skein (s : State) {n k : Nat} (hn : n < 64) (h : k < 131072) :
    doffWord s (0x80 + n) k = BitVec.ofNat 32 (leNat (getBytes noByte s.mem.skein (n * 0x80000 + 4 * k) 4)) := by
  rw [doffWord_of_data (by rw [doffData_skein hn]; omega), doffDataWord, if_neg (by omega), if_neg (by omega),
    if_pos (by simp only [Bool.and_eq_true, decide_eq_true_eq]; omega), Nat.add_sub_cancel_left]

/-- A word of a readout that goes on. -/
theorem ends_doffDataRead_next {s : State} (hs : hostServed s = true) (hl : s.core.clockLost = none) (hp : s.host.posted = [])
    (hj : s.flag fJtagOwns = false) {d : Doff} (hd : s.dbg.doff = some d) (hw : d.word + 1 < d.pages * 1024) :
    Ends .doffDataRead s fun u => u.host = { s.host with hd := doffWord s d.chain d.word }
      ∧ u.dbg = { s.dbg with doff := some { d with word := d.word + 1 } } ∧ u.fld fDoffPage = (d.word + 1) / 1024 % 2 ^ 14 ∧ RegsKept s u [0x8C] := by
  have hx := exec_doffDataRead hs hl hp hj
  rw [doffNext, hd, doffPeek, hd] at hx
  simp only [Nat.not_le_of_lt hw, if_false] at hx
  refine ends_of_done hx ⟨rfl, rfl, ?_, regsKept_refresh fun r hr => ?_⟩
  · rw [fld_refresh _ _ (by decide)]
    exact (State.fld_setFld s fDoffPage _ (by decide) :)
  · have h8C : fDoffPage.reg ≠ r := fun e => hr (e ▸ List.mem_cons_self)
    exact (State.reg_setFld_of_ne h8C :)

/-- Its last word. -/
theorem ends_doffDataRead_last {s : State} (hs : hostServed s = true) (hl : s.core.clockLost = none) (hp : s.host.posted = [])
    (hj : s.flag fJtagOwns = false) {d : Doff} (hd : s.dbg.doff = some d) (hw : d.pages * 1024 ≤ d.word + 1) :
    Ends .doffDataRead s fun u => u.host = { s.host with hd := doffWord s d.chain d.word }
      ∧ u.dbg = { s.dbg with doff := none } ∧ u.flag fDoffActive = false ∧ u.fld fDoffPage = 0 ∧ RegsKept s u [0x8C] := by
  have hx := exec_doffDataRead hs hl hp hj
  rw [doffNext, hd, doffPeek, hd] at hx
  simp only [hw, if_true] at hx
  obtain ⟨h1, h2, h3, h4⟩ := doffEnd_shows s
  exact ends_of_done hx ⟨rfl, h1, h2, h3, h4⟩

/-- Settles O13: a freeze is a frame of the cameras and the ports, a thaw is the frames of what it ends one after the other, and a readout
is a few fields of DOFF_CTRL. -/
theorem freezeThawAndReadout : Obligations.Freeze_thaw_and_readout := by
  unfold Obligations.Freeze_thaw_and_readout
  intro s
  have held : ∀ held, freezable { s with core := { s.core with freezePin := held } } = freezable s := fun _ => rfl
  refine ⟨fun hi hph hb => ?_, fun hn => ?_, ends_thaw, fun hn => ?_, fun c => ends_doffStart_frozen c, fun c => ends_doffStart_running c,
    fun hj => ?_, fun hj => ?_, fun hs hl hp hj => ⟨fun hd => ?_, fun d hd => ⟨fun hw => ends_doffDataRead_next hs hl hp hj hd hw,
      fun hw => ends_doffDataRead_last hs hl hp hj hd hw, fun hc hw => ?_, fun n hn hc hw => ?_⟩⟩⟩
  · have hf : freezable s = true := (freezable_iff s).mpr ⟨hi, hph, hb⟩
    exact ⟨fun h => ends_of_done (exec_freezePinRise h s) (froze_freezeTake ((held h).trans hf) true), ends_of_done (exec_freezeRequest s) (froze_freezeTake hf false)⟩
  · have hf : freezable s = false := by
      rw [Bool.eq_false_iff, ne_eq, freezable_iff]
      rintro ⟨hi, hph, hb⟩
      rcases hn with h | h | h
      · exact absurd (h.symm.trans hi) (by decide)
      · exact hph h
      · exact absurd (h.symm.trans hb) (by decide)
    refine ⟨idle_of_done ((exec_freezeRequest s).trans (congrArg done (freezeTake_of_not_freezable hf false))), fun h => ?_⟩
    exact ends_of_done ((exec_freezePinRise h s).trans (congrArg done (freezeTake_of_not_freezable ((held h).trans hf) true))) ⟨rfl, regsKept_refresh fun _ _ => rfl⟩
  · refine idle_of_done (congrArg done (if_neg ?_))
    simp only [Bool.and_eq_true, Bool.not_eq_true', not_and]
    rcases hn with h | h | h
    · exact fun e => absurd (h.symm.trans e.1) (by decide)
    · exact fun e => absurd (h.symm.trans e.2) (by decide)
    · exact fun _ e => absurd (h.symm.trans e) (by decide)
  · exact ends_of_done (congrArg done (if_neg (by rw [hj]; decide))) (doffEnd_shows s)
  · exact idle_of_done (congrArg done (if_pos hj))
  · have hx := exec_doffDataRead hs hl hp hj
    rw [doffNext, hd, doffPeek, hd] at hx
    exact ends_of_done hx ⟨rfl, regsKept_refresh fun _ _ => rfl⟩
  · refine ends_of_done (exec_doffDataRead hs hl hp hj) ?_
    change doffPeek s = _
    rw [doffPeek, hd, ← doffWord_log s hw, ← hc]
  · refine ends_of_done (exec_doffDataRead hs hl hp hj) ?_
    change doffPeek s = _
    rw [doffPeek, hd, ← doffWord_skein s hn hw, ← hc]

end Sys2Proof.Machine
end

section
/-! PROOFS. O4: quiesce and the pins RMREQ#, RM_ACK and PRSNTn# (chapters 3 and 4). -/

namespace Sys2Proof.Machine

open Sys2Proof Sys2Proof.Safety Sys2Proof.Claims

/-! ### Ports that quiesce -/

/-- Whether a port quiesces, for a port there is. -/
def portQuiesces (s : State) (n : Nat) : Option Bool := (s.peer.ports[n]?).map PeerPort.quiescing

theorem quiescing_peerAt (s : State) (n : Nat) : (peerAt s n).quiescing = (portQuiesces s n).getD false := by
  rw [peerAt, portQuiesces]
  cases s.peer.ports[n]? <;> rfl

theorem portQuiesces_setPeer (m : Nat) (p : PeerPort) (s : State) (n : Nat) :
    portQuiesces (setPeer m p s) n = if m = n then (portQuiesces s n).map fun _ => p.quiescing else portQuiesces s n := by
  rw [portQuiesces, setPeer, getElem?_setAt, portQuiesces]
  by_cases h : m = n
  · subst h
    by_cases hl : m < s.peer.ports.length
    · rw [if_pos ⟨rfl, hl⟩, if_pos rfl, List.getElem?_eq_getElem hl]; rfl
    · rw [if_neg (fun e => hl e.2), if_pos rfl, List.getElem?_eq_none (Nat.le_of_not_lt hl)]; rfl
  · rw [if_neg (fun e => h e.1), if_neg h]

theorem portQuiesces_setPeer_of_ne {m n : Nat} (h : m ≠ n) (p : PeerPort) (s : State) : portQuiesces (setPeer m p s) n = portQuiesces s n := by
  rw [portQuiesces_setPeer, if_neg h]

/-- A port written with the bit it had. -/
theorem portQuiesces_setPeer_same {m : Nat} {p : PeerPort} {s : State} (h : p.quiescing = (peerAt s m).quiescing) (n : Nat) :
    portQuiesces (setPeer m p s) n = portQuiesces s n := by
  rw [portQuiesces_setPeer]
  split
  · next e =>
    rw [h, e, quiescing_peerAt]
    cases portQuiesces s n <;> rfl
  · rfl

theorem portQuiesces_of_peer_eq {s t : State} (h : t.peer = s.peer) (n : Nat) : portQuiesces t n = portQuiesces s n := by
  rw [portQuiesces, portQuiesces, h]

theorem portQuiesces_pumpGo (m : Nat) (l : List (Nat × List Byte)) (blocked : List Nat) (s : State) (n : Nat) :
    portQuiesces (pumpGo m l blocked s).2 n = portQuiesces s n := by
  induction l generalizing blocked s with
  | nil => rfl
  | cons e l ih =>
    obtain ⟨v, bs⟩ := e
    unfold pumpGo
    extract_lets k s1 p
    split
    · have hs : portQuiesces s1 n = portQuiesces s n := portQuiesces_of_peer_eq rfl n
      rw [ih, portQuiesces_setPeer_same (by rfl), hs]
    · exact ih _ s

/-- A packet sent leaves every port's bit alone. -/
theorem portQuiesces_sendPacket (m v : Nat) (bs : List Byte) (s : State) (n : Nat) : portQuiesces (sendPacket m v bs s) n = portQuiesces s n := by
  have pumped : ∀ s, portQuiesces (pump m s) n = portQuiesces s n := fun s => by
    unfold pump
    dsimp only
    rw [portQuiesces_setPeer_same (by rfl), portQuiesces_pumpGo]
  rw [sendPacket, pumped, portQuiesces_setPeer_same (by rfl)]

/-- Events and registers are no ports. -/
theorem peer_logEvent (cls code ctx src arg : Nat) (s : State) : (logEvent cls code ctx src arg s).peer = s.peer :=
  (congrArg State.peer (keeps_logEvent cls code ctx src arg s).view :)

theorem peer_setFlds (l : List (Fld × Nat)) (s : State) : (s.setFlds l).peer = s.peer :=
  (congrArg State.peer (keeps_setFlds (W := fun _ => True) (view := offRegs) l s (fun _ _ => trivial) fun _ _ _ => rfl).view :)

theorem peer_setLink (m st cause : Nat) (s : State) : (setLink m st cause s).peer = s.peer := by
  unfold setLink
  extract_lets old
  split
  · rfl
  · rw [raiseInt_peer, peer_logEvent]; rfl

theorem portQuiesces_trainStart {m n : Nat} (h : m ≠ n) (s : State) : portQuiesces (trainStart m s) n = portQuiesces s n := by
  unfold trainStart
  extract_lets s1 s2 p
  rw [portQuiesces_setPeer_of_ne h]
  exact portQuiesces_of_peer_eq ((peer_setFlds _ s1).trans (peer_setLink m 1 0 s)) n

/-! ### A quiesce of the ports -/

/-- What peerQuiesce does at one port. -/
def quiescePort (s : State) (m : Nat) : State :=
  if s.fld (fLkState m) = 2 && !(peerAt s m).quiescing then
    let s := sendPacket m 3 (shortPacket 0xC4 0 0 0) s
    setPeer m { peerAt s m with quiescing := true } s
  else s

theorem moves_quiescePort (m : Nat) (s : State) : Moves portFld offPeer s (quiescePort s m) :=
  .ite_refl ((moves_sendPacket m 3 _ s).trans (moves_setPeer m _ _))

theorem moves_peerQuiesce (s : State) : Moves portFld offPeer s (peerQuiesce s) := .foldl _ s fun m _ s => moves_quiescePort m s

theorem portQuiesces_quiescePort_of_ne {m n : Nat} (h : m ≠ n) (s : State) : portQuiesces (quiescePort s m) n = portQuiesces s n := by
  unfold quiescePort
  split
  · rw [portQuiesces_setPeer_of_ne h, portQuiesces_sendPacket]
  · rfl

/-- A port that is up quiesces after its step. -/
theorem portQuiesces_quiescePort {n : Nat} {s : State} (h : s.fld (fLkState n) = 2) : portQuiesces (quiescePort s n) n ≠ some false := by
  unfold quiescePort
  by_cases hq : (peerAt s n).quiescing = true
  · rw [hq, Bool.not_true, Bool.and_false, if_neg (by decide)]
    intro e
    rw [quiescing_peerAt, e] at hq
    exact absurd hq (by decide)
  · rw [h, Bool.eq_false_iff.mpr hq, if_pos (by decide), portQuiesces_setPeer, if_pos rfl]
    cases portQuiesces (sendPacket n 3 (shortPacket 0xC4 0 0 0) s) n <;> simp

/-- Every port that is up quiesces. -/
theorem portQuiesces_peerQuiesce {n : Nat} (hn : n < 4) {s : State} (h : s.fld (fLkState n) = 2) : portQuiesces (peerQuiesce s) n ≠ some false :=
  foldl_ports (f := quiescePort) (P := fun t => portQuiesces t n ≠ some false) (Q := fun t => t.fld (fLkState n) = 2) hn
    (fun m _ _ t ht => ((moves_quiescePort m t).keeps.lkState hn).trans ht) (fun _ ht => portQuiesces_quiescePort ht)
    (fun m _ hm t ht => by rw [portQuiesces_quiescePort_of_ne hm]; exact ht) s h

/-- With no port up nothing is sent. -/
theorem peerQuiesce_of_down {s : State} (h : ∀ n < 4, s.fld (fLkState n) ≠ 2) : peerQuiesce s = s := by
  have one : ∀ n < 4, quiescePort s n = s := fun n hn => by rw [quiescePort, if_neg (by simp [h n hn])]
  change quiescePort (quiescePort (quiescePort (quiescePort s 0) 1) 2) 3 = s
  rw [one 0 (by decide), one 1 (by decide), one 2 (by decide), one 3 (by decide)]

/-- What peerQuiesceSettle does at one port. -/
def settlePort (s : State) (m : Nat) : State :=
  if s.fld (fLkState m) = 2 && (peerAt s m).quiescing && (peerAt s m).tags.isEmpty then setLink m 3 0 s else s

theorem moves_settlePort (m : Nat) (s : State) : Moves linksFld offPeer s (settlePort s m) := .ite_refl (moves_setLink m 3 0 s).links

theorem moves_peerQuiesceSettle (s : State) : Moves linksFld offPeer s (peerQuiesceSettle s) := .foldl _ s fun m _ s => moves_settlePort m s

theorem peerQuiesceSettle_of_down {s : State} (h : ∀ n < 4, s.fld (fLkState n) ≠ 2) : peerQuiesceSettle s = s := by
  have one : ∀ n < 4, settlePort s n = s := fun n hn => by rw [settlePort, if_neg (by simp [h n hn])]
  change settlePort (settlePort (settlePort (settlePort s 0) 1) 2) 3 = s
  rw [one 0 (by decide), one 1 (by decide), one 2 (by decide), one 3 (by decide)]

/-! ### The end of a quiesce of the ports -/

/-- What peerUnquiesce does at one port. -/
def unquiescePort (s : State) (m : Nat) : State :=
  if (peerAt s m).quiescing then
    let s := setPeer m { peerAt s m with quiescing := false } s
    if linkLive s m then setLink m 2 0 (sendPacket m 3 (shortPacket 0xC5 0 0 0) s) else tryTrain m s
  else if s.fld (fLkState m) = 0 && !(peerAt s m).downWait then tryTrain m s
  else s

theorem moves_unquiescePort (m : Nat) (s : State) : Moves linksFld offPeer s (unquiescePort s m) := by
  unfold unquiescePort
  extract_lets p0 s1
  have up : ∀ g, portFld g → linksFld g := fun _ => .inl
  have h1 : Moves linksFld offPeer s s1 := (moves_setPeer m _ s).mono up
  refine .ite (fun _ => h1.trans (.ite (fun _ => ?_) fun _ => moves_tryTrain m s1)) fun _ => .ite_refl (moves_tryTrain m s)
  exact ((moves_sendPacket m 3 _ s1).mono up).trans (moves_setLink m 2 0 _).links

theorem moves_peerUnquiesce (s : State) : Moves linksFld offPeer s (peerUnquiesce s) := .foldl _ s fun m _ s => moves_unquiescePort m s

/-- A link's STATE and its port's bit. -/
def LinkIs (n st : Nat) (q : Bool) (s : State) : Prop := s.fld (fLkState n) = st ∧ (peerAt s n).quiescing = q

theorem linkIs_of_eq {n st : Nat} {q : Bool} {s t : State} (hs : t.fld (fLkState n) = s.fld (fLkState n)) (hp : portQuiesces t n = portQuiesces s n)
    (h : LinkIs n st q s) : LinkIs n st q t := by
  obtain ⟨h1, h2⟩ := h
  exact ⟨hs.trans h1, by rw [quiescing_peerAt, hp, ← quiescing_peerAt, h2]⟩

/-- Another port's training leaves a link that is not down alone. -/
theorem linkIs_trainStart {m n st : Nat} {q : Bool} (hn : n < 4) (hm : m ≠ n) {s : State} (h : LinkIs n st q s) : LinkIs n st q (trainStart m s) :=
  linkIs_of_eq ((moves_trainStart m s).keeps.fld _ (by simp only [fLkState]; omega) (lkState_apart_link hm)) (portQuiesces_trainStart hm s) h

theorem linkIs_tryTrain {m n st : Nat} {q : Bool} (hn : n < 4) (hst : st ≠ 0) (hm : m ≠ n) {s : State} (h : LinkIs n st q s) :
    LinkIs n st q (tryTrain m s) := by
  unfold tryTrain
  extract_lets s1
  have h1 : LinkIs n st q s1 := linkIs_trainStart hn hm h
  split
  · split
    · next hc =>
      refine linkIs_trainStart hn (fun e => ?_) h1
      simp only [Bool.and_eq_true, decide_eq_true_eq, e] at hc
      exact hst (h1.1.symm.trans hc.2)
    · exact h1
  · exact h

theorem linkIs_unquiescePort {m n st : Nat} {q : Bool} (hn : n < 4) (hst : st ≠ 0) (hm : m ≠ n) {s : State} (h : LinkIs n st q s) :
    LinkIs n st q (unquiescePort s m) := by
  unfold unquiescePort
  extract_lets p0 s1
  have h1 : LinkIs n st q s1 := linkIs_of_eq ((moves_setPeer m _ s).keeps.lkState hn) (portQuiesces_setPeer_of_ne hm _ s) h
  split
  · split
    · refine linkIs_of_eq ?_ ?_ h1
      · exact ((moves_setLink m 2 0 _).keeps.fld _ (by simp only [fLkState]; omega) (lkState_apart_link hm)).trans
          ((moves_sendPacket m 3 _ s1).keeps.lkState hn)
      · rw [portQuiesces_of_peer_eq (peer_setLink m 2 0 _), portQuiesces_sendPacket]
    · exact linkIs_tryTrain hn hst hm h1
  · split
    · exact linkIs_tryTrain hn hst hm h
    · exact h

/-- A quiesced link is up again after its step. -/
theorem linkIs_unquiescePort_own {n : Nat} (hn : n < 4) {s : State} (h : LinkIs n 3 true s) : LinkIs n 2 false (unquiescePort s n) := by
  obtain ⟨hs, hq⟩ := h
  unfold unquiescePort
  extract_lets p0 s1
  have h1 : s1.fld (fLkState n) = 3 := ((moves_setPeer n _ s).keeps.lkState hn).trans hs
  have hl : linkLive s1 n = true := by rw [linkLive, h1]; rfl
  rw [if_pos hq, if_pos hl]
  refine ⟨lkState_setLink hn (by decide) 0 _, ?_⟩
  rw [quiescing_peerAt, portQuiesces_of_peer_eq (peer_setLink n 2 0 _), portQuiesces_sendPacket, portQuiesces_setPeer, if_pos rfl]
  cases portQuiesces s n <;> rfl

theorem linkIs_peerUnquiesce {n : Nat} (hn : n < 4) {s : State} (h : LinkIs n 3 true s) : LinkIs n 2 false (peerUnquiesce s) :=
  foldl_ports (f := unquiescePort) (P := LinkIs n 2 false) (Q := LinkIs n 3 true) hn
    (fun _ _ hm _ ht => linkIs_unquiescePort hn (by decide) hm ht) (fun _ ht => linkIs_unquiescePort_own hn ht)
    (fun _ _ hm _ ht => linkIs_unquiescePort hn (by decide) hm ht) s h

/-! ### Reel channels -/

/-- The registers of the reel channels. -/
def reelFld (f : Fld) : Prop := C 0xA0000 ≤ f.reg

theorem reelFld_reelR (ch off hi lo : Nat) : reelFld ⟨reelR ch off, hi, lo⟩ := by
  simp only [reelFld, reelR, C_eq]
  omega

theorem keeps_syncReel (ch : Nat) (s : State) : Keeps reelFld offRegs s (syncReel ch s) := by
  have reg : ∀ (s : State) off v, Keeps reelFld offRegs s (s.setReg (reelR ch off) v) := fun s off v => keeps_setReg v (reelFld_reelR ch off 31 0) rfl
  unfold syncReel
  split
  · exact (((reg s 0 _).trans (reg _ 4 _)).trans (reg _ 8 _)).trans (reg _ 0xC _)
  · rename_i c _
    extract_lets st
    generalize (c.desc.map fun d => rdPlace d c.curRow).getD (0, 0, 0) = p
    obtain ⟨z, y, x⟩ := p
    refine Keeps.trans (keeps_setFlds _ s (fun e he => ?_) fun _ _ _ => rfl) (reg _ 0xC _)
    simp only [List.mem_cons, List.not_mem_nil, or_false] at he
    rcases he with rfl | rfl | rfl | rfl | rfl | rfl | rfl | rfl <;> exact reelFld_reelR _ _ _ _

theorem keeps_syncReels (s : State) : Keeps reelFld offRegs s (syncReels s) := .foldl _ s fun e _ s => keeps_syncReel e.1 s

/-! ### QUIESCE_SET -/

/-- A host register's field keeps its value where the ports, the cameras and the reel channels alone are written. -/
theorem hostFld_apart {f : Fld} (h : f.reg < 0x100) (h18 : f.reg ≠ 0x18) :
    (∀ g, portFld g → f.Apart g) ∧ (∀ g, limitedFld g → f.Apart g) ∧ ∀ g, reelFld g → f.Apart g := by
  refine ⟨fun g hg => .inl ?_, fun g hg => .inl ?_, fun g hg => .inl ?_⟩
  · rcases hg with e | e
    · rw [e]; exact h18
    · simp only [C_eq] at e; omega
  · simp only [limitedFld, C_eq] at hg; omega
  · simp only [reelFld, C_eq] at hg; omega

theorem fld_quiesceStart {f : Fld} (hf : f.hi < 32) (h : f.reg < 0x100) (h18 : f.reg ≠ 0x18) (s : State) : (quiesceStart s).fld f = s.fld f := by
  obtain ⟨hp, hl, hr⟩ := hostFld_apart h h18
  rw [quiesceStart, (keeps_syncReels _).fld f hf hr, (pinsFall_cameraQuiesce _).1.keeps.fld f hf hl, (moves_peerQuiesce s).keeps.fld f hf hp]

/-- What a start of a quiesce leaves. -/
theorem quiesceStart_spec (s : State) : (quiesceStart s).mem = s.mem ∧ (∀ k < 2, (illAt (quiesceStart s) k).high = false)
    ∧ ∀ n < 4, s.fld (fLkState n) = 2 → ∀ p, (quiesceStart s).peer.ports[n]? = some p → p.quiescing = true := by
  have hp := moves_peerQuiesce s
  have hq := fun n hn h => portQuiesces_peerQuiesce (n := n) hn (s := s) h
  rw [quiesceStart]
  generalize peerQuiesce s = x at hp hq
  obtain ⟨hc, hlow⟩ := pinsFall_cameraQuiesce x
  generalize cameraQuiesce x = y at hc hlow
  have hr := (keeps_syncReels y).view
  generalize syncReels y = z at hr
  have hcam : z.cam = y.cam := (congrArg State.cam hr :)
  have hpeer : z.peer = x.peer := (congrArg State.peer hr :).trans hc.peer
  refine ⟨?_, fun k hk => ?_, fun n hn h p hp => ?_⟩
  · exact (congrArg State.mem hr :).trans (hc.mem.trans (congrArg State.mem hp.keeps.view :))
  · rw [illAt, hcam]; exact hlow k hk
  · rw [hpeer] at hp
    have := hq n hn h
    rw [portQuiesces, hp] at this
    exact Bool.eq_true_of_not_eq_false fun e => this (congrArg some e)

theorem ends_quiesceSet {s : State} (hi : interior s = true) (hq : s.flag fQuiesce = false) :
    Ends .quiesceSet s fun u => u.flag fQuiesce = true ∧ u.flag fQuiesced = s.flag fQuiesced ∧ (∀ k < 2, (illAt u k).high = false)
      ∧ (∀ n < 4, s.fld (fLkState n) = 2 → ∀ p, u.peer.ports[n]? = some p → p.quiescing = true) ∧ u.mem = s.mem := by
  have hx : exec .quiesceSet s = done (quiesceStart (s.setFld fQuiesce 1)) := by
    change execQuiesceSet s = _
    rw [execQuiesceSet, onlyIf, if_pos hi, quiesceSet, if_neg (by rw [hq]; decide)]
  obtain ⟨hmem, hlow, hports⟩ := quiesceStart_spec (s.setFld fQuiesce 1)
  refine ends_of_done hx ⟨?_, ?_, hlow, fun n hn h => hports n hn ?_, hmem⟩
  · rw [flag_refresh _ _ (by decide), State.flag, fld_quiesceStart (by decide) (by decide) (by decide), ← State.flag]
    exact State.flag_setFld_one _ _ _ (by decide)
  · rw [flag_refresh _ _ (by decide), State.flag, fld_quiesceStart (by decide) (by decide) (by decide), ← State.flag]
    exact State.flag_setFld_of_ne _ _ _ _ (by decide)
  · rw [← h]
    exact State.fld_setFld_of_apart (by simp only [fLkState]; omega) (.inl (by change 0x9C ≠ 0x0C; decide))

/-! ### QUIESCE_COMPLETE -/

/-- The test of Table 4-11 over the whole device. -/
theorem quiet_of_quiet {s : State} (h : Quiet s) : quiet s = true := by
  obtain ⟨hl, hp, hc, ht, hr⟩ := h
  simp only [quiet, Bool.and_eq_true, List.all_eq_true, Bool.or_eq_true, decide_eq_true_eq, Bool.not_eq_true', Option.isNone_iff_eq_none]
  refine ⟨⟨⟨⟨fun n hn => hl n ?_, fun n hn => hp n ?_⟩, hc⟩, ht⟩, fun ch _ => ?_⟩
  · have := (mem_numsFrom 0 4 n).mp hn; omega
  · have := (mem_numsFrom 0 4 n).mp hn; omega
  · rw [chainOf, hr]; rfl

/-- Nothing is left to settle. -/
theorem quiesceSettle_of_quiet {s : State} (h : Quiet s) : quiesceSettle s = s := by
  obtain ⟨hl, -, -, -, hr⟩ := h
  have down : ∀ n < 4, s.fld (fLkState n) ≠ 2 := fun n hn => by rcases hl n hn with e | e <;> rw [e] <;> decide
  rw [quiesceSettle, peerQuiesce_of_down down, peerQuiesceSettle_of_down down, syncReels, hr]
  rfl

theorem exec_quiesceComplete {s : State} (hi : interior s = true) (hq : s.flag fQuiesce = true) (hd : s.flag fQuiesced = false) :
    exec .quiesceComplete s = done (if quiet (quiesceSettle s) then audioQuiet ((quiesceSettle s).setFld fQuiesced 1) else quiesceSettle s) := by
  change execQuiesceComplete s = _
  rw [execQuiesceComplete, onlyIf, if_pos (by rw [hi, hq, hd]; rfl)]

theorem ends_quiesceComplete_quiet {s : State} (hi : interior s = true) (hq : s.flag fQuiesce = true) (hd : s.flag fQuiesced = false) (h : Quiet s) :
    Ends .quiesceComplete s fun u => u.flag fQuiesced = true ∧ u.aud = { s.aud with dacs := [], tdms := [] } ∧ RegsKept s u [0x08] := by
  have hx := exec_quiesceComplete hi hq hd
  rw [quiesceSettle_of_quiet h, quiet_of_quiet h, if_pos rfl] at hx
  refine ends_of_done hx ⟨?_, rfl, regsKept_refresh fun r hr => ?_⟩
  · rw [flag_refresh _ _ (by decide)]
    exact State.flag_setFld_one s _ _ (by decide)
  · exact State.reg_setFld_of_ne (s := s) (f := fQuiesced) (r := r) fun e => hr (e ▸ List.mem_cons_self)

/-- A settling that has not ended shows nothing of it. -/
theorem quiesceSettle_spec (s : State) : (quiesceSettle s).touch = s.touch ∧ (∀ f : Fld, f.hi < 32 → f.reg < C 0x90000 → f.reg ≠ 0x18 → f.reg ≠ 0x9C →
    (quiesceSettle s).fld f = s.fld f) := by
  have hp := moves_peerQuiesce s
  rw [quiesceSettle]
  generalize peerQuiesce s = x at hp
  have hs := moves_peerQuiesceSettle x
  generalize peerQuiesceSettle x = y at hs
  have hr := keeps_syncReels y
  generalize syncReels y = z at hr
  refine ⟨?_, fun f hf hlt h18 h9 => ?_⟩
  · exact (congrArg State.touch hr.view :).trans ((congrArg State.touch hs.keeps.view :).trans (congrArg State.touch hp.keeps.view :))
  · have port : ∀ g, portFld g → f.Apart g := fun g hg => .inl (by
      rcases hg with e | e
      · rw [e]; exact h18
      · exact fun h => absurd (h ▸ hlt) (Nat.not_lt_of_le e))
    have links : ∀ g, linksFld g → f.Apart g := fun g hg => hg.elim (port g) fun e => .inl (by rw [e]; exact h9)
    have reel : ∀ g, reelFld g → f.Apart g := fun g hg => .inl (by simp only [reelFld, C_eq] at hg hlt; omega)
    rw [hr.fld f hf reel, hs.keeps.fld f hf links, hp.keeps.fld f hf port]

theorem ends_quiesceComplete_busy {s : State} (hi : interior s = true) (hq : s.flag fQuiesce = true)
    (h : (∃ n < 4, s.flag (fPipeActive n) = true) ∨ s.touch.scanning = true) :
    Ends .quiesceComplete s fun u => u.flag fQuiesced = s.flag fQuiesced ∧ u.flag fQuiesce = true := by
  by_cases hd : s.flag fQuiesced = true
  · refine ends_of_done (x := s) ?_ ⟨flag_refresh _ _ (by decide), (flag_refresh _ _ (by decide)).trans hq⟩
    change execQuiesceComplete s = _
    rw [execQuiesceComplete, onlyIf, if_neg (by rw [hd]; simp)]
  · obtain ⟨ht, hfld⟩ := quiesceSettle_spec s
    have hflag : ∀ f : Fld, f.hi < 32 → f.reg < C 0x90000 → f.reg ≠ 0x18 → f.reg ≠ 0x9C → (quiesceSettle s).flag f = s.flag f :=
      fun f h1 h2 h3 h4 => by rw [State.flag, State.flag, hfld f h1 h2 h3 h4]
    have hnot : quiet (quiesceSettle s) = false := by
      rw [Bool.eq_false_iff, ne_eq, quiet]
      simp only [Bool.and_eq_true, List.all_eq_true, Bool.not_eq_true']
      rintro ⟨⟨⟨⟨-, hp⟩, -⟩, hs⟩, -⟩
      rcases h with ⟨n, hn, ha⟩ | ha
      · have := hp n ((mem_numsFrom 0 4 n).mpr ⟨Nat.zero_le n, by omega⟩)
        rw [hflag _ (by simp only [fPipeActive]; omega) (by simp only [fPipeActive, pipeR, C_eq]; omega)
          (by simp only [fPipeActive, pipeR, C_eq]; omega) (by simp only [fPipeActive, pipeR, C_eq]; omega), ha] at this
        exact absurd this (by decide)
      · rw [ht, ha] at hs
        exact absurd hs (by decide)
    have hx := exec_quiesceComplete hi hq (Bool.eq_false_iff.mpr hd)
    rw [hnot, if_neg (by decide)] at hx
    exact ends_of_done hx ⟨(flag_refresh _ _ (by decide)).trans (hflag _ (by decide) (by decide) (by decide) (by decide)),
      (flag_refresh _ _ (by decide)).trans ((hflag _ (by decide) (by decide) (by decide) (by decide)).trans hq)⟩

/-! ### QUIESCE_CLEAR -/

theorem ends_quiesceClear {s : State} (hi : interior s = true) (hq : s.flag fQuiesce = true) (he : s.core.entryQuiesce = false) :
    Ends .quiesceClear s fun u => u.flag fQuiesce = false ∧ u.flag fQuiesced = false
      ∧ ∀ n < 4, s.fld (fLkState n) = 3 → (peerAt s n).quiescing = true → u.fld (fLkState n) = 2 ∧ (peerAt u n).quiescing = false := by
  have hx : exec .quiesceClear s = done (syncReels (audioResume (cameraResume (peerUnquiesce (s.setFlds [(fQuiesce, 0), (fQuiesced, 0)]))))) := by
    change execQuiesceClear s = _
    rw [execQuiesceClear, onlyIf, if_pos hi, quiesceClear, hq, if_neg (by decide)]
    exact congrArg done (if_neg (by change ¬ s.core.entryQuiesce = true; rw [he]; decide))
  have clear : ∀ f ∈ [fQuiesce, fQuiesced], (s.setFlds [(fQuiesce, 0), (fQuiesced, 0)]).flag f = false := fun f hf => by
    have ha : ∀ f ∈ [fQuiesce, fQuiesced], f.hi < 32 ∧ ∀ g ∈ [fQuiesce, fQuiesced], g = f ∨ f.Apart g := by unfold Fld.Apart; decide
    exact State.flag_setFlds_zero [fQuiesce, fQuiesced] s (ha f hf).1 (.inl hf) (ha f hf).2
  have link : ∀ n < 4, s.fld (fLkState n) = 3 → (peerAt s n).quiescing = true → LinkIs n 3 true (s.setFlds [(fQuiesce, 0), (fQuiesced, 0)]) :=
    fun n hn h3 hb => by
      refine linkIs_of_eq ?_ (portQuiesces_of_peer_eq (peer_setFlds _ s) n) ⟨h3, hb⟩
      refine State.fld_setFlds_of_apart _ _ (by simp only [fLkState]; omega) fun e he => .inl ?_
      simp only [List.mem_cons, List.not_mem_nil, or_false] at he
      rcases he with rfl | rfl
      · change 0x9C ≠ 0x0C; decide
      · change 0x9C ≠ 0x08; decide
  generalize s.setFlds [(fQuiesce, 0), (fQuiesced, 0)] = x at hx clear link
  have hu := moves_peerUnquiesce x
  have hlink := fun n hn h3 hb => linkIs_peerUnquiesce (n := n) hn (link n hn h3 hb)
  generalize peerUnquiesce x = y at hx hu hlink
  have hr := keeps_syncReels (audioResume (cameraResume y))
  generalize syncReels (audioResume (cameraResume y)) = z at hx hr
  have hzy : ∀ f : Fld, f.hi < 32 → f.reg < 0x100 → z.fld f = y.fld f := fun f hf hlt =>
    hr.fld f hf fun g hg => .inl (by simp only [reelFld, C_eq] at hg; omega)
  have flags : ∀ f ∈ [fQuiesce, fQuiesced], (refresh z).flag f = false := fun f hf => by
    have ha : ∀ f ∈ [fQuiesce, fQuiesced], f.hi < 32 ∧ f.reg < 0x100 ∧ f.reg ≠ 0x18 ∧ f.reg ≠ 0x9C := by decide
    obtain ⟨h1, h2, h3, h4⟩ := ha f hf
    have hyx := hu.keeps.fld f h1 fun g hg => hg.elim ((hostFld_apart h2 h3).1 g) fun e => .inl (by rw [e]; exact h4)
    rw [flag_refresh _ _ h3, State.flag, hzy f h1 h2, hyx]
    exact clear f hf
  refine ends_of_done hx ⟨flags _ (by decide), flags _ (by decide), fun n hn h3 hb => ?_⟩
  have hz : z.peer = y.peer := (congrArg State.peer hr.view :)
  have h9 : (fLkState n).reg = 0x9C := rfl
  refine linkIs_of_eq (t := refresh z) ?_ (portQuiesces_of_peer_eq hz n) (hlink n hn h3 hb)
  rw [fld_refresh _ _ (by rw [h9]; decide), hzy _ (by simp only [fLkState]; omega) (by rw [h9]; decide)]

/-! ### The pins -/

theorem ends_rmAck {s : State} (hi : interior s = true) {on : Bool} (h : on = false ∨ s.flag fQuiesced = true) :
    Ends (.rmAck on) s fun u => u.flag fRmAck = on ∧ u.core = { s.core with rmack := on } ∧ RegsKept s u [0x0C] := by
  have hx : exec (.rmAck on) s = done { (s.setFlag fRmAck on) with core := { s.core with rmack := on } } := by
    change execRmAck on s = _
    rw [execRmAck, onlyIf, if_pos hi, rmAckWrite, if_neg (by rcases h with h | h <;> simp only [h] <;> simp)]
  refine ends_of_done hx ⟨?_, rfl, regsKept_refresh fun r hr => ?_⟩
  · rw [flag_refresh _ _ (by decide)]
    exact State.flag_setFlag s _ _ on (by decide)
  · exact State.reg_setFld_of_ne (s := s) (f := fRmAck) (r := r) fun e => hr (e ▸ List.mem_cons_self)

/-- A change of RMREQ#, logged and shown. -/
theorem ends_rmreqAccepted {s : State} (hi : interior s = true) (b : Bool) (hr : Room s 0x005) :
    Ends (.rmreqAccepted b) s fun u => u.flag fRmreq = b ∧ Logs s u 7 0x005 0 0 (if b then 1 else 0)
      ∧ Rings s u (if b then [15] else []) ∧ RegsKept s u [0x08, 0x18] := by
  have hlog := logEvent_log_of_room hi (by decide : 7 ∉ [1, 2, 3]) hr 0 0 (if b then 1 else 0)
  have hregs : (logEvent 7 0x005 0 0 (if b then 1 else 0) s).regs = s.regs := by rw [logEvent_of_room hi (by decide) hr]
  obtain ⟨-, hp, hf, -⟩ := (interior_iff s).mp hi
  have hx : exec (.rmreqAccepted b) s = done (rmreqSet b (logEvent 7 0x005 0 0 (if b then 1 else 0) s)) := by
    change execRmreqAccepted b s = _
    rw [execRmreqAccepted, onlyIf, hp, if_pos (by decide)]
    exact congrArg done (if_neg (by rw [State.flag, State.fld_of_regs_eq hregs, ← State.flag, hf]; decide))
  generalize logEvent 7 0x005 0 0 (if b then 1 else 0) s = x at hx hlog hregs
  have hxr : ∀ r, r ≠ 0x08 → (x.setFlag fRmreq b).reg r = s.reg r := fun r h => by
    rw [State.setFlag, State.reg_setFld_of_ne (Ne.symm h), State.reg_of_regs_eq hregs]
  have hmark : (x.setFlag fRmreq b).flag fRmreq = b := State.flag_setFlag x _ _ b (by decide)
  have hl : (x.setFlag fRmreq b).log = x.log := rfl
  have hset : rmreqSet b x = if b then raiseInt iRmreq (x.setFlag fRmreq b) else x.setFlag fRmreq b := rfl
  rw [hset] at hx
  generalize x.setFlag fRmreq b = y at hx hl hxr hmark
  cases b
  · rw [if_neg (by decide)] at hx
    refine ends_of_done hx ⟨(flag_refresh _ _ (by decide)).trans hmark, fun h => hl.trans (hlog h), rings_refresh (hxr 0x18 (by decide)),
      regsKept_refresh fun r h => ?_⟩
    simp only [List.mem_cons, List.not_mem_nil, or_false, not_or] at h
    exact hxr r h.1
  · rw [if_pos rfl] at hx
    refine ends_of_done hx ⟨?_, fun h => hl.trans (hlog h), rings_refresh ?_, regsKept_refresh fun r h => ?_⟩
    · rw [flag_refresh _ _ (by decide), raiseInt_eq, State.flag_setReg_of_ne _ _ _ _ (by decide), hmark]
    · rw [reg_raiseInt _ _ (by decide), hxr 0x18 (by decide)]
      rfl
    · simp only [List.mem_cons, List.not_mem_nil, or_false, not_or] at h
      rw [raiseInt_eq, State.reg_setReg, if_neg (Ne.symm h.2), hxr r h.1]

/-! ### PRSNTn# -/

theorem lkPresent_tryTrain (m n : Nat) (hn : n < 4) (s : State) : (tryTrain m s).flag (fLkPresent n) = s.flag (fLkPresent n) := by
  unfold tryTrain
  extract_lets s1
  have one : ∀ m s, (trainStart m s).flag (fLkPresent n) = s.flag (fLkPresent n) := fun m s =>
    (moves_trainStart m s).keeps.flag (by simp only [fLkPresent]; omega) (lkPresent_apart_link m n)
  split
  · split
    · rw [one, one]
    · exact one m s
  · rfl

theorem lkPresent_presentChange {n : Nat} (hn : n < 4) (b : Bool) (s : State) : (presentChange n b s).flag (fLkPresent n) = b := by
  unfold presentChange
  extract_lets s1
  have h1 : s1.flag (fLkPresent n) = b := State.flag_setFlag s 0x9C (8 * n + 7) b (by omega)
  split
  · exact h1
  split
  · rw [lkPresent_tryTrain n n hn, h1]
  · exact ((moves_down n 5 s1).keeps.flag (by simp only [fLkPresent]; omega) (lkPresent_apart_link n n)).trans h1

/-- A link whose peer has gone is down. -/
theorem lkState_presentChange_gone {n : Nat} (hn : n < 4) {s : State} (hl : s.flag (fLcLoop n) = false) :
    (presentChange n false s).fld (fLkState n) = 0 := by
  unfold presentChange
  extract_lets s1
  have h1 : s1.flag (fLcLoop n) = false := (State.flag_setFld_of_ne s _ _ _ (by change 0x9C ≠ 0xA0; decide)).trans hl
  rw [if_neg (by rw [h1]; decide), if_neg (by decide)]
  exact lkState_down hn 5 s1

/-- Training that may not start leaves the link alone. -/
theorem tryTrain_of_up {n : Nat} {s : State} (h : s.fld (fLkState n) ≠ 0) : tryTrain n s = s := by
  rw [tryTrain]
  exact if_neg (by simp [h])

/-- An enabled port whose peer is present trains. -/
theorem lkState_tryTrain {n : Nat} (hn : n < 4) {s : State} (h0 : s.fld (fLkState n) = 0) (he : s.flag (fLcEnable n) = true)
    (hq : quiescing s = false) (hl : s.flag (fLcLoop n) = false) (hp : s.flag (fLkPresent n) = true) : (tryTrain n s).fld (fLkState n) = 1 := by
  have hc : canTrain s n = true := by rw [canTrain, he, hq, hl, if_neg (by decide), hp]; rfl
  have h1 : (trainStart n s).flag (fLcLoop n) = false := by
    refine ((moves_trainStart n s).keeps.flag (by simp only [fLcLoop]; omega) fun g hg => .inl ?_).trans hl
    have ha : (fLcLoop n).reg = 0xA0 := rfl
    rcases linkFld_reg hg with e | e | e
    · rw [e, ha]; decide
    · rw [e, ha]; decide
    · simp only [C_eq] at e; omega
  rw [tryTrain, h0, hc, if_pos (by decide)]
  simp only [h1, Bool.false_and, Bool.false_eq_true, if_false]
  exact lkState_trainStart hn s

theorem lkState_presentChange_present {n : Nat} (hn : n < 4) {s : State} (hl : s.flag (fLcLoop n) = false) :
    (s.fld (fLkState n) = 0 → s.flag (fLcEnable n) = true → quiescing s = false → (presentChange n true s).fld (fLkState n) = 1)
      ∧ (s.fld (fLkState n) ≠ 0 → (presentChange n true s).fld (fLkState n) = s.fld (fLkState n)) := by
  unfold presentChange
  extract_lets s1
  have ne : ∀ f : Fld, f.reg ≠ 0x9C → s1.flag f = s.flag f := fun f h => State.flag_setFld_of_ne s _ _ _ (Ne.symm h)
  have hl1 : s1.flag (fLcLoop n) = false := (ne _ (by change 0xA0 ≠ 0x9C; decide)).trans hl
  have hs1 : s1.fld (fLkState n) = s.fld (fLkState n) := State.fld_setFld_of_apart (by simp only [fLkState]; omega)
    (.inr (by simp only [fLkState, fLkPresent]; omega))
  rw [if_neg (by rw [hl1]; decide), if_pos rfl]
  refine ⟨fun h0 he hq => ?_, fun h0 => ?_⟩
  · refine lkState_tryTrain hn (hs1.trans h0) ((ne _ (by change 0xA0 ≠ 0x9C; decide)).trans he) ?_ hl1
      (State.flag_setFlag s 0x9C (8 * n + 7) true (by omega))
    rw [quiescing, ne _ (by decide)]
    exact hq
  · rw [tryTrain_of_up (by rw [hs1]; exact h0), hs1]

/-- A wake event of the running device is shown in WAKE_STATUS and INT_STATUS alone. -/
theorem wakeEvent_spec {s : State} (hm : s.core.mclk = true) (bit : Nat) : (wakeEvent bit s).core.prsnt = s.core.prsnt
    ∧ ∀ f : Fld, f.reg ≠ 0x84 → f.reg ≠ 0x18 → (wakeEvent bit s).fld f = s.fld f := by
  have hd : ∀ x : State, x.core = s.core → inDoze x = false := fun x hx => by rw [inDoze, hx, hm, Bool.not_true, Bool.and_false]
  have h1 : ∀ f : Fld, f.reg ≠ 0x84 → f.reg ≠ 0x18 → (raiseInt iWake (s.setFld ⟨0x84, bit, bit⟩ 1)).fld f = s.fld f := fun f h84 h18 => by
    rw [raiseInt_eq, State.fld_setReg_of_ne _ _ _ _ (Ne.symm h18)]
    exact State.fld_setReg_of_ne _ _ _ _ (Ne.symm h84)
  have hc : (raiseInt iWake (s.setFld ⟨0x84, bit, bit⟩ 1)).core = s.core := rfl
  unfold wakeEvent
  extract_lets x
  have hx : x.core = s.core := hc
  have hxf : ∀ f : Fld, f.reg ≠ 0x84 → f.reg ≠ 0x18 → x.fld f = s.fld f := h1
  clear_value x
  rw [hd x hx, if_neg (by decide)]
  have hp : x.core.prsnt = s.core.prsnt := congrArg CoreSt.prsnt hx
  split
  · exact ⟨hp, hxf⟩
  · exact ⟨hp, hxf⟩

/-- What a change of presence leaves of a port that is not looped. -/
theorem presentChange_spec {n : Nat} (hn : n < 4) (b : Bool) {s : State} (hl : s.flag (fLcLoop n) = false) :
    (presentChange n b s).core = s.core ∧ (presentChange n b s).flag (fLkPresent n) = b
      ∧ (b = false → (presentChange n b s).fld (fLkState n) = 0)
      ∧ (b = true → s.fld (fLkState n) = 0 → s.flag (fLcEnable n) = true → s.flag fQuiesce = false → s.core.entryQuiesce = false →
        (presentChange n b s).fld (fLkState n) = 1)
      ∧ (b = true → s.fld (fLkState n) ≠ 0 → (presentChange n b s).fld (fLkState n) = s.fld (fLkState n)) := by
  obtain ⟨htrain, hstay⟩ := lkState_presentChange_present hn hl
  refine ⟨(congrArg State.core (moves_presentChange n b s).keeps.view :), lkPresent_presentChange hn b s, fun h => ?_,
    fun h h0 he hq hc => ?_, fun h h0 => ?_⟩
  · rw [h]; exact lkState_presentChange_gone hn hl
  · rw [h]; exact htrain h0 he (by rw [quiescing, hq, hc]; rfl)
  · rw [h]; exact hstay h0

/-- A change of PRSNTn# of a port that is not looped. -/
theorem ends_prsntChange {s : State} (hi : interior s = true) (port : Fin 4) (b : Bool) (hl : s.flag (fLcLoop port.val) = false) :
    Ends (.prsntChange port b) s fun u => u.core.prsnt = setAt s.core.prsnt port.val b ∧ u.flag (fLkPresent port.val) = b
      ∧ (b = false → u.fld (fLkState port.val) = 0)
      ∧ (b = true → s.fld (fLkState port.val) = 0 → s.flag (fLcEnable port.val) = true → s.flag fQuiesce = false → s.core.entryQuiesce = false →
        u.fld (fLkState port.val) = 1)
      ∧ (b = true → s.fld (fLkState port.val) ≠ 0 → u.fld (fLkState port.val) = s.fld (fLkState port.val)) := by
  obtain ⟨n, hn⟩ := port
  obtain ⟨hm, hp, -⟩ := (interior_iff s).mp hi
  have hx : exec (.prsntChange ⟨n, hn⟩ b) s = done (
      let y := presentChange n b { s with core := { s.core with prsnt := setAt s.core.prsnt n b } }
      if bitN (y.reg 0x80).toNat 1 && (inDoze y || y.core.entryCode = some 1#2) then wakeEvent 1 y else y) := by
    have hi' : interior { s with core := { s.core with prsnt := setAt s.core.prsnt n b } } = true := hi
    change execPrsntChange ⟨n, hn⟩ b s = _
    rw [execPrsntChange, onlyIf, hp, if_pos (by decide)]
    simp only [hi', if_true]
  obtain ⟨hcore, hpres, hgone, htrain, hstay⟩ :=
    presentChange_spec hn b (s := { s with core := { s.core with prsnt := setAt s.core.prsnt n b } }) hl
  generalize presentChange n b { s with core := { s.core with prsnt := setAt s.core.prsnt n b } } = y at hx hcore hpres hgone htrain hstay
  -- a wake event, where one is due, writes neither LINK_STATUS nor the pins
  obtain ⟨z, hz, hzc, hzf⟩ : ∃ z, exec (.prsntChange ⟨n, hn⟩ b) s = done z ∧ z.core.prsnt = y.core.prsnt
      ∧ ∀ f : Fld, f.reg = 0x9C → z.fld f = y.fld f := by
    dsimp only at hx
    split at hx
    · obtain ⟨hw, hwf⟩ := wakeEvent_spec (s := y) (by rw [hcore]; exact hm) 1
      exact ⟨_, hx, hw, fun f h => hwf f (by rw [h]; decide) (by rw [h]; decide)⟩
    · exact ⟨y, hx, rfl, fun _ _ => rfl⟩
  have hf : ∀ f : Fld, f.reg = 0x9C → (refresh z).fld f = y.fld f := fun f h => by rw [fld_refresh _ _ (by rw [h]; decide), hzf f h]
  refine ends_of_done hz ⟨?_, ?_, fun h => (hf _ rfl).trans (hgone h), fun h h0 he hq hc => (hf _ rfl).trans (htrain h h0 he hq hc),
    fun h h0 => (hf _ rfl).trans (hstay h h0)⟩
  · rw [refresh_core, hzc, hcore]
  · rw [State.flag, hf _ rfl, ← State.flag, hpres]

/-- Settles O4: each command of a quiesce is its steps at the four ports, the illuminators and the channels one after the other, and the pins
are fields of two registers. -/
theorem quiesceAndRemovalPins : Obligations.Quiesce_and_removal_pins := by
  unfold Obligations.Quiesce_and_removal_pins
  intro s hi
  refine ⟨ends_quiesceSet hi, fun hq => ?_, ends_quiesceComplete_quiet hi, ends_quiesceComplete_busy hi, ends_quiesceClear hi, fun hq => ?_,
    fun on h => ends_rmAck hi h, fun hd => ?_, ends_rmreqAccepted hi, ends_prsntChange hi⟩
  · exact idle_of_done (by change execQuiesceSet s = _; rw [execQuiesceSet, onlyIf, if_pos hi, quiesceSet, if_pos hq])
  · exact idle_of_done (by change execQuiesceClear s = _; rw [execQuiesceClear, onlyIf, if_pos hi, quiesceClear, hq, if_pos (by decide)])
  · exact idle_of_done (by change execRmAck true s = _; rw [execRmAck, onlyIf, if_pos hi, rmAckWrite, hd, if_pos (by decide)])

end Sys2Proof.Machine
end

section
/-! PROOFS. O1: the start-up sequencer (chapter 4). -/

namespace Sys2Proof.Machine

open Sys2Proof Sys2Proof.Safety Sys2Proof.Claims

/-! ### Phases CLOCK and SRAM_INIT -/

theorem mayLock_iff (s : State) : mayLock s = true ↔ s.fld fPhase = 0 ∧ s.core.porstLow = false ∧ s.core.railWait = false ∧ s.core.clockLost = none
    ∧ s.core.critical = false ∧ s.core.pwrreq = some 3#2 ∧ (s.flag fAonOnly = false ∨ s.boot.wake = true) := by
  simp only [mayLock, Bool.and_eq_true, Bool.or_eq_true, Bool.not_eq_true', decide_eq_true_eq, Option.isNone_iff_eq_none, and_assoc]

/-- The timebase at the lock: at a wake the time carried in DOZE. -/
def lockTime (s : State) : BitVec 64 := if s.boot.wake then s.core.carryC + BitVec.ofNat 64 s.core.carryA else s.core.timebase

theorem ends_pllLocked {s : State} (h : mayLock s = true) :
    Ends .pllLocked s fun u => u.fld fPhase = 1 ∧ u.core.mclk = true ∧ u.host.wait = false ∧ u.core.timebase = lockTime s ∧ u.mem = s.mem := by
  have hx : exec .pllLocked s = done (presenceSync { s.setFld fPhase 1 with
      core := { s.core with mclk := true, timebase := lockTime s }, host := { s.host with wait := false } }) := by
    change execPllLocked s = _
    rw [execPllLocked, onlyIf, if_pos h]
    rfl
  have hph : ({ s.setFld fPhase 1 with core := { s.core with mclk := true, timebase := lockTime s }, host := { s.host with wait := false } } : State).fld
      fPhase = 1 := State.fld_setFld s _ _ (by decide)
  have hm := moves_presenceSync { s.setFld fPhase 1 with
    core := { s.core with mclk := true, timebase := lockTime s }, host := { s.host with wait := false } }
  generalize presenceSync _ = z at hx hm
  have hcore : z.core = { s.core with mclk := true, timebase := lockTime s } := (congrArg State.core hm.keeps.view :)
  refine ends_of_done hx ⟨?_, congrArg CoreSt.mclk hcore, ?_, congrArg CoreSt.timebase hcore, (congrArg State.mem hm.keeps.view :)⟩
  · rw [fld_refresh _ _ (by decide), hm.keeps.fld _ (by decide) fun g hg => ?_, hph]
    exact hg.elim ((hostFld_apart (by decide) (by decide)).1 g) fun e => .inl (by rw [e]; decide)
  · exact (congrArg (fun x => x.host.wait) hm.keeps.view :)

theorem exec_sramInitDone {s : State} (hi : interior s = true) (hp : s.fld fPhase = 1) :
    exec .sramInitDone s = done (if s.boot.warm && !s.boot.wake then ringWrite (resetEntry (s.setFld fPhase 2)) (s.setFld fPhase 2) else s.setFld fPhase 2) := by
  change execSramInitDone s = _
  rw [execSramInitDone, onlyIf, if_pos (by rw [hi, hp]; rfl)]
  rfl

/-- A field of DEV_STATUS set, and nothing else. -/
theorem onlyRegs_setFld {s : State} {f : Fld} {v : Nat} {rs : List Nat} (h : f.reg ∈ rs) : OnlyRegs s (refresh (s.setFld f v)) rs := onlyRegs_setReg h

theorem fld_refresh_setFld (s : State) (f : Fld) {v : Nat} (hf : f.hi < 32) (h18 : f.reg ≠ 0x18) (hv : v < 2 ^ (f.hi + 1 - f.lo)) :
    (refresh (s.setFld f v)).fld f = v := by
  rw [fld_refresh _ _ h18, State.fld_setFld _ _ _ hf, Nat.mod_eq_of_lt hv]

theorem ends_sramInitDone_cold {s : State} (hi : interior s = true) (hp : s.fld fPhase = 1) (hw : s.boot.warm = false) :
    Ends .sramInitDone s fun u => u.fld fPhase = 2 ∧ OnlyRegs s u [0x08] := by
  have hx := exec_sramInitDone hi hp
  rw [hw, Bool.false_and, if_neg (by decide)] at hx
  exact ends_of_done hx ⟨fld_refresh_setFld s fPhase (by decide) (by decide) (by decide), onlyRegs_setFld (by decide)⟩

/-- An entry written to a ring with room, of a CLASS that is no error. -/
theorem ringWrite_of_room {e : LogEntry} {s : State} (h : undelivered s < 4096) (hc : e.cls ≠ 2 ∧ e.cls ≠ 3) :
    ringWrite e s = ({ s with log := { s.log with
      ring := Sparse.insert s.log.ring (s.fld fWriteSeq % 4096) e, count := satN 4096 (s.log.count + 1) } } : State).setFld fWriteSeq
        ((s.fld fWriteSeq + 1) % 65536) := by
  rw [ringWrite]
  dsimp only
  rw [if_neg (by simp [hc]), if_neg (by simpa using h)]

theorem ends_sramInitDone_warm {s : State} (hi : interior s = true) (hp : s.fld fPhase = 1) (hw : s.boot.warm = true) (hk : s.boot.wake = false)
    (hc : s.log.count < 4096) (hr : (s.fld fWriteSeq + 65536 - s.fld fReadSeq) % 65536 < 4096) :
    Ends .sramInitDone s fun u => u.fld fPhase = 2 ∧ u.fld fWriteSeq = (s.fld fWriteSeq + 1) % 65536
      ∧ Sparse.find u.log.ring (s.fld fWriteSeq % 4096) = some
          { cls := 7, ctx := 0, code := 0x001, src := 0, time := s.core.timebase.toNat % 2 ^ 48, arg := (s.reg 0x14).toNat }
      ∧ u.log.count = s.log.count + 1 ∧ RegsKept s u [0x08, 0x68] ∧ u.mem = s.mem := by
  have hx := exec_sramInitDone hi hp
  have hws : (s.setFld fPhase 2).fld fWriteSeq = s.fld fWriteSeq := State.fld_setReg_of_ne _ _ _ _ (by decide)
  have hrs : (s.setFld fPhase 2).fld fReadSeq = s.fld fReadSeq := State.fld_setReg_of_ne _ _ _ _ (by decide)
  have he : resetEntry (s.setFld fPhase 2) = { cls := 7, ctx := 0, code := 0x001, src := 0, time := s.core.timebase.toNat % 2 ^ 48, arg := (s.reg 0x14).toNat } := by
    rw [resetEntry, State.reg_setFld_of_ne (by decide)]
    rfl
  rw [hw, hk, if_pos (by decide), ringWrite_of_room (by rw [undelivered, hws, hrs]; exact hr) (by rw [he]; exact ⟨(by decide : 7 ≠ 2), (by decide : 7 ≠ 3)⟩), hws, he] at hx
  have hreg : ∀ r, r ≠ 0x08 → (s.setFld fPhase 2).reg r = s.reg r := fun r h => State.reg_setFld_of_ne (Ne.symm h)
  have hph : (s.setFld fPhase 2).fld fPhase = 2 := State.fld_setFld s _ _ (by decide)
  have hlog : (s.setFld fPhase 2).log = s.log := rfl
  have hmem : (s.setFld fPhase 2).mem = s.mem := rfl
  generalize s.setFld fPhase 2 = x at hx hreg hph hlog hmem
  refine ends_of_done hx ⟨?_, ?_, ?_, ?_, regsKept_refresh fun r h => ?_, hmem⟩
  · rw [fld_refresh _ _ (by decide)]
    exact (State.fld_setReg_of_ne _ _ _ _ (by decide)).trans hph
  · rw [fld_refresh _ _ (by decide), State.fld_setFld _ _ _ (by decide)]
    exact Nat.mod_mod _ _
  · change Sparse.find (Sparse.insert x.log.ring _ _) _ = _
    rw [Sparse.find_insert, if_pos rfl]
  · change satN 4096 (x.log.count + 1) = _
    rw [hlog, satN, if_neg (by omega)]
  · simp only [List.mem_cons, List.not_mem_nil, or_false, not_or] at h
    exact (State.reg_setFld_of_ne (f := fWriteSeq) (r := r) (Ne.symm h.2)).trans (hreg r h.1)

/-! ### Failure -/

/-- BOOT_STATUS and PHASE of a failure. -/
def failFlds (phase reason entry channel : Nat) : List (Fld × Nat) :=
  [(⟨C 0x100, 31, 28⟩, phase), (⟨C 0x100, 27, 24⟩, reason), (⟨C 0x100, 23, 12⟩, entry), (⟨C 0x100, 11, 8⟩, channel), (fPhase, 15)]

/-- The state once the event is logged. -/
theorem bootFail_eq (phase reason entry channel : Nat) (s : State) : bootFail phase reason entry channel s =
    raiseInt iErrUncorr (logEvent 7 0x021 0 0 ((s.setFlds (failFlds phase reason entry channel)).reg (C 0x100)).toNat
      (s.setFlds (failFlds phase reason entry channel))) := rfl

/-- Each field of a list of disjoint ones reads what was set. -/
theorem State.fld_setFlds_mem (l : List (Fld × Nat)) (s : State) {f : Fld} {v : Nat} (h : f.hi < 32) (hm : (f, v) ∈ l)
    (hl : l.Pairwise fun a b => a.1.Apart b.1) : (s.setFlds l).fld f = v % 2 ^ (f.hi + 1 - f.lo) := by
  induction l generalizing s with
  | nil => exact absurd hm List.not_mem_nil
  | cons e l ih =>
    rw [List.pairwise_cons] at hl
    rw [State.setFlds]
    rcases List.mem_cons.mp hm with rfl | hm
    · rw [State.fld_setFlds_of_apart _ _ h hl.1, State.fld_setFld _ _ _ h]
    · exact ih _ hm hl.2

theorem failFlds_pairwise (phase reason entry channel : Nat) : (failFlds phase reason entry channel).Pairwise fun a b => a.1.Apart b.1 := by
  have h : ([⟨C 0x100, 31, 28⟩, ⟨C 0x100, 27, 24⟩, ⟨C 0x100, 23, 12⟩, ⟨C 0x100, 11, 8⟩, fPhase] : List Fld).Pairwise Fld.Apart := by
    unfold Fld.Apart; decide
  exact List.pairwise_map.mp (h : ((failFlds phase reason entry channel).map Prod.fst).Pairwise Fld.Apart)

theorem logFld_reg_ne {g : Fld} (h : logFld g) : g.reg ≠ C 0x100 ∧ g.reg ≠ 0x08 := by
  rcases portFld_of_logFld h with e | e
  · rw [e]; decide
  · simp only [C_eq] at e ⊢; omega

/-- A phase that fails leaves BOOT_STATUS, its event and ERR_UNCORR; t and s have the same log and clock. -/
theorem phaseFailed_bootFail {s t : State} (hi : interior t = true) (hlog : t.log = s.log) (ht : t.core.timebase = s.core.timebase)
    {phase reason entry channel : Nat} (hp : phase < 16) (hr : reason < 16) (hc : channel < 16) :
    PhaseFailed s (refresh (bootFail phase reason entry channel t)) phase reason entry channel := by
  have hf : ∀ f v, (f, v) ∈ failFlds phase reason entry channel → f.hi < 32 → (t.setFlds (failFlds phase reason entry channel)).fld f
      = v % 2 ^ (f.hi + 1 - f.lo) := fun f v hm h => State.fld_setFlds_mem _ t h hm (failFlds_pairwise _ _ _ _)
  have h1 := hf ⟨C 0x100, 31, 28⟩ phase (by simp [failFlds]) (by decide)
  have h2 := hf ⟨C 0x100, 27, 24⟩ reason (by simp [failFlds]) (by decide)
  have h3 := hf ⟨C 0x100, 23, 12⟩ entry (by simp [failFlds]) (by decide)
  have h4 := hf ⟨C 0x100, 11, 8⟩ channel (by simp [failFlds]) (by decide)
  have h5 := hf fPhase 15 (by simp [failFlds]) (by decide)
  have hix : interior (t.setFlds (failFlds phase reason entry channel)) = true := by
    obtain ⟨a1, a2, a3, a4, a5⟩ := (interior_iff t).mp hi
    refine (interior_iff _).mpr ⟨a1, a2, ?_, a4, a5⟩
    rw [State.flag, State.fld_setFlds_of_apart _ _ (by decide) ?_, ← State.flag, a3]
    have : ∀ f ∈ ([⟨C 0x100, 31, 28⟩, ⟨C 0x100, 27, 24⟩, ⟨C 0x100, 23, 12⟩, ⟨C 0x100, 11, 8⟩, fPhase] : List Fld), fFrozen.Apart f := by
      unfold Fld.Apart; decide
    intro e he
    exact this e.1 (List.mem_map_of_mem (f := Prod.fst) he)
  have hxl : (t.setFlds (failFlds phase reason entry channel)).log = s.log := hlog
  have hxt : (t.setFlds (failFlds phase reason entry channel)).core.timebase = s.core.timebase := ht
  rw [bootFail_eq]
  generalize t.setFlds (failFlds phase reason entry channel) = x at h1 h2 h3 h4 h5 hix hxl hxt
  have hk := (keeps_logEvent 7 0x021 0 0 (x.reg (C 0x100)).toNat x).trans
    (keeps_raiseInt iErrUncorr (logEvent 7 0x021 0 0 (x.reg (C 0x100)).toNat x) (fun _ h => .inl h) fun _ _ _ => rfl)
  have keep : ∀ f : Fld, f.hi < 32 → f.reg = C 0x100 ∨ f.reg = 0x08 →
      (refresh (raiseInt iErrUncorr (logEvent 7 0x021 0 0 (x.reg (C 0x100)).toNat x))).fld f = x.fld f := fun f hhi hf => by
    rw [fld_refresh _ _ (by rcases hf with h | h <;> rw [h] <;> decide), hk.fld f hhi fun g hg => .inl fun e => ?_]
    exact hf.elim (fun h => (logFld_reg_ne hg).1 (e ▸ h)) fun h => (logFld_reg_ne hg).2 (e ▸ h)
  have hreg : (refresh (raiseInt iErrUncorr (logEvent 7 0x021 0 0 (x.reg (C 0x100)).toNat x))).reg (C 0x100) = x.reg (C 0x100) := by
    rw [reg_refresh_of_ne _ (by decide), hk.reg (C 0x100) fun g hg => (logFld_reg_ne hg).1]
  refine ⟨?_, ?_, ?_, ?_, ?_, ?_, ?_⟩
  · rw [keep _ (by decide) (.inl rfl), h1]; exact Nat.mod_eq_of_lt hp
  · rw [keep _ (by decide) (.inl rfl), h2]; exact Nat.mod_eq_of_lt hr
  · rw [keep _ (by decide) (.inl rfl), h3]; rfl
  · rw [keep _ (by decide) (.inl rfl), h4]; exact Nat.mod_eq_of_lt hc
  · rw [keep _ (by decide) (.inr rfl), h5]; rfl
  · exact intSet_refresh (State.flag_setFld_one _ _ _ (by decide))
  · rw [hreg]
    intro h
    have hroom : Room x 0x021 := by rw [Room, hxl]; exact h
    rw [refresh_log, raiseInt_log, logEvent_of_room hix (by decide) hroom, hxl, hxt]
    rfl

/-- What a failure writes. -/
def failFld (f : Fld) : Prop := logFld f ∨ f.reg = C 0x100 ∨ f = fPhase

theorem keeps_bootFail (phase reason entry channel : Nat) (s : State) : Keeps failFld offLog s (bootFail phase reason entry channel s) := by
  rw [bootFail_eq]
  have h1 : Keeps failFld offLog s (s.setFlds (failFlds phase reason entry channel)) := keeps_setFlds _ s (fun e he => by
    simp only [failFlds, List.mem_cons, List.not_mem_nil, or_false] at he
    rcases he with rfl | rfl | rfl | rfl | rfl
    · exact .inr (.inl rfl)
    · exact .inr (.inl rfl)
    · exact .inr (.inl rfl)
    · exact .inr (.inl rfl)
    · exact .inr (.inr rfl)) fun _ _ _ => rfl
  generalize s.setFlds (failFlds phase reason entry channel) = x at h1
  exact h1.trans (((keeps_logEvent _ _ _ _ _ x).mono fun _ => .inl).trans (keeps_raiseInt _ _ (fun _ h => .inl (.inl h)) fun _ _ _ => rfl))

/-! ### Phase HEADER -/

theorem headerReason_of_valid {b : List Byte} (hff : ∃ x ∈ b, x ≠ 0xFF#8) (hm : fieldAt b 0 4 = 0x464A3130) (hv : fieldAt b 4 2 = 1)
    (hc : fieldAt b 28 4 = crc32c (b.take 28)) (hl : headerListed (headerOf b) = true) : headerReason b = 0 := by
  obtain ⟨x, hx, hne⟩ := hff
  have ha : ¬ (b.all fun x => x = 0xFF#8) = true := fun h => hne (of_decide_eq_true (List.all_eq_true.mp h x hx))
  rw [headerReason, if_neg ha, hm, hv, hc, hl, if_neg (by decide), if_neg (fun h => h rfl), if_neg (by decide)]

/-- A header that is all ones has no magic number. -/
theorem magic_of_erased {b : List Byte} (hb : b ≠ []) (h : ∀ x ∈ b, x = 0xFF#8) : fieldAt b 0 4 ≠ 0x464A3130 := by
  obtain ⟨x, t, rfl⟩ := List.exists_cons_of_ne_nil hb
  have hx : x = 0xFF#8 := h x List.mem_cons_self
  have hf : fieldAt (x :: t) 0 4 = x.toNat + 256 * leNat (t.take 3) := rfl
  rw [hf, hx]
  change 255 + _ ≠ _
  omega

theorem headerReason_of_invalid {b : List Byte} (hb : b ≠ []) {reason : Nat} (h : ((∀ x ∈ b, x = 0xFF#8) ∧ reason = 4)
    ∨ ((∃ x ∈ b, x ≠ 0xFF#8) ∧ (fieldAt b 0 4 ≠ 0x464A3130 ∨ fieldAt b 4 2 ≠ 1) ∧ reason = 1)
    ∨ (fieldAt b 0 4 = 0x464A3130 ∧ fieldAt b 4 2 = 1 ∧ fieldAt b 28 4 ≠ crc32c (b.take 28) ∧ reason = 2)
    ∨ (fieldAt b 0 4 = 0x464A3130 ∧ fieldAt b 4 2 = 1 ∧ fieldAt b 28 4 = crc32c (b.take 28) ∧ headerListed (headerOf b) = false
        ∧ reason = 3)) : headerReason b = reason ∧ 0 < reason ∧ reason < 16 := by
  have all : ∀ P : Prop, (P → ¬ ∀ x ∈ b, x = 0xFF#8) → P → ¬ (b.all fun x => x = 0xFF#8) = true := fun P hP p h =>
    hP p fun x hx => of_decide_eq_true (List.all_eq_true.mp h x hx)
  rcases h with ⟨ha, rfl⟩ | ⟨hn, hf, rfl⟩ | ⟨hm, hv, hc, rfl⟩ | ⟨hm, hv, hc, hl, rfl⟩
  · refine ⟨?_, by decide, by decide⟩
    rw [headerReason, if_pos (List.all_eq_true.mpr fun x hx => decide_eq_true (ha x hx))]
  · refine ⟨?_, by decide, by decide⟩
    rw [headerReason, if_neg (all _ (fun ⟨x, hx, hne⟩ h => hne (h x hx)) hn), if_pos (by simpa using hf)]
  · refine ⟨?_, by decide, by decide⟩
    rw [headerReason, if_neg (all _ (fun hm h => magic_of_erased hb h hm) hm), hm, hv, if_neg (by decide), if_pos hc]
  · refine ⟨?_, by decide, by decide⟩
    rw [headerReason, if_neg (all _ (fun hm h => magic_of_erased hb h hm) hm), hm, hv, hc, hl, if_neg (by decide), if_neg (fun h => h rfl),
      if_pos (by decide)]

theorem bitsN_fieldAt (b : List Byte) (o : Nat) : bitsN (fieldAt b o 4) 15 8 = fieldAt b (o + 1) 1 := by
  rw [fieldAt, fieldAt, ← List.tail_drop]
  rcases b.drop o with _ | ⟨x, _ | ⟨y, t⟩⟩
  · rfl
  · have := x.isLt
    simp only [bitsN, leNat, List.take, List.tail]; omega
  · have := x.isLt
    have := y.isLt
    simp only [bitsN, leNat, List.take, List.tail]; omega

/-- What a valid header h sets; w: the start-up is warm. -/
def headerFlds (h : BootHdr) (w : Bool) : List (Fld × Nat) :=
  [(fTotalGib, dramTotal h.dramCfg), (⟨C 0xE0000, 12, 12⟩, bitsN h.dramCfg 16 16), (⟨C 0xE0000, 11, 8⟩, bitsN h.dramCfg 3 0),
    (fPhase, if w then 4 else 3)]

theorem headerFlds_pairwise (h : BootHdr) (w : Bool) : (headerFlds h w).Pairwise fun a b => a.1.Apart b.1 := by
  have hp : ([fTotalGib, ⟨C 0xE0000, 12, 12⟩, ⟨C 0xE0000, 11, 8⟩, fPhase] : List Fld).Pairwise Fld.Apart := by unfold Fld.Apart; decide
  exact List.pairwise_map.mp (hp : ((headerFlds h w).map Prod.fst).Pairwise Fld.Apart)

theorem headerFlds_reg (h : BootHdr) (w : Bool) : ∀ e ∈ headerFlds h w, e.1.reg ∈ [0x08, C 0xE0000] := by
  have hp : ∀ f ∈ ([fTotalGib, ⟨C 0xE0000, 12, 12⟩, ⟨C 0xE0000, 11, 8⟩, fPhase] : List Fld), f.reg ∈ [0x08, C 0xE0000] := by decide
  exact fun e he => hp e.1 (List.mem_map_of_mem (f := Prod.fst) he)

theorem exec_headerReadDone {s : State} (hi : interior s = true) (hp : s.fld fPhase = 2) {b : List Byte} (hb : b.length = 32) :
    exec (.headerReadDone b) s = done (if headerReason b ≠ 0 then bootFail 2 (headerReason b) 0 0 (reportTrim none (fusedTrims s))
      else { s.setFlds (headerFlds (headerOf b) s.boot.warm) with boot := { s.boot with hdr := some (headerOf b) } }) := by
  change execHeaderReadDone b s = _
  rw [execHeaderReadDone, onlyIf, if_pos (by rw [hi, hp]; rfl), List.take_of_length_le (Nat.le_of_eq hb)]
  rfl

/-- A change of the boot record leaves the registers. -/
theorem State.fld_setBoot (s : State) (x : BootSt) (f : Fld) : ({ s with boot := x } : State).fld f = s.fld f := State.fld_of_regs_eq rfl f

end Sys2Proof.Machine
end

section
/-! PROOFS. O1: the start-up sequencer from the header on (chapter 4). -/

namespace Sys2Proof.Machine

open Sys2Proof Sys2Proof.Safety Sys2Proof.Claims

theorem ends_headerReadDone_valid {s : State} (hi : interior s = true) (hp : s.fld fPhase = 2) {b : List Byte} (hb : b.length = 32)
    (hr : headerReason b = 0) :
    Ends (.headerReadDone b) s fun u => u.fld fPhase = (if s.boot.warm then 4 else 3) ∧ u.boot.hdr = some (headerOf b)
      ∧ u.fld ⟨C 0xE0000, 23, 16⟩ = fieldAt b 13 1 ∧ RegsKept s u [0x08, C 0xE0000] ∧ u.log = s.log := by
  have hx := exec_headerReadDone hi hp hb
  rw [if_neg (not_not.mpr hr)] at hx
  obtain ⟨x, hx, h1, h2, hreg, hlog⟩ : ∃ x : State, exec (.headerReadDone b) s = done { x with boot := { s.boot with hdr := some (headerOf b) } }
      ∧ x.fld fPhase = (if s.boot.warm then 4 else 3) % 2 ^ (fPhase.hi + 1 - fPhase.lo)
      ∧ x.fld fTotalGib = dramTotal (headerOf b).dramCfg % 2 ^ (fTotalGib.hi + 1 - fTotalGib.lo)
      ∧ (∀ r, r ∉ [0x08, C 0xE0000] → x.reg r = s.reg r) ∧ x.log = s.log :=
    ⟨_, hx, State.fld_setFlds_mem _ s (by decide) (by simp [headerFlds]) (headerFlds_pairwise _ _),
      State.fld_setFlds_mem _ s (by decide) (by simp [headerFlds]) (headerFlds_pairwise _ _),
      fun r h => State.reg_setFlds_of_ne _ s fun e he hr => h (hr ▸ headerFlds_reg _ _ e he), State.setFlds_log _ _⟩
  refine ends_of_done hx ⟨?_, rfl, ?_, regsKept_refresh hreg, hlog⟩
  · rw [fld_refresh _ _ (by decide), State.fld_setBoot, h1]
    cases s.boot.warm <;> rfl
  · have hd : dramTotal (headerOf b).dramCfg = fieldAt b 13 1 := bitsN_fieldAt b 12
    rw [fld_refresh _ _ (by decide), ← hd]
    exact (State.fld_setBoot _ _ _).trans (h2.trans (Nat.mod_eq_of_lt (Nat.mod_lt _ (by decide))))

theorem ends_headerReadDone_invalid {s : State} (hi : interior s = true) (hp : s.fld fPhase = 2) {b : List Byte} (hb : b.length = 32) {reason : Nat}
    (hr : headerReason b = reason ∧ 0 < reason ∧ reason < 16) :
    Ends (.headerReadDone b) s fun u => PhaseFailed s u 2 reason 0 0 ∧ u.trim.live = [] ∧ u.flag fTrimDefaults = true ∧ u.flag fCalDefaults = true := by
  obtain ⟨hr, h0, h16⟩ := hr
  have hx := exec_headerReadDone hi hp hb
  rw [hr, if_pos (by omega)] at hx
  have hpw : ([(fCalDefaults, 1), (fCalSlot, 0), (fCalGen, 0), (fTrimDefaults, 1)] : List (Fld × Nat)).Pairwise fun a b => a.1.Apart b.1 := by
    unfold Fld.Apart; decide
  have hset : ∀ f, (f, 1) ∈ [(fCalDefaults, 1), (fCalSlot, 0), (fCalGen, 0), (fTrimDefaults, 1)] → f.hi < 32 →
      (reportTrim none (fusedTrims s)).fld f = 1 % 2 ^ (f.hi + 1 - f.lo) := fun f hm h => State.fld_setFlds_mem _ _ h hm hpw
  have h1 := hset fTrimDefaults (by decide) (by decide)
  have h2 := hset fCalDefaults (by decide) (by decide)
  have hti : interior (reportTrim none (fusedTrims s)) = true := by
    obtain ⟨a1, a2, a3, a4, a5⟩ := (interior_iff s).mp hi
    refine (interior_iff _).mpr ⟨a1, a2, ?_, a4, a5⟩
    have ha : ∀ e ∈ [(fCalDefaults, 1), (fCalSlot, 0), (fCalGen, 0), (fTrimDefaults, 1)], fFrozen.Apart e.1 := by unfold Fld.Apart; decide
    rw [← a3]
    exact congrArg (fun n => decide (n ≠ 0)) (State.fld_setFlds_of_apart _ (fusedTrims s) (by decide) ha)
  have hlive : (reportTrim none (fusedTrims s)).trim.live = [] := rfl
  have hlog : (reportTrim none (fusedTrims s)).log = s.log := rfl
  have htime : (reportTrim none (fusedTrims s)).core.timebase = s.core.timebase := rfl
  generalize reportTrim none (fusedTrims s) = t at *
  have hk := keeps_bootFail 2 reason 0 0 t
  have far : ∀ f, f = fTrimDefaults ∨ f = fCalDefaults → ∀ g, failFld g → f.Apart g := fun f hf g hg => by
    have hreg : f.reg = 0x08 ∨ f.reg = 0x98 := by rcases hf with rfl | rfl <;> decide
    rcases hg with h | h | rfl
    · refine .inl ?_
      rcases portFld_of_logFld h with e | e
      · rw [e]; rcases hreg with h | h <;> rw [h] <;> decide
      · simp only [C_eq] at e; omega
    · refine .inl ?_
      rw [h]; simp only [C_eq]; omega
    · rcases hf with rfl | rfl
      · exact .inr (by decide)
      · exact .inl (by decide)
  refine ends_of_done hx ⟨phaseFailed_bootFail hti hlog htime (by decide) h16 (by decide), ?_, ?_, ?_⟩
  · exact (congrArg (fun x => x.trim.live) hk.view :).trans hlive
  · rw [flag_refresh _ _ (by decide), hk.flag (by decide) (far _ (.inl rfl)), State.flag, h1]; rfl
  · rw [flag_refresh _ _ (by decide), hk.flag (by decide) (far _ (.inr rfl)), State.flag, h2]; rfl

/-! ### Phases DRAM and RELEASE -/

theorem exec_dramPhaseDone {s : State} (hi : interior s = true) (hp : s.fld fPhase = 4) (r : TrainResult) :
    exec (.dramPhaseDone r) s = done (match r with
      | .trained gib => if s.boot.fullTrain && gib.toNat ≠ s.fld fTotalGib then bootFail 4 6 0 0 s else (dramUp (s.fld fTotalGib) s).setFld fPhase 5
      | .failed ch => bootFail 4 5 0 ch.toNat s
      | .mismatch => bootFail 4 6 0 0 s) := by
  change execDramPhaseDone r s = _
  rw [execDramPhaseDone, onlyIf, if_pos (by rw [hi, hp]; rfl)] <;> cases r <;> rfl

/-- What a trained DRAM sets. -/
def dramUpFlds (gib : Nat) : List (Fld × Nat) := [(fDramReady, 1), (fDramGib, gib)]

theorem dramUpFlds_pairwise (gib : Nat) : (dramUpFlds gib).Pairwise fun a b => a.1.Apart b.1 := by
  have h : ([fDramReady, fDramGib] : List Fld).Pairwise Fld.Apart := by unfold Fld.Apart; decide
  exact List.pairwise_map.mp (h : ((dramUpFlds gib).map Prod.fst).Pairwise Fld.Apart)

theorem dramUp_regs (gib : Nat) (s : State) : (dramUp gib s).regs = (s.setFlds (dramUpFlds gib)).regs := by
  rw [dramUp, dramUpFlds]

theorem flag_dramUp (gib : Nat) (s : State) : (dramUp gib s).flag fDramReady = true := by
  rw [State.flag, State.fld_of_regs_eq (dramUp_regs gib s),
    State.fld_setFlds_mem _ s (f := fDramReady) (v := 1) (by decide) (by simp [dramUpFlds]) (dramUpFlds_pairwise _)]
  rfl

theorem fld_dramUp {gib : Nat} (s : State) (h : gib < 256) : (dramUp gib s).fld fDramGib = gib := by
  rw [State.fld_of_regs_eq (dramUp_regs gib s),
    State.fld_setFlds_mem _ s (f := fDramGib) (v := gib) (by decide) (by simp [dramUpFlds]) (dramUpFlds_pairwise _)]
  exact Nat.mod_eq_of_lt h

theorem reg_dramUp (gib : Nat) (s : State) {r : Nat} (h : r ∉ [0x04, 0x08]) : (dramUp gib s).reg r = s.reg r := by
  rw [State.reg_of_regs_eq (dramUp_regs gib s)]
  refine State.reg_setFlds_of_ne _ s fun e he hr => h (hr ▸ ?_)
  have hp : ∀ f ∈ ([fDramReady, fDramGib] : List Fld), f.reg ∈ [0x04, 0x08] := by decide
  exact hp e.1 (List.mem_map_of_mem (f := Prod.fst) he)

theorem ends_dramPhaseDone_trained {s : State} (hi : interior s = true) (hp : s.fld fPhase = 4) {gib : BitVec 8}
    (hg : s.boot.fullTrain = true → gib.toNat = s.fld fTotalGib) :
    Ends (.dramPhaseDone (.trained gib)) s fun u => u.fld fPhase = 5 ∧ u.flag fDramReady = true ∧ u.fld fDramGib = s.fld fTotalGib
      ∧ RegsKept s u [0x04, 0x08] := by
  have hx := exec_dramPhaseDone hi hp (.trained gib)
  have hn : ¬ (s.boot.fullTrain && decide (gib.toNat ≠ s.fld fTotalGib)) = true := fun h => by
    rw [Bool.and_eq_true, decide_eq_true_iff] at h
    exact h.2 (hg h.1)
  dsimp only at hx
  rw [if_neg hn] at hx
  obtain ⟨x, hx, hr, hd, hreg⟩ : ∃ x : State, exec (.dramPhaseDone (.trained gib)) s = done (x.setFld fPhase 5)
      ∧ x.flag fDramReady = true ∧ x.fld fDramGib = s.fld fTotalGib ∧ ∀ r, r ∉ [0x04, 0x08] → x.reg r = s.reg r :=
    ⟨_, hx, flag_dramUp _ s, fld_dramUp s (Nat.mod_lt _ (by decide)), fun r h => reg_dramUp _ s h⟩
  refine ends_of_done hx ⟨fld_refresh_setFld x fPhase (by decide) (by decide) (by decide), ?_, ?_, regsKept_refresh fun r h => ?_⟩
  · rw [flag_refresh _ _ (by decide), State.flag_setFld_of_apart (by decide) (.inr (by decide)), hr]
  · rw [fld_refresh _ _ (by decide)]
    exact (State.fld_setReg_of_ne _ _ _ _ (by decide)).trans hd
  · rw [State.reg_setFld_of_ne (by rintro rfl; exact h (by decide)), hreg r h]

theorem ends_dramPhaseDone_failed {s : State} (hi : interior s = true) (hp : s.fld fPhase = 4) (ch : BitVec 4) :
    Ends (.dramPhaseDone (.failed ch)) s fun u => PhaseFailed s u 4 5 0 ch.toNat ∧ u.flag fDramReady = s.flag fDramReady := by
  refine ends_of_done (exec_dramPhaseDone hi hp (.failed ch)) ⟨phaseFailed_bootFail hi rfl rfl (by decide) (by decide) ch.isLt, ?_⟩
  rw [flag_refresh _ _ (by decide), (keeps_bootFail 4 5 0 ch.toNat s).flag (by decide) fun g hg => ?_]
  rcases hg with h | h | rfl
  · exact .inl (logFld_reg_ne h).2.symm
  · exact .inl (by rw [h]; decide)
  · exact .inr (by decide)

theorem ends_dramPhaseDone_mismatch {s : State} (hi : interior s = true) (hp : s.fld fPhase = 4) :
    Ends (.dramPhaseDone .mismatch) s fun u => PhaseFailed s u 4 6 0 0 :=
  ends_of_done (exec_dramPhaseDone hi hp .mismatch) (phaseFailed_bootFail hi rfl rfl (by decide) (by decide) (by decide))

/-- DEV_STATUS and the start interrupt at READY. -/
def readyRegs (s : State) : State := raiseInt iStartDone (s.setFlds [(fPhase, 7), (fReady, 1)])

theorem readyRegs_boot (s : State) : (readyRegs s).boot = s.boot := rfl

/-- The part of READY that depends on what was held. -/
def readyHeld (s : State) : State :=
  match (releaseDoorbells (if s.boot.wake then wakeDone s else s)).boot.target with
  | none => releaseDoorbells (if s.boot.wake then wakeDone s else s)
  | some t => targetWrite t { releaseDoorbells (if s.boot.wake then wakeDone s else s) with
      boot := { (releaseDoorbells (if s.boot.wake then wakeDone s else s)).boot with target := none } }

theorem readyNow_eq (s : State) : readyNow s = readyHeld (readyRegs s) := rfl

theorem readyHeld_of_nothingHeld {s : State} (h : NothingHeld s) : readyHeld s = s := by
  obtain ⟨hd, ht, hw⟩ := h
  have hrel : releaseDoorbells s = s := by
    rw [releaseDoorbells, hd, List.foldl_nil, ← hd]
  rw [readyHeld, hw, if_neg (by decide), hrel, ht]

theorem readyNow_of_nothingHeld {s : State} (h : NothingHeld s) : readyNow s = readyRegs s := by
  rw [readyNow_eq, readyHeld_of_nothingHeld]
  rw [NothingHeld, readyRegs_boot]
  exact h

theorem isReady_readyRegs (s : State) : IsReady (refresh (readyRegs s)) := by
  have hf : ∀ f v, (f, v) ∈ [(fPhase, 7), (fReady, 1)] → f.hi < 32 → (s.setFlds [(fPhase, 7), (fReady, 1)]).fld f = v % 2 ^ (f.hi + 1 - f.lo) :=
    fun f v hm h => State.fld_setFlds_mem _ s h hm (by unfold Fld.Apart; decide)
  have h1 := hf fPhase 7 (by decide) (by decide)
  have h2 := hf fReady 1 (by decide) (by decide)
  rw [readyRegs]
  generalize s.setFlds [(fPhase, 7), (fReady, 1)] = x at h1 h2
  refine ⟨?_, ?_, intSet_refresh (State.flag_setFld_one _ _ _ (by decide))⟩
  · rw [fld_refresh _ _ (by decide)]
    exact (State.fld_setReg_of_ne _ _ _ _ (by decide)).trans h1
  · rw [flag_refresh _ _ (by decide), State.flag]
    exact congrArg (fun n => decide (n ≠ 0)) ((State.fld_setReg_of_ne _ _ _ _ (by decide)).trans h2)

theorem readyRegs_reg {s : State} {r : Nat} (h8 : r ≠ 0x08) (h18 : r ≠ 0x18) : (readyRegs s).reg r = s.reg r := by
  refine (State.reg_setFld_of_ne (f := ⟨0x18, iStartDone, iStartDone⟩) (Ne.symm h18)).trans ?_
  refine State.reg_setFlds_of_ne _ s fun e he => ?_
  simp only [List.mem_cons, List.not_mem_nil, or_false] at he
  rcases he with rfl | rfl <;> exact Ne.symm h8

/-- Every function released. -/
def releaseAll (s : State) : State := { s with boot := { s.boot with released := true } }

theorem releaseAll_boot (s : State) : (releaseAll s).boot = { s.boot with released := true } := rfl

theorem releaseAll_reg (s : State) (r : Nat) : (releaseAll s).reg r = s.reg r := rfl

theorem exec_releasePhaseDone {s : State} (hi : interior s = true) (hp : s.fld fPhase = 5) :
    exec .releasePhaseDone s = done (if hasTable s then (releaseAll s).setFld fPhase 6 else readyNow (releaseAll s)) := by
  change execReleasePhaseDone s = _
  rw [execReleasePhaseDone, onlyIf, if_pos (by rw [hi, hp]; rfl)]
  rfl

theorem ends_releasePhaseDone_table {s : State} (hi : interior s = true) (hp : s.fld fPhase = 5) (ht : hasTable s = true) :
    Ends .releasePhaseDone s fun u => u.fld fPhase = 6 ∧ u.boot.released = true ∧ RegsKept s u [0x08] := by
  have hx := exec_releasePhaseDone hi hp
  rw [if_pos ht] at hx
  refine ends_of_done hx ⟨fld_refresh_setFld _ fPhase (by decide) (by decide) (by decide), ?_, regsKept_refresh fun r h => ?_⟩
  · rw [refresh_boot, State.setFld_boot, releaseAll_boot]
  · rw [State.reg_setFld_of_ne (by rintro rfl; exact h (by decide)), releaseAll_reg]

theorem ends_releasePhaseDone_ready {s : State} (hi : interior s = true) (hp : s.fld fPhase = 5) (ht : hasTable s = false) (hn : NothingHeld s) :
    Ends .releasePhaseDone s fun u => IsReady u ∧ u.boot.released = true ∧ RegsKept s u [0x08, 0x18] := by
  have hx := exec_releasePhaseDone hi hp
  rw [if_neg (by rw [ht]; decide), readyNow_of_nothingHeld (by rw [NothingHeld, releaseAll_boot]; exact hn)] at hx
  refine ends_of_done hx ⟨isReady_readyRegs _, ?_, regsKept_refresh fun r h => ?_⟩
  · rw [refresh_boot, readyRegs_boot, releaseAll_boot]
  · simp only [List.mem_cons, List.not_mem_nil, or_false, not_or] at h
    rw [readyRegs_reg h.1 h.2, releaseAll_reg]

theorem hasTable_of_some {s : State} (h : ∃ b, s.boot.hdr = some b ∧ b.tableLength ≠ 0) : hasTable s = true := by
  obtain ⟨b, hb, hl⟩ := h
  rw [hasTable, hb]
  exact decide_eq_true hl

theorem hasTable_of_none {s : State} (h : ∀ b, s.boot.hdr = some b → b.tableLength = 0) : hasTable s = false := by
  rw [hasTable]
  rcases hb : s.boot.hdr with _ | b
  · rfl
  · exact decide_eq_false fun hn => hn (h b hb)

/-! ### BOOT_CTRL -/

theorem exec_bootResume {s : State} (hi : interior s = true) : exec .bootResume s = done (bootResume s) := by
  change execBootResume s = _
  rw [execBootResume, onlyIf, if_pos hi]

/-- A failure of which phase the start-up resumes. -/
theorem bootResume_of_failed {s : State} (hp : s.fld fPhase = 15) : bootResume s =
    (if s.fld ⟨C 0x100, 31, 28⟩ = 2 then { ((s.setFld fResumed 1).setFld fPhase 5) with boot := { (s.setFld fResumed 1).boot with hdr := none } }
    else if s.fld ⟨C 0x100, 31, 28⟩ = 4 then (s.setFld fResumed 1).setFld fPhase 5 else readyNow (s.setFld fResumed 1)) := by
  rw [bootResume, if_neg (not_not.mpr hp)]

theorem flag_resumed (s : State) : ((s.setFld fResumed 1).setFld fPhase 5).flag fResumed = true := by
  rw [State.flag_setFld_of_apart (by decide) (.inl (by decide))]
  exact State.flag_setFld_one s _ _ (by decide)

theorem reg_resumed (s : State) {r : Nat} (h : r ∉ [0x08, C 0x100]) : ((s.setFld fResumed 1).setFld fPhase 5).reg r = s.reg r := by
  simp only [List.mem_cons, List.not_mem_nil, or_false, not_or] at h
  rw [State.reg_setFld_of_ne (f := fPhase) (Ne.symm h.1), State.reg_setFld_of_ne (f := fResumed) (Ne.symm h.2)]

theorem ends_bootResume_header {s : State} (hi : interior s = true) (hp : s.fld fPhase = 15) (hf : s.fld ⟨C 0x100, 31, 28⟩ = 2) :
    Ends .bootResume s fun u => u.fld fPhase = 5 ∧ u.boot.hdr = none ∧ u.flag fResumed = true ∧ RegsKept s u [0x08, C 0x100] := by
  have hx := exec_bootResume hi
  rw [bootResume_of_failed hp, if_pos hf] at hx
  obtain ⟨x, hx, h1, h2, hreg⟩ : ∃ x : State, exec .bootResume s = done { x with boot := { (s.setFld fResumed 1).boot with hdr := none } }
      ∧ x.fld fPhase = 5 ∧ x.flag fResumed = true ∧ ∀ r, r ∉ [0x08, C 0x100] → x.reg r = s.reg r :=
    ⟨_, hx, State.fld_setFld _ _ _ (by decide), flag_resumed s, fun r h => reg_resumed s h⟩
  refine ends_of_done hx ⟨?_, rfl, ?_, regsKept_refresh hreg⟩
  · rw [fld_refresh _ _ (by decide), State.fld_setBoot, h1]
  · rw [flag_refresh _ _ (by decide), State.flag, State.fld_setBoot, ← State.flag, h2]

theorem ends_bootResume_dram {s : State} (hi : interior s = true) (hp : s.fld fPhase = 15) (hf : s.fld ⟨C 0x100, 31, 28⟩ = 4) :
    Ends .bootResume s fun u => u.fld fPhase = 5 ∧ u.flag fResumed = true ∧ OnlyRegs s u [0x08, C 0x100] := by
  have hx := exec_bootResume hi
  rw [bootResume_of_failed hp, if_neg (by rw [hf]; decide), if_pos hf] at hx
  refine ends_of_done hx ⟨fld_refresh_setFld _ fPhase (by decide) (by decide) (by decide), ?_, onlyRegs_setReg_setReg (by decide) (by decide)⟩
  rw [flag_refresh _ _ (by decide), flag_resumed]

theorem ends_bootResume_table {s : State} (hi : interior s = true) (hp : s.fld fPhase = 15) (hf : s.fld ⟨C 0x100, 31, 28⟩ = 6) (hn : NothingHeld s) :
    Ends .bootResume s fun u => IsReady u ∧ u.flag fResumed = true ∧ RegsKept s u [0x08, 0x18, C 0x100] := by
  have hx := exec_bootResume hi
  rw [bootResume_of_failed hp, if_neg (by rw [hf]; decide), if_neg (by rw [hf]; decide),
    readyNow_of_nothingHeld (by rw [NothingHeld, State.setFld_boot]; exact hn)] at hx
  refine ends_of_done hx ⟨isReady_readyRegs _, ?_, regsKept_refresh fun r h => ?_⟩
  · rw [flag_refresh _ _ (by decide), State.flag, State.fld, readyRegs_reg (by decide) (by decide), ← State.fld, ← State.flag]
    exact State.flag_setFld_one s _ _ (by decide)
  · simp only [List.mem_cons, List.not_mem_nil, or_false, not_or] at h
    rw [readyRegs_reg h.1 h.2.1, State.reg_setFld_of_ne (f := fResumed) (Ne.symm h.2.2)]

theorem idle_bootResume {s : State} (hi : interior s = true) (hp : s.fld fPhase ≠ 15) : Idle .bootResume s :=
  idle_of_done (by rw [exec_bootResume hi, bootResume, if_pos hp])

/-! ### QSPI_RELEASE -/

theorem exec_qspiRelease {s : State} (hi : interior s = true) (on : Bool) : exec (.qspiRelease on) s =
    done (if (s.fld fPhase = 7 || s.fld fPhase = 15) && !s.flag fCalBusy then s.setFlag fQspiRelease on else s) := by
  change execQspiRelease on s = _
  rw [execQspiRelease, onlyIf, if_pos hi, qspiRelease]

theorem ends_qspiRelease {s : State} (hi : interior s = true) (hp : s.fld fPhase = 7 ∨ s.fld fPhase = 15) (hc : s.flag fCalBusy = false) (on : Bool) :
    Ends (.qspiRelease on) s fun u => u.flag fQspiRelease = on ∧ OnlyRegs s u [C 0x104] := by
  have hx := exec_qspiRelease hi on
  rw [hc, if_pos (by rw [Bool.not_false, Bool.and_true, Bool.or_eq_true, decide_eq_true_iff, decide_eq_true_iff]; exact hp)] at hx
  refine ends_of_done hx ⟨?_, onlyRegs_setFld (by decide)⟩
  rw [flag_refresh _ _ (by decide)]
  exact State.flag_setFlag s _ _ _ (by decide)

theorem idle_qspiRelease {s : State} (hi : interior s = true) (h : (s.fld fPhase ≠ 7 ∧ s.fld fPhase ≠ 15) ∨ s.flag fCalBusy = true) (on : Bool) :
    Idle (.qspiRelease on) s := by
  refine idle_of_done ?_
  rw [exec_qspiRelease hi on, if_neg]
  rcases h with ⟨h7, h15⟩ | hc
  · rw [decide_eq_false h7, decide_eq_false h15]
    exact Bool.false_ne_true
  · rw [hc, Bool.not_true, Bool.and_false]
    exact Bool.false_ne_true

/-! ### The obligation -/

theorem idle_pllLocked {s : State} (hp : s.fld fPhase ≠ 0) : Idle .pllLocked s := by
  have hn : ¬ mayLock s = true := fun h => hp ((mayLock_iff s).mp h).1
  refine idle_of_done ?_
  change execPllLocked s = _
  rw [execPllLocked, onlyIf, if_neg hn]

/-- Settles O1: an event's lemma for each clause. -/
theorem startUpPhasesAdvance : Obligations.Start_up_phases_advance := by
  unfold Obligations.Start_up_phases_advance
  intro s
  refine ⟨fun h0 h1 h2 h3 h4 h5 h6 => ends_pllLocked ((mayLock_iff s).mpr ⟨h0, h1, h2, h3, h4, h5, h6⟩), fun _ hp => idle_pllLocked hp,
    ends_sramInitDone_cold, ends_sramInitDone_warm, ?_, ?_, ?_, ?_, ends_dramPhaseDone_mismatch, ?_, ?_, ends_bootResume_header, ends_bootResume_dram,
    ends_bootResume_table, idle_bootResume, ?_, ?_⟩
  · exact fun b hb hi hp hff hm hv hc hl => ends_headerReadDone_valid hi hp hb (headerReason_of_valid hff hm hv hc hl)
  · exact fun b hb hi hp reason h =>
      ends_headerReadDone_invalid hi hp hb (headerReason_of_invalid (List.ne_nil_of_length_pos (by rw [hb]; decide)) h)
  · exact fun gib hi hp hg => ends_dramPhaseDone_trained hi hp hg
  · exact fun ch hi hp => ends_dramPhaseDone_failed hi hp ch
  · exact fun hi hp ht => ends_releasePhaseDone_table hi hp (hasTable_of_some ht)
  · exact fun hi hp ht hn => ends_releasePhaseDone_ready hi hp (hasTable_of_none ht) hn
  · exact fun on hi hp hc => ends_qspiRelease hi hp hc on
  · exact fun on hi h => idle_qspiRelease hi h on

end Sys2Proof.Machine
end

section
/-! SUPPORT. Memory as a coherent reader sees it: what lookups, merge buffers, DRAM's port and skein do to it (chapter 10). -/

namespace Sys2Proof.Machine

open Sys2Proof Sys2Proof.Safety Sys2Proof.Claims

/-! ### Bytes written into a map -/

/-- A byte map with a run of bytes written from an address on. -/
def putAt (f : Nat → Byte) (a : Nat) (bs : List Byte) (k : Nat) : Byte := if a ≤ k ∧ k < a + bs.length then bs.getD (k - a) 0#8 else f k

theorem putAt_nil (f : Nat → Byte) (a k : Nat) : putAt f a [] k = f k := if_neg (by simp only [List.length_nil]; omega)

theorem putAt_in {f : Nat → Byte} {a k : Nat} {bs : List Byte} (h : k < bs.length) : putAt f a bs (a + k) = bs.getD k 0#8 := by
  rw [putAt, if_pos (by omega), Nat.add_sub_cancel_left]

theorem putAt_out {f : Nat → Byte} {a k : Nat} {bs : List Byte} (h : k < a ∨ a + bs.length ≤ k) : putAt f a bs k = f k := if_neg (by omega)

/-- The first byte, then the rest. -/
theorem putAt_cons (f : Nat → Byte) (a k : Nat) (b : Byte) (t : List Byte) :
    putAt f a (b :: t) k = putAt (fun j => if a = j then b else f j) (a + 1) t k := by
  simp only [putAt, List.length_cons]
  by_cases h : a + 1 ≤ k ∧ k < a + 1 + t.length
  · obtain ⟨j, rfl⟩ := Nat.exists_eq_add_of_le h.1
    rw [if_pos (by omega), if_pos h, show a + 1 + j - a = j + 1 by omega, Nat.add_sub_cancel_left, List.getD_cons_succ]
  · rw [if_neg h]
    by_cases e : a = k
    · rw [if_pos (by omega), if_pos e, e, Nat.sub_self, List.getD_cons_zero]
    · rw [if_neg (by omega), if_neg e]

theorem get_putBytes (d : Nat → Byte) (m : Sparse Byte) (a k : Nat) (bs : List Byte) :
    Sparse.get d (putBytes d m a bs) k = putAt (Sparse.get d m) a bs k := by
  induction bs generalizing m a with
  | nil => rw [putAt_nil, putBytes]
  | cons b t ih =>
    rw [putBytes, ih, putAt_cons]
    refine congrArg (fun f => putAt f (a + 1) t k) (funext fun j => ?_)
    rw [Sparse.get_put]

/-- A sorted list of pairs written into a map covers it. -/
theorem get_putAll {α : Type} [DecidableEq α] (d : Nat → α) (l : List (Nat × α)) (m : Sparse α) {b : Nat} (h : Sparse.sortedFrom b l = true) (k : Nat) :
    Sparse.get d (Sparse.putAll d m l) k = (Sparse.find l k).getD (Sparse.get d m k) := by
  induction l generalizing m b with
  | nil => rfl
  | cons e t ih =>
    obtain ⟨a, x⟩ := e
    rw [Sparse.sortedFrom, Bool.and_eq_true] at h
    rw [Sparse.putAll, ih _ h.2, Sparse.get_put, Sparse.find]
    split
    · next hk => rw [Sparse.find_none_of_sortedFrom h.2 (by omega)]; rfl
    · rfl

/-- Bytes inserted one by one. -/
theorem find_insertBytes (m : Sparse Byte) (a k : Nat) (bs : List Byte) :
    Sparse.find (((numsFrom a bs.length).zip bs).foldl (fun m e => Sparse.insert m e.1 e.2) m) k =
      if a ≤ k ∧ k < a + bs.length then some (bs.getD (k - a) 0#8) else Sparse.find m k := by
  induction bs generalizing a m with
  | nil => rw [if_neg (by simp only [List.length_nil]; omega)]; rfl
  | cons b t ih =>
    rw [List.length_cons, numsFrom, List.zip_cons_cons, List.foldl_cons, ih, Sparse.find_insert]
    by_cases h : a + 1 ≤ k ∧ k < a + 1 + t.length
    · obtain ⟨j, rfl⟩ := Nat.exists_eq_add_of_le h.1
      rw [if_pos h, if_pos (by omega), show a + 1 + j - a = j + 1 by omega, Nat.add_sub_cancel_left, List.getD_cons_succ]
    · rw [if_neg h]
      by_cases e : a = k
      · rw [if_pos e, if_pos (by omega), e, Nat.sub_self, List.getD_cons_zero]
      · rw [if_neg e, if_neg (by omega)]

/-- A new line's bytes are those inserted into an empty one. -/
theorem find_zipBytes (a k : Nat) (bs : List Byte) : Sparse.find ((numsFrom a bs.length).zip bs) k =
    if a ≤ k ∧ k < a + bs.length then some (bs.getD (k - a) 0#8) else none := by
  induction bs generalizing a with
  | nil => rw [if_neg (by simp only [List.length_nil]; omega)]; rfl
  | cons b t ih =>
    rw [List.length_cons, numsFrom, List.zip_cons_cons, Sparse.find, ih]
    by_cases h : a + 1 ≤ k ∧ k < a + 1 + t.length
    · obtain ⟨j, rfl⟩ := Nat.exists_eq_add_of_le h.1
      rw [if_neg (by omega), if_pos h, if_pos (by omega), show a + 1 + j - a = j + 1 by omega, Nat.add_sub_cancel_left, List.getD_cons_succ]
    · rw [if_neg h]
      by_cases e : a = k
      · rw [if_pos e, if_pos (by omega), e, Nat.sub_self, List.getD_cons_zero]
      · rw [if_neg e, if_neg (by omega)]

/-! ### What decides what memory reads -/

/-- Memory without its caches and error marks. -/
def memCore (s : State) : MemSt := { s.mem with cache := [], l1 := [], dramUe := [], skeinUe := [] }

/-- A byte of skein. -/
def skeinByte (s : State) (o : Nat) : Byte := Sparse.get noByte s.mem.skein o

theorem dramByte_of_lost {m n : MemSt} (h : m.lost = n.lost) : dramByte m = dramByte n := by unfold dramByte; rw [h]

theorem cohByte_of_core {s t : State} (h : memCore t = memCore s) : cohByte t = cohByte s := by
  have hm : t.mem.merge = s.mem.merge := (congrArg MemSt.merge h :)
  have hd : t.mem.dram = s.mem.dram := (congrArg MemSt.dram h :)
  have hb : dramByte t.mem = dramByte s.mem := dramByte_of_lost (congrArg MemSt.lost h :)
  funext a
  rw [cohByte, cohByte, mergeOf, mergeOf, hm, hd, hb]

theorem skeinByte_of_core {s t : State} (h : memCore t = memCore s) : skeinByte t = skeinByte s :=
  funext fun o => congrArg (fun m => Sparse.get noByte m o) (congrArg MemSt.skein h :)

theorem roles_of_core {s t : State} (h : memCore t = memCore s) : t.mem.roles = s.mem.roles := (congrArg MemSt.roles h :)

theorem cacheLeas_of_roles {s t : State} (h : t.mem.roles = s.mem.roles) : cacheLeas t = cacheLeas s := by rw [cacheLeas, cacheLeas, h]

theorem mergeSound_of_core {s t : State} (h : memCore t = memCore s) (hs : MergeSound s) : MergeSound t := by
  have hm : t.mem.merge = s.mem.merge := (congrArg MemSt.merge h :)
  rw [MergeSound, hm, cacheLeas_of_roles (roles_of_core h)]
  exact hs

/-! ### Counters, lookups and error marks leave it -/

theorem mem_bumpSp (sp off n : Nat) (s : State) : (bumpSp sp off n s).mem = s.mem := by
  rw [bumpSp, bump]
  split
  · exact setCounter_mem _ _ s
  · rfl

theorem memCore_of_mem {s t : State} (h : t.mem = s.mem) : memCore t = memCore s := by rw [memCore, memCore, h]

theorem mem_logEvent (cls code ctx src arg : Nat) (s : State) : (logEvent cls code ctx src arg s).mem = s.mem :=
  (congrArg State.mem (keeps_logEvent cls code ctx src arg s).view :)

theorem mem_noteDramUe (pa : Nat) (s : State) : (noteDramUe pa s).mem = s.mem := by
  unfold noteDramUe
  extract_lets s1 s2
  have h1 : s1.mem = s.mem := rfl
  have h2 : s2.mem = s1.mem := State.setFlds_mem _ _
  change (logEvent _ _ _ _ _ s2).mem = _
  rw [mem_logEvent, h2, h1]

theorem mem_noteSkeinUe (pa : Nat) (s : State) : (noteSkeinUe pa s).mem = s.mem := mem_logEvent _ _ _ _ _ s

theorem memCore_settleUe (line : Nat) (whole : Bool) (s : State) : memCore (settleUe line whole s) = memCore s := by
  rw [settleUe]
  split
  · rfl
  split
  · exact memCore_of_mem (mem_noteDramUe _ s)
  · rfl

/-- Memory without the CACHE leas' lines, and the event log. -/
def offCache (s : State) : MemSt × LogSt := ({ s.mem with cache := [] }, s.log)

theorem offCache_bumpSp (sp off n : Nat) (s : State) : offCache (bumpSp sp off n s) = offCache s := by
  rw [bumpSp, bump]
  split
  · rw [offCache, setCounter_mem, setCounter_log, offCache]
  · rfl

/-- A lookup changes the home's lines and its counters alone (R212). -/
theorem offCache_homeLookup (load : Bool) (pa : Nat) (s : State) : offCache (homeLookup load pa s) = offCache s := by
  unfold homeLookup
  split
  · rfl
  extract_lets line e m0 s1 same kept m1
  split
  · exact (offCache_bumpSp _ _ _ _).trans rfl
  · have h1 : offCache s1 = offCache s := offCache_bumpSp _ _ _ s
    split
    · exact h1
    · exact h1

theorem offCache_lookup (load uncached : Bool) (pa : Nat) (s : State) : offCache (lookup load uncached pa s) = offCache s := by
  rw [lookup]
  split
  · split
    · rfl
    · exact offCache_homeLookup _ _ s
  · exact offCache_bumpSp _ _ _ s
  · rfl

theorem memCore_of_offCache {s t : State} (h : offCache t = offCache s) : memCore t = memCore s :=
  congrArg (fun x : MemSt × LogSt => { x.1 with l1 := [], dramUe := [], skeinUe := [] }) h

theorem memCore_lookup (load uncached : Bool) (pa : Nat) (s : State) : memCore (lookup load uncached pa s) = memCore s :=
  memCore_of_offCache (offCache_lookup load uncached pa s)

/-! ### Their frame -/

theorem moves_bumpSp (sp off n : Nat) (s : State) : Moves memFld offMem s (bumpSp sp off n s) :=
  moves_bump frame_mem _ (.inr (by simp only [C_eq]; omega)) (.inr (by simp only [C_eq]; omega)) n s

theorem moves_homeLookup (load : Bool) (pa : Nat) (s : State) : Moves memFld offMem s (homeLookup load pa s) := by
  unfold homeLookup
  split
  · exact .refl s
  extract_lets line e m0 s1 same kept m1
  split
  · exact (moves_mem s _).trans (moves_bumpSp _ _ _ _)
  · have h1 : Moves memFld offMem s s1 := moves_bumpSp _ _ _ s
    split
    · exact h1.trans (moves_mem s1 _)
    · exact h1

theorem moves_lookup (load uncached : Bool) (pa : Nat) (s : State) : Moves memFld offMem s (lookup load uncached pa s) := by
  rw [lookup]
  split
  · exact .ite (fun _ => .refl s) fun _ => moves_homeLookup _ _ s
  · exact moves_bumpSp _ _ _ s
  · exact .refl s

theorem moves_drainLine (line : Nat) (s : State) : Moves memFld offMem s (drainLine line s) := by
  rw [drainLine]
  split
  · exact .refl s
  · exact ((moves_mem s _).trans (moves_settleUe _ _ _)).trans (moves_bumpSp _ _ _ _)

theorem mergeWrite_miss {s : State} {sp a : Nat} {bs : List Byte} (h : mergeOf s (a / 64) = none) : ∃ x, (x = s ∨ ∃ line, x = drainLine line s)
    ∧ mergeWrite sp a bs s =
      { x with mem := { x.mem with merge := { sp := sp, line := a / 64, bytes := (numsFrom a bs.length).zip bs } :: x.mem.merge } } := by
  rw [mergeWrite]
  dsimp only
  rw [h]
  dsimp only
  split
  · split
    · exact ⟨_, .inr ⟨_, rfl⟩, rfl⟩
    · exact ⟨_, .inl rfl, rfl⟩
  · exact ⟨_, .inl rfl, rfl⟩

theorem moves_mergeWrite (sp a : Nat) (bs : List Byte) (s : State) : Moves memFld offMem s (mergeWrite sp a bs s) := by
  cases h : mergeOf s (a / 64) with
  | some l =>
    rw [mergeWrite]
    dsimp only
    rw [h]
    exact moves_mem s _
  | none =>
    obtain ⟨x, hx, he⟩ := mergeWrite_miss (sp := sp) (bs := bs) h
    rw [he]
    rcases hx with rfl | ⟨line, rfl⟩
    · exact moves_mem _ _
    · exact (moves_drainLine line s).trans (moves_mem _ _)

theorem moves_cohWriteLine (a : Nat) (bs : List Byte) (s : State) : Moves memFld offMem s (cohWriteLine a bs s) := by
  rw [cohWriteLine]
  split
  · exact moves_dramWrite a bs s
  · exact moves_mergeWrite _ a bs s

theorem moves_memPut (uncached : Bool) (pa : Nat) (bs : List Byte) (s : State) : Moves memFld offMem s (memPut uncached pa bs s) := by
  rw [memPut]
  split
  · exact .foldl _ s fun e _ s => .ite (fun _ => (moves_drainLine _ s).trans (moves_dramWrite _ _ _)) fun _ => moves_cohWriteLine _ _ s
  · exact moves_skeinWrite _ _ s
  · exact .refl s

theorem moves_memWrite (uncached : Bool) (pa : Nat) (bs : List Byte) (s : State) : Moves memFld offMem s (memWrite uncached pa bs s) :=
  (Moves.foldl _ s fun _ _ s => moves_lookup false uncached _ s).trans (moves_memPut uncached pa bs _)

/-! ### Merge buffers -/

theorem memCore_drainLine {line : Nat} {l : MergeLine} {s : State} (h : mergeOf s line = some l) : memCore (drainLine line s) =
    { memCore s with dram := Sparse.putAll (dramByte s.mem) s.mem.dram l.bytes, merge := s.mem.merge.filter fun x => x.line ≠ line } := by
  rw [drainLine, h]
  exact (memCore_of_mem (mem_bumpSp _ _ _ _)).trans (memCore_settleUe _ _ _)

theorem drainLine_of_none {line : Nat} {s : State} (h : mergeOf s line = none) : drainLine line s = s := by rw [drainLine, h]

theorem merge_drainLine (line : Nat) (s : State) : (drainLine line s).mem.merge = s.mem.merge.filter fun x => x.line ≠ line := by
  cases h : mergeOf s line with
  | none =>
    rw [drainLine_of_none h, List.filter_eq_self.mpr fun l hl => ?_]
    have := List.find?_eq_none.mp h l hl
    simpa using this
  | some l => exact (congrArg MemSt.merge (memCore_drainLine h) :)

/-- The line that covers an address, once one line has gone. -/
theorem find_filter_line (ms : List MergeLine) (line k : Nat) : (ms.filter fun x => x.line ≠ line).find? (fun l => l.line = k) =
    if k = line then none else ms.find? fun l => l.line = k := by
  induction ms with
  | nil => split <;> rfl
  | cons m ms ih =>
    by_cases hm : m.line = line
    · rw [List.filter_cons_of_neg (by simpa using hm), ih]
      split
      · rfl
      · next hk => rw [List.find?_cons_of_neg (by simpa using fun e : m.line = k => hk (e ▸ hm))]
    · rw [List.filter_cons_of_pos (by simpa using hm)]
      by_cases hk : m.line = k
      · rw [List.find?_cons_of_pos (by simpa using hk), if_neg fun e => hm (hk.trans e), List.find?_cons_of_pos (by simpa using hk)]
      · rw [List.find?_cons_of_neg (by simpa using hk), ih, List.find?_cons_of_neg (by simpa using hk)]

/-- What a sound line holds is in its line. -/
theorem find_bytes_none {s : State} (hs : MergeSound s) {l : MergeLine} (hl : l ∈ s.mem.merge) {k : Nat} (hk : k / 64 ≠ l.line) :
    Sparse.find l.bytes k = none := by
  obtain ⟨-, hb, -⟩ := hs
  obtain ⟨-, hb⟩ := hb l hl
  revert hb
  induction l.bytes with
  | nil => exact fun _ => rfl
  | cons e t ih =>
    obtain ⟨j, b⟩ := e
    intro hb
    rw [Sparse.find, if_neg fun he : j = k => hk (he ▸ hb (j, b) List.mem_cons_self)]
    exact ih fun x hx => hb x (List.mem_cons_of_mem (j, b) hx)

theorem mergeOf_mem {s : State} {line : Nat} {l : MergeLine} (h : mergeOf s line = some l) : l ∈ s.mem.merge ∧ l.line = line :=
  ⟨List.mem_of_find?_eq_some h, by simpa using List.find?_some h⟩

/-- A coherent byte of an uncovered line is DRAM's. -/
theorem cohByte_of_none {s : State} {a : Nat} (h : mergeOf s (a / 64) = none) : cohByte s a = Sparse.get (dramByte s.mem) s.mem.dram a := by
  rw [cohByte, h]

theorem cohByte_of_some {s : State} {a : Nat} {l : MergeLine} (h : mergeOf s (a / 64) = some l) :
    cohByte s a = (Sparse.find l.bytes a).getD (Sparse.get (dramByte s.mem) s.mem.dram a) := by
  rw [cohByte, h]

/-- A drain changes no byte that a coherent reader sees (R212). -/
theorem cohByte_drainLine {s : State} (hs : MergeSound s) (line : Nat) : cohByte (drainLine line s) = cohByte s := by
  cases h : mergeOf s line with
  | none => rw [drainLine_of_none h]
  | some l =>
    obtain ⟨hl, hline⟩ := mergeOf_mem h
    have hc := memCore_drainLine h
    have hd : (drainLine line s).mem.dram = Sparse.putAll (dramByte s.mem) s.mem.dram l.bytes := (congrArg MemSt.dram hc :)
    have hb : dramByte (drainLine line s).mem = dramByte s.mem := dramByte_of_lost (congrArg MemSt.lost hc :)
    have hm : ∀ k, mergeOf (drainLine line s) k = if k = line then none else mergeOf s k := fun k => by
      rw [mergeOf, merge_drainLine]; exact find_filter_line _ line k
    have hget : ∀ a, Sparse.get (dramByte (drainLine line s).mem) (drainLine line s).mem.dram a
        = (Sparse.find l.bytes a).getD (Sparse.get (dramByte s.mem) s.mem.dram a) := fun a => by
      rw [hd, hb, get_putAll _ _ _ (hs.2.1 l hl).1]
    funext a
    by_cases ha : a / 64 = line
    · rw [cohByte_of_none (by rw [hm, if_pos ha]), hget, cohByte_of_some (ha ▸ h)]
    · have hn : Sparse.find l.bytes a = none := find_bytes_none hs hl (by rw [hline]; exact ha)
      have hk := hm (a / 64)
      rw [if_neg ha] at hk
      rw [cohByte, hk, hget, hn, cohByte]
      rfl

theorem roles_drainLine (line : Nat) (s : State) : (drainLine line s).mem.roles = s.mem.roles := by
  cases h : mergeOf s line with
  | none => rw [drainLine_of_none h]
  | some l => exact (congrArg MemSt.roles (memCore_drainLine h) :)

theorem skein_drainLine (line : Nat) (s : State) : skeinByte (drainLine line s) = skeinByte s := by
  cases h : mergeOf s line with
  | none => rw [drainLine_of_none h]
  | some l =>
    have hk : (drainLine line s).mem.skein = s.mem.skein := (congrArg MemSt.skein (memCore_drainLine h) :)
    funext o
    rw [skeinByte, skeinByte, hk]

theorem mergeSound_drainLine {s : State} (hs : MergeSound s) (line : Nat) : MergeSound (drainLine line s) := by
  obtain ⟨hn, hb, he⟩ := hs
  rw [MergeSound, merge_drainLine, cacheLeas_of_roles (roles_drainLine line s)]
  refine ⟨(List.filter_sublist.map _).nodup hn, fun l hl => hb l (List.mem_of_mem_filter hl), fun hc => ?_⟩
  rw [he hc, List.filter_nil]

/-! ### Writes -/

/-- The bytes of a write lie in one line. -/
def OneLine (a : Nat) (bs : List Byte) : Prop := ∀ k, a ≤ k → k < a + bs.length → k / 64 = a / 64

theorem memCore_dramWrite (a : Nat) (bs : List Byte) (s : State) : memCore (dramWrite a bs s) =
    { memCore s with dram := putBytes (dramByte s.mem) s.mem.dram a bs } := memCore_settleUe _ _ _

/-- A write at DRAM's port, with no line in a merge buffer. -/
theorem cohByte_dramWrite {s : State} (hm : s.mem.merge = []) (a : Nat) (bs : List Byte) : cohByte (dramWrite a bs s) = putAt (cohByte s) a bs := by
  have hc := memCore_dramWrite a bs s
  have hd : (dramWrite a bs s).mem.dram = putBytes (dramByte s.mem) s.mem.dram a bs := (congrArg MemSt.dram hc :)
  have hb : dramByte (dramWrite a bs s).mem = dramByte s.mem := dramByte_of_lost (congrArg MemSt.lost hc :)
  have hn : (dramWrite a bs s).mem.merge = [] := (congrArg MemSt.merge hc :).trans hm
  have hs : cohByte s = Sparse.get (dramByte s.mem) s.mem.dram := funext fun k => cohByte_of_none (by rw [mergeOf, hm]; rfl)
  funext k
  rw [cohByte_of_none (by rw [mergeOf, hn]; rfl), hd, hb, get_putBytes, hs]

theorem mergeOf_cons (s : State) (l : MergeLine) (ms : List MergeLine) (k : Nat) :
    mergeOf { s with mem := { s.mem with merge := l :: ms } } k = if l.line = k then some l else ms.find? fun x => x.line = k := by
  rw [mergeOf]
  by_cases h : l.line = k
  · rw [if_pos h]; exact List.find?_cons_of_pos (by simpa using h)
  · rw [if_neg h]; exact List.find?_cons_of_neg (by simpa using h)

/-- Bytes put over a merge-buffer line, or into a new one. -/
theorem cohByte_mergeCons {s : State} {a : Nat} {bs : List Byte} (ha : OneLine a bs) {l : MergeLine} {ms : List MergeLine} (hl : l.line = a / 64)
    (hms : ∀ k, k ≠ a / 64 → ms.find? (fun x => x.line = k) = mergeOf s k)
    (hb : ∀ k, k / 64 = a / 64 → (Sparse.find l.bytes k).getD (Sparse.get (dramByte s.mem) s.mem.dram k) = putAt (cohByte s) a bs k) :
    cohByte { s with mem := { s.mem with merge := l :: ms } } = putAt (cohByte s) a bs := by
  funext k
  have hm := mergeOf_cons s l ms (k / 64)
  by_cases hk : k / 64 = a / 64
  · rw [if_pos (hl.trans hk.symm)] at hm
    rw [cohByte_of_some hm]
    exact hb k hk
  · rw [if_neg fun e => hk (e.symm.trans hl), hms _ hk] at hm
    have hout : k < a ∨ a + bs.length ≤ k := by
      by_contra hc
      exact hk (ha k (by omega) (by omega))
    rw [putAt_out hout, cohByte, hm, cohByte]
    rfl

/-- A line that a merge buffer holds takes the bytes. -/
theorem cohByte_mergeWrite_hit {s : State} (sp : Nat) {a : Nat} {bs : List Byte} (ha : OneLine a bs) {l : MergeLine} (h : mergeOf s (a / 64) = some l) :
    cohByte (mergeWrite sp a bs s) = putAt (cohByte s) a bs := by
  rw [mergeWrite]
  dsimp only
  rw [h]
  refine cohByte_mergeCons ha (mergeOf_mem h).2 (fun k hk => ?_) fun k hk => ?_
  · rw [find_filter_line, if_neg hk]; rfl
  · rw [find_insertBytes, putAt]
    split
    · rfl
    · rw [cohByte_of_some (hk ▸ h)]

/-- A new line takes the bytes. -/
theorem cohByte_mergeNew {s : State} (sp : Nat) {a : Nat} {bs : List Byte} (ha : OneLine a bs) (h : mergeOf s (a / 64) = none) :
    cohByte { s with mem := { s.mem with merge := { sp := sp, line := a / 64, bytes := (numsFrom a bs.length).zip bs } :: s.mem.merge } }
      = putAt (cohByte s) a bs := by
  refine cohByte_mergeCons ha rfl (fun k _ => rfl) fun k hk => ?_
  rw [find_zipBytes, putAt]
  split
  · rfl
  · rw [cohByte_of_none (by rw [hk]; exact h)]; rfl

theorem cohByte_mergeWrite {s : State} (hs : MergeSound s) (sp : Nat) {a : Nat} {bs : List Byte} (ha : OneLine a bs) :
    cohByte (mergeWrite sp a bs s) = putAt (cohByte s) a bs := by
  cases h : mergeOf s (a / 64) with
  | some l => exact cohByte_mergeWrite_hit sp ha h
  | none =>
    obtain ⟨x, hx, he⟩ := mergeWrite_miss (sp := sp) (bs := bs) h
    have hn : mergeOf x (a / 64) = none := by
      rcases hx with rfl | ⟨line, rfl⟩
      · exact h
      · rw [mergeOf, merge_drainLine, find_filter_line]
        split
        · rfl
        · exact h
    have hc : cohByte x = cohByte s := by
      rcases hx with rfl | ⟨line, rfl⟩
      · rfl
      · exact cohByte_drainLine hs line
    rw [he, cohByte_mergeNew sp ha hn, hc]

theorem homeLea_none {s : State} {a : Nat} (h : homeLea s a = none) : cacheLeas s = [] := by
  rw [homeLea] at h
  by_contra hc
  rw [if_neg (by rw [List.isEmpty_iff]; exact hc), List.getElem?_eq_none_iff] at h
  exact absurd (Nat.mod_lt (a / 256) (List.length_pos_iff.mpr hc)) (by omega)

/-- A coherent write inside a line (R212, R214). -/
theorem cohByte_cohWriteLine {s : State} (hs : MergeSound s) {a : Nat} {bs : List Byte} (ha : OneLine a bs) :
    cohByte (cohWriteLine a bs s) = putAt (cohByte s) a bs := by
  rw [cohWriteLine]
  split
  · next h => exact cohByte_dramWrite (hs.2.2 (homeLea_none h)) a bs
  · exact cohByte_mergeWrite hs _ ha

theorem roles_mergeWrite (sp a : Nat) (bs : List Byte) (s : State) : (mergeWrite sp a bs s).mem.roles = s.mem.roles
    ∧ (mergeWrite sp a bs s).mem.skein = s.mem.skein := by
  cases h : mergeOf s (a / 64) with
  | some l => rw [mergeWrite]; dsimp only; rw [h]; exact ⟨rfl, rfl⟩
  | none =>
    obtain ⟨x, hx, he⟩ := mergeWrite_miss (sp := sp) (bs := bs) h
    rw [he]
    rcases hx with rfl | ⟨line, rfl⟩
    · exact ⟨rfl, rfl⟩
    · refine ⟨roles_drainLine line s, ?_⟩
      change (drainLine line s).mem.skein = _
      cases h : mergeOf s line with
      | none => rw [drainLine_of_none h]
      | some l => exact (congrArg MemSt.skein (memCore_drainLine h) :)

theorem roles_cohWriteLine (a : Nat) (bs : List Byte) (s : State) : (cohWriteLine a bs s).mem.roles = s.mem.roles
    ∧ (cohWriteLine a bs s).mem.skein = s.mem.skein := by
  rw [cohWriteLine]
  split
  · exact ⟨(congrArg MemSt.roles (memCore_dramWrite a bs s) :), (congrArg MemSt.skein (memCore_dramWrite a bs s) :)⟩
  · exact roles_mergeWrite _ a bs s

theorem memCore_skeinWrite (off : Nat) (bs : List Byte) (s : State) : memCore (skeinWrite off bs s) =
    { memCore s with skein := putBytes noByte s.mem.skein off bs } := by
  unfold skeinWrite
  extract_lets whole part m0 s1
  have h1 : memCore s1 = { memCore s with skein := putBytes noByte s.mem.skein off bs } := rfl
  rw [← h1]
  clear_value s1 part
  induction part generalizing s1 with
  | nil => rfl
  | cons g t ih =>
    have hg := memCore_of_mem (mem_noteSkeinUe (0x100000000000 + g * 8) s1)
    rw [List.foldl_cons, ih _ (hg.trans h1), hg]

theorem skeinByte_skeinWrite (off : Nat) (bs : List Byte) (s : State) : skeinByte (skeinWrite off bs s) = putAt (skeinByte s) off bs := by
  have h : (skeinWrite off bs s).mem.skein = putBytes noByte s.mem.skein off bs := (congrArg MemSt.skein (memCore_skeinWrite off bs s) :)
  funext o
  rw [skeinByte, h, get_putBytes]
  rfl

/-! ### Every merge buffer drained -/

theorem moves_drainAll (s : State) : Moves memFld offMem s (drainAll s) := .foldl _ s fun _ _ s => moves_drainLine _ s

theorem merge_foldl_drainLine (ls : List MergeLine) (s : State) : ∀ x ∈ (ls.foldl (fun s l => drainLine l.line s) s).mem.merge,
    x ∈ s.mem.merge ∧ ∀ y ∈ ls, x.line ≠ y.line := by
  induction ls generalizing s with
  | nil => exact fun x hx => ⟨hx, fun _ h => absurd h List.not_mem_nil⟩
  | cons l ls ih =>
    intro x hx
    obtain ⟨h1, h2⟩ := ih _ x hx
    rw [merge_drainLine, List.mem_filter, decide_eq_true_iff] at h1
    exact ⟨h1.1, fun y hy => (List.mem_cons.mp hy).elim (fun e => e ▸ h1.2) (h2 y)⟩

/-- No line is left in a merge buffer (R211, R322). -/
theorem merge_drainAll (s : State) : (drainAll s).mem.merge = [] := by
  refine List.eq_nil_iff_forall_not_mem.mpr fun x hx => ?_
  obtain ⟨h1, h2⟩ := merge_foldl_drainLine _ s x hx
  exact h2 x (List.mem_reverse.mpr h1) rfl

theorem content_foldl_drainLine (ls : List MergeLine) {s : State} (hs : MergeSound s) :
    cohByte (ls.foldl (fun s l => drainLine l.line s) s) = cohByte s
      ∧ skeinByte (ls.foldl (fun s l => drainLine l.line s) s) = skeinByte s
      ∧ (ls.foldl (fun s l => drainLine l.line s) s).mem.roles = s.mem.roles := by
  induction ls generalizing s with
  | nil => exact ⟨rfl, rfl, rfl⟩
  | cons l ls ih =>
    obtain ⟨h1, h2, h3⟩ := ih (mergeSound_drainLine hs l.line)
    rw [List.foldl_cons, h1, h2, h3]
    exact ⟨cohByte_drainLine hs _, skein_drainLine _ s, roles_drainLine _ s⟩

end Sys2Proof.Machine
end

section
/-! SUPPORT. The device physical map and what readers of memory see (Table 6-2). -/

namespace Sys2Proof.Machine

open Sys2Proof Sys2Proof.Safety Sys2Proof.Claims

/-! ### The map -/

/-- A field of the host block but INT_STATUS is apart from all a memory operation writes. -/
theorem memFld_apart {f : Fld} (h : f.reg < C 0xC0000) (h18 : f.reg ≠ 0x18) : ∀ g, memFld g → f.Apart g := fun g hg => .inl (by
  rcases hg with e | e
  · rw [e]; exact h18
  · omega)

/-- Nor does one write DBG_CNT. -/
theorem memFld_apart_hold {f : Fld} (h : f.reg = C 0xD0040) : ∀ g, memFld g → f.Apart g := fun g hg => .inl (by
  rcases hg with e | e
  · rw [e, h]; decide
  · exact fun he => e.2 (he ▸ h))

variable {s t : State}

theorem Keeps.memFld_fld {view : State → State} (h : Keeps memFld view s t) (f : Fld) (hf : f.hi < 32) (hr : f.reg < C 0xC0000) (h18 : f.reg ≠ 0x18) :
    t.fld f = s.fld f := h.fld f hf (memFld_apart hr h18)

theorem dramBytes_of_keeps (h : Keeps memFld offMem s t) : dramBytes t = dramBytes s := by
  rw [dramBytes, dramBytes, h.flag (by decide) (memFld_apart (by decide) (by decide)), h.memFld_fld _ (by decide) (by decide) (by decide)]

theorem peerOpen_of_keeps (h : Keeps memFld offMem s t) {port : Nat} (hp : port < 4) (off : Nat) : peerOpen t port off = peerOpen s port off := by
  rw [peerOpen, peerOpen, h.memFld_fld ⟨0x9C, 8 * port + 6, 8 * port + 4⟩ (by change 8 * port + 6 < 32; omega) (by simp only [C_eq]; omega)
      (show 0x9C ≠ 0x18 by decide),
    h.flag (f := ⟨C (0x90010 + 0x4000 * port + 4 * (off / 2 ^ 40 % 4)), 31, 31⟩) (by change 31 < 32; decide)
      (memFld_apart (by simp only [C_eq]; omega) (by simp only [C_eq]; omega))]

/-- A memory operation that keeps the roles keeps the map. -/
theorem target_of_keeps (h : Keeps memFld offMem s t) (hr : t.mem.roles = s.mem.roles) (pa : Nat) : target t pa = target s pa := by
  have hrole : ∀ l, roleOf t l = roleOf s l := fun l => by rw [roleOf, roleOf, hr]
  rw [target, target, dramBytes_of_keeps h]
  dsimp only
  rw [hrole]
  by_cases hw : 0x200000000000 ≤ pa ∧ pa < 0x300000000000
  · rw [peerOpen_of_keeps h (by omega)]
  · simp only [Bool.and_eq_true, decide_eq_true_eq, if_neg hw]

theorem target_dram {a pa : Nat} (h : target s pa = .dram a) : a = pa ∧ pa < 0x800000000 ∧ pa < dramBytes s / 32 * 31 := by
  rw [target] at h
  dsimp only at h
  split at h
  · split at h
    · next h1 h2 => exact ⟨(Tgt.dram.inj h).symm, h1, h2⟩
    · exact absurd h (by simp)
  split at h
  · split at h <;> exact absurd h (by simp)
  split at h
  · exact absurd h (by simp)
  split at h
  · split at h <;> exact absurd h (by simp)
  · exact absurd h (by simp)

theorem target_of_dram {pa : Nat} (h : pa < 0x800000000) (hd : pa < dramBytes s / 32 * 31) : target s pa = .dram pa := by
  rw [target, if_pos h, if_pos hd]

theorem target_skein {o pa : Nat} (h : target s pa = .skein o) : 0x100000000000 ≤ pa ∧ pa < 0x100002000000 ∧ o = pa - 0x100000000000
    ∧ (roleOf s (o / 65536) = 0 ∨ roleOf s (o / 65536) = 3) := by
  rw [target] at h
  dsimp only at h
  split at h
  · split at h <;> exact absurd h (by simp)
  split at h
  · next h1 =>
    rw [Bool.and_eq_true, decide_eq_true_iff, decide_eq_true_iff] at h1
    split at h
    · next h2 =>
      obtain rfl := Tgt.skein.inj h
      rw [Bool.or_eq_true, decide_eq_true_iff, decide_eq_true_iff] at h2
      exact ⟨h1.1, h1.2, rfl, h2⟩
    · exact absurd h (by simp)
  split at h
  · exact absurd h (by simp)
  split at h
  · split at h <;> exact absurd h (by simp)
  · exact absurd h (by simp)

theorem target_of_skein {pa : Nat} (h : 0x100000000000 ≤ pa) (h2 : pa < 0x100002000000)
    (hr : roleOf s ((pa - 0x100000000000) / 65536) = 0 ∨ roleOf s ((pa - 0x100000000000) / 65536) = 3) :
    target s pa = .skein (pa - 0x100000000000) := by
  rw [target, if_neg (by omega), if_pos (by simp [h, h2])]
  dsimp only
  rw [if_pos (by rcases hr with e | e <;> rw [e] <;> decide)]

/-! ### Reads -/

theorem memRead_dram {a pa : Nat} (h : target s pa = .dram a) (n : Nat) : memRead s pa n = cohBytes s a n := by rw [memRead, h]

theorem memRead_skein {o pa : Nat} (h : target s pa = .skein o) (n : Nat) : memRead s pa n = getBytes noByte s.mem.skein o n := by rw [memRead, h]

theorem cohBytes_of_cohByte (h : cohByte t = cohByte s) (a n : Nat) : cohBytes t a n = cohBytes s a n := by
  induction n generalizing a with
  | zero => rfl
  | succ n ih => rw [cohBytes, cohBytes, h, ih]

theorem getBytes_of_skeinByte (h : skeinByte t = skeinByte s) (a n : Nat) : getBytes noByte t.mem.skein a n = getBytes noByte s.mem.skein a n := by
  induction n generalizing a with
  | zero => rfl
  | succ n ih => rw [getBytes, getBytes, ih]; exact congrArg (· :: _) (congrFun h a)

/-- From s to t memory is mapped as it was, and reads d in DRAM and k in skein. -/
structure MemTo (s t : State) (d k : Nat → Byte) : Prop where
  target : ∀ pa, target t pa = target s pa
  dram : cohByte t = d
  skein : skeinByte t = k

/-- Memory is mapped and reads as it did. -/
def SameMem (s t : State) : Prop := MemTo s t (cohByte s) (skeinByte s)

theorem SameMem.refl (s : State) : SameMem s s := ⟨fun _ => rfl, rfl, rfl⟩

theorem SameMem.trans {u : State} {d k : Nat → Byte} (h : SameMem s t) (g : MemTo t u d k) : MemTo s u d k :=
  ⟨fun pa => (g.target pa).trans (h.target pa), g.dram, g.skein⟩

theorem MemTo.trans_same {u : State} {d k : Nat → Byte} (h : MemTo s t d k) (g : SameMem t u) : MemTo s u d k :=
  ⟨fun pa => (g.target pa).trans (h.target pa), g.dram.trans h.dram, g.skein.trans h.skein⟩

theorem SameMem.comp {u : State} (h : SameMem s t) (g : SameMem t u) : SameMem s u := MemTo.trans_same h g

theorem sameMem_of_core (h : Keeps memFld offMem s t) (hc : memCore t = memCore s) : SameMem s t :=
  ⟨target_of_keeps h (roles_of_core hc), cohByte_of_core hc, skeinByte_of_core hc⟩

theorem SameMem.memRead (h : SameMem s t) {pa : Nat} (hm : isMem s pa) (n : Nat) : memRead t pa n = memRead s pa n := by
  rcases hm with ⟨a, ha⟩ | ⟨o, ho⟩
  · rw [memRead_dram ((h.target pa).trans ha), memRead_dram ha, cohBytes_of_cohByte h.dram]
  · rw [memRead_skein ((h.target pa).trans ho), memRead_skein ho, getBytes_of_skeinByte h.skein]

theorem SameMem.memKept (h : SameMem s t) : MemKept s t := fun _ hx => h.memRead hx 1

theorem isMem_of_target (h : ∀ pa, target t pa = target s pa) {pa : Nat} (hm : isMem s pa) : isMem t pa := by
  rw [isMem, h]; exact hm

theorem sameMem_drainAll (hs : MergeSound s) : SameMem s (drainAll s) := by
  obtain ⟨h1, h2, h3⟩ := content_foldl_drainLine s.mem.merge.reverse hs
  exact ⟨target_of_keeps (moves_drainAll s).keeps h3, h1, h2⟩

/-! ### Writes -/

/-- Bytes put into DRAM below the check store are what later readers see there, and nowhere else. -/
theorem wrote_dram {a : Nat} {bs : List Byte} (h : MemTo s t (putAt (cohByte s) a bs) (skeinByte s))
    (hin : ∀ i < bs.length, target s (a + i) = .dram (a + i)) : Wrote s t a bs := by
  refine ⟨fun i hi => ?_, fun x hx ho => ?_⟩
  · rw [memRead_dram ((h.target _).trans (hin i hi)), cohBytes, cohBytes, h.dram, putAt_in hi]
  · rcases hx with ⟨b, hb⟩ | ⟨o, hb⟩
    · obtain ⟨rfl, -⟩ := target_dram hb
      rw [memRead_dram ((h.target _).trans hb), memRead_dram hb, cohBytes, cohBytes, h.dram, putAt_out ho, cohBytes, cohBytes]
    · rw [memRead_skein ((h.target _).trans hb), memRead_skein hb, getBytes_of_skeinByte h.skein]

/-- Bytes put into skein, likewise. -/
theorem wrote_skein {a o : Nat} {bs : List Byte} (ha : target s a = .skein o) (h : MemTo s t (cohByte s) (putAt (skeinByte s) o bs))
    (hin : ∀ i < bs.length, target s (a + i) = .skein (o + i)) : Wrote s t a bs := by
  obtain ⟨hlo, -, hao, -⟩ := target_skein ha
  refine ⟨fun i hi => ?_, fun x hx ho => ?_⟩
  · rw [memRead_skein ((h.target _).trans (hin i hi)), getBytes, getBytes]
    exact congrArg (· :: []) ((congrFun h.skein _).trans (putAt_in hi))
  · rcases hx with ⟨b, hb⟩ | ⟨p, hb⟩
    · rw [memRead_dram ((h.target _).trans hb), memRead_dram hb, cohBytes_of_cohByte h.dram]
    · obtain ⟨hxlo, -, hxo, -⟩ := target_skein hb
      rw [memRead_skein ((h.target _).trans hb), memRead_skein hb, getBytes, getBytes, getBytes, getBytes]
      exact congrArg (· :: []) ((congrFun h.skein _).trans (putAt_out (by omega)))

/-- An aligned word lies in one target. -/
theorem target_word_dram {a : Nat} (h : target s a = .dram a) (h4 : a % 4 = 0) {i : Nat} (hi : i < 4) : target s (a + i) = .dram (a + i) := by
  obtain ⟨-, h1, h2⟩ := target_dram h
  have hg : dramBytes s / 32 * 31 % 4 = 0 := by
    rw [dramBytes]
    split
    · rw [show s.fld fDramGib * 2 ^ 30 = s.fld fDramGib * 2 ^ 25 * 32 by ring, Nat.mul_div_cancel _ (by decide)]; omega
    · rfl
  have hlt : a + i < dramBytes s / 32 * 31 := by
    generalize dramBytes s / 32 * 31 = n at h2 hg ⊢
    omega
  exact target_of_dram (by omega) hlt

theorem target_word_skein {a o : Nat} (h : target s a = .skein o) (h4 : a % 4 = 0) {i : Nat} (hi : i < 4) : target s (a + i) = .skein (o + i) := by
  obtain ⟨hlo, hhi, he, hr⟩ := target_skein h
  rw [he] at hr ⊢
  have ho : a + i - 0x100000000000 = a - 0x100000000000 + i := by omega
  have hd : (a + i - 0x100000000000) / 65536 = (a - 0x100000000000) / 65536 := by omega
  rw [← ho]
  exact target_of_skein (by omega) (by omega) (by rw [hd]; exact hr)

theorem sameMem_lookups (load uncached : Bool) (l : List Nat) (s : State) : SameMem s (l.foldl (fun s a => lookup load uncached a s) s)
    ∧ memCore (l.foldl (fun s a => lookup load uncached a s) s) = memCore s := by
  have hc : memCore (l.foldl (fun s a => lookup load uncached a s) s) = memCore s := by
    induction l generalizing s with
    | nil => rfl
    | cons a l ih => rw [List.foldl_cons, ih, memCore_lookup]
  exact ⟨sameMem_of_core (Moves.foldl l s fun _ _ s => moves_lookup load uncached _ s).keeps hc, hc⟩

theorem oneLine_word {a : Nat} (h4 : a % 4 = 0) {bs : List Byte} (hb : bs.length = 4) : OneLine a bs := fun k hk hl => by omega

theorem splitLines_word {a : Nat} (h4 : a % 4 = 0) {bs : List Byte} (hb : bs.length = 4) : splitLines 5 a bs = [(a, bs)] := by
  have hk : bs.length ≤ 64 - a % 64 := by omega
  have hne : bs.isEmpty = false := by
    rw [List.isEmpty_eq_false_iff]
    exact List.ne_nil_of_length_pos (by rw [hb]; decide)
  rw [splitLines, hne, if_neg (by decide)]
  dsimp only
  rw [List.take_of_length_le hk, List.drop_of_length_le hk]
  rfl

/-- A coherent write of an aligned word of memory (R212, R214). -/
theorem wrote_memWrite (hs : MergeSound s) {a : Nat} (h4 : a % 4 = 0) (hm : isMem s a) {bs : List Byte} (hb : bs.length = 4) :
    MemTo s (memWrite false a bs s) (cohByte (memWrite false a bs s)) (skeinByte (memWrite false a bs s)) ∧ Wrote s (memWrite false a bs s) a bs := by
  rw [memWrite]
  obtain ⟨h1, hc⟩ := sameMem_lookups false false (linesOf a bs.length) s
  generalize (linesOf a bs.length).foldl (fun s a => lookup false false a s) s = x at h1 hc
  have hsx := mergeSound_of_core hc hs
  have hk := moves_memPut false a bs x
  rcases hm with ⟨b, ha⟩ | ⟨o, ha⟩
  · obtain ⟨rfl, -⟩ := target_dram ha
    have hput : memPut false b bs x = cohWriteLine b bs x := by
      rw [memPut, (h1.target b).trans ha, hb]
      dsimp only
      rw [splitLines_word h4 hb]
      rfl
    obtain ⟨hr, hsk⟩ := roles_cohWriteLine b bs x
    have hto : MemTo s (memPut false b bs x) (putAt (cohByte s) b bs) (skeinByte s) := by
      rw [hput] at hk ⊢
      refine h1.trans ⟨target_of_keeps hk.keeps hr, ?_, ?_⟩
      · rw [cohByte_cohWriteLine hsx (oneLine_word h4 hb), h1.dram]
      · exact (funext fun o => congrArg (fun m => Sparse.get noByte m o) hsk).trans h1.skein
    exact ⟨⟨hto.target, rfl, rfl⟩, wrote_dram hto fun i hi => target_word_dram ha h4 (hb ▸ hi)⟩
  · have hput : memPut false a bs x = skeinWrite o bs x := by rw [memPut, (h1.target a).trans ha]
    have hcs := memCore_skeinWrite o bs x
    have hto : MemTo s (memPut false a bs x) (cohByte s) (putAt (skeinByte s) o bs) := by
      rw [hput] at hk ⊢
      refine h1.trans ⟨target_of_keeps hk.keeps (congrArg MemSt.roles hcs :), ?_, ?_⟩
      · refine (cohByte_of_core (s := { x with mem := { x.mem with skein := putBytes noByte x.mem.skein o bs } }) hcs).trans ?_
        exact Eq.trans rfl h1.dram
      · rw [skeinByte_skeinWrite, h1.skein]
    exact ⟨⟨hto.target, rfl, rfl⟩, wrote_skein ha hto fun i hi => target_word_skein ha h4 (hb ▸ hi)⟩

end Sys2Proof.Machine
end

section
/-! PROOFS. O11: host reads, the windows and the page drain (R55, R60-R62, R66, R67, R78, R79). -/

namespace Sys2Proof.Machine

open Sys2Proof Sys2Proof.Safety Sys2Proof.Claims

variable {s t : State}

/-! ### Why an access fails -/

theorem interior_of_keeps (h : Keeps memFld offMem s t) : interior t = interior s := by
  have hc : t.core = s.core := (congrArg State.core h.view :)
  rw [interior, interior, h.flag (by decide) (memFld_apart (by decide) (by decide)), hc]

theorem target_ctl {off pa : Nat} (h : target s pa = .ctl off) : 0x800000000 ≤ pa ∧ pa = 0x110000000000 + off := by
  rw [target] at h
  dsimp only at h
  split at h
  · split at h <;> exact absurd h (by simp)
  split at h
  · split at h <;> exact absurd h (by simp)
  split at h
  · next h1 =>
    rw [Bool.and_eq_true, decide_eq_true_iff, decide_eq_true_iff] at h1
    have := Tgt.ctl.inj h
    omega
  split at h
  · split at h <;> exact absurd h (by simp)
  · exact absurd h (by simp)

theorem winFail_ctl (hi : interior s = true) {pa off : Nat} (h : target s pa = .ctl off) : winFail s pa = ctlErr s off := by
  have hlo := (target_ctl h).1
  rw [winFail, hi, if_neg (by decide), if_neg (by omega), h]

theorem winFail_isMem (hr : running s = true) {pa : Nat} (h : isMem s pa) : winFail s pa = 0 := by
  have hi := interior_of_running hr
  have hb : s.boot.released = true := (Bool.and_eq_true_iff.mp hr).2
  rcases h with ⟨a, ha⟩ | ⟨o, ho⟩
  · obtain ⟨-, hlo, hd⟩ := target_dram ha
    have hready : s.flag fDramReady = true := by
      by_contra hc
      rw [dramBytes, if_neg hc] at hd
      omega
    rw [winFail, hi, hready, if_neg (by decide), if_pos hlo, if_neg (by decide), ha]
  · obtain ⟨hlo, -⟩ := target_skein ho
    rw [winFail, hi, if_neg (by decide), if_neg (by omega), ho]
    dsimp only
    rw [hb, if_pos rfl]

theorem ctlErr_lt (s : State) (off : Nat) : ctlErr s off < 8 := by
  rw [ctlErr]
  split
  · decide
  split
  · decide
  split <;> decide

/-- The causes of R79 are what a window finds. -/
theorem winFail_failsWith (hi : interior s = true) {a code : Nat} (h : FailsWith s a code) : winFail s a = code ∧ code ≠ 0 ∧ code < 8 := by
  rcases h with ⟨hlo, hd, rfl⟩ | ⟨hlo, hd, ht, rfl⟩ | ⟨hhi, ht, rfl⟩ | ⟨hhi, off, ht, he, hne⟩
  · refine ⟨?_, by decide, by decide⟩
    rw [winFail, hi, hd, if_neg (by decide), if_pos hlo]
    rfl
  · refine ⟨?_, by decide, by decide⟩
    rw [winFail, hi, hd, if_neg (by decide), if_pos hlo, if_neg (by decide), ht]
  · refine ⟨?_, by decide, by decide⟩
    rw [winFail, hi, if_neg (by decide), if_neg (by omega)]
    rcases ht with ht | ⟨port, off, ht⟩ <;> rw [ht]
  · exact ⟨(winFail_ctl hi ht).trans he, hne, he ▸ ctlErr_lt s off⟩

/-! ### An access that fails -/

/-- The registers of a failed access. -/
theorem reg_winError {w code r : Nat} (h18 : r ≠ 0x18) (h : r ≠ (fWinErr w).reg) (s : State) : (winError w code s).reg r = s.reg r := by
  rw [winError]
  refine (State.reg_setFld_of_ne (f := ⟨0x18, iWinErr, iWinErr⟩) (Ne.symm h18)).trans ?_
  split
  · exact State.reg_setFld_of_ne (Ne.symm h)
  · rfl

theorem status_winError (w code : Nat) (s : State) : (winError w code s).reg 0x18 = s.reg 0x18 ||| 1#32 <<< 14 := by
  rw [winError, reg_raiseInt _ _ (by decide)]
  split
  · rw [State.reg_setFld_of_ne (winHi_ne w (by decide))]; rfl
  · rfl

/-- The first ERR is kept (R79). -/
theorem err_winError {w code : Nat} (hc : code < 8) (s : State) :
    (winError w code s).fld (fWinErr w) = if s.fld (fWinErr w) = 0 then code else s.fld (fWinErr w) := by
  rw [winError]
  refine (State.fld_setReg_of_ne _ (fWinErr w) 0x18 _ (Ne.symm (winHi_ne w (by decide)))).trans ?_
  split
  · rw [State.fld_setFld _ _ _ (show 31 < 32 by decide)]
    exact Nat.mod_eq_of_lt hc
  · rfl

/-- All but the registers. -/
theorem offRegs_winError (w code : Nat) (s : State) : offRegs (winError w code s) = offRegs s := by
  rw [winError]
  split <;> rfl

/-- Bits 15:0 of an address register are kept through a failure. -/
theorem winAddr_winError (w code : Nat) (s : State) : winAddr (winError w code s) w = winAddr s w := by
  have hlo : (winError w code s).fld ⟨winLo w, 31, 2⟩ = s.fld ⟨winLo w, 31, 2⟩ := by
    rw [State.fld, State.fld, reg_winError (winLo_ne w (by decide)) (winLo_ne_winHi w)]
  have hhi : (winError w code s).fld ⟨winHi w, 15, 0⟩ = s.fld ⟨winHi w, 15, 0⟩ := by
    rw [winError]
    refine (State.fld_setReg_of_ne _ ⟨winHi w, 15, 0⟩ 0x18 _ (Ne.symm (winHi_ne w (by decide)))).trans ?_
    split
    · exact State.fld_setFld_of_apart (show 15 < 32 by decide) (.inr (.inl (show 15 < 29 by decide)))
    · rfl
  rw [winAddr, winAddr, hlo, hhi]

/-! ### The address moves -/

theorem reg_winStep {w r : Nat} (hl : r ≠ winLo w) (hh : r ≠ winHi w) (s : State) : (winStep w s).reg r = s.reg r := by
  rw [winStep]
  refine State.reg_setFlds_of_ne _ s fun e he => ?_
  simp only [List.mem_cons, List.not_mem_nil, or_false] at he
  rcases he with rfl | rfl
  · exact Ne.symm hl
  · exact Ne.symm hh

theorem winAddr_winStep (w : Nat) (s : State) : winAddr (winStep w s) w = (winAddr s w + 4) % 2 ^ 48 := by
  have hp : ∀ x y : Nat, ([(⟨winLo w, 31, 2⟩, x), (⟨winHi w, 15, 0⟩, y)] : List (Fld × Nat)).Pairwise fun a b => a.1.Apart b.1 := fun x y => by
    rw [List.pairwise_pair]; exact .inl (winLo_ne_winHi w)
  have hlo : (winStep w s).fld ⟨winLo w, 31, 2⟩ = (winAddr s w + 4) % 2 ^ 48 / 4 % 2 ^ 30 :=
    State.fld_setFlds_mem _ s (show 31 < 32 by decide) (List.mem_cons_self) (hp _ _)
  have hhi : (winStep w s).fld ⟨winHi w, 15, 0⟩ = (winAddr s w + 4) % 2 ^ 48 / 2 ^ 32 % 2 ^ 16 :=
    State.fld_setFlds_mem _ s (show 15 < 32 by decide) (List.mem_cons_of_mem _ List.mem_cons_self) (hp _ _)
  have h4 : winAddr s w % 4 = 0 := by rw [winAddr]; omega
  rw [winAddr, hlo, hhi]
  omega

/-- ERR is apart from the address. -/
theorem err_winStep (w : Nat) (s : State) : (winStep w s).fld (fWinErr w) = s.fld (fWinErr w) := by
  rw [winStep]
  refine State.fld_setFlds_of_apart _ s (show 31 < 32 by decide) fun e he => ?_
  simp only [List.mem_cons, List.not_mem_nil, or_false] at he
  rcases he with rfl | rfl
  · exact .inl (Ne.symm (winLo_ne_winHi w))
  · exact .inr (.inr (show 15 < 29 by decide))

/-! ### Bus cycles -/

/-- A host read that the block answers, with nothing posted: the state it leaves has the word on HD. -/
theorem ends_hostRead {c : Instr} {f : State → W32 × State} {v : W32} {q : State → Prop} (hx : exec c s = done (hostRead f s))
    (hi : interior s = true) (hp : s.host.posted = []) (hf : f s = (v, t))
    (hq : ∀ x, x.host = { t.host with hd := v } → { x with host := t.host } = t → q (refresh x)) : Ends c s q := by
  refine ends_of_done (x := { t with host := { t.host with hd := v } }) ?_ (hq _ rfl rfl)
  obtain ⟨-, -, -, hl, -⟩ := (interior_iff s).mp hi
  rw [hx, hostRead, if_neg (by rw [hl]; decide), if_neg (by rw [hostServed_of_interior hi]; decide), drainHost_of_posted_nil hp, hf]

theorem regs_of_offHost {x : State} (h : { x with host := t.host } = t) : x.regs = t.regs := (congrArg State.regs h :)

/-- In a clock-loss stop every read gives zero (R55). -/
theorem ends_hostRead_clockLost {c : Instr} {f : State → W32 × State} (hx : exec c s = done (hostRead f s)) (hl : s.core.clockLost ≠ none) :
    Ends c s fun u => u.host = { s.host with hd := 0#32 } ∧ u.core = s.core ∧ RegsKept s u [] := by
  rw [hostRead, if_pos (by rw [Option.isSome_iff_ne_none]; exact hl)] at hx
  exact ends_of_done hx ⟨rfl, rfl, regsKept_refresh fun _ _ => rfl⟩

theorem ends_timebaseLoRead (hs : hostServed s = true) (hl : s.core.clockLost = none) :
    let d := drainHost s
    let t := if inDoze d then d.core.carryC else d.core.timebase
    Ends .timebaseLoRead s fun u => u.host = { d.host with hd := BitVec.ofNat 32 (t.toNat % 2 ^ 32) }
      ∧ u.core = { d.core with tbShadow := BitVec.ofNat 32 (t.toNat / 2 ^ 32) } ∧ RegsKept d u [] := by
  dsimp only
  have hx : exec .timebaseLoRead s = done (hostRead timebaseRead s) := rfl
  rw [hostRead, if_neg (by rw [hl]; decide), if_neg (by rw [hs]; decide)] at hx
  generalize drainHost s = d at hx ⊢
  refine ends_of_done hx ⟨?_, rfl, regsKept_refresh fun _ _ => rfl⟩
  refine congrArg (fun v => { d.host with hd := v }) (BitVec.eq_of_toNat_eq ?_)
  rw [BitVec.toNat_ofNat, Nat.mod_mod]
  exact BitVec.toNat_ofNat _ _

theorem ends_counterLoRead {off : BitVec 24} (he : ctlErr s off.toNat = 0) (hc : isCounter off.toNat = true) (h8 : off.toNat % 8 = 0) :
    Ends (.counterLoRead off) s fun u => RegsKept s u []
      ∧ Sparse.get (fun _ => 0#32) u.host.latches (off.toNat + 4) = s.reg (C (off.toNat + 4))
      ∧ ∀ k, k ≠ off.toNat + 4 → Sparse.get (fun _ => 0#32) u.host.latches k = Sparse.get (fun _ => 0#32) s.host.latches k := by
  have hx : exec (.counterLoRead off) s = done (onlyIf (ctlErr s off.toNat = 0) (counterLatch off.toNat) s) := rfl
  rw [onlyIf, if_pos (decide_eq_true he), counterLatch, if_pos (by rw [hc, h8]; rfl)] at hx
  refine ends_of_done hx ⟨regsKept_refresh fun _ _ => rfl, ?_, fun k hk => ?_⟩
  · exact (Sparse.get_put _ _ _ _ _).trans (if_pos rfl)
  · exact (Sparse.get_put _ _ _ _ _).trans (if_neg (Ne.symm hk))

end Sys2Proof.Machine
end

section
/-! PROOFS. O11: what window accesses do (R61, R62, R66, R67, R79). -/

namespace Sys2Proof.Machine

open Sys2Proof Sys2Proof.Safety Sys2Proof.Claims

variable {s t : State}

/-! ### Memory through register writes -/

/-- The registers that decide the map, and memory, are all that readers of memory see. -/
theorem sameMem_of_map (h : ∀ r, r < 0x100 ∧ r ∉ [0x18, 0x2C, 0x30, 0x40] ∨ C 0x90000 ≤ r → t.reg r = s.reg r) (hm : t.mem = s.mem) : SameMem s t := by
  have hf : ∀ f : Fld, f.reg < 0x100 ∧ f.reg ∉ [0x18, 0x2C, 0x30, 0x40] ∨ C 0x90000 ≤ f.reg → t.fld f = s.fld f := fun f hf => by
    rw [State.fld, State.fld, h _ hf]
  have hrole : ∀ l, roleOf t l = roleOf s l := fun l => by rw [roleOf, roleOf, hm]
  have hd : dramBytes t = dramBytes s := by
    rw [dramBytes, dramBytes, State.flag, State.flag, hf fDramReady (.inl (by decide)), hf fDramGib (.inl (by decide))]
  have hp : ∀ port off, peerOpen t port off = peerOpen s port off := fun port off => by
    rw [peerOpen, peerOpen, State.flag, State.flag, hf ⟨0x9C, 8 * port + 6, 8 * port + 4⟩ (.inl (show 0x9C < 0x100 ∧ 0x9C ∉ _ by decide)),
      hf ⟨C (0x90010 + 0x4000 * port + 4 * (off / 2 ^ 40 % 4)), 31, 31⟩ (.inr (by simp only [C_eq]; omega))]
  refine ⟨fun pa => ?_, cohByte_of_core (memCore_of_mem hm), skeinByte_of_core (memCore_of_mem hm)⟩
  rw [target, target, hd]
  dsimp only
  rw [hrole, hp]

/-- The registers that no window access, no refresh and no failure writes decide the map. -/
theorem sameMem_of_regs (h : ∀ r, r ∉ [0x18, 0x2C, 0x30, 0x40] → t.reg r = s.reg r) (hm : t.mem = s.mem) : SameMem s t :=
  sameMem_of_map (fun r hr => h r (hr.elim And.right fun hc => by
    simp only [C_eq] at hc
    simp only [List.mem_cons, List.not_mem_nil, or_false, not_or]; omega)) hm

theorem sameMem_refresh (s : State) : SameMem s (refresh s) :=
  sameMem_of_regs (fun r h => reg_refresh_of_ne s (by rintro rfl; exact h (by decide))) rfl

/-- A word on HD changes nothing in memory. -/
theorem sameMem_of_offHost {x : State} (h : { x with host := t.host } = t) : SameMem t (refresh x) :=
  (sameMem_of_regs (fun _ _ => State.reg_of_regs_eq (regs_of_offHost h) _) (congrArg State.mem h :)).comp (sameMem_refresh x)

theorem wrote_trans_same {a : Nat} {bs : List Byte} {u : State} (ht : ∀ pa, target t pa = target s pa) (h : Wrote s t a bs) (g : SameMem t u)
    (hin : ∀ i < bs.length, isMem s (a + i)) : Wrote s u a bs := by
  obtain ⟨h1, h2⟩ := h
  exact ⟨fun i hi => (g.memRead (isMem_of_target ht (hin i hi)) 1).trans (h1 i hi),
    fun x hx ho => (g.memRead (isMem_of_target ht hx) 1).trans (h2 x hx ho)⟩

theorem isMem_word {a : Nat} (hm : isMem s a) (h4 : a % 4 = 0) {i : Nat} (hi : i < 4) : isMem s (a + i) := by
  rcases hm with ⟨b, hb⟩ | ⟨o, ho⟩
  · obtain ⟨rfl, -⟩ := target_dram hb
    exact .inl ⟨_, target_word_dram hb h4 hi⟩
  · exact .inr ⟨_, target_word_skein ho h4 hi⟩

/-! ### What a lookup leaves -/

/-- A state that lookups alone have changed. -/
structure Looked (s t : State) : Prop where
  moves : Moves memFld offMem s t
  cache : offCache t = offCache s

theorem Looked.refl (s : State) : Looked s s := ⟨.refl s, rfl⟩

theorem Looked.lookup (h : Looked s t) (load uncached : Bool) (pa : Nat) : Looked s (Machine.lookup load uncached pa t) :=
  ⟨h.moves.trans (moves_lookup load uncached pa t), (offCache_lookup load uncached pa t).trans h.cache⟩

theorem Looked.same (h : Looked s t) : SameMem s t := sameMem_of_core h.moves.keeps (memCore_of_offCache h.cache)

theorem Looked.log (h : Looked s t) : t.log = s.log := (congrArg Prod.snd h.cache :)

theorem Looked.host (h : Looked s t) : t.host = s.host := (congrArg State.host h.moves.keeps.view :)

theorem Looked.applying (h : Looked s t) : t.mem.applying = s.mem.applying := congrArg (fun x : MemSt × LogSt => x.1.applying) h.cache

theorem Looked.roles (h : Looked s t) : t.mem.roles = s.mem.roles := congrArg (fun x : MemSt × LogSt => x.1.roles) h.cache

theorem Looked.running (h : Looked s t) (hr : running s = true) : running t = true := by
  have hb : t.boot = s.boot := (congrArg State.boot h.moves.keeps.view :)
  rw [Machine.running, interior_of_keeps h.moves.keeps, hb]
  exact hr

theorem Looked.poisoned (h : Looked s t) (pa n : Nat) : poisoned t pa n = poisoned s pa n := by
  have h1 : t.mem.dramUe = s.mem.dramUe := congrArg (fun x : MemSt × LogSt => x.1.dramUe) h.cache
  have h2 : t.mem.skeinUe = s.mem.skeinUe := congrArg (fun x : MemSt × LogSt => x.1.skeinUe) h.cache
  rw [Machine.poisoned, Machine.poisoned, h.same.target, h1, h2]

theorem Looked.reg (h : Looked s t) {r : Nat} (hr : r < C 0xC0000) (h18 : r ≠ 0x18) : t.reg r = s.reg r :=
  h.moves.keeps.reg r fun g hg => by
    rcases hg with e | e
    · rw [e]; exact Ne.symm h18
    · omega

/-! ### Fetching a word -/

theorem settleApply_of_none (h : s.mem.applying = none) : settleApply s = s := by rw [settleApply, h]

theorem winFetch_fail (h : s.mem.applying = none) {pa code : Nat} (hf : winFail s pa = code) (hc : code ≠ 0) (e : Ecc) :
    winFetch pa e s = (code, 0#32, s) := by
  rw [winFetch, settleApply_of_none h, hf]
  dsimp only
  rw [if_pos hc]

theorem winFetch_ctl (h : s.mem.applying = none) (hi : interior s = true) {pa off : Nat} (ht : target s pa = .ctl off) (he : ctlErr s off = 0)
    (hd : inDrain off = false) (e : Ecc) : winFetch pa e s = (0, ctlPeek s off, counterLatch off s) := by
  rw [winFetch, settleApply_of_none h, winFail_ctl hi ht, he, ht]
  dsimp only
  rw [if_neg (by decide), hd, if_neg (by decide)]
  rfl

theorem winFetch_clean (h : s.mem.applying = none) (hr : running s = true) {pa : Nat} (hm : isMem s pa) (hp : poisoned s pa 4 = false) :
    winFetch pa .clean s = (0, BitVec.ofNat 32 (leNat (memRead s pa 4)), lookup true false pa s) := by
  have hread := ((Looked.refl s).lookup true false pa).same.memRead hm 4
  rw [winFetch, settleApply_of_none h, winFail_isMem hr hm]
  dsimp only
  rw [if_neg (by decide), hp]
  rcases hm with ⟨a, ha⟩ | ⟨o, ho⟩
  · rw [ha]
    exact congrArg (fun b => (0, BitVec.ofNat 32 (leNat b), lookup true false pa s)) hread
  · rw [ho]
    exact congrArg (fun b => (0, BitVec.ofNat 32 (leNat b), lookup true false pa s)) hread

theorem winFetch_uncorrectable (h : s.mem.applying = none) (hr : running s = true) {pa : Nat} (hm : isMem s pa) : ∃ x, Moves memFld offMem s x
    ∧ winFetch pa .uncorrectable s = (4, 0#32, noteUe pa x) := by
  rw [winFetch, settleApply_of_none h, winFail_isMem hr hm]
  have hl := moves_lookup true false pa s
  have hmark : ∀ x, Moves memFld offMem x (markUe pa x) := fun x => by
    rw [markUe]
    split
    · exact .ite (fun _ => .refl x) fun _ => moves_mem x _
    · exact .ite (fun _ => .refl x) fun _ => moves_mem x _
    · exact .refl x
  have hx : Moves memFld offMem s (if poisoned (lookup true false pa s) pa 4 then lookup true false pa s else markUe pa (lookup true false pa s)) :=
    .ite (fun _ => hl) fun _ => hl.trans (hmark _)
  refine ⟨_, hx, ?_⟩
  rcases hm with ⟨a, ha⟩ | ⟨o, ho⟩
  · rw [ha]; rfl
  · rw [ho]; rfl

theorem moves_noteUe (pa : Nat) (s : State) : Moves memFld offMem s (noteUe pa s) := by
  rw [noteUe]
  split
  · exact moves_noteDramUe pa s
  · exact moves_noteSkeinUe pa s

theorem flag_noteUe (pa : Nat) (s : State) : (noteUe pa s).flag ⟨0x18, 5, 5⟩ = true := by
  rw [noteUe]
  split
  · exact State.flag_setFld_one _ _ _ (by decide)
  · exact State.flag_setFld_one _ _ _ (by decide)

end Sys2Proof.Machine
end

section
/-! PROOFS. O11: the clauses of window reads and writes, and the obligation. -/

namespace Sys2Proof.Machine

open Sys2Proof Sys2Proof.Safety Sys2Proof.Claims

variable {s t : State}

/-! ### Reads through WINx_DATA -/

theorem winReg_lt (w : Nat) : winLo w < C 0xC0000 ∧ winHi w < C 0xC0000 := by
  rw [winLo, winHi]
  split <;> exact ⟨by decide, by decide⟩

theorem exec_winDataRead (w : Fin 2) (e : Ecc) (s : State) : exec (.winDataRead w e) s = done (hostRead (winRead w.val e) s) := rfl

theorem winRead_ok {w : Nat} {e : Ecc} {v : W32} (h : winFetch (winAddr s w) e s = (0, v, t)) : winRead w e s = (v, t) := by
  rw [winRead, h]
  rfl

theorem winRead_fail {w code : Nat} {e : Ecc} {v : W32} (hc : code ≠ 0) (h : winFetch (winAddr s w) e s = (code, v, t)) :
    winRead w e s = (v, winError w code t) := by
  rw [winRead, h]
  dsimp only
  rw [if_neg hc]

theorem ends_winDataRead_clean (hr : running s = true) (hp : s.host.posted = []) (ha : s.mem.applying = none) (w : Fin 2)
    (hm : isMem s (winAddr s w.val)) (hpo : poisoned s (winAddr s w.val) 4 = false) :
    Ends (.winDataRead w .clean) s fun u => u.host = { s.host with hd := BitVec.ofNat 32 (leNat (memRead s (winAddr s w.val) 4)) }
      ∧ u.reg 0x30 = s.reg 0x30 ∧ u.reg 0x40 = s.reg 0x40 ∧ MemKept s u ∧ u.log = s.log := by
  obtain ⟨x, hl, hf⟩ : ∃ x, Looked s x ∧ winRead w.val .clean s = (BitVec.ofNat 32 (leNat (memRead s (winAddr s w.val) 4)), x) :=
    ⟨_, (Looked.refl s).lookup true false (winAddr s w.val), winRead_ok (winFetch_clean ha hr hm hpo)⟩
  generalize BitVec.ofNat 32 (leNat (memRead s (winAddr s w.val) 4)) = v at hf ⊢
  refine ends_hostRead (exec_winDataRead w .clean s) (interior_of_running hr) hp hf fun y hh ho => ⟨?_, ?_, ?_, ?_, ?_⟩
  · rw [refresh_host, hh, hl.host]
  · rw [reg_refresh_of_ne _ (by decide), State.reg_of_regs_eq (regs_of_offHost ho), hl.reg (by decide) (by decide)]
  · rw [reg_refresh_of_ne _ (by decide), State.reg_of_regs_eq (regs_of_offHost ho), hl.reg (by decide) (by decide)]
  · exact SameMem.memKept (hl.same.comp (sameMem_of_offHost ho))
  · rw [refresh_log, ← hl.log]
    exact (congrArg State.log ho :)

theorem ends_winDataRead_uncorrectable (hr : running s = true) (hp : s.host.posted = []) (ha : s.mem.applying = none) (w : Fin 2)
    (hm : isMem s (winAddr s w.val)) :
    Ends (.winDataRead w .uncorrectable) s fun u => u.host = { s.host with hd := 0#32 } ∧ IntSet u 14 ∧ IntSet u 5
      ∧ u.fld (fWinErr w.val) = (if s.fld (fWinErr w.val) = 0 then 4 else s.fld (fWinErr w.val)) := by
  obtain ⟨y, hy, h5, hf⟩ : ∃ y, Moves memFld offMem s y ∧ y.flag ⟨0x18, 5, 5⟩ = true
      ∧ winFetch (winAddr s w.val) .uncorrectable s = (4, 0#32, y) := by
    obtain ⟨x, hx, hf⟩ := winFetch_uncorrectable ha hr hm
    exact ⟨_, hx.trans (moves_noteUe (winAddr s w.val) x), flag_noteUe _ x, hf⟩
  have herr : y.fld (fWinErr w.val) = s.fld (fWinErr w.val) :=
    hy.keeps.memFld_fld _ (show 31 < 32 by decide) (winReg_lt w.val).2 (winHi_ne w.val (by decide))
  have hst := status_winError w.val 4 y
  have herr2 := err_winError (w := w.val) (code := 4) (by decide) y
  have hhost : (winError w.val 4 y).host = s.host :=
    (congrArg State.host (offRegs_winError w.val 4 y) :).trans (congrArg State.host hy.keeps.view :)
  obtain ⟨z, hz⟩ : ∃ z, z = winError w.val 4 y := ⟨_, rfl⟩
  have hr := winRead_fail (by decide) hf
  rw [← hz] at hst herr2 hhost hr
  rw [flag_eq_bitN, bitN] at h5
  refine ends_hostRead (exec_winDataRead w .uncorrectable s) (interior_of_running ‹_›) hp hr fun u hh ho => ⟨?_, ?_, ?_, ?_⟩
  · rw [refresh_host, hh, hhost]
  · refine intSet_refresh ?_
    rw [flag_eq_bitN, bitN, State.reg_of_regs_eq (regs_of_offHost ho), hst, BitVec.toNat_or, Nat.testBit_or, Bool.or_eq_true]
    exact .inr (by decide)
  · refine intSet_refresh ?_
    rw [flag_eq_bitN, bitN, State.reg_of_regs_eq (regs_of_offHost ho), hst, BitVec.toNat_or, Nat.testBit_or, h5, Bool.true_or]
  · rw [fld_refresh_winErr, State.fld_of_regs_eq (regs_of_offHost ho), herr2, herr]

theorem ends_winDataRead_ctl (hr : running s = true) (hp : s.host.posted = []) (ha : s.mem.applying = none) (w : Fin 2) (e : Ecc) {off : Nat}
    (ht : target s (winAddr s w.val) = .ctl off) (he : ctlErr s off = 0) (hd : inDrain off = false) :
    Ends (.winDataRead w e) s fun u => u.host.hd = ctlPeek s off ∧ RegsKept s u [] ∧ u.mem = s.mem := by
  have hi := interior_of_running hr
  have hreg : ∀ r, (counterLatch off s).reg r = s.reg r := fun r => by
    rw [counterLatch]
    split <;> rfl
  have hmem : (counterLatch off s).mem = s.mem := by
    rw [counterLatch]
    split <;> rfl
  refine ends_hostRead (exec_winDataRead w e s) hi hp (winRead_ok (winFetch_ctl ha hi ht he hd e)) fun x hh ho =>
    ⟨?_, regsKept_refresh fun r _ => ?_, ?_⟩
  · rw [refresh_host, hh]
  · rw [State.reg_of_regs_eq (regs_of_offHost ho), hreg]
  · rw [refresh_mem, ← hmem]
    exact (congrArg State.mem ho :)

/-- What a failed access leaves behind: ERR, WIN_ERR and nothing else of the registers or of memory. -/
def Failed (s u : State) (w code : Nat) : Prop :=
  u.fld (fWinErr w) = (if s.fld (fWinErr w) = 0 then code else s.fld (fWinErr w)) ∧ Rings s u [14] ∧ RegsKept s u [0x18, (fWinErr w).reg] ∧ u.mem = s.mem

/-- A failure, but for the host's word. -/
theorem failed_winError {w code : Nat} (hc : code < 8) (hreg : t.regs = (winError w code s).regs) (hm : t.mem = s.mem) :
    Failed s (refresh t) w code := by
  refine ⟨?_, rings_refresh ?_, regsKept_refresh fun r h => ?_, hm⟩
  · rw [fld_refresh_winErr, State.fld_of_regs_eq hreg, err_winError hc]
  · rw [State.reg_of_regs_eq hreg, status_winError]; rfl
  · simp only [List.mem_cons, List.not_mem_nil, or_false, not_or] at h
    rw [State.reg_of_regs_eq hreg, reg_winError h.1 h.2]

theorem ends_winDataRead_fail (hr : running s = true) (hp : s.host.posted = []) (ha : s.mem.applying = none) (w : Fin 2) (e : Ecc) {code : Nat}
    (hf : FailsWith s (winAddr s w.val) code) :
    Ends (.winDataRead w e) s fun u => Failed s u w.val code ∧ u.host = { s.host with hd := 0#32 } := by
  have hi := interior_of_running hr
  obtain ⟨hfail, h0, h8⟩ := winFail_failsWith hi hf
  have hv := offRegs_winError w.val code s
  refine ends_hostRead (exec_winDataRead w e s) hi hp (winRead_fail h0 (winFetch_fail ha hfail h0 e)) fun x hh ho =>
    ⟨failed_winError h8 (regs_of_offHost ho) ?_, ?_⟩
  · exact (congrArg State.mem ho :).trans (congrArg State.mem hv :)
  · have hs : (winError w.val code s).host = s.host := (congrArg State.host hv :)
    rw [refresh_host, hh, hs]

/-! ### Writes through WINx_DATA -/

theorem winWrite_fail (ha : s.mem.applying = none) {w code : Nat} (hf : winFail s (winAddr s w) = code) (hc : code ≠ 0) (v : W32) :
    winWrite w v s = winError w code s := by
  rw [winWrite, settleApply_of_none ha]
  rw [hf, if_pos hc]

theorem winWrite_isMem (ha : s.mem.applying = none) (hr : running s = true) {w : Nat} (hm : isMem s (winAddr s w)) (v : W32) :
    winWrite w v s = memWrite false (winAddr s w) (leBytes 4 v.toNat) s := by
  rw [winWrite, settleApply_of_none ha]
  rw [winFail_isMem hr hm, if_neg (by decide)]
  rcases hm with ⟨a, h⟩ | ⟨o, h⟩ <;> rw [h]

theorem hostReg_winData (w : Fin 2) (v : W32) (s : State) : hostReg (if w = 0 then 0x34 else 0x44) v s = winWrite w.val v s := by
  fin_cases w <;> rfl

theorem exec_winDataWrite (hi : interior s = true) (w : Fin 2) (v : W32) (hq : (winWrite w.val v s).flag fQuiesce = false) :
    exec (.winDataWrite w v) s = done (winWrite w.val v s) := by
  change done (hostApply _ v s) = _
  rw [hostApply_of_interior hi, hostReg_winData, quiesceAgain_of_not_quiesce hq]

theorem ends_winDataWrite_fail (hr : running s = true) (ha : s.mem.applying = none) (hq : s.flag fQuiesce = false) (w : Fin 2) (v : W32) {code : Nat}
    (hf : FailsWith s (winAddr s w.val) code) : Ends (.winDataWrite w v) s fun u => Failed s u w.val code ∧ u.host = s.host := by
  have hi := interior_of_running hr
  obtain ⟨hfail, h0, h8⟩ := winFail_failsWith hi hf
  have hw := winWrite_fail ha hfail h0 v
  have hv := offRegs_winError w.val code s
  have hx := exec_winDataWrite hi w v (by
    rw [hw, State.flag, State.fld, reg_winError (by decide) (Ne.symm (winHi_ne w.val (by decide))), ← State.fld, ← State.flag, hq])
  rw [hw] at hx
  exact ends_of_done hx ⟨failed_winError h8 rfl (congrArg State.mem hv :), (congrArg State.host hv :)⟩

theorem length_leBytes (n v : Nat) : (leBytes n v).length = n := by
  induction n generalizing v with
  | zero => rfl
  | succ n ih => rw [leBytes, List.length_cons, ih]

theorem winAddr_mod (s : State) (w : Nat) : winAddr s w % 4 = 0 := by rw [winAddr]; omega

theorem winAddr_of_reg {w : Nat} (h : ∀ r, r = winLo w ∨ r = winHi w → t.reg r = s.reg r) : winAddr t w = winAddr s w := by
  rw [winAddr, winAddr, State.fld, State.fld, State.fld, State.fld, h _ (.inl rfl), h _ (.inr rfl)]

/-- A word written through a window into memory. -/
theorem wrote_winWrite (hr : running s = true) (ha : s.mem.applying = none) (hs : MergeSound s) {w : Nat} (hm : isMem s (winAddr s w)) (v : W32) :
    Moves memFld offMem s (winWrite w v s) ∧ (∀ pa, target (winWrite w v s) pa = target s pa)
      ∧ Wrote s (winWrite w v s) (winAddr s w) (leBytes 4 v.toNat) := by
  rw [winWrite_isMem ha hr hm]
  obtain ⟨h1, h2⟩ := wrote_memWrite hs (winAddr_mod s w) hm (length_leBytes 4 v.toNat)
  exact ⟨moves_memWrite false _ _ s, h1.target, h2⟩

theorem Keeps.win_reg (h : Keeps memFld offMem s t) {r : Nat} (hr : r < C 0xC0000) (h18 : r ≠ 0x18) : t.reg r = s.reg r :=
  h.reg r fun g hg => by
    rcases hg with e | e
    · rw [e]; exact Ne.symm h18
    · omega

theorem Keeps.winAddr (h : Keeps memFld offMem s t) (w : Nat) : winAddr t w = winAddr s w := winAddr_of_reg fun r hr => by
  rcases hr with rfl | rfl
  · exact h.win_reg (winReg_lt w).1 (winLo_ne w (by decide))
  · exact h.win_reg (winReg_lt w).2 (winHi_ne w (by decide))

theorem ends_winDataWrite (hr : running s = true) (ha : s.mem.applying = none) (hq : s.flag fQuiesce = false) (hs : MergeSound s) (w : Fin 2)
    (hm : isMem s (winAddr s w.val)) (v : W32) :
    Ends (.winDataWrite w v) s fun u => Wrote s u (winAddr s w.val) (leBytes 4 v.toNat) ∧ winAddr u w.val = winAddr s w.val ∧ u.host = s.host := by
  obtain ⟨x, hmv, ht, hw, hx⟩ : ∃ x, Moves memFld offMem s x ∧ (∀ pa, target x pa = target s pa) ∧ Wrote s x (winAddr s w.val) (leBytes 4 v.toNat)
      ∧ exec (.winDataWrite w v) s = done x := by
    obtain ⟨hmv, ht, hw⟩ := wrote_winWrite hr ha hs hm v
    exact ⟨_, hmv, ht, hw, exec_winDataWrite (interior_of_running hr) w v
      ((hmv.keeps.flag (by decide) (memFld_apart (by decide) (by decide))).trans hq)⟩
  refine ends_of_done hx ⟨wrote_trans_same ht hw (sameMem_refresh x) fun i hi => ?_, ?_, (congrArg State.host hmv.keeps.view :)⟩
  · exact isMem_word hm (winAddr_mod s _) (by rw [length_leBytes] at hi; exact hi)
  · rw [winAddr_refresh, hmv.keeps.winAddr]

theorem hostReg_winDataInc (v : W32) (s : State) : hostReg 0x38 v s = winIncWrite v s := rfl

theorem exec_win0DataIncWrite (hi : interior s = true) (v : W32) {x : State} (hx : winIncWrite v s = x) (hq : x.flag fQuiesce = false) :
    exec (.win0DataIncWrite v) s = done x := by
  change done (hostApply 0x38 v s) = _
  rw [hostApply_of_interior hi, hostReg_winDataInc, hx, quiesceAgain_of_not_quiesce hq]

theorem host_winStep (w : Nat) (s : State) : (winStep w s).host = s.host := State.setFlds_host s _

theorem mem_winStep (w : Nat) (s : State) : (winStep w s).mem = s.mem := State.setFlds_mem s _

theorem flag_winStep (w : Nat) (s : State) {f : Fld} (hl : f.reg ≠ winLo w) (hh : f.reg ≠ winHi w) : (winStep w s).flag f = s.flag f := by
  rw [State.flag, State.fld, reg_winStep hl hh, ← State.fld, ← State.flag]

theorem sameMem_winStep (s : State) : SameMem s (winStep 0 s) := sameMem_of_regs (fun r h => by
  simp only [List.mem_cons, List.not_mem_nil, or_false, not_or] at h
  exact reg_winStep h.2.1 h.2.2.1 s) (mem_winStep 0 s)

theorem ends_win0DataIncWrite (hr : running s = true) (ha : s.mem.applying = none) (hq : s.flag fQuiesce = false) (hs : MergeSound s)
    (hm : isMem s (winAddr s 0)) (v : W32) :
    Ends (.win0DataIncWrite v) s fun u => Wrote s u (winAddr s 0) (leBytes 4 v.toNat) ∧ winAddr u 0 = (winAddr s 0 + 4) % 2 ^ 48 ∧ u.host = s.host := by
  have hi := interior_of_running hr
  obtain ⟨x, hmv, ht, hw, hinc⟩ : ∃ x, Moves memFld offMem s x ∧ (∀ pa, target x pa = target s pa) ∧ Wrote s x (winAddr s 0) (leBytes 4 v.toNat)
      ∧ winIncWrite v s = winStep 0 x := by
    obtain ⟨hmv, ht, hw⟩ := wrote_winWrite hr ha hs hm v
    exact ⟨_, hmv, ht, hw, by rw [winIncWrite, if_pos hi]⟩
  have hx := exec_win0DataIncWrite hi v hinc ((flag_winStep 0 x (by decide) (by decide)).trans
    ((hmv.keeps.flag (by decide) (memFld_apart (by decide) (by decide))).trans hq))
  refine ends_of_done hx ⟨wrote_trans_same ht hw ((sameMem_winStep x).comp (sameMem_refresh _)) fun i hi => ?_, ?_, ?_⟩
  · exact isMem_word hm (winAddr_mod s _) (by rw [length_leBytes] at hi; exact hi)
  · rw [winAddr_refresh, winAddr_winStep, hmv.keeps.winAddr]
  · rw [refresh_host, host_winStep]
    exact (congrArg State.host hmv.keeps.view :)

end Sys2Proof.Machine
end

section
/-! PROOFS. O11: the page drain of WIN0 (R61, R66, R67), the window timeout, and the obligation. -/

namespace Sys2Proof.Machine

open Sys2Proof Sys2Proof.Safety Sys2Proof.Claims

variable {s t : State}

/-! ### A held page -/

theorem exec_win0DataIncRead (e : Ecc) (s : State) : exec (.win0DataIncRead e) s = done (hostRead (winIncRead e) s) := rfl

/-- The host's state once a word of the held page has gone. -/
def heldHost (h : HostSt) (rest : List W32) : HostSt := { h with win0 := if rest = [] then none else some rest, drainTaken := h.drainTaken - 1 }

theorem winHeldWord_clean (b : W32) (rest : List W32) (s : State) :
    winHeldWord .clean (b :: rest) s = (b, winStep 0 { s with host := heldHost s.host rest }) := by
  cases rest <;> rfl

theorem winIncRead_held (hi : interior s = true) {e : Ecc} {ws : List W32} (h : s.host.win0 = some ws) : winIncRead e s = winHeldWord e ws s := by
  rw [winIncRead, hi, if_neg (by decide)]
  split
  · next ws' h' => rw [Option.some.inj (h'.symm.trans h)]
  · next h' => exact absurd (h'.symm.trans h) (by simp)

theorem ends_win0DataIncRead_held (hi : interior s = true) (hp : s.host.posted = []) {b : W32} {rest : List W32} (h : s.host.win0 = some (b :: rest)) :
    Ends (.win0DataIncRead .clean) s fun u => winAddr u 0 = (winAddr s 0 + 4) % 2 ^ 48
      ∧ u.host = { s.host with hd := b, win0 := if rest = [] then none else some rest, drainTaken := s.host.drainTaken - 1 }
      ∧ RegsKept s u [0x2C, 0x30] := by
  obtain ⟨x, hf, hh, hreg⟩ : ∃ x : State, winIncRead .clean s = (b, winStep 0 x) ∧ x.host = heldHost s.host rest ∧ x.regs = s.regs :=
    ⟨_, (winIncRead_held hi h).trans (winHeldWord_clean b rest s), rfl, rfl⟩
  refine ends_hostRead (exec_win0DataIncRead .clean s) hi hp hf fun y hy ho => ⟨?_, ?_, regsKept_refresh fun r hr => ?_⟩
  · rw [winAddr_refresh, winAddr_of_reg fun r _ => State.reg_of_regs_eq (regs_of_offHost ho) r, winAddr_winStep,
      winAddr_of_reg fun r _ => State.reg_of_regs_eq hreg r]
  · rw [refresh_host, hy, host_winStep, hh]
    rfl
  · simp only [List.mem_cons, List.not_mem_nil, or_false, not_or] at hr
    rw [State.reg_of_regs_eq (regs_of_offHost ho), reg_winStep hr.1 hr.2, State.reg_of_regs_eq hreg]

/-! ### A first word that fails -/

theorem winIncRead_fail (hi : interior s = true) (ha : s.mem.applying = none) (h : s.host.win0 = none) {code : Nat} (hf : winFail s (winAddr s 0) = code)
    (hc : code ≠ 0) (e : Ecc) : winIncRead e s = (0#32, winStep 0 (winError 0 code s)) := by
  rw [winIncRead, hi, if_neg (by decide)]
  split
  · next ws h' => exact absurd (h'.symm.trans h) (by simp)
  · rw [settleApply_of_none ha]
    extract_lets x fail
    have hx : fail = code := hf
    rw [if_pos (hx ▸ hc), hx]

theorem ends_win0DataIncRead_fail (hi : interior s = true) (hp : s.host.posted = []) (ha : s.mem.applying = none) (h : s.host.win0 = none) {code : Nat}
    (hf : FailsWith s (winAddr s 0) code) (e : Ecc) :
    Ends (.win0DataIncRead e) s fun u => u.host = { s.host with hd := 0#32 } ∧ winAddr u 0 = (winAddr s 0 + 4) % 2 ^ 48 ∧ Rings s u [14]
      ∧ u.fld (fWinErr 0) = (if s.fld (fWinErr 0) = 0 then code else s.fld (fWinErr 0)) := by
  obtain ⟨hfail, h0, h8⟩ := winFail_failsWith hi hf
  obtain ⟨x, hv, hst, herr, hadr, hr⟩ : ∃ x, offRegs x = offRegs s ∧ x.reg 0x18 = s.reg 0x18 ||| 1#32 <<< 14
      ∧ x.fld (fWinErr 0) = (if s.fld (fWinErr 0) = 0 then code else s.fld (fWinErr 0)) ∧ winAddr x 0 = winAddr s 0
      ∧ winIncRead e s = (0#32, winStep 0 x) :=
    ⟨_, offRegs_winError 0 code s, status_winError 0 code s, err_winError h8 s, winAddr_winError 0 code s, winIncRead_fail hi ha h hfail h0 e⟩
  refine ends_hostRead (exec_win0DataIncRead e s) hi hp hr fun y hy ho => ⟨?_, ?_, rings_refresh ?_, ?_⟩
  · have hh : x.host = s.host := (congrArg State.host hv :)
    rw [refresh_host, hy, host_winStep, hh]
  · rw [winAddr_refresh, winAddr_of_reg fun r _ => State.reg_of_regs_eq (regs_of_offHost ho) r, winAddr_winStep, hadr]
  · rw [State.reg_of_regs_eq (regs_of_offHost ho), reg_winStep (by decide) (by decide), hst]
    rfl
  · rw [fld_refresh_winErr, State.fld_of_regs_eq (regs_of_offHost ho), err_winStep, herr]

/-! ### A page taken -/

theorem winIncRead_page (hi : interior s = true) (ha : s.mem.applying = none) (h : s.host.win0 = none) (hf : winFail s (winAddr s 0) = 0) (e : Ecc)
    {ws : List W32} (hp : winPage e s = (ws, t)) : winIncRead e s = winHeldWord .clean ws t := by
  rw [winIncRead, hi, if_neg (by decide)]
  split
  · next ws' h' => exact absurd (h'.symm.trans h) (by simp)
  · rw [settleApply_of_none ha]
    extract_lets x fail
    have hx : fail = 0 := hf
    rw [if_neg (not_not.mpr hx), hp]

/-- The word i of a page from a on. -/
def pageWord (s : State) (a i : Nat) : W32 := BitVec.ofNat 32 (leNat (memRead s (a + 4 * i) 4))

/-- What winPage does with each word. -/
def pageStep (a : Nat) (e : Ecc) (t : List W32 × State) (i : Nat) : List W32 × State :=
  let (code, v, s) := winFetch (a + 4 * i) (if i = 0 then e else .clean) t.2
  (t.1 ++ [v], if code = 0 then s else winError 0 code s)

theorem winPage_go (a n : Nat) (e : Ecc) (s : State) : winPage.go a n e s = (numsFrom 0 n).foldl (pageStep a e) ([], s) := rfl

theorem pageStep_clean {a i : Nat} {l : List W32} {v : W32} (h : winFetch (a + 4 * i) .clean s = (0, v, t)) :
    pageStep a .clean (l, s) i = (l ++ [v], t) := by
  rw [pageStep, ite_self, h]
  rfl

/-- Words that are memory are copied in order, and lookups are all that happens. -/
theorem foldl_pageStep (hr : running s = true) (ha : s.mem.applying = none) {a n k : Nat}
    (hm : ∀ i, k ≤ i → i < k + n → isMem s (a + 4 * i) ∧ poisoned s (a + 4 * i) 4 = false) (hl : Looked s t) (l : List W32) :
    ∃ u, Looked s u ∧ (numsFrom k n).foldl (pageStep a .clean) (l, t) = (l ++ (numsFrom k n).map (pageWord s a), u) := by
  induction n generalizing k l t with
  | zero => exact ⟨t, hl, by rw [numsFrom, List.map_nil, List.append_nil]; rfl⟩
  | succ n ih =>
    obtain ⟨hk, hpo⟩ := hm k (Nat.le_refl k) (by omega)
    have hw : winFetch (a + 4 * k) .clean t = (0, pageWord s a k, lookup true false (a + 4 * k) t) := by
      rw [winFetch_clean (hl.applying.trans ha) (hl.running hr) (isMem_of_target hl.same.target hk) ((hl.poisoned _ _).trans hpo),
        hl.same.memRead hk 4, pageWord]
    obtain ⟨u, hu, he⟩ := ih (k := k + 1) (fun i h1 h2 => hm i (by omega) (by omega)) (hl.lookup true false (a + 4 * k)) (l ++ [pageWord s a k])
    refine ⟨u, hu, ?_⟩
    rw [numsFrom, List.foldl_cons, pageStep_clean hw, he, List.map_cons, List.append_assoc, List.singleton_append]

theorem winPage_isMem (hm : isMem s (winAddr s 0)) (e : Ecc) : winPage e s = winPage.go (winAddr s 0) ((4096 - winAddr s 0 % 4096) / 4) e s := by
  have hdef : winPage = winPage := rfl
  conv at hdef => rhs; delta winPage
  rw [hdef]
  beta_reduce
  extract_lets a n
  split
  · next off h => exact absurd hm (by rw [isMem, h]; simp)
  · rfl

theorem numsFrom_eq_range' (a n : Nat) : numsFrom a n = List.range' a n := by
  induction n generalizing a with
  | zero => rfl
  | succ n ih => rw [numsFrom, ih, List.range'_succ]

/-- The words after the first. -/
theorem map_numsFrom_one {α : Type} (f : Nat → α) (n : Nat) : (numsFrom 1 n).map f = (List.range n).map fun i => f (i + 1) := by
  rw [numsFrom_eq_range', List.range'_eq_map_range, List.map_map]
  exact List.map_congr_left fun i _ => congrArg f (Nat.add_comm 1 i)

/-- A page has a word. -/
theorem pageWords_pos (s : State) : ∃ n, (4096 - winAddr s 0 % 4096) / 4 = n + 1 := by
  have h4 := winAddr_mod s 0
  exact ⟨(4096 - winAddr s 0 % 4096) / 4 - 1, by omega⟩

theorem winIncRead_pageWords (hr : running s = true) (ha : s.mem.applying = none) (h : s.host.win0 = none) {n : Nat}
    (hn : (4096 - winAddr s 0 % 4096) / 4 = n + 1) (hm : ∀ i < n + 1, isMem s (winAddr s 0 + 4 * i) ∧ poisoned s (winAddr s 0 + 4 * i) 4 = false) :
    ∃ x, Looked s x ∧ winIncRead .clean s = (pageWord s (winAddr s 0) 0,
      winStep 0 { x with host := heldHost x.host ((List.range n).map fun i => pageWord s (winAddr s 0) (i + 1)) }) := by
  obtain ⟨hm0, -⟩ := hm 0 (Nat.succ_pos n)
  rw [Nat.mul_zero, Nat.add_zero] at hm0
  obtain ⟨x, hx, hpage⟩ := foldl_pageStep hr ha (a := winAddr s 0) (n := n + 1) (k := 0) (fun i _ hi => hm i (by omega)) (Looked.refl s) []
  have hw := winPage_isMem hm0 .clean
  rw [hn, winPage_go, hpage, List.nil_append, numsFrom, List.map_cons, map_numsFrom_one] at hw
  exact ⟨x, hx, (winIncRead_page (interior_of_running hr) ha h (winFail_isMem hr hm0) .clean hw).trans (winHeldWord_clean _ _ x)⟩

theorem ends_win0DataIncRead_page (hr : running s = true) (hp : s.host.posted = []) (ha : s.mem.applying = none) (h : s.host.win0 = none)
    (hm : ∀ i < (4096 - winAddr s 0 % 4096) / 4, isMem s (winAddr s 0 + 4 * i) ∧ poisoned s (winAddr s 0 + 4 * i) 4 = false) :
    Ends (.win0DataIncRead .clean) s fun u => u.host.hd = pageWord s (winAddr s 0) 0 ∧ MemKept s u ∧ winAddr u 0 = (winAddr s 0 + 4) % 2 ^ 48
      ∧ u.host.win0 = if (4096 - winAddr s 0 % 4096) / 4 = 1 then none
        else some ((List.range ((4096 - winAddr s 0 % 4096) / 4 - 1)).map fun i => pageWord s (winAddr s 0) (i + 1)) := by
  obtain ⟨n, hn⟩ := pageWords_pos s
  rw [hn] at hm
  obtain ⟨x, hx, hf⟩ := winIncRead_pageWords hr ha h hn hm
  rw [hn, Nat.add_sub_cancel]
  have hempty : (List.range n).map (fun i => pageWord s (winAddr s 0) (i + 1)) = [] ↔ n + 1 = 1 := by
    rw [List.map_eq_nil_iff, List.range_eq_nil]
    exact Nat.add_eq_right.symm
  generalize (List.range n).map (fun i => pageWord s (winAddr s 0) (i + 1)) = rest at hf hempty ⊢
  generalize pageWord s (winAddr s 0) 0 = v at hf ⊢
  obtain ⟨y, hy, hh, hreg, hmem⟩ : ∃ y, winIncRead .clean s = (v, winStep 0 y) ∧ y.host = heldHost x.host rest ∧ y.regs = x.regs ∧ y.mem = x.mem :=
    ⟨_, hf, rfl, rfl, rfl⟩
  have hxy : SameMem x y := sameMem_of_regs (fun r _ => State.reg_of_regs_eq hreg r) hmem
  refine ends_hostRead (exec_win0DataIncRead .clean s) (interior_of_running hr) hp hy fun u hu ho => ⟨?_, ?_, ?_, ?_⟩
  · rw [refresh_host, hu]
  · exact SameMem.memKept (hx.same.comp (hxy.comp ((sameMem_winStep y).comp (sameMem_of_offHost ho))))
  · rw [winAddr_refresh, winAddr_of_reg fun r _ => State.reg_of_regs_eq (regs_of_offHost ho) r, winAddr_winStep,
      winAddr_of_reg fun r _ => State.reg_of_regs_eq hreg r, hx.moves.keeps.winAddr]
  · rw [refresh_host, hu, host_winStep, hh]
    exact if_congr hempty rfl rfl

/-! ### The report drain (R67) -/

theorem touch_syncTouch (s : State) : (syncTouch s).touch = s.touch := by rw [syncTouch]; rfl

theorem touch_winStep (w : Nat) (s : State) : (winStep w s).touch = s.touch := State.setFlds_touch s _

theorem drainPage_spec (n : Nat) (s : State) : ∃ x rest,
    drainPage (n + 1) s = (BitVec.ofNat 32 (fieldAt (s.touch.fifo.take ((n + 1) / 4)).flatten 0 4) :: rest, x)
    ∧ x.touch = { s.touch with fifo := s.touch.fifo.drop ((n + 1) / 4) } := by
  rw [drainPage, numsFrom, List.map_cons, List.flatMap_id]
  exact ⟨_, _, rfl, touch_syncTouch _⟩

theorem winPage_drain {off : Nat} (ht : target s (winAddr s 0) = .ctl off) (hd : inDrain off = true) (e : Ecc) :
    winPage e s = drainPage ((4096 - winAddr s 0 % 4096) / 4) s := by
  have hdef : winPage = winPage := rfl
  conv at hdef => rhs; delta winPage
  rw [hdef]
  beta_reduce
  extract_lets a n
  split
  · next off' h =>
    have ho := Tgt.ctl.inj (h.symm.trans ht)
    rw [ho, if_pos hd]
  · next h => exact absurd ht (h off)

theorem ends_win0DataIncRead_drain (hr : running s = true) (hp : s.host.posted = []) (ha : s.mem.applying = none) (h : s.host.win0 = none) {off : Nat}
    (ht : target s (winAddr s 0) = .ctl off) (hd : inDrain off = true) (he : ctlErr s off = 0) (ho : off % 4096 ≤ 4080) :
    Ends (.win0DataIncRead .clean) s fun u => u.host.hd = BitVec.ofNat 32 (fieldAt ((s.touch.fifo.take ((4096 - off % 4096) / 16)).flatten) 0 4)
      ∧ u.touch = { s.touch with fifo := s.touch.fifo.drop ((4096 - off % 4096) / 16) } := by
  have hi := interior_of_running hr
  obtain ⟨n, hn⟩ := pageWords_pos s
  have hq : (n + 1) / 4 = (4096 - off % 4096) / 16 := by
    have := (target_ctl ht).2
    omega
  obtain ⟨x, rest, hpage, htouch⟩ := drainPage_spec n s
  have hw := winPage_drain ht hd .clean
  rw [hn, hpage] at hw
  have hf := (winIncRead_page hi ha h ((winFail_ctl hi ht).trans he) .clean hw).trans (winHeldWord_clean _ _ x)
  rw [hq] at hf htouch
  obtain ⟨y, hy, hyt⟩ : ∃ y, winIncRead .clean s = (BitVec.ofNat 32 (fieldAt ((s.touch.fifo.take ((4096 - off % 4096) / 16)).flatten) 0 4), winStep 0 y)
      ∧ y.touch = x.touch := ⟨_, hf, rfl⟩
  refine ends_hostRead (exec_win0DataIncRead .clean s) hi hp hy fun u hu ho => ⟨?_, ?_⟩
  · rw [refresh_host, hu]
  · rw [refresh_touch, ← htouch, ← hyt, ← touch_winStep 0 y]
    exact (congrArg State.touch ho :)

/-! ### A target that does not answer in time -/

theorem exec_winTimeout (hi : interior s = true) (w : Fin 2) (write : Bool) (hf : winFail s (winAddr s w.val) = 0) :
    exec (.winTimeout w write) s =
      done (if write then winError w.val 2 s else { winError w.val 2 s with host := { (winError w.val 2 s).host with hd := 0#32 } }) := by
  change execWinTimeout w write s = _
  rw [execWinTimeout, onlyIf, if_pos (by rw [hi, Bool.true_and]; exact decide_eq_true hf)]

theorem ends_winTimeout (hi : interior s = true) (w : Fin 2) (write : Bool) (hf : winFail s (winAddr s w.val) = 0) :
    Ends (.winTimeout w write) s fun u => u.fld (fWinErr w.val) = (if s.fld (fWinErr w.val) = 0 then 2 else s.fld (fWinErr w.val))
      ∧ Rings s u [14] ∧ u.host = (if write then s.host else { s.host with hd := 0#32 }) ∧ u.mem = s.mem := by
  have hx := exec_winTimeout hi w write hf
  have hv := offRegs_winError w.val 2 s
  have hh : (winError w.val 2 s).host = s.host := (congrArg State.host hv :)
  have hm : (winError w.val 2 s).mem = s.mem := (congrArg State.mem hv :)
  rw [hh] at hx
  obtain ⟨x, hx, hreg, hhost, hmem⟩ : ∃ x : State, exec (.winTimeout w write) s = done x ∧ x.regs = (winError w.val 2 s).regs
      ∧ x.host = (if write then s.host else { s.host with hd := 0#32 }) ∧ x.mem = s.mem := by
    cases write with
    | true => exact ⟨_, hx, rfl, hh, hm⟩
    | false => exact ⟨_, hx, rfl, rfl, hm⟩
  obtain ⟨herr, hrings, -, hm⟩ := failed_winError (by decide) hreg hmem
  exact ends_of_done hx ⟨herr, hrings, hhost, hm⟩

/-! ### The obligation -/

/-- Settles O11: a clause, or a form of access, to each lemma. -/
theorem hostReadsAndWindows : Obligations.Host_reads_and_windows := by
  unfold Obligations.Host_reads_and_windows
  intro s
  refine ⟨fun hl c hc => ?_, ends_timebaseLoRead, fun off he hc h8 => ends_counterLoRead he hc h8, fun hr hp ha => ?_⟩
  · simp only [List.mem_cons, List.not_mem_nil, or_false] at hc
    rcases hc with rfl | rfl | rfl | rfl | rfl | rfl <;> exact ends_hostRead_clockLost rfl hl
  have hi := interior_of_running hr
  refine ⟨fun w e => ⟨?_, ?_, ?_, ?_⟩, ?_, ?_, ?_, ?_, ?_, ?_, ?_⟩
  · rintro rfl hm hpo
    exact ends_winDataRead_clean hr hp ha w hm hpo
  · rintro rfl hm
    exact ends_winDataRead_uncorrectable hr hp ha w hm
  · exact fun off ht he hd => ends_winDataRead_ctl hr hp ha w e ht he hd
  · exact fun code hf => ⟨ends_winDataRead_fail hr hp ha w e hf, fun hq v => ends_winDataWrite_fail hr ha hq w v hf⟩
  · exact fun w v hq hs hm => ends_winDataWrite hr ha hq hs w hm v
  · exact fun v hq hs hm => ends_win0DataIncWrite hr ha hq hs hm v
  · exact fun b t h => ends_win0DataIncRead_held hi hp h
  · exact fun code h hf e => ends_win0DataIncRead_fail hi hp ha h hf e
  · exact fun h hm => ends_win0DataIncRead_page hr hp ha h hm
  · exact fun off h ht hd he ho _ _ _ => ends_win0DataIncRead_drain hr hp ha h ht hd he ho
  · exact fun w write hf => ends_winTimeout hi w write hf

end Sys2Proof.Machine
end

section
/-! SUPPORT. Display pipes: the fields their operations write, and the end of a frame (chapter 15). -/

namespace Sys2Proof.Machine

open Sys2Proof Sys2Proof.Safety Sys2Proof.Claims

/-! ### Operations that write a list of fields and may log -/

/-- The fields of a list, and what events write. -/
def Writes (l : List Fld) (g : Fld) : Prop := logFld g ∨ g ∈ l

/-- The registers that events write. -/
@[reducible] def logRegs : List Nat := [0x18, C 0xC0004, C 0xC0008, C 0xC000C, C 0xC0010]

/-- A field that no event writes, apart from those of a list. -/
@[reducible] def Clear (f : Fld) (l : List Fld) : Prop := f.hi < 32 ∧ f.reg ∉ logRegs ∧ ∀ g ∈ l, f.Apart g

variable {s t u : State} {f : Fld} {l : List Fld} {view : State → State}

theorem Clear.apart (h : Clear f l) : ∀ g, Writes l g → f.Apart g := by
  obtain ⟨-, hr, hl⟩ := h
  rintro g (hg | hg)
  · refine .inl fun e => hr ?_
    rw [e]
    exact hg.elim (fun h => h ▸ List.mem_cons_self) fun h => List.mem_cons_of_mem _ h
  · exact hl g hg

theorem Keeps.clear_fld (h : Keeps (Writes l) view s t) (hc : Clear f l) : t.fld f = s.fld f := h.fld f hc.1 hc.apart

theorem Keeps.clear_flag (h : Keeps (Writes l) view s t) (hc : Clear f l) : t.flag f = s.flag f := h.flag hc.1 hc.apart

theorem Keeps.clear_reg (h : Keeps (Writes l) view s t) {r : Nat} (hc : Clear ⟨r, 31, 0⟩ l) : t.reg r = s.reg r := by
  apply BitVec.eq_of_toNat_eq
  rw [State.reg_toNat, State.reg_toNat]
  exact h.clear_fld hc

theorem Keeps.more {m : List Fld} (h : Keeps (Writes l) view s t) (hm : l ⊆ m) : Keeps (Writes m) view s t := h.mono fun _ hg => hg.imp id (hm ·)

/-- All but the registers, the log and the display block. -/
def offDisp (s : State) : State := { offLog s with disp := State.reset.disp }

theorem writes_setFld (h : f ∈ l) (v : Nat) (s : State) : Keeps (Writes l) offDisp s (s.setFld f v) := keeps_setFld (.inr h) v rfl

theorem writes_setFlag (h : f ∈ l) (b : Bool) (s : State) : Keeps (Writes l) offDisp s (s.setFlag f b) := writes_setFld h _ s

theorem writes_setFlds (fl : List (Fld × Nat)) (s : State) (h : ∀ e ∈ fl, e.1 ∈ l) : Keeps (Writes l) offDisp s (s.setFlds fl) :=
  keeps_setFlds fl s (fun e he => .inr (h e he)) fun _ _ _ => rfl

theorem writes_logEvent (cls code ctx src arg : Nat) (s : State) : Keeps (Writes l) offDisp s (logEvent cls code ctx src arg s) :=
  ((keeps_logEvent cls code ctx src arg s).mono fun _ => .inl).coarsen fun x => { x with disp := State.reset.disp }

theorem writes_setPipe (n : Nat) (p : PipeSt) (s : State) : Keeps (Writes l) offDisp s (setPipe n p s) := .of_regs_eq rfl rfl

theorem writes_setPort (n : Nat) (p : PortSt) (s : State) : Keeps (Writes l) offDisp s (setPort n p s) := .of_regs_eq rfl rfl

theorem disp_logEvent (cls code ctx src arg : Nat) (s : State) : (logEvent cls code ctx src arg s).disp = s.disp :=
  (congrArg State.disp (keeps_logEvent cls code ctx src arg s).view :)

/-- The pipe's operations leave what decides that the interior runs. -/
theorem Keeps.disp_interior (h : Keeps (Writes l) offDisp s t) (hc : Clear fFrozen l) : interior t = interior s := by
  have hcore : t.core = s.core := (congrArg State.core h.view :)
  rw [interior, interior, h.clear_flag hc, hcore]

theorem Keeps.disp_core (h : Keeps (Writes l) offDisp s t) : t.core = s.core := (congrArg State.core h.view :)

theorem Keeps.disp_mem (h : Keeps (Writes l) offDisp s t) : t.mem = s.mem := (congrArg State.mem h.view :)

theorem Keeps.disp_boot (h : Keeps (Writes l) offDisp s t) : t.boot = s.boot := (congrArg State.boot h.view :)

/-! ### Pipes -/

variable {n : Nat}

theorem pipeAt_setPipe (h : n < s.disp.pipes.length) (p : PipeSt) : pipeAt (setPipe n p s) n = p := by
  rw [pipeAt]
  change ((setAt s.disp.pipes n p)[n]?).getD _ = p
  rw [getElem?_setAt, if_pos ⟨rfl, h⟩]
  rfl

theorem length_setPipe (n : Nat) (p : PipeSt) (s : State) : (setPipe n p s).disp.pipes.length = s.disp.pipes.length := length_setAt _ _ _

theorem pipeAt_of_disp (h : t.disp = s.disp) : pipeAt t n = pipeAt s n := by rw [pipeAt, pipeAt, h]

theorem pipeAt_setFld (f : Fld) (v : Nat) (s : State) : pipeAt (s.setFld f v) n = pipeAt s n := rfl

/-! ### Scan-out -/

/-- What scan-out of pipe n writes. -/
def scanFlds (n : Nat) : List Fld := [⟨pipeR n 0x11C, 31, 0⟩, fPipeLine n, fDispUnderruns n, ⟨pipeR n 0x12C, 2, 2⟩]

/-- What scan-out leaves of a pipe. -/
def pipeCore (p : PipeSt) : PipeSt :=
  { p with out := [], under := none, next := 0, planes := p.planes.map fun a => { a with pieces := [] } }

/-- The lines that pipe n has shown from s to t. -/
structure Scanned (n : Nat) (s t : State) : Prop where
  keeps : Keeps (Writes (scanFlds n)) offDisp s t
  len : t.disp.pipes.length = s.disp.pipes.length
  pipe : pipeCore (pipeAt t n) = pipeCore (pipeAt s n)

theorem Scanned.refl (n : Nat) (s : State) : Scanned n s s := ⟨.refl s, rfl, rfl⟩

theorem Scanned.trans (h : Scanned n s t) (g : Scanned n t u) : Scanned n s u := ⟨h.keeps.trans g.keeps, g.len.trans h.len, g.pipe.trans h.pipe⟩

theorem Scanned.of_disp (h : Keeps (Writes (scanFlds n)) offDisp s t) (hd : t.disp = s.disp) : Scanned n s t :=
  ⟨h, congrArg (fun d => d.pipes.length) hd, congrArg pipeCore (pipeAt_of_disp hd)⟩

theorem disp_pipeCount (n off : Nat) (s : State) : (pipeCount n off s).disp = s.disp := by
  rw [pipeCount]
  split <;> rfl

theorem writes_pipeCount {off : Nat} (h : ⟨pipeR n off, 31, 0⟩ ∈ l) (s : State) : Keeps (Writes l) offDisp s (pipeCount n off s) := by
  rw [pipeCount]
  exact .ite (fun _ => .refl s) fun _ => writes_setFld h _ s

theorem scanned_pipeCount (n : Nat) (s : State) : Scanned n s (pipeCount n 0x11C s) :=
  .of_disp (writes_pipeCount List.mem_cons_self s) (disp_pipeCount n 0x11C s)

theorem pipeCore_freePieces (p : PipeSt) : pipeCore (freePieces p) = pipeCore p := by
  have h : (freePieces p).planes.map (fun a => { a with pieces := [] }) = p.planes.map fun a : PlaneAct => { a with pieces := [] } := by
    rw [freePieces, List.map_map]
    rfl
  exact congrArg (fun l => ({ p with out := [], under := none, next := 0, planes := l } : PipeSt)) h

theorem scanned_setPipe (hn : n < s.disp.pipes.length) {p : PipeSt} (h : pipeCore p = pipeCore (pipeAt s n)) : Scanned n s (setPipe n p s) :=
  ⟨writes_setPipe n p s, length_setPipe n p s, by rw [pipeAt_setPipe hn, h]⟩

theorem scanned_showLine (hn : n < s.disp.pipes.length) : Scanned n s (showLine n s) := by
  unfold showLine
  extract_lets p
  generalize lineFrom s n p.next (numsFrom 0 (tLow p.timing 0)) = o
  obtain ⟨out, u⟩ := o
  dsimp -zeta only
  extract_lets under s1
  have h1 : Scanned n s s1 := scanned_setPipe hn (pipeCore_freePieces _)
  split
  · exact h1.trans (scanned_pipeCount n s1)
  · exact h1

theorem scanned_showLines (k : Nat) (hn : n < s.disp.pipes.length) : Scanned n s (showLines n k s) := by
  induction k generalizing s with
  | zero => exact .refl n s
  | succ k ih =>
    have h := scanned_showLine hn
    exact h.trans (ih (by rw [h.len]; exact hn))

theorem scanned_scanTo (line : Nat) (hn : n < s.disp.pipes.length) : Scanned n s (scanTo n line s) := by
  unfold scanTo
  extract_lets p upTo s1
  have h1 : Scanned n s s1 := scanned_showLines _ hn
  split
  · exact h1.trans (.of_disp (writes_setFld (by simp [scanFlds]) _ s1) rfl)
  · exact h1

/-- The end of a frame (R326). -/
theorem scanned_endFrame (hn : n < s.disp.pipes.length) : Scanned n s (endFrame n s) := by
  unfold endFrame
  extract_lets s1
  have h1 : Scanned n s s1 := scanned_scanTo _ hn
  split
  · exact h1
  · next f k _ =>
    refine h1.trans (.of_disp ((writes_setFld (by simp [scanFlds]) _ s1).trans ((writes_logEvent 5 0x141 0 n (f + k * 2 ^ 16) _).trans
      (writes_setFld (by simp [scanFlds]) _ _))) ?_)
    exact disp_logEvent _ _ _ _ _ _

/-- A frame that has been shown without an underrun ends without an event. -/
theorem log_endFrame (h : frameShown s n) : (endFrame n s).log = s.log := by
  obtain ⟨hnext, hunder⟩ := h
  have hto : (scanTo n (vTotal (pipeAt s n).timing) s).log = s.log ∧ pipeAt (scanTo n (vTotal (pipeAt s n).timing) s) n = pipeAt s n := by
    unfold scanTo
    extract_lets p upTo s1
    have hup : upTo - p.next = 0 := by
      have : upTo ≤ tLow p.timing 2 := by simp only [upTo, satN]; split <;> omega
      exact Nat.sub_eq_zero_of_le (this.trans hnext)
    have h1 : s1 = s := by
      change showLines n (upTo - p.next) s = s
      rw [hup, showLines]
    rw [h1]
    split
    · exact ⟨rfl, rfl⟩
    · exact ⟨rfl, rfl⟩
  unfold endFrame
  extract_lets s1
  have hu : (pipeAt s1 n).under = none := (congrArg PipeSt.under hto.2).trans hunder
  split
  · exact hto.1
  · next f k h => exact absurd (h.symm.trans hu) (by simp)

end Sys2Proof.Machine
end

section
/-! SUPPORT. What the latch, the start of a frame, a relock and a stop do to a pipe (R321, R322, R329-R331, R337). -/

namespace Sys2Proof.Machine

open Sys2Proof Sys2Proof.Safety Sys2Proof.Claims

variable {s t u : State} {n : Nat} {l : List Fld}

/-! ### State bits and their copies -/

/-- A list's element by its place. -/
theorem mem_at {f : Fld} (i : Nat) (h : l[i]? = some f) : f ∈ l := List.mem_of_getElem? h

theorem writes_setActive (h : fPipeActive n ∈ l) (h' : fDispBit n 7 ∈ l) (b : Bool) (s : State) : Keeps (Writes l) offDisp s (setActive n b s) :=
  (writes_setFlag h b s).trans (writes_setFlag h' b _)

theorem writes_setRelock (h : fPipeRelock n ∈ l) (h' : fDispBit n 6 ∈ l) (b : Bool) (s : State) : Keeps (Writes l) offDisp s (setRelock n b s) :=
  (writes_setFlag h b s).trans (writes_setFlag h' b _)

theorem writes_setApplyPending (h : fApplyPending n ∈ l) (h' : fDispBit n 5 ∈ l) (b : Bool) (s : State) :
    Keeps (Writes l) offDisp s (setApplyPending n b s) := (writes_setFlag h b s).trans (writes_setFlag h' b _)

/-- A pipe's register is none of the host block's. -/
theorem pipeR_ne (n off : Nat) {r : Nat} (h : r < 0x1000000) : pipeR n off ≠ r := by simp only [pipeR, C_eq]; omega

theorem flag_setActive (n : Nat) (b : Bool) (s : State) : (setActive n b s).flag (fPipeActive n) = b := by
  rw [setActive, State.setFlag, State.flag_setFld_of_ne _ _ _ _ (Ne.symm (pipeR_ne n 0x118 (r := 0xA4) (by decide)))]
  exact State.flag_setFlag s _ _ b (by decide)

theorem flag_setRelock (n : Nat) (b : Bool) (s : State) : (setRelock n b s).flag (fPipeRelock n) = b := by
  rw [setRelock, State.setFlag, State.flag_setFld_of_ne _ _ _ _ (Ne.symm (pipeR_ne n 0x118 (r := 0xA4) (by decide)))]
  exact State.flag_setFlag s _ _ b (by decide)

theorem flag_setApplyPending (n : Nat) (b : Bool) (s : State) : (setApplyPending n b s).flag (fApplyPending n) = b := by
  rw [setApplyPending, State.setFlag, State.flag_setFld_of_ne _ _ _ _ (Ne.symm (pipeR_ne n 0x118 (r := 0xA4) (by decide)))]
  exact State.flag_setFlag s _ _ b (by decide)

theorem flag_pipeEvent (n bit : Nat) (h : bit < 32) (s : State) : (pipeEvent n bit s).flag ⟨pipeR n 0x12C, bit, bit⟩ = true :=
  State.flag_setFld_one s _ _ h

/-! ### Counters -/

/-- DBG_CNT.HOLD_ALL. -/
def fHoldAll : Fld := ⟨C 0xD0040, 0, 0⟩

theorem satN_eq_min (m v : Nat) : satN m v = min m v := by
  rw [satN]
  split <;> omega

/-- A saturating counter of a pipe. -/
theorem reg_pipeCount (n off : Nat) (s : State) :
    if s.flag fHoldAll then (pipeCount n off s).reg (pipeR n off) = s.reg (pipeR n off)
    else ((pipeCount n off s).reg (pipeR n off)).toNat = min (2 ^ 32 - 1) ((s.reg (pipeR n off)).toNat + 1) := by
  have hdef : pipeCount n off s = if s.flag fHoldAll then s else s.addSat ⟨pipeR n off, 31, 0⟩ 1 := rfl
  rw [hdef]
  split
  · rfl
  · rw [State.reg_toNat, State.addSat, State.fld_setFld _ _ _ (show 31 < 32 by decide), State.reg_toNat, satN_eq_min]
    change min (2 ^ 32 - 1) (_ + 1) % 2 ^ 32 = _
    exact Nat.mod_eq_of_lt (by omega)

/-! ### The check of a plane set (R331) -/

/-- What the check of pipe n's plane set writes. -/
def checkFlds (n : Nat) : List Fld := [⟨pipeR n 0x12C, 7, 7⟩]

/-- A plane as latched. -/
def latched (s : State) (n units : Nat) (e : Nat × List Nat) : PlaneAct :=
  { words := e.2, ok := plEn e.2 && planeOk s (pipeAt s n).timing units e.2, row := 0, col := 0, pieces := [] }

theorem planeOk_congr (h : t.flag fDramReady = s.flag fDramReady) (hg : t.fld fDramGib = s.fld fDramGib) (T : List Nat) (units : Nat) (w : List Nat) :
    planeOk t T units w = planeOk s T units w := by
  have hr : ∀ a k, runOk t a k = runOk s a k := fun a k => by rw [runOk, runOk, dramBytes, dramBytes, h, hg]
  have hp : planeInDram t w = planeInDram s w := by
    rw [planeInDram, planeInDram, h]
    simp only [hr]
  rw [planeOk, planeOk, hp]

theorem clear_dram (h : n < 4) : Clear fDramReady (checkFlds n) ∧ Clear fDramGib (checkFlds n) :=
  (show ∀ n < 4, Clear fDramReady (checkFlds n) ∧ Clear fDramGib (checkFlds n) by decide) n h

theorem checkPlanes_spec (hn : n < 4) (units : Nat) (ws : List (Nat × List Nat)) (s : State) : ∃ t,
    checkPlanes n units ws s = (ws.map (latched s n units), t) ∧ Keeps (Writes (checkFlds n)) offDisp s t ∧ t.disp = s.disp := by
  induction ws generalizing s with
  | nil => exact ⟨s, rfl, .refl s, rfl⟩
  | cons e ws ih =>
    obtain ⟨k, w⟩ := e
    unfold checkPlanes
    extract_lets ok s1
    have h1 : Keeps (Writes (checkFlds n)) offDisp s s1 :=
      .ite (fun _ => (writes_setFld List.mem_cons_self 1 s).trans (writes_logEvent _ _ _ _ _ _)) fun _ => .refl s
    have hd : s1.disp = s.disp := by
      change (if _ then logEvent 4 0x143 0 n k (pipeEvent n 7 s) else s).disp = _
      split
      · exact disp_logEvent _ _ _ _ _ _
      · rfl
    obtain ⟨t, he, ht, htd⟩ := ih s1
    rw [he]
    refine ⟨t, ?_, h1.trans ht, htd.trans hd⟩
    have hm : ∀ x, latched s1 n units x = latched s n units x := fun x => by
      rw [latched, latched, pipeAt_of_disp hd, planeOk_congr (h1.clear_flag (clear_dram hn).1) (h1.clear_fld (clear_dram hn).2)]
    rw [List.map_cons, List.map_congr_left fun x _ => hm x]
    rfl

/-! ### The latch (R322) -/

/-- What a latch of pipe n writes. -/
def latchFlds (n : Nat) : List Fld :=
  [⟨pipeR n 0x12C, 7, 7⟩, fShownSeq n, fFlipPending n, fDispBit n 4, ⟨pipeR n 0x12C, 0, 0⟩, ⟨pipeR n 0x124, 31, 0⟩]

/-- The plane registers of pipe n as numbered. -/
def setWords (s : State) (n : Nat) : List (Nat × List Nat) := (numsFrom 0 3).map fun k => (k, planeWords s n k)

/-- The units that the enabled planes hold. -/
def setUnits (s : State) (n : Nat) : Nat := ((setWords s n).filter fun e => plEn e.2).foldl (fun a e => a + plUnits e.2) 0

/-- The pending set as latched. -/
def latchedSet (s : State) (n : Nat) : List PlaneAct := (setWords s n).map (latched s n (setUnits s n))

theorem latchPlanes_pending (hn : n < 4) (h : s.flag (fFlipPending n) = true) : ∃ t, Keeps (Writes (checkFlds n)) offDisp s t ∧ t.disp = s.disp
    ∧ latchPlanes n s = pipeEvent n 0 ((setPipe n { pipeAt s n with planes := latchedSet s n } t).setFlds
        [(fShownSeq n, (pipeAt s n).seq), (fFlipPending n, 0), (fDispBit n 4, 0)]) := by
  obtain ⟨t, he, ht, hd⟩ := checkPlanes_spec hn (setUnits s n) (setWords s n) s
  refine ⟨t, ht, hd, ?_⟩
  have hl : latchPlanes n s = (match checkPlanes n (setUnits s n) (setWords s n) s with
    | (planes, s) => pipeEvent n 0 ((setPipe n { pipeAt s n with planes := planes } s).setFlds
        [(fShownSeq n, (pipeAt s n).seq), (fFlipPending n, 0), (fDispBit n 4, 0)])) := by
    rw [latchPlanes, if_pos h]
    rfl
  rw [hl, he]
  dsimp only
  rw [pipeAt_of_disp hd]
  rfl

theorem latchPlanes_repeat (h : s.flag (fFlipPending n) = false) : latchPlanes n s = (pipeCount n 0x124 s).setFld (fDispBit n 4) 1 := by
  rw [latchPlanes, if_neg (by rw [h]; decide)]

/-- What every latch leaves. -/
theorem latchPlanes_keeps (hn : n < 4) (hl : n < s.disp.pipes.length) : Keeps (Writes (latchFlds n)) offDisp s (latchPlanes n s)
    ∧ (latchPlanes n s).disp.pipes.length = s.disp.pipes.length ∧ ∃ P, pipeAt (latchPlanes n s) n = { pipeAt s n with planes := P } := by
  cases h : s.flag (fFlipPending n) with
  | true =>
    obtain ⟨t, ht, hd, he⟩ := latchPlanes_pending hn h
    have hlt : n < t.disp.pipes.length := by rw [hd]; exact hl
    have h1 : Keeps (Writes (latchFlds n)) offDisp s t := ht.more (List.cons_subset.mpr ⟨mem_at 0 rfl, List.nil_subset _⟩)
    have h2 := pipeAt_setPipe hlt { pipeAt s n with planes := latchedSet s n }
    have h3 := length_setPipe n { pipeAt s n with planes := latchedSet s n } t
    have h4 : Keeps (Writes (latchFlds n)) offDisp t (setPipe n { pipeAt s n with planes := latchedSet s n } t) := writes_setPipe n _ t
    rw [he]
    generalize setPipe n { pipeAt s n with planes := latchedSet s n } t = x at h2 h3 h4
    have h5 : Keeps (Writes (latchFlds n)) offDisp x (x.setFlds [(fShownSeq n, (pipeAt s n).seq), (fFlipPending n, 0), (fDispBit n 4, 0)]) :=
      writes_setFlds _ x fun e he => by
        simp only [List.mem_cons, List.not_mem_nil, or_false] at he
        rcases he with rfl | rfl | rfl
        · exact mem_at 1 rfl
        · exact mem_at 2 rfl
        · exact mem_at 3 rfl
    have h6 : (x.setFlds [(fShownSeq n, (pipeAt s n).seq), (fFlipPending n, 0), (fDispBit n 4, 0)]).disp = x.disp := State.setFlds_disp _ _
    generalize x.setFlds [(fShownSeq n, (pipeAt s n).seq), (fFlipPending n, 0), (fDispBit n 4, 0)] = y at h5 h6
    refine ⟨((h1.trans h4).trans h5).trans (writes_setFld (mem_at 4 rfl) 1 y), ?_, latchedSet s n, ?_⟩
    · rw [pipeEvent, State.setFld_disp, h6, h3, hd]
    · rw [pipeEvent, pipeAt_setFld, pipeAt_of_disp h6, h2]
  | false =>
    have h1 : Keeps (Writes (latchFlds n)) offDisp s (pipeCount n 0x124 s) := writes_pipeCount (mem_at 5 rfl) s
    have h2 := disp_pipeCount n 0x124 s
    rw [latchPlanes_repeat h]
    generalize pipeCount n 0x124 s = x at h1 h2
    refine ⟨h1.trans (writes_setFld (mem_at 3 rfl) 1 x), ?_, (pipeAt s n).planes, ?_⟩
    · rw [State.setFld_disp, h2]
    · rw [pipeAt_setFld, pipeAt_of_disp h2]

end Sys2Proof.Machine
end

section
/-! SUPPORT. The start of a frame, new timing, a relock and a stop (R321, R329, R330, R337). -/

namespace Sys2Proof.Machine

open Sys2Proof Sys2Proof.Safety Sys2Proof.Claims

variable {s t u : State} {n q : Nat} {l : List Fld}

theorem pipeAt_setFlds (fl : List (Fld × Nat)) (s : State) : pipeAt (s.setFlds fl) n = pipeAt s n := pipeAt_of_disp (State.setFlds_disp s fl)

theorem fld_pipePort_lt (s : State) (n : Nat) : s.fld (fPipePort n) < 4 := Nat.mod_lt _ (show 0 < 2 ^ (29 + 1 - 28) by decide)

/-! ### The start of a frame -/

/-- What a frame's start writes before its latch. -/
def startFlds (n : Nat) : List Fld := [fPipeLine n, fPipeActive n, fDispBit n 7, ⟨pipeR n 0x120, 31, 0⟩]

/-- FRAME_COUNT. -/
def frameCount (n : Nat) (s : State) : State :=
  if s.flag fHoldAll then s else s.setFld ⟨pipeR n 0x120, 31, 0⟩ ((s.fld ⟨pipeR n 0x120, 31, 0⟩ + 1) % 2 ^ 32)

/-- LINE 0, ACTIVE, FRAME_COUNT. -/
def frameStart (n : Nat) (s : State) : State := frameCount n (setActive n true (s.setFld (fPipeLine n) 0))

/-- Prefetch, and the packets of the blank. -/
def frameEnd (n : Nat) (s : State) : State :=
  let s := startPrefetch n s
  let q := s.fld (fPipePort n)
  if 2 ≤ q then dsiDrain q (vBlank (pipeAt s n).timing) s else s

theorem beginFrame_eq (n : Nat) (s : State) : beginFrame n s = frameEnd n (latchPlanes n (frameStart n s)) := rfl

theorem frameCount_spec (n : Nat) (s : State) : Keeps (Writes [⟨pipeR n 0x120, 31, 0⟩]) offDisp s (frameCount n s) ∧ (frameCount n s).disp = s.disp
    ∧ (s.flag fHoldAll = false → ((frameCount n s).reg (pipeR n 0x120)).toNat = ((s.reg (pipeR n 0x120)).toNat + 1) % 2 ^ 32) := by
  rw [frameCount]
  split
  · next h => exact ⟨.refl s, rfl, fun hf => absurd (h.symm.trans hf) (by decide)⟩
  · refine ⟨writes_setFld List.mem_cons_self _ s, State.setFld_disp s _ _, fun _ => ?_⟩
    rw [State.reg_toNat, State.fld_setFld _ _ _ (show 31 < 32 by decide), State.reg_toNat]
    exact Nat.mod_mod _ _

/-- What begins the frame before FRAME_COUNT. -/
def activeFlds (n : Nat) : List Fld := [fPipeLine n, fPipeActive n, fDispBit n 7]

theorem clear_active (hn : n < 4) : Clear (fPipeLine n) [fPipeActive n, fDispBit n 7] ∧ Clear fHoldAll (activeFlds n)
    ∧ Clear ⟨pipeR n 0x120, 31, 0⟩ (activeFlds n) := by
  refine ⟨?_, ?_, ?_⟩ <;> interval_cases n <;> decide

theorem clear_count (hn : n < 4) : Clear (fPipeActive n) [⟨pipeR n 0x120, 31, 0⟩] ∧ Clear (fPipeLine n) [⟨pipeR n 0x120, 31, 0⟩] := by
  refine ⟨?_, ?_⟩ <;> interval_cases n <;> decide

theorem setActive_line (hn : n < 4) (s : State) : Keeps (Writes (activeFlds n)) offDisp s (setActive n true (s.setFld (fPipeLine n) 0))
    ∧ (setActive n true (s.setFld (fPipeLine n) 0)).fld (fPipeLine n) = 0 := by
  have h : Keeps (Writes [fPipeActive n, fDispBit n 7]) offDisp (s.setFld (fPipeLine n) 0) (setActive n true (s.setFld (fPipeLine n) 0)) :=
    writes_setActive (mem_at 0 rfl) (mem_at 1 rfl) true _
  refine ⟨(writes_setFld (mem_at 0 rfl) 0 s).trans (writes_setActive (mem_at 1 rfl) (mem_at 2 rfl) true _), ?_⟩
  rw [h.clear_fld (clear_active hn).1]
  exact State.fld_setFld s _ 0 (show 23 < 32 by decide)

theorem disp_setActive (n : Nat) (b : Bool) (s : State) : (setActive n b s).disp = s.disp := by
  rw [setActive, State.setFlag_disp, State.setFlag_disp]

theorem frameStart_spec (hn : n < 4) (s : State) : Keeps (Writes (startFlds n)) offDisp s (frameStart n s) ∧ (frameStart n s).disp = s.disp
    ∧ (frameStart n s).flag (fPipeActive n) = true ∧ (frameStart n s).fld (fPipeLine n) = 0
    ∧ (s.flag fHoldAll = false → ((frameStart n s).reg (pipeR n 0x120)).toNat = ((s.reg (pipeR n 0x120)).toNat + 1) % 2 ^ 32) := by
  obtain ⟨hx, hl⟩ := setActive_line hn s
  have ha := flag_setActive n true (s.setFld (fPipeLine n) 0)
  have hd := (disp_setActive n true (s.setFld (fPipeLine n) 0)).trans (State.setFld_disp s _ _)
  obtain ⟨x, he⟩ : ∃ x, setActive n true (s.setFld (fPipeLine n) 0) = x := ⟨_, rfl⟩
  rw [frameStart]
  rw [he] at hx hl ha hd ⊢
  obtain ⟨hw, hwd, hc⟩ := frameCount_spec n x
  refine ⟨(hx.more ?_).trans (hw.more ?_), hwd.trans hd, (hw.clear_flag (clear_count hn).1).trans ha, (hw.clear_fld (clear_count hn).2).trans hl, fun hh => ?_⟩
  · exact List.cons_subset.mpr ⟨mem_at 0 rfl, List.cons_subset.mpr ⟨mem_at 1 rfl, List.cons_subset.mpr ⟨mem_at 2 rfl, List.nil_subset _⟩⟩⟩
  · exact List.cons_subset.mpr ⟨mem_at 3 rfl, List.nil_subset _⟩
  · rw [hc ((hx.clear_flag (clear_active hn).2.1).trans hh), hx.clear_reg (clear_active hn).2.2]

/-- A set with its prefetch at the first piece of every plane. -/
def rewound (P : List PlaneAct) : List PlaneAct :=
  P.map fun a => { a with row := if plUmz a.words then plBy0 a.words else 0, col := if plUmz a.words then plBx0 a.words else 0, pieces := [] }

theorem pipeAt_of_pipes (h : t.disp.pipes = s.disp.pipes) : pipeAt t n = pipeAt s n := by rw [pipeAt, pipeAt, h]

theorem pipes_setPort (q : Nat) (p : PortSt) (s : State) : (setPort q p s).disp.pipes = s.disp.pipes := rfl

theorem dsiDrain_spec (q lines : Nat) (s : State) : Keeps (Writes [fDsiBusy q]) offDisp s (dsiDrain q lines s)
    ∧ (dsiDrain q lines s).disp.pipes = s.disp.pipes := by
  unfold dsiDrain
  extract_lets p sent left
  refine ⟨(writes_setPort _ _ s).trans (writes_setFlag List.mem_cons_self _ _), ?_⟩
  rw [State.setFlag_disp, pipes_setPort]

theorem startPrefetch_eq (n : Nat) (s : State) : startPrefetch n s =
    setPipe n { pipeAt s n with planes := rewound (pipeAt s n).planes, next := 0, under := none, ueLogged := false } s := rfl

theorem frameEnd_spec (hl : n < s.disp.pipes.length) (hq : s.fld (fPipePort n) = q) : Keeps (Writes [fDsiBusy q]) offDisp s (frameEnd n s)
    ∧ (frameEnd n s).disp.pipes.length = s.disp.pipes.length
    ∧ pipeAt (frameEnd n s) n = { pipeAt s n with planes := rewound (pipeAt s n).planes, next := 0, under := none, ueLogged := false } := by
  unfold frameEnd
  extract_lets x q'
  have he : x = setPipe n { pipeAt s n with planes := rewound (pipeAt s n).planes, next := 0, under := none, ueLogged := false } s := startPrefetch_eq n s
  have hp := pipeAt_setPipe hl { pipeAt s n with planes := rewound (pipeAt s n).planes, next := 0, under := none, ueLogged := false }
  have hlen := length_setPipe n { pipeAt s n with planes := rewound (pipeAt s n).planes, next := 0, under := none, ueLogged := false } s
  have hx : Keeps (Writes [fDsiBusy q]) offDisp s
    (setPipe n { pipeAt s n with planes := rewound (pipeAt s n).planes, next := 0, under := none, ueLogged := false } s) := writes_setPipe n _ s
  rw [← he] at hp hlen hx
  have hq' : q' = q := hq
  clear_value x q'
  subst hq'
  split
  · obtain ⟨hw, hpipes⟩ := dsiDrain_spec q' (vBlank (pipeAt x n).timing) x
    exact ⟨hx.trans hw, (congrArg List.length hpipes).trans hlen, (pipeAt_of_pipes hpipes).trans hp⟩
  · exact ⟨hx, hlen, hp⟩

/-- What the start of a frame of pipe n at port q writes. -/
def beginFlds (n q : Nat) : List Fld := startFlds n ++ latchFlds n ++ [fDsiBusy q]

/-- A frame begun from s to u. -/
structure Begun (n : Nat) (s u : State) : Prop where
  keeps : Keeps (Writes (beginFlds n (s.fld (fPipePort n)))) offDisp s u
  len : u.disp.pipes.length = s.disp.pipes.length
  active : u.flag (fPipeActive n) = true
  line : u.fld (fPipeLine n) = 0
  count : s.flag fHoldAll = false → (u.reg (pipeR n 0x120)).toNat = ((s.reg (pipeR n 0x120)).toNat + 1) % 2 ^ 32
  pipe : ∃ P, pipeAt u n = { pipeAt s n with planes := P, next := 0, under := none, ueLogged := false }

theorem clear_latch (hn : n < 4) : Clear (fPipeActive n) (latchFlds n) ∧ Clear (fPipeLine n) (latchFlds n)
    ∧ Clear ⟨pipeR n 0x120, 31, 0⟩ (latchFlds n) ∧ Clear (fPipePort n) (latchFlds n) := by
  refine ⟨?_, ?_, ?_, ?_⟩ <;> interval_cases n <;> decide

theorem clear_start (hn : n < 4) : Clear (fPipePort n) (startFlds n) := by interval_cases n <;> decide

/-- A pipe's own field is apart from the busy bit of a port's DSI commands. -/
theorem clear_dsi (hn : n < 4) {off hi lo : Nat} (ho : off < 0x3000) (hhi : hi < 32) : Clear ⟨pipeR n off, hi, lo⟩ [fDsiBusy q] := by
  refine ⟨hhi, ?_, fun g hg => ?_⟩
  · simp only [List.mem_cons, List.not_mem_nil, or_false, pipeR, C_eq]; omega
  · rw [List.mem_singleton.mp hg]
    refine .inl ?_
    simp only [fDsiBusy, pipeR, C_eq]; omega

/-- What a frame's start does, by its parts: before the latch, the latch, after it. -/
theorem beginFrame_parts (hn : n < 4) (hl : n < s.disp.pipes.length) : ∃ x y,
    (Keeps (Writes (startFlds n)) offDisp s x ∧ x.disp = s.disp ∧ x.flag (fPipeActive n) = true ∧ x.fld (fPipeLine n) = 0
      ∧ (s.flag fHoldAll = false → (x.reg (pipeR n 0x120)).toNat = ((s.reg (pipeR n 0x120)).toNat + 1) % 2 ^ 32))
    ∧ y = latchPlanes n x ∧ Keeps (Writes (latchFlds n)) offDisp x y
    ∧ Keeps (Writes [fDsiBusy (s.fld (fPipePort n))]) offDisp y (beginFrame n s) ∧ y.disp.pipes.length = s.disp.pipes.length
    ∧ (beginFrame n s).disp.pipes.length = s.disp.pipes.length
    ∧ pipeAt (beginFrame n s) n = { pipeAt y n with planes := rewound (pipeAt y n).planes, next := 0, under := none, ueLogged := false } := by
  obtain ⟨h1, hd, -⟩ := frameStart_spec hn s
  have hlx : n < (frameStart n s).disp.pipes.length := by rw [hd]; exact hl
  obtain ⟨h2, hlen, -⟩ := latchPlanes_keeps hn hlx
  have hly : n < (latchPlanes n (frameStart n s)).disp.pipes.length := by rw [hlen]; exact hlx
  obtain ⟨h3, h4, h5⟩ := frameEnd_spec hly ((h2.clear_fld (clear_latch hn).2.2.2).trans (h1.clear_fld (clear_start hn)))
  rw [hlen, hd] at h4
  rw [beginFrame_eq]
  exact ⟨_, _, frameStart_spec hn s, rfl, h2, h3, by rw [hlen, hd], h4, h5⟩

theorem begun_beginFrame (hn : n < 4) (hl : n < s.disp.pipes.length) : Begun n s (beginFrame n s) := by
  obtain ⟨x, y, ⟨hx, hxd, hxa, hxl, hxc⟩, hy, hxy, hu, -, hlen, hp⟩ := beginFrame_parts hn hl
  have hlx : n < x.disp.pipes.length := by rw [hxd]; exact hl
  obtain ⟨-, -, P, hP⟩ := latchPlanes_keeps hn hlx
  obtain ⟨c1, c2, c3, -⟩ := clear_latch hn
  rw [hy, hP, pipeAt_of_disp hxd] at hp
  generalize beginFrame n s = u at hu hlen hp
  refine ⟨((hx.more ?_).trans (hxy.more ?_)).trans (hu.more ?_), hlen, ?_, ?_, fun hh => ?_, _, hp⟩
  · exact fun g hg => List.mem_append_left _ (List.mem_append_left _ hg)
  · exact fun g hg => List.mem_append_left _ (List.mem_append_right _ hg)
  · exact fun g hg => List.mem_append_right _ hg
  · exact (hu.clear_flag (clear_dsi hn (by decide) (by decide))).trans ((hxy.clear_flag c1).trans hxa)
  · exact (hu.clear_fld (clear_dsi hn (by decide) (by decide))).trans ((hxy.clear_fld c2).trans hxl)
  · rw [hu.clear_reg (clear_dsi hn (by decide) (by decide)), hxy.clear_reg c3, hxc hh]

end Sys2Proof.Machine
end

section
/-! SUPPORT. What a frame's latch leaves, and the other operations on a pipe (R322, R327, R329-R331, R337). -/

namespace Sys2Proof.Machine

open Sys2Proof Sys2Proof.Safety Sys2Proof.Claims

variable {s t u : State} {n q : Nat} {l : List Fld}

/-! ### What is latched depends on -/

theorem words_of_keeps (h : Keeps (Writes l) offDisp s t) (hl : ∀ off, 0x40 ≤ off → off < 0x100 → Clear ⟨pipeR n off, 31, 0⟩ l) :
    setWords t n = setWords s n := by
  refine List.map_congr_left fun k hk => congrArg (Prod.mk k) (List.map_congr_left fun i hi => ?_)
  rw [mem_numsFrom] at hk hi
  rw [h.clear_reg (hl _ (by omega) (by omega))]

theorem latchedSet_of_keeps (h : Keeps (Writes l) offDisp s t) (hl : ∀ off, 0x40 ≤ off → off < 0x100 → Clear ⟨pipeR n off, 31, 0⟩ l)
    (hr : Clear fDramReady l) (hg : Clear fDramGib l) (ht : (pipeAt t n).timing = (pipeAt s n).timing) : latchedSet t n = latchedSet s n := by
  have hw := words_of_keeps h hl
  rw [latchedSet, latchedSet, setUnits, setUnits, hw]
  refine List.map_congr_left fun e _ => ?_
  rw [latched, latched, ht, planeOk_congr (h.clear_flag hr) (h.clear_fld hg)]

/-- A list of fields of pipe n that leaves its plane registers alone. -/
@[reducible] def OffPlanes (n : Nat) (l : List Fld) : Prop :=
  Clear fDramReady l ∧ Clear fDramGib l ∧ ∀ g ∈ l, g.reg < pipeR n 0x40 ∨ pipeR n 0x100 ≤ g.reg

theorem OffPlanes.clear (h : OffPlanes n l) {off : Nat} (h1 : 0x40 ≤ off) (h2 : off < 0x100) : Clear ⟨pipeR n off, 31, 0⟩ l := by
  refine ⟨show 31 < 32 by decide, ?_, fun g hg => .inl ?_⟩
  · simp only [List.mem_cons, List.not_mem_nil, or_false, pipeR, C_eq]; omega
  · have := h.2.2 g hg
    simp only [pipeR, C_eq] at this ⊢
    omega

theorem OffPlanes.latchedSet (h : OffPlanes n l) (hk : Keeps (Writes l) offDisp s t) (ht : (pipeAt t n).timing = (pipeAt s n).timing) :
    latchedSet t n = latchedSet s n := latchedSet_of_keeps hk (fun _ h1 h2 => h.clear h1 h2) h.1 h.2.1 ht

theorem offPlanes_start (hn : n < 4) : OffPlanes n (startFlds n) := by
  refine ⟨?_, ?_, ?_⟩ <;> interval_cases n <;> decide

/-- What a frame shows of its planes. -/
def planesShown (P : List PlaneAct) : List (List Nat × Bool × List Piece) := P.map fun a => (a.words, a.ok, a.pieces)

theorem planesShown_rewound (P : List PlaneAct) : planesShown (rewound P) = P.map fun a => (a.words, a.ok, []) := by
  rw [planesShown, rewound, List.map_map]
  rfl

/-! ### A latch that takes a commit -/

/-- A committed set has been latched. -/
structure Took (n : Nat) (s u : State) : Prop where
  shown : u.fld (fShownSeq n) = (pipeAt s n).seq % 65536
  pending : u.flag (fFlipPending n) = false
  event : u.flag ⟨pipeR n 0x12C, 0, 0⟩ = true
  status : u.flag (fDispBit n 4) = false

theorem clear_taken (hn : n < 4) : Clear (fShownSeq n) [fFlipPending n, fDispBit n 4, ⟨pipeR n 0x12C, 0, 0⟩]
    ∧ Clear (fFlipPending n) [fDispBit n 4, ⟨pipeR n 0x12C, 0, 0⟩] ∧ Clear (fDispBit n 4) [⟨pipeR n 0x12C, 0, 0⟩] := by
  refine ⟨?_, ?_, ?_⟩ <;> interval_cases n <;> decide

theorem flag_setFld_zero_of (s : State) {f : Fld} (h : f.hi < 32) : (s.setFld f 0).flag f = false := by
  rw [State.flag, State.fld_setFld _ _ _ h, Nat.zero_mod]
  rfl

/-- The registers of a latch that takes a commit. -/
theorem took_registers (hn : n < 4) (seq : Nat) (x : State) :
    (pipeEvent n 0 (x.setFlds [(fShownSeq n, seq), (fFlipPending n, 0), (fDispBit n 4, 0)])).fld (fShownSeq n) = seq % 65536
      ∧ (pipeEvent n 0 (x.setFlds [(fShownSeq n, seq), (fFlipPending n, 0), (fDispBit n 4, 0)])).flag (fFlipPending n) = false
      ∧ (pipeEvent n 0 (x.setFlds [(fShownSeq n, seq), (fFlipPending n, 0), (fDispBit n 4, 0)])).flag ⟨pipeR n 0x12C, 0, 0⟩ = true
      ∧ (pipeEvent n 0 (x.setFlds [(fShownSeq n, seq), (fFlipPending n, 0), (fDispBit n 4, 0)])).flag (fDispBit n 4) = false := by
  obtain ⟨c1, c2, c3⟩ := clear_taken hn
  rw [State.setFlds_cons, State.setFlds_cons, State.setFlds_cons, State.setFlds_nil]
  have h1 := State.fld_setFld x (fShownSeq n) seq (show 15 < 32 by decide)
  have h2 := flag_setFld_zero_of (x.setFld (fShownSeq n) seq) (f := fFlipPending n) (show 31 < 32 by decide)
  generalize x.setFld (fShownSeq n) seq = a at h1 h2
  have k3 : Keeps (Writes [fFlipPending n, fDispBit n 4, ⟨pipeR n 0x12C, 0, 0⟩]) offDisp a
      (pipeEvent n 0 ((a.setFld (fFlipPending n) 0).setFld (fDispBit n 4) 0)) :=
    (writes_setFld (mem_at 0 rfl) 0 a).trans ((writes_setFld (mem_at 1 rfl) 0 _).trans (writes_setFld (mem_at 2 rfl) 1 _))
  generalize a.setFld (fFlipPending n) 0 = b at h2 k3 ⊢
  have k4 : Keeps (Writes [fDispBit n 4, ⟨pipeR n 0x12C, 0, 0⟩]) offDisp b (pipeEvent n 0 (b.setFld (fDispBit n 4) 0)) :=
    (writes_setFld (mem_at 0 rfl) 0 b).trans (writes_setFld (mem_at 1 rfl) 1 _)
  have h5 := flag_setFld_zero_of b (f := fDispBit n 4) (by interval_cases n <;> decide)
  generalize b.setFld (fDispBit n 4) 0 = c at h5 k3 k4 ⊢
  have k6 : Keeps (Writes [⟨pipeR n 0x12C, 0, 0⟩]) offDisp c (pipeEvent n 0 c) := writes_setFld (mem_at 0 rfl) 1 c
  exact ⟨(k3.clear_fld c1).trans h1, (k4.clear_flag c2).trans h2, flag_pipeEvent n 0 (by decide) c, (k6.clear_flag c3).trans h5⟩

theorem took_latchPlanes (hn : n < 4) (hl : n < s.disp.pipes.length) (h : s.flag (fFlipPending n) = true) : Took n s (latchPlanes n s)
    ∧ (pipeAt (latchPlanes n s) n).planes = latchedSet s n := by
  obtain ⟨t, -, hd, he⟩ := latchPlanes_pending hn h
  have hp := pipeAt_setPipe (s := t) (by rw [hd]; exact hl) { pipeAt s n with planes := latchedSet s n }
  obtain ⟨h1, h2, h3, h4⟩ := took_registers hn (pipeAt s n).seq (setPipe n { pipeAt s n with planes := latchedSet s n } t)
  rw [he]
  refine ⟨⟨h1, h2, h3, h4⟩, ?_⟩
  rw [pipeEvent, pipeAt_setFld, pipeAt_setFlds, hp]

/-! ### A latch with no commit -/

/-- The previous set is shown again. -/
structure Repeats (n : Nat) (s u : State) : Prop where
  shown : u.fld (fShownSeq n) = s.fld (fShownSeq n)
  status : u.flag (fDispBit n 4) = true
  count : if s.flag fHoldAll then u.reg (pipeR n 0x124) = s.reg (pipeR n 0x124)
    else (u.reg (pipeR n 0x124)).toNat = min (2 ^ 32 - 1) ((s.reg (pipeR n 0x124)).toNat + 1)

theorem flag_setFld_one_of (s : State) {n b : Nat} (hn : n < 4) (hb : b < 8) : (s.setFld (fDispBit n b) 1).flag (fDispBit n b) = true :=
  State.flag_setFld_one s _ _ (by omega)

theorem repeats_latchPlanes (hn : n < 4) (h : s.flag (fFlipPending n) = false) : Repeats n s (latchPlanes n s)
    ∧ (pipeAt (latchPlanes n s) n).planes = (pipeAt s n).planes := by
  have c : Clear (fShownSeq n) [⟨pipeR n 0x124, 31, 0⟩, fDispBit n 4] ∧ Clear ⟨pipeR n 0x124, 31, 0⟩ [fDispBit n 4] := by
    refine ⟨?_, ?_⟩ <;> interval_cases n <;> decide
  have h1 : Keeps (Writes [⟨pipeR n 0x124, 31, 0⟩, fDispBit n 4]) offDisp s (pipeCount n 0x124 s) := writes_pipeCount (mem_at 0 rfl) s
  have h2 := reg_pipeCount n 0x124 s
  have hd := disp_pipeCount n 0x124 s
  rw [latchPlanes_repeat h]
  generalize pipeCount n 0x124 s = x at h1 h2 hd
  have h3 : Keeps (Writes [⟨pipeR n 0x124, 31, 0⟩, fDispBit n 4]) offDisp x (x.setFld (fDispBit n 4) 1) := writes_setFld (mem_at 1 rfl) 1 x
  have h4 : Keeps (Writes [fDispBit n 4]) offDisp x (x.setFld (fDispBit n 4) 1) := writes_setFld (mem_at 0 rfl) 1 x
  refine ⟨⟨(h1.trans h3).clear_fld c.1, flag_setFld_one_of x hn (by decide), ?_⟩, ?_⟩
  · rw [h4.clear_reg c.2]; exact h2
  · rw [pipeAt_setFld, pipeAt_of_disp hd]

/-! ### A frame begun on a commit, and one that repeats -/

theorem clear_latched (hn : n < 4) : Clear (fFlipPending n) (startFlds n) ∧ Clear (fShownSeq n) (startFlds n) ∧ Clear ⟨pipeR n 0x124, 31, 0⟩ (startFlds n)
    ∧ Clear fHoldAll (startFlds n) := by
  refine ⟨?_, ?_, ?_, ?_⟩ <;> interval_cases n <;> decide

theorem clear_dispBit (hn : n < 4) {q b : Nat} (hb : b < 8) : Clear (fDispBit n b) [fDsiBusy q] := by
  refine ⟨show 8 * n + b < 32 by omega, show 0xA4 ∉ logRegs by decide, fun g hg => .inl ?_⟩
  rw [List.mem_singleton.mp hg]
  exact Ne.symm (pipeR_ne q 0x3030 (r := 0xA4) (by decide))

theorem took_beginFrame (hn : n < 4) (hl : n < s.disp.pipes.length) (h : s.flag (fFlipPending n) = true) : Took n s (beginFrame n s)
    ∧ planesShown (pipeAt (beginFrame n s) n).planes = (latchedSet s n).map fun a => (a.words, a.ok, []) := by
  obtain ⟨x, y, ⟨hx, hxd, -⟩, hy, -, hu, -, -, hp⟩ := beginFrame_parts hn hl
  have hlx : n < x.disp.pipes.length := by rw [hxd]; exact hl
  obtain ⟨⟨h1, h2, h3, h4⟩, hset⟩ := took_latchPlanes hn hlx ((hx.clear_flag (clear_latched hn).1).trans h)
  rw [(offPlanes_start hn).latchedSet hx (congrArg PipeSt.timing (pipeAt_of_disp hxd)), ← hy] at hset
  rw [← hy] at h1 h2 h3 h4
  rw [pipeAt_of_disp hxd] at h1
  generalize beginFrame n s = u at hu hp
  refine ⟨⟨?_, ?_, ?_, ?_⟩, ?_⟩
  · exact (hu.clear_fld (clear_dsi hn (by decide) (by decide))).trans h1
  · exact (hu.clear_flag (clear_dsi hn (by decide) (by decide))).trans h2
  · exact (hu.clear_flag (clear_dsi hn (by decide) (by decide))).trans h3
  · exact (hu.clear_flag (clear_dispBit hn (by decide))).trans h4
  · rw [hp]
    dsimp only
    rw [planesShown_rewound, hset]

theorem repeats_beginFrame (hn : n < 4) (hl : n < s.disp.pipes.length) (h : s.flag (fFlipPending n) = false) : Repeats n s (beginFrame n s)
    ∧ planesShown (pipeAt (beginFrame n s) n).planes = (pipeAt s n).planes.map fun a => (a.words, a.ok, []) := by
  obtain ⟨x, y, ⟨hx, hxd, -⟩, hy, -, hu, -, -, hp⟩ := beginFrame_parts hn hl
  obtain ⟨c1, c2, c3, c4⟩ := clear_latched hn
  obtain ⟨⟨h1, h2, h3⟩, hset⟩ := repeats_latchPlanes hn ((hx.clear_flag c1).trans h)
  rw [← hy] at h1 h2 h3 hset
  rw [hx.clear_flag c4, hx.clear_reg c3] at h3
  generalize beginFrame n s = u at hu hp
  refine ⟨⟨?_, ?_, ?_⟩, ?_⟩
  · exact (hu.clear_fld (clear_dsi hn (by decide) (by decide))).trans (h1.trans (hx.clear_fld c2))
  · exact (hu.clear_flag (clear_dispBit hn (by decide))).trans h2
  · rw [hu.clear_reg (clear_dsi hn (by decide) (by decide))]
    exact h3
  · rw [hp]
    dsimp only
    rw [planesShown_rewound, hset, pipeAt_of_disp hxd]

end Sys2Proof.Machine
end

section
/-! SUPPORT. New timing, a relock, a stop, and the end of the frame before a vertical blank start (R327, R329, R330, R337). -/

namespace Sys2Proof.Machine

open Sys2Proof Sys2Proof.Safety Sys2Proof.Claims

variable {s t u : State} {n q : Nat} {l : List Fld}

/-! ### New timing (R330) -/

/-- What an apply of the shadows writes. -/
def shadowFlds (n : Nat) : List Fld := [fApplyPending n, fDispBit n 5, ⟨pipeR n 0x12C, 1, 1⟩]

/-- The table shadow at an offset. -/
def tableShadow (s : State) (n base : Nat) : Sparse W32 :=
  (numsFrom 0 1024).foldl (fun m i => Sparse.put (fun _ => 0#32) m i (s.reg (pipeR n (base + 4 * i)))) []

theorem get_foldl_put {α : Type} [DecidableEq α] (d : Nat → α) (f : Nat → α) (ks : List Nat) (m : Sparse α) (i : Nat) :
    Sparse.get d (ks.foldl (fun m i => Sparse.put d m i (f i)) m) i = if i ∈ ks then f i else Sparse.get d m i := by
  induction ks generalizing m with
  | nil => rw [if_neg List.not_mem_nil]; rfl
  | cons k ks ih =>
    rw [List.foldl_cons, ih, Sparse.get_put]
    by_cases hi : i ∈ ks
    · rw [if_pos hi, if_pos (List.mem_cons_of_mem k hi)]
    · rw [if_neg hi]
      by_cases hk : k = i
      · rw [if_pos hk, hk, if_pos List.mem_cons_self]
      · rw [if_neg hk, if_neg (by rw [List.mem_cons]; exact fun h => h.elim (fun e => hk e.symm) hi)]

theorem get_tableShadow (s : State) (n base : Nat) {i : Nat} (h : i < 1024) :
    Sparse.get (fun _ => 0#32) (tableShadow s n base) i = s.reg (pipeR n (base + 4 * i)) := by
  rw [tableShadow, get_foldl_put, if_pos ((mem_numsFrom _ _ _).mpr (by omega))]

theorem applyShadows_eq (n : Nat) (s : State) : applyShadows n s = pipeEvent n 1 (setApplyPending n false
    (setPipe n { pipeAt s n with timing := timingShadow s n, degamma := tableShadow s n 0x1000, gamma := tableShadow s n 0x2000 } s)) := rfl

theorem disp_setApplyPending (n : Nat) (b : Bool) (s : State) : (setApplyPending n b s).disp = s.disp := by
  rw [setApplyPending, State.setFlag_disp, State.setFlag_disp]

theorem disp_setRelock (n : Nat) (b : Bool) (s : State) : (setRelock n b s).disp = s.disp := by
  rw [setRelock, State.setFlag_disp, State.setFlag_disp]

theorem disp_pipeEvent (n b : Nat) (s : State) : (pipeEvent n b s).disp = s.disp := State.setFld_disp s _ _

/-- The shadows of s are in use in u. -/
structure Applied (n : Nat) (s u : State) : Prop where
  keeps : Keeps (Writes (shadowFlds n)) offDisp s u
  len : u.disp.pipes.length = s.disp.pipes.length
  pipe : pipeAt u n = { pipeAt s n with timing := timingShadow s n, degamma := tableShadow s n 0x1000, gamma := tableShadow s n 0x2000 }
  event : u.flag ⟨pipeR n 0x12C, 1, 1⟩ = true
  pending : u.flag (fApplyPending n) = false
  log : u.log = s.log

theorem applied_applyShadows (hn : n < 4) (hl : n < s.disp.pipes.length) : Applied n s (applyShadows n s) := by
  have hp := pipeAt_setPipe hl { pipeAt s n with timing := timingShadow s n, degamma := tableShadow s n 0x1000, gamma := tableShadow s n 0x2000 }
  have hlen := length_setPipe n { pipeAt s n with timing := timingShadow s n, degamma := tableShadow s n 0x1000, gamma := tableShadow s n 0x2000 } s
  have h1 : Keeps (Writes (shadowFlds n)) offDisp s
    (setPipe n { pipeAt s n with timing := timingShadow s n, degamma := tableShadow s n 0x1000, gamma := tableShadow s n 0x2000 } s) := writes_setPipe n _ s
  have hlog : (setPipe n { pipeAt s n with timing := timingShadow s n, degamma := tableShadow s n 0x1000, gamma := tableShadow s n 0x2000 } s).log = s.log := rfl
  have c : Clear (fApplyPending n) [⟨pipeR n 0x12C, 1, 1⟩] := by interval_cases n <;> decide
  rw [applyShadows_eq]
  generalize setPipe n { pipeAt s n with timing := timingShadow s n, degamma := tableShadow s n 0x1000, gamma := tableShadow s n 0x2000 } s = x at *
  have h2 : Keeps (Writes (shadowFlds n)) offDisp x (setApplyPending n false x) := writes_setApplyPending (mem_at 0 rfl) (mem_at 1 rfl) false x
  have ha := flag_setApplyPending n false x
  have hd := disp_setApplyPending n false x
  have hlog2 : (setApplyPending n false x).log = x.log := by rw [setApplyPending, State.setFlag_log, State.setFlag_log]
  generalize setApplyPending n false x = y at *
  have h3 : Keeps (Writes [⟨pipeR n 0x12C, 1, 1⟩]) offDisp y (pipeEvent n 1 y) := writes_setFld (mem_at 0 rfl) 1 y
  refine ⟨(h1.trans h2).trans (writes_setFld (mem_at 2 rfl) 1 y), ?_, ?_, flag_pipeEvent n 1 (by decide) y, (h3.clear_flag c).trans ha, ?_⟩
  · rw [disp_pipeEvent, hd, hlen]
  · rw [pipeAt_of_disp (disp_pipeEvent n 1 y), pipeAt_of_disp hd, hp]
  · rw [pipeEvent, State.setFld_log, hlog2, hlog]

/-! ### A relock (R337) -/

/-- What the start of a relock writes. -/
def relockFlds (n : Nat) : List Fld :=
  [fPipeRelock n, fDispBit n 6, fPipeActive n, fDispBit n 7, fQuietValid n, fPipeLine n, ⟨pipeR n 0x12C, 3, 3⟩]

/-- The registers of a relock. -/
def relockRegs (n : Nat) (s : State) : State :=
  pipeEvent n 3 ((setActive n false (setRelock n true s)).setFlds [(fQuietValid n, 0), (fPipeLine n, 0)])

theorem relockStart_eq (n cause : Nat) (s : State) : relockStart n cause s = logEvent 5 0x142 0 n cause
    (portIdle n (setPipe n { pipeAt (relockRegs n s) n with frames := 0, next := 0, under := none } (relockRegs n s))) := rfl

theorem clear_relock (hn : n < 4) : Clear (fPipeRelock n) [fPipeActive n, fDispBit n 7, fQuietValid n, fPipeLine n, ⟨pipeR n 0x12C, 3, 3⟩]
    ∧ Clear (fPipeActive n) [fQuietValid n, fPipeLine n, ⟨pipeR n 0x12C, 3, 3⟩] ∧ Clear (fQuietValid n) [fPipeLine n, ⟨pipeR n 0x12C, 3, 3⟩] := by
  refine ⟨?_, ?_, ?_⟩ <;> interval_cases n <;> decide

theorem relockRegs_spec (hn : n < 4) (s : State) : Keeps (Writes (relockFlds n)) offDisp s (relockRegs n s) ∧ (relockRegs n s).disp = s.disp
    ∧ (relockRegs n s).log = s.log ∧ (relockRegs n s).flag (fPipeRelock n) = true ∧ (relockRegs n s).flag (fPipeActive n) = false
    ∧ (relockRegs n s).flag (fQuietValid n) = false ∧ (relockRegs n s).flag ⟨pipeR n 0x12C, 3, 3⟩ = true := by
  obtain ⟨c1, c2, c3⟩ := clear_relock hn
  rw [relockRegs, State.setFlds_cons, State.setFlds_cons, State.setFlds_nil]
  have h1 : Keeps (Writes (relockFlds n)) offDisp s (setRelock n true s) := writes_setRelock (mem_at 0 rfl) (mem_at 1 rfl) true s
  have r1 := flag_setRelock n true s
  have d1 := disp_setRelock n true s
  have l1 : (setRelock n true s).log = s.log := by rw [setRelock, State.setFlag_log, State.setFlag_log]
  generalize setRelock n true s = a at h1 r1 d1 l1
  have h2 : Keeps (Writes (relockFlds n)) offDisp a (setActive n false a) := writes_setActive (mem_at 2 rfl) (mem_at 3 rfl) false a
  have k2 : Keeps (Writes [fPipeActive n, fDispBit n 7, fQuietValid n, fPipeLine n, ⟨pipeR n 0x12C, 3, 3⟩]) offDisp a (setActive n false a) :=
    writes_setActive (mem_at 0 rfl) (mem_at 1 rfl) false a
  have r2 := flag_setActive n false a
  have d2 := disp_setActive n false a
  have l2 : (setActive n false a).log = a.log := by rw [setActive, State.setFlag_log, State.setFlag_log]
  generalize setActive n false a = b at h2 k2 r2 d2 l2
  have h3 : Keeps (Writes (relockFlds n)) offDisp b (b.setFld (fQuietValid n) 0) := writes_setFld (mem_at 4 rfl) 0 b
  have k3 : Keeps (Writes [fQuietValid n, fPipeLine n, ⟨pipeR n 0x12C, 3, 3⟩]) offDisp b (b.setFld (fQuietValid n) 0) := writes_setFld (mem_at 0 rfl) 0 b
  have r3 := flag_setFld_zero_of b (f := fQuietValid n) (show 28 < 32 by decide)
  have d3 := State.setFld_disp b (fQuietValid n) 0
  have l3 := State.setFld_log b (fQuietValid n) 0
  generalize b.setFld (fQuietValid n) 0 = c at h3 k3 r3 d3 l3
  have h4 : Keeps (Writes (relockFlds n)) offDisp c (pipeEvent n 3 (c.setFld (fPipeLine n) 0)) :=
    (writes_setFld (mem_at 5 rfl) 0 c).trans (writes_setFld (mem_at 6 rfl) 1 _)
  have k4 : Keeps (Writes [fPipeLine n, ⟨pipeR n 0x12C, 3, 3⟩]) offDisp c (pipeEvent n 3 (c.setFld (fPipeLine n) 0)) :=
    (writes_setFld (mem_at 0 rfl) 0 c).trans (writes_setFld (mem_at 1 rfl) 1 _)
  have k5 : Keeps (Writes [fQuietValid n, fPipeLine n, ⟨pipeR n 0x12C, 3, 3⟩]) offDisp b (pipeEvent n 3 (c.setFld (fPipeLine n) 0)) :=
    k3.trans (k4.more (List.subset_cons_self _ _))
  have k6 : Keeps (Writes [fPipeActive n, fDispBit n 7, fQuietValid n, fPipeLine n, ⟨pipeR n 0x12C, 3, 3⟩]) offDisp a
      (pipeEvent n 3 (c.setFld (fPipeLine n) 0)) := k2.trans (k5.more fun _ h => List.mem_cons_of_mem _ (List.mem_cons_of_mem _ h))
  refine ⟨((h1.trans h2).trans h3).trans h4, ?_, ?_, (k6.clear_flag c1).trans r1, (k5.clear_flag c2).trans r2, (k4.clear_flag c3).trans r3,
    flag_pipeEvent n 3 (by decide) _⟩
  · rw [disp_pipeEvent, State.setFld_disp, d3, d2, d1]
  · rw [pipeEvent, State.setFld_log, State.setFld_log, l3, l2, l1]

theorem portIdle_eq (n : Nat) (s : State) : portIdle n s = setPipe n { pipeAt s n with out := [] } s := rfl

/-- The pipe's own state replaced, and its port idle. -/
theorem portIdle_spec (hl : n < s.disp.pipes.length) (p : PipeSt) : Keeps (Writes ([] : List Fld)) offDisp s (portIdle n (setPipe n p s))
    ∧ (portIdle n (setPipe n p s)).disp.pipes.length = s.disp.pipes.length ∧ pipeAt (portIdle n (setPipe n p s)) n = { p with out := [] }
    ∧ (portIdle n (setPipe n p s)).log = s.log := by
  rw [portIdle_eq, pipeAt_setPipe hl]
  refine ⟨(writes_setPipe n p s).trans (writes_setPipe n _ _), ?_, ?_, rfl⟩
  · rw [length_setPipe, length_setPipe]
  · exact pipeAt_setPipe (by rw [length_setPipe]; exact hl) _

/-- A relock of pipe n, from s to u. -/
structure Relocked (n cause : Nat) (s u : State) : Prop where
  keeps : Keeps (Writes (relockFlds n)) offDisp s u
  len : u.disp.pipes.length = s.disp.pipes.length
  pipe : pipeAt u n = { pipeAt s n with frames := 0, next := 0, under := none, out := [] }
  relock : u.flag (fPipeRelock n) = true
  active : u.flag (fPipeActive n) = false
  quiet : u.flag (fQuietValid n) = false
  event : u.flag ⟨pipeR n 0x12C, 3, 3⟩ = true
  log : interior s = true → Room s 0x142 → u.log = s.log.queue
    { cls := 5, ctx := 0, code := 0x142, src := n % 65536, time := s.core.timebase.toNat % 2 ^ 48, arg := cause % 2 ^ 48 }

theorem clear_logged (hn : n < 4) : Clear fFrozen (relockFlds n) ∧ Clear (fPipeRelock n) [] ∧ Clear (fPipeActive n) [] ∧ Clear (fQuietValid n) []
    ∧ Clear ⟨pipeR n 0x12C, 3, 3⟩ [] := by
  refine ⟨?_, ?_, ?_, ?_, ?_⟩ <;> interval_cases n <;> decide

theorem relocked_relockStart (hn : n < 4) (hl : n < s.disp.pipes.length) (cause : Nat) : Relocked n cause s (relockStart n cause s) := by
  obtain ⟨x, he, h1, d1, l1, r1, r2, r3, r4⟩ : ∃ x, relockRegs n s = x ∧ Keeps (Writes (relockFlds n)) offDisp s x ∧ x.disp = s.disp
    ∧ x.log = s.log ∧ x.flag (fPipeRelock n) = true ∧ x.flag (fPipeActive n) = false ∧ x.flag (fQuietValid n) = false
    ∧ x.flag ⟨pipeR n 0x12C, 3, 3⟩ = true := ⟨_, rfl, relockRegs_spec hn s⟩
  obtain ⟨c0, c1, c2, c3, c4⟩ := clear_logged hn
  rw [relockStart_eq, he]
  obtain ⟨h2, len2, p2, l2⟩ := portIdle_spec (s := x) (by rw [d1]; exact hl) { pipeAt x n with frames := 0, next := 0, under := none }
  obtain ⟨z, he2⟩ : ∃ z, portIdle n (setPipe n { pipeAt x n with frames := 0, next := 0, under := none } x) = z := ⟨_, rfl⟩
  rw [he2] at h2 len2 p2 l2 ⊢
  have h4 : Keeps (Writes ([] : List Fld)) offDisp z (logEvent 5 0x142 0 n cause z) := writes_logEvent _ _ _ _ _ z
  have d4 := disp_logEvent 5 0x142 0 n cause z
  have hz := h2.trans h4
  have hsz : Keeps (Writes (relockFlds n)) offDisp s z := h1.trans (h2.more (List.nil_subset _))
  have hlog : z.log = s.log := l2.trans l1
  refine ⟨h1.trans (hz.more (List.nil_subset _)), ?_, ?_, (hz.clear_flag c1).trans r1, (hz.clear_flag c2).trans r2, (hz.clear_flag c3).trans r3,
    (hz.clear_flag c4).trans r4, fun hi hr => ?_⟩
  · rw [d4, len2, d1]
  · rw [pipeAt_of_disp d4, p2, pipeAt_of_disp d1]
  · have hiz : interior z = true := (hsz.disp_interior c0).trans hi
    have hroom : Room z 0x142 := by rw [Room, hlog]; exact hr
    rw [logEvent_of_room hiz (by decide) hroom, hlog, hsz.disp_core]

end Sys2Proof.Machine
end

section
/-! PROOFS. O45: the vertical blank start (R321, R322, R327, R329, R330, R337). -/

namespace Sys2Proof.Machine

open Sys2Proof Sys2Proof.Safety Sys2Proof.Claims

variable {s t u x : State} {n q : Nat} {l : List Fld}

/-! ### Up to the end of the frame -/

/-- The TE level at the port of pipe n. -/
def teLevel (n : Nat) (te : Bool) (s : State) : State :=
  if running s && 2 ≤ s.fld (fPipePort n) then s.setFlag (fTe (s.fld (fPipePort n))) te else s

/-- What the end of a frame of pipe n at port q writes, TE included. -/
def frameFlds (n q : Nat) : List Fld := fTe q :: scanFlds n

theorem Clear.cons {f g : Fld} (h : Clear f [g]) (hl : Clear f l) : Clear f (g :: l) :=
  ⟨h.1, h.2.1, fun k hk => (List.mem_cons.mp hk).elim (fun e => e ▸ h.2.2 g List.mem_cons_self) (hl.2.2 k)⟩

/-- A pipe's own field is apart from a port's TE. -/
theorem clear_te (n q : Nat) {off hi lo : Nat} (ho : off < 0x3000) (h : Clear ⟨pipeR n off, hi, lo⟩ l) : Clear ⟨pipeR n off, hi, lo⟩ (fTe q :: l) := by
  refine ⟨h.1, h.2.1, fun g hg => (List.mem_cons.mp hg).elim (fun e => .inl ?_) (h.2.2 g)⟩
  rw [e]
  simp only [fTe, pipeR, C_eq]
  omega

/-- So is a field outside the display block. -/
theorem clear_te_far {f : Fld} (hq : q < 4) (hf : f.reg < C 0x50000 ∨ C 0x60000 ≤ f.reg) (h : Clear f l) : Clear f (fTe q :: l) := by
  refine ⟨h.1, h.2.1, fun g hg => (List.mem_cons.mp hg).elim (fun e => .inl ?_) (h.2.2 g)⟩
  rw [e]
  simp only [fTe, pipeR, C_eq] at hf ⊢
  omega

/-- A frame of pipe n has ended, from s to x. -/
structure Ended (n : Nat) (te : Bool) (s x : State) : Prop where
  keeps : Keeps (Writes (frameFlds n (s.fld (fPipePort n)))) offDisp s x
  len : x.disp.pipes.length = s.disp.pipes.length
  pipe : pipeCore (pipeAt x n) = pipeCore (pipeAt s n)
  te : 2 ≤ s.fld (fPipePort n) → x.flag (fTe (s.fld (fPipePort n))) = te
  log : frameShown s n → x.log = s.log

theorem clear_te_scan (hn : n < 4) (hq : q < 4) : Clear (fTe q) (scanFlds n) := by
  interval_cases n <;> interval_cases q <;> decide

theorem teLevel_spec (hr : running s = true) (n : Nat) (te : Bool) : Keeps (Writes [fTe (s.fld (fPipePort n))]) offDisp s (teLevel n te s)
    ∧ (teLevel n te s).disp = s.disp ∧ (teLevel n te s).log = s.log
    ∧ (2 ≤ s.fld (fPipePort n) → (teLevel n te s).flag (fTe (s.fld (fPipePort n))) = te) := by
  rw [teLevel, hr, Bool.true_and]
  split
  · exact ⟨writes_setFlag List.mem_cons_self te s, State.setFlag_disp s _ _, State.setFlag_log s _ _, fun _ => State.flag_setFlag s _ _ te (by decide)⟩
  · next h => exact ⟨.refl s, rfl, rfl, fun h2 => absurd (decide_eq_true h2) h⟩

theorem ended_endFrame (hn : n < 4) (hr : running s = true) (hl : n < s.disp.pipes.length) (te : Bool) : Ended n te s (endFrame n (teLevel n te s)) := by
  obtain ⟨h1, d1, l1, t1⟩ := teLevel_spec hr n te
  obtain ⟨t, ht⟩ : ∃ t, teLevel n te s = t := ⟨_, rfl⟩
  rw [ht] at h1 d1 l1 t1 ⊢
  obtain ⟨h2, len2, p2⟩ := scanned_endFrame (s := t) (n := n) (by rw [d1]; exact hl)
  refine ⟨(h1.more fun g hg => ?_).trans (h2.more fun g hg => List.mem_cons_of_mem _ hg), by rw [len2, d1], by rw [p2, pipeAt_of_disp d1], fun hq => ?_, fun hs => ?_⟩
  · rw [List.mem_singleton.mp hg]; exact List.mem_cons_self
  · exact (h2.clear_flag (clear_te_scan hn (fld_pipePort_lt s n))).trans (t1 hq)
  · refine (log_endFrame ?_).trans l1
    rw [frameShown, pipeAt_of_disp d1]
    exact hs

/-- What a frame's end leaves of the pipe. -/
theorem Ended.timing (h : Ended n b s x) : (pipeAt x n).timing = (pipeAt s n).timing := (congrArg PipeSt.timing h.pipe :)

theorem Ended.stopping (h : Ended n b s x) : (pipeAt x n).stopping = (pipeAt s n).stopping := (congrArg PipeSt.stopping h.pipe :)

theorem Ended.seq (h : Ended n b s x) : (pipeAt x n).seq = (pipeAt s n).seq := (congrArg PipeSt.seq h.pipe :)

theorem Ended.frames (h : Ended n b s x) : (pipeAt x n).frames = (pipeAt s n).frames := (congrArg PipeSt.frames h.pipe :)

theorem Ended.planes (h : Ended n b s x) : (pipeAt x n).planes.map (fun a => (a.words, a.ok)) = (pipeAt s n).planes.map fun a => (a.words, a.ok) := by
  have hp := congrArg (fun p : PipeSt => p.planes.map fun a => (a.words, a.ok)) h.pipe
  simp only [pipeCore, List.map_map] at hp
  exact hp

/-- A field of pipe n that scan-out leaves alone is kept to the end of a frame. -/
theorem Ended.fld (h : Ended n b s x) {off hi lo : Nat} (ho : off < 0x3000) (hc : Clear ⟨pipeR n off, hi, lo⟩ (scanFlds n)) :
    x.fld ⟨pipeR n off, hi, lo⟩ = s.fld ⟨pipeR n off, hi, lo⟩ := h.keeps.clear_fld (clear_te n _ ho hc)

theorem Ended.flag (h : Ended n b s x) {off hi lo : Nat} (ho : off < 0x3000) (hc : Clear ⟨pipeR n off, hi, lo⟩ (scanFlds n)) :
    x.flag ⟨pipeR n off, hi, lo⟩ = s.flag ⟨pipeR n off, hi, lo⟩ := h.keeps.clear_flag (clear_te n _ ho hc)

theorem Ended.reg (h : Ended n b s x) {off : Nat} (ho : off < 0x3000) (hc : Clear ⟨pipeR n off, 31, 0⟩ (scanFlds n)) :
    x.reg (pipeR n off) = s.reg (pipeR n off) := h.keeps.clear_reg (clear_te n _ ho hc)

/-- So is a field outside the display block. -/
theorem Ended.flag_far (h : Ended n b s x) {f : Fld} (hf : f.reg < C 0x50000 ∨ C 0x60000 ≤ f.reg) (hc : Clear f (scanFlds n)) : x.flag f = s.flag f :=
  h.keeps.clear_flag (clear_te_far (fld_pipePort_lt s n) hf hc)

/-! ### The vertical blank start -/

theorem clear_scan (hn : n < 4) : Clear fFrozen (scanFlds n) ∧ Clear fQuiesce (scanFlds n) ∧ Clear (fApplyPending n) (scanFlds n)
    ∧ Clear (fPipeActive n) (scanFlds n) := by
  refine ⟨?_, ?_, ?_, ?_⟩ <;> interval_cases n <;> decide

/-- A complete frame counts, unless the pipe stops or takes new timing. -/
def frameCounted (n : Nat) (x : State) : State := if ((pipeAt x n).stopping || quiescing x) || x.flag (fApplyPending n) then x else countFrame n x

theorem exec_vblankStart (hr : running s = true) (ha : s.flag (fPipeActive n) = true) (pipe : Fin 4) (hp : pipe.val = n) (te : Bool) :
    exec (.vblankStart pipe te) s = done (vblank n (frameCounted n (endFrame n (teLevel n te s)))) := by
  have hn : n < 4 := hp ▸ pipe.isLt
  have hi := interior_of_running hr
  obtain ⟨-, -, hf, -⟩ := (interior_iff s).mp hi
  obtain ⟨h1, d1, -⟩ := teLevel_spec hr n te
  have hc : Clear fFrozen [fTe (s.fld (fPipePort n))] ∧ Clear (fPipeActive n) [fTe (s.fld (fPipePort n))] :=
    ⟨clear_te_far (fld_pipePort_lt s n) (.inl (by decide)) (by decide), clear_te n _ (by decide) (by interval_cases n <;> decide)⟩
  have hs : scanning (teLevel n te s) n = true := by
    rw [scanning, h1.disp_interior hc.1, h1.disp_boot, h1.clear_flag hc.2, ha]
    rw [running] at hr
    rw [hr]
    rfl
  subst hp
  change execVblankStart pipe te s = _
  have hx : execVblankStart pipe te s = if s.flag fFrozen then
      done (onlyIf (s.flag (fPipeActive pipe.val)) (fun s => setPipe pipe.val { pipeAt s pipe.val with
        out := (numsFrom 0 (tLow (pipeAt s pipe.val).timing 0)).map fun x => holdPixel s pipe.val x 0 } s) s)
    else if scanning (teLevel pipe.val te s) pipe.val then done (vblank pipe.val (frameCounted pipe.val (endFrame pipe.val (teLevel pipe.val te s))))
    else done (onlyIf (running (teLevel pipe.val te s) && (teLevel pipe.val te s).flag (fPipeEn pipe.val) && !(teLevel pipe.val te s).flag (fPipeRelock pipe.val)
      && !quiescing (teLevel pipe.val te s)) (vblank pipe.val) (teLevel pipe.val te s)) := rfl
  rw [hx, hf, if_neg (by decide), hs, if_pos rfl]

end Sys2Proof.Machine
end

section
/-! PROOFS. O45: frames at a vertical blank start (R321, R322, R327). -/

namespace Sys2Proof.Machine

open Sys2Proof Sys2Proof.Safety Sys2Proof.Claims

variable {s t u x : State} {n q : Nat} {te : Bool} {l : List Fld}

/-! ### The count of complete frames (R327) -/

theorem countFrame_spec (hl : n < s.disp.pipes.length) : Keeps (Writes [fQuietValid n]) offDisp s (countFrame n s)
    ∧ (countFrame n s).disp.pipes.length = s.disp.pipes.length
    ∧ pipeAt (countFrame n s) n = { pipeAt s n with frames := satN 2 ((pipeAt s n).frames + 1) }
    ∧ (1 ≤ (pipeAt s n).frames → (countFrame n s).flag (fQuietValid n) = true) := by
  have hp := pipeAt_setPipe hl { pipeAt s n with frames := satN 2 ((pipeAt s n).frames + 1) }
  have hlen := length_setPipe n { pipeAt s n with frames := satN 2 ((pipeAt s n).frames + 1) } s
  have hk : Keeps (Writes [fQuietValid n]) offDisp s (setPipe n { pipeAt s n with frames := satN 2 ((pipeAt s n).frames + 1) } s) := writes_setPipe n _ s
  have hdef : countFrame n s = if 2 ≤ (pipeAt s n).frames + 1 then
      (setPipe n { pipeAt s n with frames := satN 2 ((pipeAt s n).frames + 1) } s).setFld (fQuietValid n) 1
    else setPipe n { pipeAt s n with frames := satN 2 ((pipeAt s n).frames + 1) } s := rfl
  obtain ⟨x, he⟩ : ∃ x, setPipe n { pipeAt s n with frames := satN 2 ((pipeAt s n).frames + 1) } s = x := ⟨_, rfl⟩
  rw [he] at hp hlen hk hdef
  rw [hdef]
  split
  · exact ⟨hk.trans (writes_setFld List.mem_cons_self 1 x), by rw [State.setFld_disp, hlen], by rw [pipeAt_setFld, hp],
      fun _ => State.flag_setFld_one x _ _ (show 28 < 32 by decide)⟩
  · next h => exact ⟨hk, hlen, hp, fun h1 => absurd (Nat.succ_le_succ h1) h⟩

/-- What goes before the latch of an ordinary frame of pipe n at port q. -/
def priorFlds (n q : Nat) : List Fld := fQuietValid n :: frameFlds n q

/-- The frame before has ended and counted, from s to x. -/
structure Prior (n : Nat) (te : Bool) (s x : State) : Prop where
  keeps : Keeps (Writes (priorFlds n (s.fld (fPipePort n)))) offDisp s x
  len : x.disp.pipes.length = s.disp.pipes.length
  timing : (pipeAt x n).timing = (pipeAt s n).timing
  seq : (pipeAt x n).seq = (pipeAt s n).seq
  planes : (pipeAt x n).planes.map (fun a => (a.words, a.ok)) = (pipeAt s n).planes.map fun a => (a.words, a.ok)
  te : 2 ≤ s.fld (fPipePort n) → x.flag (fTe (s.fld (fPipePort n))) = te
  quiet : 1 ≤ (pipeAt s n).frames → x.flag (fQuietValid n) = true

theorem prior_countFrame (hn : n < 4) (hl : n < s.disp.pipes.length) (h : Ended n te s x) : Prior n te s (countFrame n x) := by
  obtain ⟨hk, hlen, hp, hq⟩ := countFrame_spec (s := x) (n := n) (by rw [h.len]; exact hl)
  have hc : Clear (fTe (s.fld (fPipePort n))) [fQuietValid n] := by
    have hq4 := fld_pipePort_lt s n
    generalize s.fld (fPipePort n) = q at hq4 ⊢
    interval_cases n <;> interval_cases q <;> decide
  generalize countFrame n x = y at hk hlen hp hq
  refine ⟨(h.keeps.more (List.subset_cons_self _ _)).trans (hk.more (List.cons_subset.mpr ⟨List.mem_cons_self, List.nil_subset _⟩)), hlen.trans h.len, ?_, ?_, ?_,
    fun h2 => (hk.clear_flag hc).trans (h.te h2), fun h1 => hq (by rw [h.frames]; exact h1)⟩
  · rw [hp]; exact h.timing
  · rw [hp]; exact h.seq
  · rw [hp]; exact h.planes

theorem clear_prior (hn : n < 4) (hq : q < 4) : Clear (fFlipPending n) (priorFlds n q) ∧ Clear (fShownSeq n) (priorFlds n q)
    ∧ Clear ⟨pipeR n 0x124, 31, 0⟩ (priorFlds n q) ∧ Clear ⟨pipeR n 0x120, 31, 0⟩ (priorFlds n q) ∧ Clear fHoldAll (priorFlds n q) := by
  refine ⟨?_, ?_, ?_, ?_, ?_⟩ <;> interval_cases n <;> interval_cases q <;> decide

theorem offPlanes_prior (hn : n < 4) (hq : q < 4) : OffPlanes n (priorFlds n q) := by
  refine ⟨?_, ?_, ?_⟩ <;> interval_cases n <;> interval_cases q <;> decide

theorem clear_prior_port (hn : n < 4) (hq : q < 4) : Clear (fPipePort n) (priorFlds n q) := by
  interval_cases n <;> interval_cases q <;> decide

/-! ### An ordinary frame -/

theorem vblank_frame (hs : (pipeAt s n).stopping = false) (hq : quiescing s = false) (ha : s.flag (fApplyPending n) = false) :
    vblank n s = beginFrame n s := by
  rw [vblank, hs, if_neg (by decide), hq, if_neg (by decide), ha, if_neg (by decide)]

/-- While the pipe scans out, the end of a frame asks for no stop. -/
theorem Ended.goes_on (hx : Ended n te s x) (hn : n < 4) (h : Scans s n) : (pipeAt x n).stopping = false ∧ quiescing x = false := by
  obtain ⟨-, -, -, -, hstop, hq, he⟩ := h
  refine ⟨hx.stopping.trans hstop, ?_⟩
  rw [quiescing, hx.flag_far (.inl (by decide)) (clear_scan hn).2.1, hx.keeps.disp_core, hq, he]
  rfl

/-- An active pipe scans out, and no stop, no quiesce and no new timing is due. -/
theorem exec_vblankStart_frame (pipe : Fin 4) (hp : pipe.val = n) (h : Scans s n) (ha : s.flag (fApplyPending n) = false) :
    ∃ x, Prior n te s x ∧ exec (.vblankStart pipe te) s = done (beginFrame n x) := by
  have ⟨hr, _, hact, hlen, _⟩ := h
  have hn : n < 4 := hp ▸ pipe.isLt
  have hl : n < s.disp.pipes.length := by rw [hlen]; exact hn
  have hx := ended_endFrame hn hr hl te
  have hexec := exec_vblankStart (n := n) hr hact pipe hp te
  obtain ⟨x, hxe⟩ : ∃ x, endFrame n (teLevel n te s) = x := ⟨_, rfl⟩
  rw [hxe] at hx hexec
  obtain ⟨hs, hquiet⟩ := hx.goes_on hn h
  have hap : x.flag (fApplyPending n) = false := (hx.flag (by decide) (clear_scan hn).2.2.1).trans ha
  have hcount : frameCounted n x = countFrame n x := by
    rw [frameCounted, hs, hquiet, hap]
    rfl
  refine ⟨countFrame n x, prior_countFrame hn hl hx, ?_⟩
  rw [hexec, hcount]
  obtain ⟨hk, -, hpipe, -⟩ := countFrame_spec (s := x) (n := n) (by rw [hx.len]; exact hl)
  have hs' : (pipeAt (countFrame n x) n).stopping = false := by rw [hpipe]; exact hs
  have c : Clear fQuiesce [fQuietValid n] ∧ Clear (fApplyPending n) [fQuietValid n] := by
    refine ⟨?_, ?_⟩ <;> interval_cases n <;> decide
  have hquiet' : quiescing (countFrame n x) = false := by
    rw [quiescing, hk.clear_flag c.1, hk.disp_core]
    exact hquiet
  rw [vblank_frame hs' hquiet' ((hk.clear_flag c.2).trans hap)]

/-! ### What the statement says of a latched set -/

theorem foldl_add_eq_sum {α : Type} (f : α → Nat) (ls : List α) (a : Nat) : ls.foldl (fun a e => a + f e) a = a + (ls.map f).sum := by
  induction ls generalizing a with
  | nil => rfl
  | cons e ls ih => rw [List.foldl_cons, ih, List.map_cons, List.sum_cons, Nat.add_assoc]

theorem setUnits_eq (s : State) (n : Nat) : setUnits s n = ((((List.range 3).map (planeWords s n)).filter plEn).map plUnits).sum := by
  rw [setUnits, foldl_add_eq_sum, Nat.zero_add, setWords, List.filter_map, List.filter_map, List.map_map, List.map_map]
  rfl

theorem latchedSet_shown (s : State) (n : Nat) : (latchedSet s n).map (fun a => (a.words, a.ok, ([] : List Piece))) = (List.range 3).map fun k =>
    (planeWords s n k, plEn (planeWords s n k) && planeOk s (pipeAt s n).timing (setUnits s n) (planeWords s n k), []) := by
  rw [latchedSet, setWords, List.map_map, List.map_map]
  rfl

/-- The planes a frame shows are those it had, from their first piece on. -/
theorem shown_words (P Q : List PlaneAct) (h : planesShown P = Q.map fun a => (a.words, a.ok, [])) :
    P.map (fun a => (a.words, a.ok)) = Q.map fun a => (a.words, a.ok) := by
  have h' := congrArg (List.map fun e : List Nat × Bool × List Piece => (e.1, e.2.1)) h
  rw [planesShown, List.map_map, List.map_map] at h'
  exact h'

end Sys2Proof.Machine
end

section
/-! PROOFS. O45: a vertical blank start with and without a commit (R321, R322, R327). -/

namespace Sys2Proof.Machine

open Sys2Proof Sys2Proof.Safety Sys2Proof.Claims

variable {s t u x : State} {n q : Nat} {te : Bool} {l : List Fld}

/-! ### A pipe's registers at the end of a command -/

theorem fld_refresh_pipe (s : State) (n off hi lo : Nat) : (refresh s).fld ⟨pipeR n off, hi, lo⟩ = s.fld ⟨pipeR n off, hi, lo⟩ :=
  fld_refresh s _ (pipeR_ne n off (by decide))

theorem flag_refresh_pipe (s : State) (n off hi lo : Nat) : (refresh s).flag ⟨pipeR n off, hi, lo⟩ = s.flag ⟨pipeR n off, hi, lo⟩ :=
  flag_refresh s _ (pipeR_ne n off (by decide))

theorem reg_refresh_pipe (s : State) (n off : Nat) : (refresh s).reg (pipeR n off) = s.reg (pipeR n off) :=
  reg_refresh_of_ne s (pipeR_ne n off (by decide))

theorem flag_refresh_dispBit (s : State) (n b : Nat) : (refresh s).flag (fDispBit n b) = s.flag (fDispBit n b) :=
  flag_refresh s _ (show 0xA4 ≠ 0x18 by decide)

theorem event_refresh {b : Nat} (h : s.flag ⟨pipeR n 0x12C, b, b⟩ = true) : bitN ((refresh s).reg (pipeR n 0x12C)).toNat b = true := by
  rw [reg_refresh_pipe, ← flag_eq_bitN, h]

theorem pipeAt_refresh (s : State) (n : Nat) : pipeAt (refresh s) n = pipeAt s n := rfl

/-- A saturating counter of pipe n from s to u (R478). -/
def Counted (n off : Nat) (s u : State) : Prop :=
  if s.flag fHoldAll then u.reg (pipeR n off) = s.reg (pipeR n off)
  else (u.reg (pipeR n off)).toNat = min (2 ^ 32 - 1) ((s.reg (pipeR n off)).toNat + 1)

/-! ### The ordinary frame -/

theorem clear_begin (hn : n < 4) (hq : q < 4) : Clear (fQuietValid n) (beginFlds n q) ∧ Clear (fTe q) (beginFlds n q)
    ∧ Clear (fApplyPending n) (beginFlds n q) ∧ Clear ⟨pipeR n 0x12C, 1, 1⟩ (beginFlds n q) := by
  refine ⟨?_, ?_, ?_, ?_⟩ <;> interval_cases n <;> interval_cases q <;> decide

section
variable (pipe : Fin 4) (hp : pipe.val = n) (h : Scans s n) (ha : s.flag (fApplyPending n) = false)
include hp h ha

theorem ends_vblankStart_commit (hc : s.flag (fFlipPending n) = true) : Ends (.vblankStart pipe te) s fun u =>
    u.fld (fShownSeq n) = (pipeAt s n).seq % 65536 ∧ u.flag (fFlipPending n) = false ∧ bitN (u.reg (pipeR n 0x12C)).toNat 0 = true
      ∧ u.flag (fDispBit n 4) = false ∧ u.flag (fPipeActive n) = true ∧ u.fld (fPipeLine n) = 0 ∧ u.mem = s.mem ∧ (pipeAt u n).next = 0
      ∧ planesShown (pipeAt u n).planes = (latchedSet s n).map fun a => (a.words, a.ok, []) := by
  have hn : n < 4 := hp ▸ pipe.isLt
  obtain ⟨x, hx, hexec⟩ := exec_vblankStart_frame (te := te) pipe hp h ha
  have hq4 := fld_pipePort_lt s n
  have hl : n < x.disp.pipes.length := by rw [hx.len, h.2.2.2.1]; exact hn
  obtain ⟨ht, hplanes⟩ := took_beginFrame hn hl ((hx.keeps.clear_flag (clear_prior hn hq4).1).trans hc)
  have hb := begun_beginFrame hn hl
  obtain ⟨P, hP⟩ := hb.pipe
  refine ends_of_done hexec ⟨?_, ?_, event_refresh ht.event, ?_, ?_, ?_, ?_, ?_, ?_⟩
  · exact (fld_refresh_pipe _ _ _ _ _).trans (ht.shown.trans (by rw [hx.seq]))
  · exact (flag_refresh_pipe _ _ _ _ _).trans ht.pending
  · exact (flag_refresh_dispBit _ _ _).trans ht.status
  · exact (flag_refresh_pipe _ _ _ _ _).trans hb.active
  · exact (fld_refresh_pipe _ _ _ _ _).trans hb.line
  · exact hb.keeps.disp_mem.trans hx.keeps.disp_mem
  · rw [pipeAt_refresh, hP]
  · rw [pipeAt_refresh, hplanes, (offPlanes_prior hn hq4).latchedSet hx.keeps hx.timing]

theorem ends_vblankStart_repeat (hc : s.flag (fFlipPending n) = false) : Ends (.vblankStart pipe te) s fun u =>
    u.fld (fShownSeq n) = s.fld (fShownSeq n) ∧ Counted n 0x124 s u ∧ u.flag (fDispBit n 4) = true ∧ u.flag (fPipeActive n) = true
      ∧ (pipeAt u n).planes.map (fun a => (a.words, a.ok)) = (pipeAt s n).planes.map fun a => (a.words, a.ok) := by
  have hn : n < 4 := hp ▸ pipe.isLt
  obtain ⟨x, hx, hexec⟩ := exec_vblankStart_frame (te := te) pipe hp h ha
  have hq4 := fld_pipePort_lt s n
  obtain ⟨c1, c2, c3, -, c5⟩ := clear_prior hn hq4
  have hl : n < x.disp.pipes.length := by rw [hx.len, h.2.2.2.1]; exact hn
  obtain ⟨⟨hshown, hstatus, hcount⟩, hplanes⟩ := repeats_beginFrame hn hl ((hx.keeps.clear_flag c1).trans hc)
  have hb := begun_beginFrame hn hl
  rw [hx.keeps.clear_flag c5, hx.keeps.clear_reg c3] at hcount
  refine ends_of_done hexec ⟨?_, ?_, ?_, ?_, ?_⟩
  · exact (fld_refresh_pipe _ _ _ _ _).trans (hshown.trans (hx.keeps.clear_fld c2))
  · rw [Counted, reg_refresh_pipe]; exact hcount
  · exact (flag_refresh_dispBit _ _ _).trans hstatus
  · exact (flag_refresh_pipe _ _ _ _ _).trans hb.active
  · exact (shown_words _ _ hplanes).trans hx.planes

theorem ends_vblankStart_counts : Ends (.vblankStart pipe te) s fun u =>
    (s.flag fHoldAll = false → (u.reg (pipeR n 0x120)).toNat = ((s.reg (pipeR n 0x120)).toNat + 1) % 2 ^ 32)
      ∧ (1 ≤ (pipeAt s n).frames → u.flag (fQuietValid n) = true)
      ∧ (2 ≤ s.fld (fPipePort n) → u.flag (fTe (s.fld (fPipePort n))) = te) := by
  have hn : n < 4 := hp ▸ pipe.isLt
  obtain ⟨x, hx, hexec⟩ := exec_vblankStart_frame (te := te) pipe hp h ha
  have hq4 := fld_pipePort_lt s n
  obtain ⟨-, -, -, c4, c5⟩ := clear_prior hn hq4
  have hl : n < x.disp.pipes.length := by rw [hx.len, h.2.2.2.1]; exact hn
  have hb := begun_beginFrame hn hl
  have hport : x.fld (fPipePort n) = s.fld (fPipePort n) := hx.keeps.clear_fld (clear_prior_port hn hq4)
  have hk := hb.keeps
  rw [hport] at hk
  obtain ⟨k1, k2, -⟩ := clear_begin hn hq4
  refine ends_of_done hexec ⟨fun hh => ?_, fun hf => ?_, fun h2 => ?_⟩
  · rw [reg_refresh_pipe, hb.count ((hx.keeps.clear_flag c5).trans hh), hx.keeps.clear_reg c4]
  · exact (flag_refresh_pipe _ _ _ _ _).trans ((hk.clear_flag k1).trans (hx.quiet hf))
  · exact (flag_refresh_pipe _ _ _ _ _).trans ((hk.clear_flag k2).trans (hx.te h2))

end

end Sys2Proof.Machine
end

section
/-! PROOFS. O45: new timing, a stop and a freeze at a vertical blank start (R54, R329, R330, R337). -/

namespace Sys2Proof.Machine

open Sys2Proof Sys2Proof.Safety Sys2Proof.Claims

variable {s t u x : State} {n q : Nat} {te : Bool} {l : List Fld}

/-! ### New timing -/

/-- A vertical blank start goes on after the shadows have become active (R330, R337). -/
def retimed (n : Nat) (old : List Nat) (s : State) : State :=
  if pclkVco (pipeAt s n).timing ≠ pclkVco old || pclkDiv (pipeAt s n).timing ≠ pclkDiv old then relockStart n 0 (latchPlanes n s)
  else if (pipeAt s n).timing = old then beginFrame n s
  else beginFrame n (setPipe n { pipeAt (s.setFld (fQuietValid n) 0) n with frames := 0 } (s.setFld (fQuietValid n) 0))

theorem vblank_apply (hs : (pipeAt s n).stopping = false) (hq : quiescing s = false) (ha : s.flag (fApplyPending n) = true) :
    vblank n s = retimed n (pipeAt s n).timing (applyShadows n s) := by
  rw [vblank, hs, if_neg (by decide), hq, if_neg (by decide), if_pos ha]
  rfl

theorem clear_shadow (hn : n < 4) (hq : q < 4) : ∀ off ∈ [0x10, 0x14, 0x18, 0x1C, 0x20, 0x24, 0x28], Clear ⟨pipeR n off, 31, 0⟩ (frameFlds n q) := by
  interval_cases n <;> interval_cases q <;> decide

theorem timingShadow_of_keeps (h : Keeps (Writes l) offDisp s t)
    (hc : ∀ off ∈ [0x10, 0x14, 0x18, 0x1C, 0x20, 0x24, 0x28], Clear ⟨pipeR n off, 31, 0⟩ l) : timingShadow t n = timingShadow s n :=
  List.map_congr_left fun off ho => by rw [h.clear_reg (hc off ho)]

/-- The shadows have been taken over at a vertical blank start, from s to x. -/
structure Retimed (n : Nat) (s x : State) : Prop where
  len : x.disp.pipes.length = s.disp.pipes.length
  timing : (pipeAt x n).timing = timingShadow s n
  event : x.flag ⟨pipeR n 0x12C, 1, 1⟩ = true
  pending : x.flag (fApplyPending n) = false
  flip : x.flag (fFlipPending n) = s.flag (fFlipPending n)
  core : x.core = s.core
  interior : interior x = interior s
  log : frameShown s n → x.log = s.log

theorem clear_retimed (hn : n < 4) : Clear (fFlipPending n) (shadowFlds n) ∧ Clear fFrozen (shadowFlds n) := by
  refine ⟨?_, ?_⟩ <;> interval_cases n <;> decide

theorem clear_frame (hn : n < 4) (hq : q < 4) : Clear (fFlipPending n) (frameFlds n q) ∧ Clear fFrozen (frameFlds n q) := by
  refine ⟨?_, ?_⟩ <;> interval_cases n <;> interval_cases q <;> decide

theorem retimed_applyShadows (hn : n < 4) (hl : n < s.disp.pipes.length) (h : Ended n te s x) : Retimed n s (applyShadows n x) := by
  have ha := applied_applyShadows (s := x) hn (by rw [h.len]; exact hl)
  have hq4 := fld_pipePort_lt s n
  obtain ⟨c1, c2⟩ := clear_retimed hn
  obtain ⟨k1, k2⟩ := clear_frame hn hq4
  generalize applyShadows n x = y at ha
  refine ⟨ha.len.trans h.len, ?_, ha.event, ha.pending, ?_, ?_, ?_, fun hs => ha.log.trans (h.log hs)⟩
  · rw [ha.pipe]
    exact timingShadow_of_keeps h.keeps (clear_shadow hn hq4)
  · exact (ha.keeps.clear_flag c1).trans (h.keeps.clear_flag k1)
  · exact ha.keeps.disp_core.trans h.keeps.disp_core
  · exact (ha.keeps.disp_interior c2).trans (h.keeps.disp_interior k2)

/-- An active pipe scans out, new timing is due, and no stop or quiesce. -/
theorem exec_vblankStart_apply (pipe : Fin 4) (hp : pipe.val = n) (h : Scans s n) (ha : s.flag (fApplyPending n) = true) :
    ∃ x, Retimed n s x ∧ exec (.vblankStart pipe te) s = done (retimed n (pipeAt s n).timing x) := by
  have ⟨hr, _, hact, hlen, _⟩ := h
  have hn : n < 4 := hp ▸ pipe.isLt
  have hl : n < s.disp.pipes.length := by rw [hlen]; exact hn
  have hx := ended_endFrame hn hr hl te
  have hexec := exec_vblankStart (n := n) hr hact pipe hp te
  obtain ⟨x, hxe⟩ : ∃ x, endFrame n (teLevel n te s) = x := ⟨_, rfl⟩
  rw [hxe] at hx hexec
  obtain ⟨hs, hquiet⟩ := hx.goes_on hn h
  have hap : x.flag (fApplyPending n) = true := (hx.flag (by decide) (clear_scan hn).2.2.1).trans ha
  have hcount : frameCounted n x = x := by
    rw [frameCounted, hap, Bool.or_true, if_pos rfl]
  refine ⟨applyShadows n x, retimed_applyShadows hn hl hx, ?_⟩
  rw [hexec, hcount, vblank_apply hs hquiet hap, hx.timing]

theorem retimed_same_clock {old : List Nat} (hv : pclkVco (pipeAt s n).timing = pclkVco old) (hd : pclkDiv (pipeAt s n).timing = pclkDiv old)
    (ht : (pipeAt s n).timing ≠ old) : retimed n old s =
      beginFrame n (setPipe n { pipeAt (s.setFld (fQuietValid n) 0) n with frames := 0 } (s.setFld (fQuietValid n) 0)) := by
  rw [retimed, if_neg (by rw [hv, hd]; simp), if_neg ht]

theorem retimed_new_clock {old : List Nat} (h : pclkVco (pipeAt s n).timing ≠ pclkVco old ∨ pclkDiv (pipeAt s n).timing ≠ pclkDiv old) :
    retimed n old s = relockStart n 0 (latchPlanes n s) := by
  rw [retimed, if_pos (by rw [Bool.or_eq_true, decide_eq_true_eq, decide_eq_true_eq]; exact h)]

section
variable (pipe : Fin 4) (hp : pipe.val = n) (h : Scans s n) (ha : s.flag (fApplyPending n) = true)
include hp h ha

theorem ends_vblankStart_timing (hv : pclkVco (timingShadow s n) = pclkVco (pipeAt s n).timing) (hd : pclkDiv (timingShadow s n) = pclkDiv (pipeAt s n).timing)
    (ht : timingShadow s n ≠ (pipeAt s n).timing) : Ends (.vblankStart pipe te) s fun u =>
      (pipeAt u n).timing = timingShadow s n ∧ u.flag (fApplyPending n) = false ∧ bitN (u.reg (pipeR n 0x12C)).toNat 1 = true
        ∧ u.flag (fQuietValid n) = false ∧ u.flag (fPipeActive n) = true := by
  have hn : n < 4 := hp ▸ pipe.isLt
  obtain ⟨x, hx, hexec⟩ := exec_vblankStart_apply (te := te) pipe hp h ha
  rw [← hx.timing] at hv hd ht
  rw [retimed_same_clock hv hd ht] at hexec
  have hl : n < x.disp.pipes.length := by rw [hx.len, h.2.2.2.1]; exact hn
  obtain ⟨y, hye, hk, hlen, hy, hquiet⟩ : ∃ y, x.setFld (fQuietValid n) 0 = y ∧ Keeps (Writes [fQuietValid n]) offDisp x y
      ∧ y.disp.pipes.length = x.disp.pipes.length ∧ pipeAt y n = pipeAt x n ∧ y.flag (fQuietValid n) = false :=
    ⟨_, rfl, writes_setFld List.mem_cons_self 0 x, congrArg (fun d => d.pipes.length) (State.setFld_disp x _ _), pipeAt_setFld _ _ x,
      flag_setFld_zero_of x (show 28 < 32 by decide)⟩
  rw [hye] at hexec
  obtain ⟨z, hze, hkz, hlz, hz⟩ : ∃ z, setPipe n { pipeAt y n with frames := 0 } y = z ∧ Keeps (Writes ([] : List Fld)) offDisp y z
      ∧ z.disp.pipes.length = y.disp.pipes.length ∧ pipeAt z n = { pipeAt y n with frames := 0 } :=
    ⟨_, rfl, writes_setPipe n _ y, length_setPipe n _ y, pipeAt_setPipe (by rw [hlen]; exact hl) _⟩
  rw [hze] at hexec
  have hb := begun_beginFrame (s := z) hn (by rw [hlz, hlen]; exact hl)
  obtain ⟨P, hP⟩ := hb.pipe
  obtain ⟨k1, -, k3, k4⟩ := clear_begin hn (fld_pipePort_lt z n)
  have hkq : Keeps (Writes [fQuietValid n]) offDisp x z := hk.trans (hkz.more (List.nil_subset _))
  have c : Clear (fQuietValid n) [] ∧ Clear (fApplyPending n) [fQuietValid n] ∧ Clear ⟨pipeR n 0x12C, 1, 1⟩ [fQuietValid n] := by
    refine ⟨?_, ?_, ?_⟩ <;> interval_cases n <;> decide
  refine ends_of_done hexec ⟨?_, ?_, event_refresh ?_, ?_, ?_⟩
  · rw [pipeAt_refresh, hP, hz, hy]; exact hx.timing
  · exact (flag_refresh_pipe _ _ _ _ _).trans ((hb.keeps.clear_flag k3).trans ((hkq.clear_flag c.2.1).trans hx.pending))
  · exact (hb.keeps.clear_flag k4).trans ((hkq.clear_flag c.2.2).trans hx.event)
  · exact (flag_refresh_pipe _ _ _ _ _).trans ((hb.keeps.clear_flag k1).trans ((hkz.clear_flag c.1).trans hquiet))
  · exact (flag_refresh_pipe _ _ _ _ _).trans hb.active

end

theorem relocks_refresh {cause : Nat} (h : Relocked n cause t u) (hi : interior t = true) (hr : Room s 0x142) (hl : t.log = s.log) (hc : t.core = s.core) :
    Relocks s (refresh u) n cause := by
  refine ⟨(flag_refresh_pipe _ _ _ _ _).trans h.active, (flag_refresh_pipe _ _ _ _ _).trans h.relock, (flag_refresh_pipe _ _ _ _ _).trans h.quiet,
    event_refresh h.event, fun _ => ?_⟩
  rw [refresh_log, h.log hi (by rw [Room, hl]; exact hr), hl, hc]
  rfl

theorem log_pipeCount (n off : Nat) (s : State) : (pipeCount n off s).log = s.log := by
  rw [pipeCount]
  split <;> rfl

theorem log_latchPlanes_repeat (h : s.flag (fFlipPending n) = false) : (latchPlanes n s).log = s.log := by
  rw [latchPlanes_repeat h, State.setFld_log, log_pipeCount]

theorem ends_vblankStart_relock (pipe : Fin 4) (hp : pipe.val = n) (h : Scans s n) (ha : s.flag (fApplyPending n) = true) (hshown : frameShown s n)
    (hf : s.flag (fFlipPending n) = false) (hroom : Room s 0x142)
    (hv : pclkVco (timingShadow s n) ≠ pclkVco (pipeAt s n).timing ∨ pclkDiv (timingShadow s n) ≠ pclkDiv (pipeAt s n).timing) :
    Ends (.vblankStart pipe te) s fun u => (pipeAt u n).timing = timingShadow s n ∧ u.flag (fApplyPending n) = false
      ∧ bitN (u.reg (pipeR n 0x12C)).toNat 1 = true ∧ Relocks s u n 0 ∧ (pipeAt u n).out = [] := by
  have hn : n < 4 := hp ▸ pipe.isLt
  obtain ⟨x, hx, hexec⟩ := exec_vblankStart_apply (te := te) pipe hp h ha
  rw [← hx.timing] at hv
  rw [retimed_new_clock hv] at hexec
  have hl : n < x.disp.pipes.length := by rw [hx.len, h.2.2.2.1]; exact hn
  obtain ⟨hk, hlen, P, hP⟩ := latchPlanes_keeps hn hl
  have hlog := log_latchPlanes_repeat (s := x) (n := n) (hx.flip.trans hf)
  obtain ⟨y, hye⟩ : ∃ y, latchPlanes n x = y := ⟨_, rfl⟩
  rw [hye] at hk hlen hP hlog hexec
  have hre := relocked_relockStart (s := y) hn (by rw [hlen]; exact hl) 0
  have c : Clear (fApplyPending n) (latchFlds n) ∧ Clear ⟨pipeR n 0x12C, 1, 1⟩ (latchFlds n) ∧ Clear fFrozen (latchFlds n)
      ∧ Clear (fApplyPending n) (relockFlds n) ∧ Clear ⟨pipeR n 0x12C, 1, 1⟩ (relockFlds n) := by
    refine ⟨?_, ?_, ?_, ?_, ?_⟩ <;> interval_cases n <;> decide
  obtain ⟨c1, c2, c3, c4, c5⟩ := c
  refine ends_of_done hexec ⟨?_, ?_, event_refresh ?_, relocks_refresh hre ?_ hroom (hlog.trans (hx.log hshown)) (hk.disp_core.trans hx.core), ?_⟩
  · rw [pipeAt_refresh, hre.pipe, hP]; exact hx.timing
  · exact (flag_refresh_pipe _ _ _ _ _).trans ((hre.keeps.clear_flag c4).trans ((hk.clear_flag c1).trans hx.pending))
  · exact (hre.keeps.clear_flag c5).trans ((hk.clear_flag c2).trans hx.event)
  · rw [hk.disp_interior c3, hx.interior]; exact interior_of_running h.1
  · rw [pipeAt_refresh, hre.pipe]

end Sys2Proof.Machine
end

section
/-! PROOFS. O45: a stop and a freeze at a vertical blank start, commits, and the check of new timing (R54, R322, R323, R329, R330). -/

namespace Sys2Proof.Machine

open Sys2Proof Sys2Proof.Safety Sys2Proof.Claims

variable {s t u x : State} {n q : Nat} {te : Bool} {l : List Fld}

/-! ### A stop (R329) -/

/-- The registers of a stop. -/
def stopRegs (n : Nat) (s : State) : State :=
  (setActive n false (setRelock n false (setApplyPending n false s))).setFlds [(fPipeEn n, 0), (fQuietValid n, 0), (fPipeLine n, 0)]

theorem stopPipe_eq (n : Nat) (s : State) : stopPipe n s = setPipe n { pipeAt (stopRegs n s) n with
    stopping := false, planes := [], frames := 0, next := 0, under := none, out := [] } (stopRegs n s) := rfl

theorem clear_stop (hn : n < 4) : Clear (fPipeActive n) [fPipeEn n, fQuietValid n, fPipeLine n] ∧ Clear (fPipeEn n) [fQuietValid n, fPipeLine n]
    ∧ Clear (fQuietValid n) [fPipeLine n] := by
  refine ⟨?_, ?_, ?_⟩ <;> interval_cases n <;> decide

theorem disp_stopRegs (n : Nat) (s : State) : (stopRegs n s).disp = s.disp := by
  rw [stopRegs, State.setFlds_disp, disp_setActive, disp_setRelock, disp_setApplyPending]

theorem flags_stopRegs (hn : n < 4) (s : State) : (stopRegs n s).flag (fPipeEn n) = false ∧ (stopRegs n s).flag (fPipeActive n) = false
    ∧ (stopRegs n s).flag (fQuietValid n) = false := by
  obtain ⟨c1, c2, c3⟩ := clear_stop hn
  have h0 := flag_setActive n false (setRelock n false (setApplyPending n false s))
  rw [stopRegs, State.setFlds_cons, State.setFlds_cons, State.setFlds_cons, State.setFlds_nil]
  obtain ⟨a, ha⟩ : ∃ a, setActive n false (setRelock n false (setApplyPending n false s)) = a := ⟨_, rfl⟩
  rw [ha] at h0 ⊢
  have h1 := flag_setFld_zero_of a (f := fPipeEn n) (show 31 < 32 by decide)
  have k1 : Keeps (Writes [fPipeEn n, fQuietValid n, fPipeLine n]) offDisp a (((a.setFld (fPipeEn n) 0).setFld (fQuietValid n) 0).setFld (fPipeLine n) 0) :=
    (writes_setFld (mem_at 0 rfl) 0 a).trans ((writes_setFld (mem_at 1 rfl) 0 _).trans (writes_setFld (mem_at 2 rfl) 0 _))
  obtain ⟨b, hb⟩ : ∃ b, a.setFld (fPipeEn n) 0 = b := ⟨_, rfl⟩
  rw [hb] at h1 k1 ⊢
  have h2 := flag_setFld_zero_of b (f := fQuietValid n) (show 28 < 32 by decide)
  have k2 : Keeps (Writes [fQuietValid n, fPipeLine n]) offDisp b ((b.setFld (fQuietValid n) 0).setFld (fPipeLine n) 0) :=
    (writes_setFld (mem_at 0 rfl) 0 b).trans (writes_setFld (mem_at 1 rfl) 0 _)
  have k3 : Keeps (Writes [fPipeLine n]) offDisp (b.setFld (fQuietValid n) 0) ((b.setFld (fQuietValid n) 0).setFld (fPipeLine n) 0) :=
    writes_setFld (mem_at 0 rfl) 0 _
  exact ⟨(k2.clear_flag c2).trans h1, (k1.clear_flag c1).trans h0, (k3.clear_flag c3).trans h2⟩

/-- Pipe n has stopped. -/
structure Stopped (n : Nat) (u : State) : Prop where
  enable : u.flag (fPipeEn n) = false
  active : u.flag (fPipeActive n) = false
  quiet : u.flag (fQuietValid n) = false
  planes : (pipeAt u n).planes = []
  out : (pipeAt u n).out = []
  stopping : (pipeAt u n).stopping = false

theorem stopped_stopPipe (hn : n < 4) (hl : n < s.disp.pipes.length) : Stopped n (refresh (stopPipe n s)) := by
  have hd := disp_stopRegs n s
  obtain ⟨h1, h2, h3⟩ := flags_stopRegs hn s
  rw [stopPipe_eq]
  obtain ⟨x, he⟩ : ∃ x, stopRegs n s = x := ⟨_, rfl⟩
  rw [he] at hd h1 h2 h3 ⊢
  have hp := pipeAt_setPipe (s := x) (n := n) (by rw [hd]; exact hl)
    { pipeAt x n with stopping := false, planes := [], frames := 0, next := 0, under := none, out := [] }
  have hk : Keeps (Writes ([] : List Fld)) offDisp x (setPipe n { pipeAt x n with
      stopping := false, planes := [], frames := 0, next := 0, under := none, out := [] } x) := writes_setPipe n _ x
  obtain ⟨y, hy⟩ : ∃ y, setPipe n { pipeAt x n with stopping := false, planes := [], frames := 0, next := 0, under := none, out := [] } x = y := ⟨_, rfl⟩
  rw [hy] at hp hk ⊢
  have c : Clear (fPipeEn n) [] ∧ Clear (fPipeActive n) [] ∧ Clear (fQuietValid n) [] := by
    refine ⟨?_, ?_, ?_⟩ <;> interval_cases n <;> decide
  refine ⟨(flag_refresh_pipe _ _ _ _ _).trans ((hk.clear_flag c.1).trans h1), (flag_refresh_pipe _ _ _ _ _).trans ((hk.clear_flag c.2.1).trans h2),
    (flag_refresh_pipe _ _ _ _ _).trans ((hk.clear_flag c.2.2).trans h3), ?_, ?_, ?_⟩ <;> rw [pipeAt_refresh, hp]

theorem ends_vblankStart_stop (pipe : Fin 4) (hp : pipe.val = n) (hr : running s = true) (hact : s.flag (fPipeActive n) = true)
    (hlen : s.disp.pipes.length = 4) (hstop : (pipeAt s n).stopping = true) : Ends (.vblankStart pipe te) s (Stopped n) := by
  have hn : n < 4 := hp ▸ pipe.isLt
  have hl : n < s.disp.pipes.length := by rw [hlen]; exact hn
  have hx := ended_endFrame hn hr hl te
  have hexec := exec_vblankStart (n := n) hr hact pipe hp te
  obtain ⟨x, hxe⟩ : ∃ x, endFrame n (teLevel n te s) = x := ⟨_, rfl⟩
  rw [hxe] at hx hexec
  have hs : (pipeAt x n).stopping = true := hx.stopping.trans hstop
  have hcount : frameCounted n x = x := by rw [frameCounted, hs, Bool.true_or, Bool.true_or, if_pos rfl]
  have hvb : vblank n x = stopPipe n x := by rw [vblank, hs, if_pos rfl]
  rw [hcount, hvb] at hexec
  exact ends_of_done hexec (stopped_stopPipe hn (by rw [hx.len]; exact hl))

/-! ### A freeze (R54) -/

theorem exec_vblankStart_frozen (pipe : Fin 4) (hf : s.flag fFrozen = true) (ha : s.flag (fPipeActive pipe.val) = true) :
    exec (.vblankStart pipe te) s = done (setPipe pipe.val { pipeAt s pipe.val with
      out := (numsFrom 0 (tLow (pipeAt s pipe.val).timing 0)).map fun x => holdPixel s pipe.val x 0 } s) := by
  change execVblankStart pipe te s = _
  rw [execVblankStart, if_pos hf, ha]
  rfl

theorem ends_vblankStart_frozen (pipe : Fin 4) (hp : pipe.val = n) (hf : s.flag fFrozen = true) (hlen : s.disp.pipes.length = 4)
    (ha : s.flag (fPipeActive n) = true) : Ends (.vblankStart pipe te) s fun u =>
      (pipeAt u n).out = (List.range (tLow (pipeAt s n).timing 0)).map (fun x => holdPixel s n x 0) ∧ RegsKept s u [] ∧ u.log = s.log ∧ u.mem = s.mem := by
  have hn : n < 4 := hp ▸ pipe.isLt
  subst hp
  refine ends_of_done (exec_vblankStart_frozen pipe hf ha) ⟨?_, regsKept_refresh fun _ _ => rfl, rfl, rfl⟩
  rw [pipeAt_refresh, pipeAt_setPipe (by rw [hlen]; exact hn), numsFrom_eq_range', ← List.range_eq_range']

/-! ### Commits (R322, R323) -/

/-- The commit that waits is counted as dropped. -/
def commitDropped (n : Nat) (s : State) : State := if s.flag (fFlipPending n) then pipeCount n 0x128 s else s

theorem flipCommit_eq (n seq : Nat) (s : State) : flipCommit n seq s = setPipe n { pipeAt (commitDropped n (drainAll s)) n with seq := seq }
    ((commitDropped n (drainAll s)).setFld (fFlipPending n) 1) := rfl

theorem commitDropped_spec (n : Nat) (s : State) : (∀ r, r ≠ pipeR n 0x128 → (commitDropped n s).reg r = s.reg r)
    ∧ (commitDropped n s).disp = s.disp ∧ (commitDropped n s).mem = s.mem ∧ (s.flag (fFlipPending n) = true → Counted n 0x128 s (commitDropped n s))
    ∧ (s.flag (fFlipPending n) = false → commitDropped n s = s) := by
  rw [commitDropped]
  split
  · next h =>
    refine ⟨fun r hr => ?_, disp_pipeCount n 0x128 s, ?_, fun _ => reg_pipeCount n 0x128 s, fun hf => absurd (h.symm.trans hf) (by decide)⟩
    · rw [pipeCount]
      split
      · rfl
      · exact State.reg_setFld_of_ne (Ne.symm hr)
    · rw [pipeCount]
      split <;> rfl
  · next h => exact ⟨fun _ _ => rfl, rfl, rfl, fun ht => absurd ht h, fun _ => rfl⟩

theorem drainAll_pipe (hn : n < 4) (s : State) : (drainAll s).disp = s.disp ∧ (drainAll s).flag fHoldAll = s.flag fHoldAll
    ∧ (drainAll s).flag (fFlipPending n) = s.flag (fFlipPending n) ∧ (drainAll s).reg (pipeR n 0x128) = s.reg (pipeR n 0x128) := by
  have hk := (moves_drainAll s).keeps
  have hr : pipeR n 0x108 < C 0xC0000 ∧ pipeR n 0x128 < C 0xC0000 := by
    simp only [pipeR, C_eq]; omega
  exact ⟨(congrArg State.disp hk.view :), hk.flag (show 0 < 32 by decide) (memFld_apart_hold rfl),
    hk.flag (show 31 < 32 by decide) (memFld_apart hr.1 (pipeR_ne n 0x108 (by decide))), hk.win_reg hr.2 (pipeR_ne n 0x128 (by decide))⟩

/-- The commit itself: PENDING and its number. -/
theorem commit_spec (hn : n < 4) (hl : n < s.disp.pipes.length) (seq : Nat) : ∃ u, setPipe n { pipeAt s n with seq := seq } (s.setFld (fFlipPending n) 1) = u
    ∧ u.flag (fFlipPending n) = true ∧ (pipeAt u n).seq = seq ∧ u.mem = s.mem ∧ ∀ r, r ≠ pipeR n 0x108 → u.reg r = s.reg r := by
  have hl' : n < (s.setFld (fFlipPending n) 1).disp.pipes.length := by rw [State.setFld_disp]; exact hl
  have h1 := State.flag_setFld_one s (pipeR n 0x108) 31 (by decide)
  have h2 : ∀ r, r ≠ pipeR n 0x108 → (s.setFld (fFlipPending n) 1).reg r = s.reg r := fun r h => State.reg_setFld_of_ne (Ne.symm h)
  have h3 : (s.setFld (fFlipPending n) 1).mem = s.mem := State.setFld_mem s _ _
  obtain ⟨z, hz⟩ : ∃ z, s.setFld (fFlipPending n) 1 = z := ⟨_, rfl⟩
  have h1' : z.flag (fFlipPending n) = true := hz ▸ h1
  rw [hz] at hl' h2 h3 ⊢
  have hk : Keeps (Writes ([] : List Fld)) offDisp z (setPipe n { pipeAt s n with seq := seq } z) := writes_setPipe n _ z
  exact ⟨_, rfl, (hk.clear_flag (by interval_cases n <;> decide)).trans h1', by rw [pipeAt_setPipe hl'], h3,
    fun r h => (State.reg_of_regs_eq (y := z) rfl r).trans (h2 r h)⟩

theorem exec_flipCommit (hr : running s = true) (pipe : Fin 4) (seq : BitVec 16) :
    exec (.flipCommit pipe seq) s = done (flipCommit pipe.val seq.toNat s) := by
  change execFlipCommit pipe seq s = _
  rw [execFlipCommit, onlyIf, hr, if_pos rfl]

theorem ends_flipCommit (pipe : Fin 4) (hp : pipe.val = n) (hr : running s = true) (hlen : s.disp.pipes.length = 4) (hs : MergeSound s) (seq : BitVec 16) :
    Ends (.flipCommit pipe seq) s fun u => u.flag (fFlipPending n) = true ∧ (pipeAt u n).seq = seq.toNat ∧ u.mem.merge = [] ∧ MemKept s u
      ∧ (s.flag (fFlipPending n) = true → Counted n 0x128 s u) ∧ (s.flag (fFlipPending n) = false → u.reg (pipeR n 0x128) = s.reg (pipeR n 0x128)) := by
  have hn : n < 4 := hp ▸ pipe.isLt
  have hexec := exec_flipCommit hr pipe seq
  rw [hp, flipCommit_eq] at hexec
  have hsame := sameMem_drainAll hs
  have hmerge := merge_drainAll s
  obtain ⟨hdisp, hhold, hflip, hreg⟩ := drainAll_pipe hn s
  obtain ⟨x, hx⟩ : ∃ x, drainAll s = x := ⟨_, rfl⟩
  rw [hx] at hexec hsame hmerge hdisp hhold hflip hreg
  obtain ⟨h1, h2, h3, h4, h5⟩ := commitDropped_spec n x
  obtain ⟨y, hy⟩ : ∃ y, commitDropped n x = y := ⟨_, rfl⟩
  rw [hy] at hexec h1 h2 h3 h4 h5
  obtain ⟨u, hu, hpend, hseq, hmem, hregs⟩ := commit_spec (s := y) hn (by rw [h2, hdisp, hlen]; exact hn) seq.toNat
  rw [hu] at hexec
  have hdrop : u.reg (pipeR n 0x128) = y.reg (pipeR n 0x128) := hregs _ (by simp only [pipeR, C_eq]; omega)
  have hmap : SameMem x u := sameMem_of_map (fun r hr => by
    have hne : r ≠ pipeR n 0x108 ∧ r ≠ pipeR n 0x128 := by
      simp only [pipeR, C_eq] at hr ⊢
      omega
    rw [hregs r hne.1, h1 r hne.2]) (hmem.trans h3)
  refine ends_of_done hexec ⟨(flag_refresh_pipe _ _ _ _ _).trans hpend, hseq, (congrArg MemSt.merge (hmem.trans h3)).trans hmerge,
    (hsame.comp (hmap.comp (sameMem_refresh u))).memKept, fun hf => ?_, fun hf => ?_⟩
  · have hc := h4 (hflip.trans hf)
    rw [Counted, hhold, hreg, ← hdrop] at hc
    rw [Counted, reg_refresh_pipe]
    exact hc
  · rw [reg_refresh_pipe, hdrop, h5 (hflip.trans hf), hreg]

end Sys2Proof.Machine
end

section
/-! PROOFS. O45: new timing is checked when it is written (R330, R335). -/

namespace Sys2Proof.Machine

open Sys2Proof Sys2Proof.Safety Sys2Proof.Claims

variable {s t u x : State} {n q : Nat} {l : List Fld}

/-! ### The check (R330, R335) -/

/-- The port carries the pixel rate, as the statement says it. -/
def PortFits (s : State) (n : Nat) : Prop :=
  let v := (s.reg (pipeR n 0x24)).toNat
  let d := (s.reg (pipeR n 0x28)).toNat
  let bits := 3 * (6 + 2 * s.fld (fPipeBpc n))
  let q := s.fld (fPipePort n)
  if q < 2 then 25000000 * v * bits * 10 ≤ s.fld (fPortLanes q) * edpRate (s.fld (fPortRate q)) * 10000000 * 8 * 2 ^ 24 * d
  else 25000000 * v * bits ≤ s.fld (fPortLanes q) * s.fld (fDsiRate q) * 10000000 * 2 ^ 24 * d

theorem edp_carries_iff (v b k d : Nat) : 25000000 * v * b * 3 * 5 ≤ k * 4 * (10000000 * 2 ^ 24 * d) ↔
    25000000 * v * (3 * b) * 10 ≤ k * 10000000 * 8 * 2 ^ 24 * d := by
  have h1 : 25000000 * v * (3 * b) * 10 = 25000000 * v * b * 3 * 5 * 2 := by ring
  have h2 : k * 10000000 * 8 * 2 ^ 24 * d = k * 4 * (10000000 * 2 ^ 24 * d) * 2 := by ring
  rw [h1, h2, Nat.mul_le_mul_right_iff (by decide)]

theorem dsi_carries_iff (v b k d : Nat) : 25000000 * v * b * 3 * 5 ≤ k * 5 * (10000000 * 2 ^ 24 * d) ↔
    25000000 * v * (3 * b) ≤ k * 10000000 * 2 ^ 24 * d := by
  have h1 : 25000000 * v * b * 3 * 5 = 25000000 * v * (3 * b) * 5 := by ring
  have h2 : k * 5 * (10000000 * 2 ^ 24 * d) = k * 10000000 * 2 ^ 24 * d * 5 := by ring
  rw [h1, h2, Nat.mul_le_mul_right_iff (by decide)]

theorem portCarries_iff (s : State) (n : Nat) : portCarries s n (timingShadow s n) = true ↔ PortFits s n := by
  rw [PortFits, portCarries]
  split
  · rw [decide_eq_true_eq]
    exact edp_carries_iff _ _ _ _
  · rw [decide_eq_true_eq]
    exact dsi_carries_iff _ _ _ _

theorem fld_low (s : State) (r : Nat) : s.fld ⟨r, 15, 0⟩ = (s.reg r).toNat % 65536 := by
  rw [State.fld, bitsOf, Nat.pow_zero, Nat.div_one]
  rfl

theorem fld_high (s : State) (r : Nat) : s.fld ⟨r, 31, 16⟩ = (s.reg r).toNat / 65536 :=
  Nat.mod_eq_of_lt (by have := (s.reg r).isLt; change _ / 65536 < 65536; omega)

/-- The ranges of R330, as the statement lists them. -/
def TimingInRange (t : List Nat) : Prop :=
  let even := fun v => v % 2 = 0 ∧ v ≠ 0
  let v := pclkVco t
  let d := pclkDiv t
  even (tLow t 0) ∧ tLow t 0 ≤ 3840 ∧ even (tHigh t 0) ∧ even (tLow t 1) ∧ even (tHigh t 1)
    ∧ 1 ≤ tLow t 2 ∧ tLow t 2 ≤ 1440 ∧ tHigh t 2 ≠ 0 ∧ tLow t 3 ≠ 0 ∧ tHigh t 3 ≠ 0 ∧ hTotal t ≤ 8192 ∧ vTotal t ≤ 4095
    ∧ 48 * 2 ^ 24 ≤ v ∧ v ≤ 96 * 2 ^ 24 ∧ d % 2 = 0 ∧ 2 ≤ d ∧ d ≤ 128 ∧ 10 * d * 2 ^ 24 ≤ 25 * v ∧ 25 * v ≤ 600 * d * 2 ^ 24
    ∧ 25000000 * v ≤ hTotal t * vTotal t * 120 * d * 2 ^ 24

theorem vTotal_eq (t : List Nat) : vTotal t = tLow t 2 + tHigh t 2 + tLow t 3 + tHigh t 3 := by
  rw [vTotal, vBlank]
  omega

theorem timingFits_iff (s : State) (n : Nat) : timingFits s n ↔ TimingInRange (timingShadow s n) ∧ PortFits s n := by
  rw [timingFits, TimingInRange]
  simp only [fld_low, fld_high, and_assoc, vTotal_eq]
  exact Iff.rfl

theorem even_iff (v : Nat) : (¬ v % 2 = 1 ∧ ¬ v = 0) ↔ v % 2 = 0 ∧ v ≠ 0 := by omega

/-- What the check refuses is what the ranges leave out. -/
theorem applyBad_iff (s : State) (n : Nat) : applyBad s n = false ↔ timingFits s n := by
  rw [timingFits_iff, ← portCarries_iff, applyBad, TimingInRange]
  simp only [Bool.or_eq_false_iff, decide_eq_false_iff_not, Bool.not_eq_false', even_iff]
  generalize timingShadow s n = t
  refine and_congr_left' ?_
  omega

end Sys2Proof.Machine
end

section
/-! PROOFS. O45: APPLY, ENABLE, a lost lock and the end of a relock (R329-R331, R337). -/

namespace Sys2Proof.Machine

open Sys2Proof Sys2Proof.Safety Sys2Proof.Claims

variable {s t u x : State} {n q : Nat} {l : List Fld}

/-! ### APPLY -/

theorem exec_apply (hr : running s = true) (pipe : Fin 4) : exec (.apply pipe) s = done (pipeApply pipe.val s) := by
  change execApply pipe s = _
  rw [execApply, onlyIf, hr, if_pos rfl]

theorem offRegs_setFld (s : State) (f : Fld) (v : Nat) (m : Sparse W32) : ({ s.setFld f v with regs := m } : State) = { s with regs := m } := rfl

theorem offRegs_setApplyPending (n : Nat) (b : Bool) (s : State) : ({ setApplyPending n b s with regs := s.regs } : State) = s := by
  rw [setApplyPending, State.setFlag, offRegs_setFld, State.setFlag, offRegs_setFld]

theorem reg_setApplyPending (n : Nat) (b : Bool) (s : State) {r : Nat} (h : r ∉ [0xA4, pipeR n 0x118]) : (setApplyPending n b s).reg r = s.reg r := by
  simp only [List.mem_cons, List.not_mem_nil, or_false, not_or] at h
  rw [setApplyPending, State.setFlag, State.reg_setFld_of_ne (Ne.symm h.1), State.setFlag, State.reg_setFld_of_ne (Ne.symm h.2)]

theorem status_setApplyPending (hn : n < 4) (b : Bool) (s : State) : (setApplyPending n b s).flag (fDispBit n 5) = b := by
  rw [setApplyPending]
  exact State.flag_setFlag _ _ _ b (show 8 * n + 5 < 32 by omega)

theorem ends_apply_fits (pipe : Fin 4) (hp : pipe.val = n) (hr : running s = true) (hf : timingFits s n) : Ends (.apply pipe) s fun u =>
    u.flag (fApplyPending n) = true ∧ u.flag (fDispBit n 5) = true ∧ OnlyRegs s u [0xA4, pipeR n 0x118] := by
  have hn : n < 4 := hp ▸ pipe.isLt
  have hexec := exec_apply hr pipe
  rw [hp, pipeApply, (applyBad_iff s n).mpr hf, if_neg (by decide)] at hexec
  obtain ⟨x, hx, h1, h2, h3, h4⟩ : ∃ x, setApplyPending n true s = x ∧ x.flag (fApplyPending n) = true ∧ x.flag (fDispBit n 5) = true
      ∧ (∀ r, r ∉ [0xA4, pipeR n 0x118] → x.reg r = s.reg r) ∧ ({ x with regs := s.regs } : State) = s :=
    ⟨_, rfl, flag_setApplyPending n true s, status_setApplyPending hn true s, fun _ h => reg_setApplyPending n true s h, offRegs_setApplyPending n true s⟩
  rw [hx] at hexec
  exact ends_of_done hexec ⟨(flag_refresh_pipe _ _ _ _ _).trans h1, (flag_refresh_dispBit _ _ _).trans h2, onlyRegs_refresh h3 h4⟩

/-- An event of pipe n: its bit, and nothing else. -/
theorem pipeEvent_spec (n : Nat) {b : Nat} (hb : b < 32) (s : State) : ∃ x, pipeEvent n b s = x ∧ x.flag ⟨pipeR n 0x12C, b, b⟩ = true
    ∧ (∀ r, r ≠ pipeR n 0x12C → x.reg r = s.reg r) ∧ x.log = s.log ∧ x.core = s.core ∧ x.disp = s.disp :=
  ⟨_, rfl, flag_pipeEvent n b hb s, fun _ h => State.reg_setFld_of_ne (Ne.symm h), State.setFld_log s _ _, State.setFld_core s _ _, State.setFld_disp s _ _⟩

theorem interior_of_core (hc : t.core = s.core) (hr : t.reg fFrozen.reg = s.reg fFrozen.reg) : interior t = interior s := by
  have hf : t.flag fFrozen = s.flag fFrozen := by rw [State.flag, State.flag, State.fld, State.fld, hr]
  rw [interior, interior, hc, hf]

theorem ends_apply_bad (pipe : Fin 4) (hp : pipe.val = n) (hr : running s = true) (hf : ¬ timingFits s n) (hroom : Room s 0x143) :
    Ends (.apply pipe) s fun u => bitN (u.reg (pipeR n 0x12C)).toNat 7 = true ∧ Logs s u 4 0x143 0 n 4 ∧ RegsKept s u [pipeR n 0x12C] ∧ u.disp = s.disp := by
  have hexec := exec_apply hr pipe
  have hbad : applyBad s n = true := Bool.of_not_eq_false fun h => hf ((applyBad_iff s n).mp h)
  obtain ⟨x, hx, h1, h2, h3, h4, h5⟩ := pipeEvent_spec n (b := 7) (by decide) s
  have hi : interior x = true := (interior_of_core h4 (h2 _ (Ne.symm (pipeR_ne n 0x12C (by decide))))).trans (interior_of_running hr)
  have hroom' : Room x 0x143 := by rw [Room, h3]; exact hroom
  rw [hp, pipeApply, hbad, if_pos rfl, hx, logEvent_of_room hi (by decide) hroom', h3, h4] at hexec
  refine ends_of_done hexec ⟨event_refresh ?_, fun _ => rfl, regsKept_refresh fun r h => ?_, h5⟩
  · rw [← h1]
    exact congrArg (fun v : Nat => decide (v ≠ 0)) (State.fld_of_regs_eq (y := x) rfl _)
  · exact (State.reg_of_regs_eq (y := x) rfl r).trans (h2 r fun e => h (List.mem_singleton.mpr e))

/-! ### ENABLE -/

/-- Another enabled pipe names the port of pipe n. -/
def PortTaken (s : State) (n : Nat) : Prop := ∃ m < 4, m ≠ n ∧ s.flag (fPipeEn m) = true ∧ s.fld (fPipePort m) = s.fld (fPipePort n)

theorem portTaken_iff (s : State) (n : Nat) :
    (numsFrom 0 4).any (fun m => m ≠ n && s.flag (fPipeEn m) && s.fld (fPipePort m) = s.fld (fPipePort n)) = true ↔ PortTaken s n := by
  rw [List.any_eq_true, PortTaken]
  refine exists_congr fun m => ?_
  rw [mem_numsFrom, Bool.and_eq_true, Bool.and_eq_true, decide_eq_true_iff, decide_eq_true_iff, and_assoc, and_assoc]
  exact and_iff_right (Nat.zero_le m)

theorem exec_pipeEnable (hr : running s = true) (pipe : Fin 4) : exec (.pipeEnable pipe) s = done (pipeEnable pipe.val s) := by
  change execPipeEnable pipe s = _
  rw [execPipeEnable, onlyIf, hr, if_pos rfl]

/-- The enabled pipe with its shadows in use. -/
def enabled (n : Nat) (s : State) : State := applyShadows n (s.setFld (fPipeEn n) 1)

theorem pipeEnable_refused (he : s.flag (fPipeEn n) = false) (h : s.flag (fPortEn (s.fld (fPipePort n))) = false ∨ PortTaken s n) :
    pipeEnable n s = logIgnored (pipeR n 0) s := by
  rw [pipeEnable, he, if_neg (by decide), if_pos]
  rw [Bool.or_eq_true, portTaken_iff, Bool.not_eq_true']
  exact h

theorem pipeEnable_taken (he : s.flag (fPipeEn n) = false) (hport : s.flag (fPortEn (s.fld (fPipePort n))) = true) (ht : ¬ PortTaken s n)
    (hf : timingFits s n) : pipeEnable n s = relockStart n 0 (setPipe n { pipeAt (enabled n s) n with stopping := false } (enabled n s)) := by
  rw [pipeEnable, he, if_neg (by decide), if_neg, (applyBad_iff s n).mpr hf, if_neg (by decide)]
  · rfl
  · rw [Bool.or_eq_true, portTaken_iff, hport]
    exact fun h => h.elim (by decide) ht

theorem regPa_C (off : Nat) : regPa (C off) = 0x110000000000 + off := by
  rw [regPa, if_neg (Nat.not_lt.mpr (Nat.le_add_right _ _)), Nat.add_sub_cancel_left]

theorem ends_pipeEnable_refused (pipe : Fin 4) (hp : pipe.val = n) (hr : running s = true) (he : s.flag (fPipeEn n) = false)
    (h : s.flag (fPortEn (s.fld (fPipePort n))) = false ∨ PortTaken s n) (hroom : Room s 0x041) : Ends (.pipeEnable pipe) s fun u =>
      Logs s u 4 0x041 0 0 (0x110000050000 + 0x4000 * n) ∧ RegsKept s u [] ∧ u.disp = s.disp := by
  have hexec := exec_pipeEnable hr pipe
  rw [hp, pipeEnable_refused he h, logIgnored, logEvent_of_room (interior_of_running hr) (by decide) hroom] at hexec
  have ha : regPa (pipeR n 0) = 0x110000050000 + 0x4000 * n := by
    rw [pipeR, regPa_C]
    omega
  rw [ha] at hexec
  exact ends_of_done hexec ⟨fun _ => rfl, regsKept_refresh fun _ _ => rfl, rfl⟩

theorem idle_pipeEnable (pipe : Fin 4) (hr : running s = true) (he : s.flag (fPipeEn pipe.val) = true) : Idle (.pipeEnable pipe) s :=
  idle_of_done ((exec_pipeEnable hr pipe).trans (by rw [pipeEnable, he, if_pos rfl]))

/-- What ENABLE writes before the relock. -/
def enableFlds (n : Nat) : List Fld := fPipeEn n :: shadowFlds n

theorem clear_enable (hn : n < 4) : Clear (fPipeEn n) (shadowFlds n) ∧ Clear fFrozen (enableFlds n) ∧ Clear (fPipeEn n) (relockFlds n)
    ∧ Clear ⟨pipeR n 0x12C, 1, 1⟩ (relockFlds n) := by
  refine ⟨?_, ?_, ?_, ?_⟩ <;> interval_cases n <;> decide

/-- The enabled pipe, before its relock. -/
theorem enabled_spec (hn : n < 4) (hl : n < s.disp.pipes.length) : ∃ x, setPipe n { pipeAt (enabled n s) n with stopping := false } (enabled n s) = x
    ∧ Keeps (Writes (enableFlds n)) offDisp s x ∧ x.disp.pipes.length = s.disp.pipes.length ∧ x.flag (fPipeEn n) = true
    ∧ x.flag ⟨pipeR n 0x12C, 1, 1⟩ = true ∧ x.log = s.log ∧ (pipeAt x n).timing = timingShadow s n
    ∧ ∀ i < 1024, Sparse.get (fun _ => 0#32) (pipeAt x n).degamma i = s.reg (pipeR n (0x1000 + 4 * i))
      ∧ Sparse.get (fun _ => 0#32) (pipeAt x n).gamma i = s.reg (pipeR n (0x2000 + 4 * i)) := by
  obtain ⟨c1, -⟩ := clear_enable hn
  obtain ⟨y, hy, h1, h2, h3, h4, h5⟩ : ∃ y, s.setFld (fPipeEn n) 1 = y ∧ Keeps (Writes (enableFlds n)) offDisp s y ∧ y.disp = s.disp
      ∧ y.flag (fPipeEn n) = true ∧ y.log = s.log ∧ ∀ off, off ≠ 0 → y.reg (pipeR n off) = s.reg (pipeR n off) :=
    ⟨_, rfl, writes_setFld List.mem_cons_self 1 s, State.setFld_disp s _ _, State.flag_setFld_one s _ _ (by decide), State.setFld_log s _ _,
      fun off ho => State.reg_setFld_of_ne (show pipeR n 0 ≠ pipeR n off by simp only [pipeR, C_eq]; omega)⟩
  have hly : n < y.disp.pipes.length := by rw [h2]; exact hl
  have ha := applied_applyShadows (s := y) hn hly
  have he : enabled n s = applyShadows n y := by rw [enabled, hy]
  rw [he]
  obtain ⟨z, hz⟩ : ∃ z, applyShadows n y = z := ⟨_, rfl⟩
  rw [hz] at ha ⊢
  have hp := pipeAt_setPipe (s := z) (n := n) (by rw [ha.len]; exact hly) { pipeAt z n with stopping := false }
  obtain ⟨x, hx, hk, hlen, hlog⟩ : ∃ x, setPipe n { pipeAt z n with stopping := false } z = x ∧ Keeps (Writes ([] : List Fld)) offDisp z x
      ∧ x.disp.pipes.length = z.disp.pipes.length ∧ x.log = z.log := ⟨_, rfl, writes_setPipe n _ z, length_setPipe n _ z, rfl⟩
  rw [hx, ha.pipe] at hp
  have c : Clear (fPipeEn n) [] ∧ Clear ⟨pipeR n 0x12C, 1, 1⟩ [] := by
    refine ⟨?_, ?_⟩ <;> interval_cases n <;> decide
  refine ⟨x, hx, (h1.trans (ha.keeps.more (List.subset_cons_self _ _))).trans (hk.more (List.nil_subset _)), ?_, ?_, ?_, ?_, ?_, fun i hi => ⟨?_, ?_⟩⟩
  · rw [hlen, ha.len, h2]
  · exact (hk.clear_flag c.1).trans ((ha.keeps.clear_flag c1).trans h3)
  · exact (hk.clear_flag c.2).trans ha.event
  · rw [hlog, ha.log, h4]
  · rw [hp]
    refine List.map_congr_left fun off ho => ?_
    rw [h5 off (by rintro rfl; exact absurd ho (by decide))]
  · rw [hp]
    dsimp only
    rw [get_tableShadow y n 0x1000 hi, h5 _ (by omega)]
  · rw [hp]
    dsimp only
    rw [get_tableShadow y n 0x2000 hi, h5 _ (by omega)]

theorem ends_pipeEnable (pipe : Fin 4) (hp : pipe.val = n) (hr : running s = true) (hlen : s.disp.pipes.length = 4) (he : s.flag (fPipeEn n) = false)
    (hport : s.flag (fPortEn (s.fld (fPipePort n))) = true) (ht : ¬ PortTaken s n) (hf : timingFits s n) (hroom : Room s 0x142) :
    Ends (.pipeEnable pipe) s fun u => u.flag (fPipeEn n) = true ∧ (pipeAt u n).timing = timingShadow s n ∧ bitN (u.reg (pipeR n 0x12C)).toNat 1 = true
      ∧ Relocks s u n 0 ∧ ∀ i < 1024, Sparse.get (fun _ => 0#32) (pipeAt u n).degamma i = s.reg (pipeR n (0x1000 + 4 * i))
        ∧ Sparse.get (fun _ => 0#32) (pipeAt u n).gamma i = s.reg (pipeR n (0x2000 + 4 * i)) := by
  have hn : n < 4 := hp ▸ pipe.isLt
  have hl : n < s.disp.pipes.length := by rw [hlen]; exact hn
  obtain ⟨x, hx, hk, hlx, hen, hev, hlog, htim, htab⟩ := enabled_spec (s := s) hn hl
  have hexec := exec_pipeEnable hr pipe
  rw [hp, pipeEnable_taken he hport ht hf, hx] at hexec
  have hre := relocked_relockStart (s := x) hn (by rw [hlx]; exact hl) 0
  obtain ⟨-, c2, c3, c4⟩ := clear_enable hn
  refine ends_of_done hexec ⟨(flag_refresh_pipe _ _ _ _ _).trans ((hre.keeps.clear_flag c3).trans hen), ?_,
    event_refresh ((hre.keeps.clear_flag c4).trans hev), relocks_refresh hre ?_ hroom hlog hk.disp_core, fun i hi => ?_⟩
  · rw [pipeAt_refresh, hre.pipe]; exact htim
  · rw [hk.disp_interior c2]; exact interior_of_running hr
  · rw [pipeAt_refresh, hre.pipe]; exact htab i hi

/-! ### ENABLE cleared -/

theorem exec_pipeDisable (hr : running s = true) (pipe : Fin 4) : exec (.pipeDisable pipe) s = done (pipeDisable pipe.val s) := by
  change execPipeDisable pipe s = _
  rw [execPipeDisable, onlyIf, hr, if_pos rfl]

theorem idle_pipeDisable (pipe : Fin 4) (hr : running s = true) (he : s.flag (fPipeEn pipe.val) = false) : Idle (.pipeDisable pipe) s :=
  idle_of_done ((exec_pipeDisable hr pipe).trans (by rw [pipeDisable, he, if_pos (by decide)]))

theorem ends_pipeDisable (pipe : Fin 4) (hp : pipe.val = n) (hr : running s = true) (hlen : s.disp.pipes.length = 4) (he : s.flag (fPipeEn n) = true) :
    Ends (.pipeDisable pipe) s fun u => u.flag (fPipeEn n) = false
      ∧ (s.flag (fPipeActive n) = true ∨ s.flag (fPipeRelock n) = true → (pipeAt u n).stopping = true ∧ RegsKept s u [pipeR n 0])
      ∧ (s.flag (fPipeActive n) = false → s.flag (fPipeRelock n) = false → (pipeAt u n).planes = [] ∧ (pipeAt u n).out = [] ∧ u.flag (fQuietValid n) = false) := by
  have hn : n < 4 := hp ▸ pipe.isLt
  have hl : n < s.disp.pipes.length := by rw [hlen]; exact hn
  have hexec := exec_pipeDisable hr pipe
  rw [hp, pipeDisable, he, if_neg (by decide)] at hexec
  by_cases h : s.flag (fPipeActive n) = true ∨ s.flag (fPipeRelock n) = true
  · obtain ⟨x, hx, h1, h2, h3⟩ : ∃ x, s.setFld (fPipeEn n) 0 = x ∧ x.flag (fPipeEn n) = false ∧ x.disp = s.disp ∧ ∀ r, r ≠ pipeR n 0 → x.reg r = s.reg r :=
      ⟨_, rfl, flag_setFld_zero_of s (show 31 < 32 by decide), State.setFld_disp s _ _, fun r hr => State.reg_setFld_of_ne (Ne.symm hr)⟩
    rw [if_pos (by rw [Bool.or_eq_true]; exact h), hx] at hexec
    have hk : Keeps (Writes ([] : List Fld)) offDisp x (setPipe n { pipeAt s n with stopping := true } x) := writes_setPipe n _ x
    refine ends_of_done hexec ⟨(flag_refresh_pipe _ _ _ _ _).trans ((hk.clear_flag (by interval_cases n <;> decide)).trans h1), fun _ => ⟨?_, ?_⟩,
      fun ha hb => absurd h (by rw [ha, hb]; decide)⟩
    · rw [pipeAt_refresh, pipeAt_setPipe (by rw [h2]; exact hl)]
    · exact regsKept_refresh fun r hr => (State.reg_of_regs_eq (y := x) rfl r).trans (h3 r fun e => hr (List.mem_singleton.mpr e))
  · rw [if_neg (by rw [Bool.or_eq_true]; exact h)] at hexec
    have hs := stopped_stopPipe hn hl
    exact ends_of_done hexec ⟨hs.enable, fun h' => absurd h' h, fun _ _ => ⟨hs.planes, hs.out, hs.quiet⟩⟩

end Sys2Proof.Machine
end

section
/-! PROOFS. O45: a lost lock and the end of a relock (R54, R337), and the obligation. -/

namespace Sys2Proof.Machine

open Sys2Proof Sys2Proof.Safety Sys2Proof.Claims

variable {s t u x : State} {n q : Nat} {l : List Fld}

/-! ### A lost lock -/

theorem exec_pclkLockLost (hr : running s = true) (hb : s.boot.released = true) (pipe : Fin 4) (ha : s.flag (fPipeActive pipe.val) = true) :
    exec (.pclkLockLost pipe) s = done (relockStart pipe.val 2 s) := by
  change execPclkLockLost pipe s = _
  rw [execPclkLockLost, onlyIf, scanning, interior_of_running hr, hb, ha, if_pos (by decide)]

theorem ends_pclkLockLost (pipe : Fin 4) (hp : pipe.val = n) (hr : running s = true) (hb : s.boot.released = true) (hlen : s.disp.pipes.length = 4)
    (ha : s.flag (fPipeActive n) = true) (hroom : Room s 0x142) : Ends (.pclkLockLost pipe) s fun u => Relocks s u n 2 ∧ (pipeAt u n).out = [] := by
  have hn : n < 4 := hp ▸ pipe.isLt
  subst hp
  have hre := relocked_relockStart (s := s) hn (by rw [hlen]; exact hn) 2
  refine ends_of_done (exec_pclkLockLost hr hb pipe ha) ⟨relocks_refresh hre (interior_of_running hr) hroom rfl rfl, ?_⟩
  rw [pipeAt_refresh, hre.pipe]

theorem idle_pclkLockLost (pipe : Fin 4) (ha : s.flag (fPipeActive pipe.val) = false) : Idle (.pclkLockLost pipe) s :=
  idle_of_done (by
    change execPclkLockLost pipe s = _
    rw [execPclkLockLost, onlyIf, scanning, ha, Bool.and_false, if_neg (by decide)])

/-! ### The end of a relock -/

/-- The registers and the event of a relock's end. -/
def relockEnded (n : Nat) (s : State) : State := logEvent 5 0x142 0 n 1 (pipeEvent n 4 (setRelock n false s))

theorem exec_relockDone (hr : running s = true) (pipe : Fin 4) (hl : s.flag (fPipeRelock pipe.val) = true) :
    exec (.relockDone pipe) s = done (vblank pipe.val (relockEnded pipe.val s)) := by
  change execRelockDone pipe s = _
  rw [execRelockDone, onlyIf, hr, hl, if_pos (by decide)]
  rfl

/-- What the end of a relock writes. -/
def endFlds (n : Nat) : List Fld := [fPipeRelock n, fDispBit n 6, ⟨pipeR n 0x12C, 4, 4⟩]

theorem relockEnded_spec (hn : n < 4) (s : State) : Keeps (Writes (endFlds n)) offDisp s (relockEnded n s) ∧ (relockEnded n s).disp = s.disp
    ∧ (relockEnded n s).flag (fPipeRelock n) = false ∧ (relockEnded n s).flag ⟨pipeR n 0x12C, 4, 4⟩ = true := by
  have h1 : Keeps (Writes (endFlds n)) offDisp s (setRelock n false s) := writes_setRelock (mem_at 0 rfl) (mem_at 1 rfl) false s
  have d1 := disp_setRelock n false s
  have r1 := flag_setRelock n false s
  rw [relockEnded]
  obtain ⟨x, hx⟩ : ∃ x, setRelock n false s = x := ⟨_, rfl⟩
  rw [hx] at h1 d1 r1 ⊢
  have h2 : Keeps (Writes (endFlds n)) offDisp x (pipeEvent n 4 x) := writes_setFld (mem_at 2 rfl) 1 x
  have k2 : Keeps (Writes [⟨pipeR n 0x12C, 4, 4⟩]) offDisp x (pipeEvent n 4 x) := writes_setFld (mem_at 0 rfl) 1 x
  have d2 := disp_pipeEvent n 4 x
  have r2 := flag_pipeEvent n 4 (by decide) x
  obtain ⟨y, hy⟩ : ∃ y, pipeEvent n 4 x = y := ⟨_, rfl⟩
  rw [hy] at h2 k2 d2 r2 ⊢
  have h3 : Keeps (Writes ([] : List Fld)) offDisp y (logEvent 5 0x142 0 n 1 y) := writes_logEvent _ _ _ _ _ y
  have d3 := disp_logEvent 5 0x142 0 n 1 y
  have c : Clear (fPipeRelock n) [] ∧ Clear ⟨pipeR n 0x12C, 4, 4⟩ [] ∧ Clear (fPipeRelock n) [⟨pipeR n 0x12C, 4, 4⟩] := by
    refine ⟨?_, ?_, ?_⟩ <;> interval_cases n <;> decide
  exact ⟨(h1.trans h2).trans (h3.more (List.nil_subset _)), d3.trans (d2.trans d1), (h3.clear_flag c.1).trans ((k2.clear_flag c.2.2).trans r1),
    (h3.clear_flag c.2.1).trans r2⟩

theorem clear_ended (hn : n < 4) : Clear fQuiesce (endFlds n) ∧ Clear (fApplyPending n) (endFlds n) ∧ Clear (fFlipPending n) (endFlds n) := by
  refine ⟨?_, ?_, ?_⟩ <;> interval_cases n <;> decide

theorem clear_begin_relock (hn : n < 4) (hq : q < 4) : Clear (fPipeRelock n) (beginFlds n q) ∧ Clear ⟨pipeR n 0x12C, 4, 4⟩ (beginFlds n q) := by
  refine ⟨?_, ?_⟩ <;> interval_cases n <;> interval_cases q <;> decide

theorem ends_relockDone (pipe : Fin 4) (hp : pipe.val = n) (hr : running s = true) (hlen : s.disp.pipes.length = 4) (hl : s.flag (fPipeRelock n) = true)
    (hs : (pipeAt s n).stopping = false) (hq : s.flag fQuiesce = false) (he : s.core.entryQuiesce = false) (ha : s.flag (fApplyPending n) = false) :
    Ends (.relockDone pipe) s fun u => u.flag (fPipeRelock n) = false ∧ u.flag (fPipeActive n) = true ∧ bitN (u.reg (pipeR n 0x12C)).toNat 4 = true
      ∧ (s.flag (fFlipPending n) = true → bitN (u.reg (pipeR n 0x12C)).toNat 0 = true ∧ u.fld (fShownSeq n) = (pipeAt s n).seq % 65536) ∧ u.mem = s.mem := by
  have hn : n < 4 := hp ▸ pipe.isLt
  subst hp
  have hexec := exec_relockDone hr pipe hl
  obtain ⟨hk, hd, h1, h2⟩ := relockEnded_spec hn s
  obtain ⟨x, hx⟩ : ∃ x, relockEnded pipe.val s = x := ⟨_, rfl⟩
  rw [hx] at hexec hk hd h1 h2
  obtain ⟨c1, c2, c3⟩ := clear_ended hn
  have hquiet : quiescing x = false := by
    rw [quiescing, hk.clear_flag c1, hk.disp_core, hq, he]
    rfl
  rw [vblank_frame (by rw [pipeAt_of_disp hd]; exact hs) hquiet ((hk.clear_flag c2).trans ha)] at hexec
  have hlx : pipe.val < x.disp.pipes.length := by rw [hd, hlen]; exact hn
  have hb := begun_beginFrame hn hlx
  obtain ⟨k1, k2⟩ := clear_begin_relock hn (fld_pipePort_lt x pipe.val)
  refine ends_of_done hexec ⟨(flag_refresh_pipe _ _ _ _ _).trans ((hb.keeps.clear_flag k1).trans h1), (flag_refresh_pipe _ _ _ _ _).trans hb.active,
    event_refresh ((hb.keeps.clear_flag k2).trans h2), fun hf => ?_, hb.keeps.disp_mem.trans hk.disp_mem⟩
  obtain ⟨ht, -⟩ := took_beginFrame hn hlx ((hk.clear_flag c3).trans hf)
  refine ⟨event_refresh ht.event, (fld_refresh_pipe _ _ _ _ _).trans (ht.shown.trans ?_)⟩
  rw [pipeAt_of_disp hd]

theorem idle_relockDone (pipe : Fin 4) (hl : s.flag (fPipeRelock pipe.val) = false) : Idle (.relockDone pipe) s :=
  idle_of_done (by
    change execRelockDone pipe s = _
    rw [execRelockDone, onlyIf, hl, Bool.and_false, if_neg (by decide)])

/-! ### The obligation -/

theorem ends_imp {c : Instr} {p r : State → Prop} (h : Ends c s p) (hi : ∀ u, p u → r u) : Ends c s r :=
  let ⟨t, he, ht⟩ := h
  ⟨t, he, hi t ht⟩

/-- What the statement says of a latched set. -/
theorem planes_of_shown (h : planesShown (pipeAt u n).planes = (latchedSet s n).map fun a => (a.words, a.ok, [])) :
    (pipeAt u n).planes.map (fun a => (a.words, a.ok, a.pieces)) = (List.range 3).map fun k => (planeWords s n k, plEn (planeWords s n k)
      && planeOk s (pipeAt s n).timing ((((List.range 3).map (planeWords s n)).filter plEn).map plUnits).sum (planeWords s n k), []) := by
  rw [← setUnits_eq, ← latchedSet_shown]
  exact h

/-- Settles O45, by what each of the commands leaves: the frame that ends, then the latch, new timing, a relock or a stop. -/
theorem framesCommitsAndTiming : Obligations.Frames_commits_and_timing := by
  intro s pipe te
  refine ⟨fun h ha => ⟨fun hf => ?_, fun hf => ends_vblankStart_repeat pipe rfl h ha hf, ends_vblankStart_counts pipe rfl h ha⟩,
    fun h hshown ha hf ht => ⟨fun hv hd => ends_vblankStart_timing pipe rfl h ha hv hd ht, fun hv hroom => ends_vblankStart_relock pipe rfl h ha hshown hf hroom hv⟩,
    fun hr _ hact hlen hstop => ?_, fun hf hlen ha => ends_vblankStart_frozen pipe rfl hf hlen ha,
    fun hr hlen hs seq => ends_flipCommit pipe rfl hr hlen hs seq,
    fun hr => ⟨ends_apply_fits pipe rfl hr, fun hf hroom => ends_apply_bad pipe rfl hr hf hroom⟩,
    fun hr he hlen => ⟨fun hport ht hf hroom => ends_pipeEnable pipe rfl hr hlen he hport ht hf hroom, fun h hroom => ends_pipeEnable_refused pipe rfl hr he h hroom,
      idle_pipeDisable pipe hr he⟩,
    fun hr he hlen => ⟨idle_pipeEnable pipe hr he, ends_pipeDisable pipe rfl hr hlen he⟩,
    fun hr hb hlen => ⟨fun ha hroom => ends_pclkLockLost pipe rfl hr hb hlen ha hroom, idle_pclkLockLost pipe⟩,
    fun hr hlen => ⟨fun hl hs hq he ha => ends_relockDone pipe rfl hr hlen hl hs hq he ha, idle_relockDone pipe⟩⟩
  · refine ends_imp (ends_vblankStart_commit pipe rfl h ha hf) fun u hu => ?_
    obtain ⟨h1, h2, h3, h4, h5, h6, h7, h8, h9⟩ := hu
    exact ⟨h1, h2, h3, h4, h5, h6, h7, h8, planes_of_shown h9⟩
  · exact ends_imp (ends_vblankStart_stop pipe rfl hr hact hlen hstop) fun u hu _ => ⟨hu.enable, hu.active, hu.quiet, hu.planes, hu.out, hu.stopping⟩

end Sys2Proof.Machine
end

section
/-! PROOFS. O59: no command stops the block, and every condition shows (R70). -/

namespace Sys2Proof.Machine

open Sys2Proof Sys2Proof.Safety

/-- The five condition sources of INT_STATUS, each at its bit (Table 3-9). -/
theorem bitN_conditionMask : ∀ fault log touch display queue : Bool,
    let m := (BitVec.ofNat 32 (bitVal fault iFault + bitVal log iLog + bitVal touch iTouch + bitVal display iDisplay + bitVal queue iQueueError)).toNat
    bitN m iFault = fault ∧ bitN m iLog = log ∧ bitN m iTouch = touch ∧ bitN m iDisplay = display ∧ bitN m iQueueError = queue := by
  decide

/-- A bit of a condition shows after a refresh. -/
theorem bitN_refresh_of_conditions {s : State} {b : Nat} (h : bitN (conditions s).toNat b = true) : bitN ((refresh s).reg 0x18).toNat b = true := by
  rw [reg_refresh, if_pos rfl, bitN, BitVec.toNat_or, Nat.testBit_or, show (conditions s).toNat.testBit b = true from h, Bool.or_true]

/-- An enabled PIPE_INT_STATUS bit of one of the four pipes is the DISPLAY condition. -/
theorem displayCondition_of_pipe {s : State} {n : Nat} (hn : n < 4)
    (h : (s.reg (C (0x50000 + 0x4000 * n + 0x12C)) &&& s.reg (C (0x50000 + 0x4000 * n + 0x130))) ≠ 0#32) : displayCondition s = true := by
  rw [displayCondition, List.any_eq_true]
  have hm : ∀ n < 4, n ∈ numsFrom 0 4 := by decide
  exact ⟨n, hm n hn, decide_eq_true h⟩

/-- A refresh shows every condition (R70). -/
theorem conditionsShown_refresh (s : State) : ConditionsShown (refresh s) := by
  obtain ⟨hfault, hlog, htouch, hdisplay, hqueue⟩ := bitN_conditionMask (s.fld fHead ≠ s.fld fTail)
    (s.fld fThresh ≠ 0 && s.fld fThresh ≤ undelivered s) (s.fld ⟨0xA8, 31, 24⟩ ≠ 0) (displayCondition s) (s.reg (C 0x20408) ≠ 0#32)
  have hreg : ∀ r, r ≠ 0x18 → (refresh s).reg r = s.reg r := fun r hr => reg_refresh_of_ne s hr
  refine ⟨fun h => bitN_refresh_of_conditions (hfault.trans ?_), fun h => bitN_refresh_of_conditions (hlog.trans ?_),
    fun n hn h => bitN_refresh_of_conditions (hdisplay.trans ?_), fun h => bitN_refresh_of_conditions (htouch.trans ?_),
    fun h => bitN_refresh_of_conditions (hqueue.trans ?_)⟩
  · rw [fld_refresh s fHead (by decide), fld_refresh s fTail (by decide)] at h
    exact decide_eq_true h
  · rw [fld_refresh s fThresh (by decide), fld_refresh s fWriteSeq (by decide), fld_refresh s fReadSeq (by decide)] at h
    exact Bool.and_eq_true_iff.mpr ⟨decide_eq_true h.1, decide_eq_true h.2⟩
  · rw [hreg _ (by simp only [C_eq]; omega), hreg _ (by simp only [C_eq]; omega)] at h
    exact displayCondition_of_pipe hn h
  · rw [fld_refresh s ⟨0xA8, 31, 24⟩ (by decide)] at h
    exact decide_eq_true h
  · rw [hreg _ (by decide)] at h
    exact decide_eq_true h

/-- VBLANK_START ends in a refreshed state, frozen or not. -/
theorem execVblankStart_done (pipe : Fin 4) (te : Bool) (s : State) : ∃ u, execVblankStart pipe te s = done u := by
  unfold execVblankStart
  extract_lets n q t
  split
  · exact ⟨_, rfl⟩
  · split <;> exact ⟨_, rfl⟩

/-- Every command's meaning ends in a next state, refreshed: no arm stops the block. -/
theorem exec_eq_done (c : Instr) (s : State) : ∃ u, exec c s = done u := by
  cases c with
  | vblankStart pipe te => exact execVblankStart_done pipe te s
  | _ => exact ⟨_, rfl⟩

/-- So does every step, of a command or of time alone. -/
theorem step_eq_done (s : State) : ∃ u, step s = done u := by
  cases h : s.pending with
  | nil => exact ⟨tick s, by rw [step, h]⟩
  | cons c rest =>
    obtain ⟨u, hu⟩ := exec_eq_done c { s with pending := rest }
    exact ⟨u, by rw [step, h]; exact hu⟩

/-- Settles O59: every command and every step ends in a refresh, which shows every condition. -/
theorem noCommandStopsAndConditionsShow : Obligations.No_command_stops_and_conditions_show := by
  refine ⟨fun c s => ?_, fun s => ?_⟩
  · obtain ⟨u, hu⟩ := exec_eq_done c s
    exact ⟨refresh u, hu, conditionsShown_refresh u⟩
  · obtain ⟨u, hu⟩ := step_eq_done s
    exact ⟨refresh u, hu, conditionsShown_refresh u⟩

end Sys2Proof.Machine
end

section
/-! SUPPORT. Registers that return to their reset values, fields under an update of another part of the state, and lists of fields. -/

namespace Sys2Proof.Machine

open Sys2Proof Sys2Proof.Safety

theorem State.flag_of_fld_eq {x y : State} {f : Fld} (h : x.fld f = y.fld f) : x.flag f = y.flag f := by rw [State.flag, State.flag, h]

/-- The host's own state is no register. -/
theorem State.regs_setHost (s : State) (h : HostSt) : ({ s with host := h } : State).regs = s.regs := rfl

/-- Nor is the MMU's. -/
theorem State.regs_setMmu (s : State) (m : MmuSt) : ({ s with mmu := m } : State).regs = s.regs := rfl

/-- A range of registers at their reset values, the others as they were. -/
theorem reg_resetRange (r n q : Nat) (s : State) : (resetRange r n s).reg q = if r ≤ q ∧ q < r + n then regReset q else s.reg q := by
  rw [State.reg, resetRange, State.reg, Sparse.get, Sparse.get, Sparse.find_drop]
  by_cases h : r ≤ q ∧ q < r + n
  · rw [if_pos (by simpa using h), if_pos h]
    rfl
  · rw [if_neg (by simpa using h), if_neg h]

/-- A run of lists of one length, read at one place of one of them. -/
theorem getElem?_flatMap_of_length {α β : Type} (f : α → List β) {m : Nat} (hm : ∀ x, (f x).length = m) (l : List α) (k : Nat) {i : Nat} (hi : i < m) :
    (l.flatMap f)[m * k + i]? = (l[k]?).bind fun x => (f x)[i]? := by
  induction l generalizing k with
  | nil => rfl
  | cons x l ih =>
    rw [List.flatMap_cons]
    cases k with
    | zero => rw [List.getElem?_append_left (by rw [hm]; omega), Nat.mul_zero, Nat.zero_add]; rfl
    | succ k =>
      rw [List.getElem?_append_right (by rw [hm, Nat.mul_succ]; omega), hm, show m * (k + 1) + i - m = m * k + i by rw [Nat.mul_succ]; omega, ih]
      rfl

end Sys2Proof.Machine
end

section
/-! PROOFS. O9: the watchdog (R84, Table 3-22). -/

namespace Sys2Proof.Machine

open Sys2Proof Sys2Proof.Safety Sys2Proof.Claims

/-! ### REMAIN -/

theorem wdPeriod_lt (s : State) : s.fld fWdPeriod < 256 := bitsOf_lt _ _ _

/-- REMAIN holds PERIOD x 16 after a reload. -/
theorem remain_watchdogReload (s : State) : (watchdogReload s).fld fWdRemain = s.fld fWdPeriod * 16 := by
  rw [watchdogReload, State.fld_setFld _ _ _ (by decide)]
  have := wdPeriod_lt s
  exact Nat.mod_eq_of_lt (by change _ < 4096; omega)

/-- A reload changes no other field. -/
theorem fld_watchdogReload {s : State} {f : Fld} (h : f.hi < 32) (ha : f.Apart fWdRemain) : (watchdogReload s).fld f = s.fld f :=
  State.fld_setFld_of_apart h ha

theorem reg_watchdogReload {s : State} {r : Nat} (h : r ∉ [0xB0]) : (watchdogReload s).reg r = s.reg r :=
  State.reg_setFld_of_ne fun e => h (List.mem_singleton.mpr e.symm)

/-! ### KICK -/

theorem exec_watchdogKick {s : State} (hi : interior s = true) : exec .watchdogKick s = done (watchdogReload s) := by
  change execWatchdogKick s = _
  rw [execWatchdogKick, onlyIf, if_pos hi]

theorem ends_watchdogKick {s : State} (hi : interior s = true) : Ends .watchdogKick s fun u =>
    u.fld fWdRemain = s.fld fWdPeriod * 16 ∧ u.fld ⟨0xB0, 19, 0⟩ = s.fld ⟨0xB0, 19, 0⟩ ∧ OnlyRegs s u [0xB0] := by
  refine ends_of_done (exec_watchdogKick hi) ⟨?_, ?_, onlyRegs_refresh (fun _ => reg_watchdogReload) rfl⟩
  · rw [fld_refresh _ _ (by decide), remain_watchdogReload]
  · rw [fld_refresh _ ⟨0xB0, 19, 0⟩ (by decide), fld_watchdogReload (by decide) (.inr (.inl (by decide)))]

/-- What KICK 0x00 sets before REMAIN reloads. -/
theorem exec_watchdogConfig {s : State} (hi : interior s = true) (p : BitVec 8) (a : BitVec 2) (l : Bool) :
    exec (.watchdogConfig p a l) s = done (watchdogReload (if s.flag fWdLock then s else
      s.setFlds [(fWdPeriod, p.toNat), (fWdAction, a.toNat), (fWdLock, if l then 1 else 0)])) := by
  change execWatchdogConfig p a l s = _
  rw [execWatchdogConfig, onlyIf, if_pos hi, watchdogSet]

theorem ends_watchdogConfig_locked {s : State} (hi : interior s = true) (p : BitVec 8) (a : BitVec 2) (l : Bool) (hl : s.flag fWdLock = true) :
    Ends (.watchdogConfig p a l) s fun u => u.fld ⟨0xB0, 19, 0⟩ = s.fld ⟨0xB0, 19, 0⟩ ∧ u.fld fWdRemain = s.fld fWdPeriod * 16
      ∧ OnlyRegs s u [0xB0] := by
  have hk := exec_watchdogConfig hi p a l
  rw [if_pos hl, ← exec_watchdogKick hi] at hk
  obtain ⟨u, hu, hr, hf, ho⟩ := ends_watchdogKick hi
  exact ⟨u, hk.trans hu, hf, hr, ho⟩

/-- PERIOD, ACTION and LOCK as KICK 0x00 sets them. -/
theorem flds_watchdogSet (s : State) (p : BitVec 8) (a : BitVec 2) (l : Bool) :
    let x := s.setFlds [(fWdPeriod, p.toNat), (fWdAction, a.toNat), (fWdLock, if l then 1 else 0)]
    x.fld fWdPeriod = p.toNat ∧ x.fld fWdAction = a.toNat ∧ x.flag fWdLock = l := by
  intro x
  have hp : p.toNat % 2 ^ 8 = p.toNat := Nat.mod_eq_of_lt p.isLt
  have ha : a.toNat % 2 ^ 2 = a.toNat := Nat.mod_eq_of_lt a.isLt
  have d1 : Fld.Apart fWdPeriod fWdAction := .inr (.inr (by decide))
  have d2 : Fld.Apart fWdPeriod fWdLock := .inr (.inr (by decide))
  have d3 : Fld.Apart fWdAction fWdLock := .inr (.inr (by decide))
  refine ⟨?_, ?_, State.flag_setFlag _ _ _ l (by decide)⟩
  · change (((s.setFld fWdPeriod _).setFld fWdAction _).setFld fWdLock _).fld fWdPeriod = _
    rw [State.fld_setFld_of_apart (by decide) d2, State.fld_setFld_of_apart (by decide) d1, State.fld_setFld _ _ _ (by decide)]
    exact hp
  · change (((s.setFld fWdPeriod _).setFld fWdAction _).setFld fWdLock _).fld fWdAction = _
    rw [State.fld_setFld_of_apart (by decide) d3, State.fld_setFld _ _ _ (by decide)]
    exact ha

theorem ends_watchdogConfig {s : State} (hi : interior s = true) (p : BitVec 8) (a : BitVec 2) (l : Bool) (hl : s.flag fWdLock = false) :
    Ends (.watchdogConfig p a l) s fun u => u.fld fWdPeriod = p.toNat ∧ u.fld fWdAction = a.toNat ∧ u.flag fWdLock = l
      ∧ u.fld fWdRemain = p.toNat * 16 ∧ OnlyRegs s u [0xB0] := by
  have hx := exec_watchdogConfig hi p a l
  rw [if_neg (by rw [hl]; decide)] at hx
  obtain ⟨hp, ha, hlock⟩ := flds_watchdogSet s p a l
  have kept : ∀ f ∈ [fWdPeriod, fWdAction, fWdLock], f.hi < 32 ∧ f.Apart fWdRemain ∧ f.reg ≠ 0x18 := by unfold Fld.Apart; decide
  have fldOf : ∀ f ∈ [fWdPeriod, fWdAction, fWdLock], ∀ x : State, (refresh (watchdogReload x)).fld f = x.fld f := fun f hf x => by
    obtain ⟨h32, hap, h18⟩ := kept f hf
    rw [fld_refresh _ _ h18, fld_watchdogReload h32 hap]
  refine ends_of_done hx ⟨(fldOf _ (by decide) _).trans hp, (fldOf _ (by decide) _).trans ha, ?_, ?_, onlyRegs_refresh (fun r hr => ?_) rfl⟩
  · rw [State.flag, fldOf _ (by decide)]
    exact hlock
  · rw [fld_refresh _ _ (by decide), remain_watchdogReload, hp]
  · have hne : ∀ e ∈ [(fWdPeriod, p.toNat), (fWdAction, a.toNat), (fWdLock, if l then 1 else 0)], e.1.reg ≠ r := by
      have h : ¬ 0xB0 = r := fun e => hr (List.mem_singleton.mpr e.symm)
      simpa using h
    rw [reg_watchdogReload hr, State.reg_setFlds_of_ne _ _ hne]

/-! ### Half -/

theorem ends_watchdogHalf {s : State} (hi : interior s = true) (hp : s.fld fWdPeriod ≠ 0) : Ends .watchdogHalf s fun u =>
    u.fld fWdRemain = s.fld fWdPeriod * 8 ∧ Rings s u [13] ∧ OnlyRegs s u [0x18, 0xB0] := by
  have hx : exec .watchdogHalf s = done (raiseInt iWdogWarn (s.setFld fWdRemain (s.fld fWdPeriod * 8))) := by
    change execWatchdogHalf s = _
    rw [execWatchdogHalf, onlyIf, if_pos (by rw [hi, decide_eq_true hp]; rfl), watchdogHalf]
  have hr : ∀ x : State, ∀ r, r ≠ 0x18 → (raiseInt iWdogWarn x).reg r = x.reg r := fun x r h => State.reg_setFld_of_ne h.symm
  refine ends_of_done hx ⟨?_, rings_refresh ?_, onlyRegs_refresh (fun r hm => ?_) rfl⟩
  · rw [fld_refresh _ _ (by decide), State.fld, hr _ _ (by decide)]
    refine (State.fld_setFld _ _ _ (by decide)).trans (Nat.mod_eq_of_lt ?_)
    have := wdPeriod_lt s
    change _ < 4096
    omega
  · rw [reg_raiseInt _ _ (by decide), State.reg_setFld_of_ne (by decide)]
    rfl
  · simp only [List.mem_cons, List.not_mem_nil, or_false, not_or] at hm
    rw [hr _ _ hm.1, State.reg_setFld_of_ne (Ne.symm hm.2)]

/-! ### Expiry -/

/-- REMAIN has reloaded and the expiry is logged, with its ACTION. -/
def expired (s : State) : State := logEvent 7 0x004 0 0 (s.fld fWdAction) (watchdogReload s)

theorem exec_watchdogExpiry {s : State} (hi : interior s = true) (hp : s.fld fWdPeriod ≠ 0) :
    exec .watchdogExpiry s = done (if s.fld fWdAction = 1 then raiseInt iWdogWarn (expired s)
      else if s.fld fWdAction = 2 then warmReset 4 (expired s) else if s.fld fWdAction = 3 then powerCycle (expired s) else expired s) := by
  change execWatchdogExpiry s = _
  rw [execWatchdogExpiry, onlyIf, if_pos (by rw [hi, decide_eq_true hp]; rfl), watchdogExpiry, expired]

/-- The log after the expiry of a watchdog whose unit has room. -/
def expiryLog (s : State) : LogSt :=
  s.log.queue { cls := 7, ctx := 0, code := 0x004, src := 0, time := s.core.timebase.toNat % 2 ^ 48, arg := s.fld fWdAction % 2 ^ 48 }

theorem expired_eq {s : State} (hi : interior s = true) (hr : Room s 0x004) : expired s = { watchdogReload s with log := expiryLog s } := by
  have hi' : interior (watchdogReload s) = true := by
    rw [interior, State.flag, fld_watchdogReload (by decide) (.inl (by decide))]
    exact hi
  exact logEvent_of_room hi' (by decide) hr 0 0 _

theorem logs_expiry {s u : State} {a : Nat} (ha : s.fld fWdAction = a) (hu : u.log = expiryLog s) : Logs s u 7 0x004 0 0 a :=
  fun _ => by rw [hu, expiryLog, ha]; rfl

section
variable {s : State} (hi : interior s = true) (hp : s.fld fWdPeriod ≠ 0) (hr : Room s 0x004)
include hi hp hr

theorem ends_watchdogExpiry_none (ha : s.fld fWdAction = 0) : Ends .watchdogExpiry s fun u =>
    u.fld fWdRemain = s.fld fWdPeriod * 16 ∧ Logs s u 7 0x004 0 0 0 ∧ RegsKept s u [0xB0] := by
  have hx := exec_watchdogExpiry hi hp
  rw [ha, if_neg (by decide), if_neg (by decide), if_neg (by decide), expired_eq hi hr] at hx
  refine ends_of_done hx ⟨?_, logs_expiry ha rfl, regsKept_refresh fun _ => reg_watchdogReload⟩
  rw [fld_refresh _ _ (by decide)]
  exact remain_watchdogReload s

theorem ends_watchdogExpiry_warn (ha : s.fld fWdAction = 1) : Ends .watchdogExpiry s fun u =>
    u.fld fWdRemain = s.fld fWdPeriod * 16 ∧ Logs s u 7 0x004 0 0 1 ∧ Rings s u [13] ∧ RegsKept s u [0x18, 0xB0] := by
  have hx := exec_watchdogExpiry hi hp
  rw [ha, if_pos rfl, expired_eq hi hr] at hx
  have hraise : ∀ x : State, ∀ r, r ≠ 0x18 → (raiseInt iWdogWarn x).reg r = x.reg r := fun x r h => State.reg_setFld_of_ne h.symm
  refine ends_of_done hx ⟨?_, logs_expiry ha rfl, rings_refresh ?_, regsKept_refresh fun r hm => ?_⟩
  · rw [fld_refresh _ _ (by decide), State.fld, hraise _ _ (by decide)]
    exact remain_watchdogReload s
  · rw [reg_raiseInt _ _ (by decide)]
    exact congrArg (· ||| 1#32 <<< 13) (reg_watchdogReload (by decide))
  · simp only [List.mem_cons, List.not_mem_nil, or_false, not_or] at hm
    rw [hraise _ _ hm.1]
    exact reg_watchdogReload (by simp [hm.2])

omit hi hp hr in
/-- A warm reset of a state whose REMAIN has reloaded and whose log holds one more event is one of the state itself. -/
theorem warmedUp_of_watchdogReload {u : State} {l : LogSt} {cause : Nat} (hring : l.ring = s.log.ring) (hcount : l.count = s.log.count)
    (h : WarmedUp { watchdogReload s with log := l } u cause) : WarmedUp s u cause := by
  obtain ⟨h1, h2, h3, h4, h5, h6, h7, h8, h9, h10, h11, h12, h13, h14, h15, h16, h17, hrest⟩ := h
  have hfld : ∀ f ∈ [fPgFell, fCalDefaults, fCalSlot, fCalGen, fDramGib, fTrimDefaults],
      State.fld { watchdogReload s with log := l } f = s.fld f := fun f hf => by
    have : ∀ f ∈ [fPgFell, fCalDefaults, fCalSlot, fCalGen, fDramGib, fTrimDefaults], f.hi < 32 ∧ f.Apart fWdRemain := by unfold Fld.Apart; decide
    exact fld_watchdogReload (this f hf).1 (this f hf).2
  have hflag : ∀ f ∈ [fPgFell, fCalDefaults, fCalSlot, fCalGen, fDramGib, fTrimDefaults],
      State.flag { watchdogReload s with log := l } f = s.flag f := fun f hf => by rw [State.flag, State.flag, hfld f hf]
  refine ⟨h1, h2, h3, h4, h5.trans (hfld _ (by decide)), h6, h7, h8, h9.trans (hflag _ (by decide)), h10.trans (hfld _ (by decide)),
    h11.trans (hfld _ (by decide)), h12.trans (hfld _ (by decide)), h13.trans (hflag _ (by decide)), fun r hm => (h14 r hm).trans ?_, h15,
    h16.trans hring, h17.trans hcount, hrest⟩
  have : ∀ r ∈ [0x64, 0x68, 0x70, 0xAC, C 0xC0004, C 0xC0008, C 0xC000C, C 0xC0010, C 0xF0000, C 0xF0004], r ∉ [0xB0] := by decide
  exact reg_watchdogReload (this r hm)

theorem ends_watchdogExpiry_warm (ha : s.fld fWdAction = 2) (hl : s.host.logPage = none) : Ends .watchdogExpiry s fun u =>
    WarmedUp s u 4 ∧ u.reg 0xB0 = regReset 0xB0 ∧ u.mem.dram = s.mem.dram := by
  have hx := exec_watchdogExpiry hi hp
  rw [ha, if_neg (by decide), if_pos rfl, expired_eq hi hr] at hx
  obtain ⟨-, hporst, -, -, hcrit⟩ := (interior_iff s).mp hi
  obtain ⟨hw, hdram, -, -⟩ := warmReset_keeps_dram (s := { watchdogReload s with log := expiryLog s }) hporst hcrit hl (cause := 4) (by decide)
  have hws := warmedUp_of_watchdogReload (s := s) (l := expiryLog s) rfl rfl hw
  refine ends_of_done hx ⟨hws, ?_, hdram⟩
  obtain ⟨-, -, -, -, -, -, -, -, -, -, -, -, -, -, hreset, -⟩ := hws
  exact hreset 0xB0 (by decide) (.inl (by decide))

theorem ends_watchdogExpiry_powerCycle (ha : s.fld fWdAction = 3) (hw : s.core.railWait = false) : Ends .watchdogExpiry s fun u =>
    u.fld fWdRemain = s.fld fWdPeriod * 16 ∧ Logs s u 7 0x004 0 0 3 ∧ u.flag fPwrBusy = true
      ∧ u.core = { s.core with entryCode := some 2#2, entryQuiesce := false } ∧ RegsKept s u [0x74, 0xB0] := by
  have hx := exec_watchdogExpiry hi hp
  rw [ha, if_neg (by decide), if_neg (by decide), if_pos rfl, expired_eq hi hr] at hx
  obtain ⟨-, hporst, hfrozen, hlost, hcrit⟩ := (interior_iff s).mp hi
  have hf : State.flag { watchdogReload s with log := expiryLog s } fFrozen = false :=
    (State.flag_of_fld_eq ((State.fld_of_regs_eq rfl fFrozen).trans (fld_watchdogReload (by decide) (.inl (by decide))))).trans hfrozen
  have hcore : (watchdogReload s).core = s.core := rfl
  rw [powerCycle, if_neg (by simp [hcore, hporst, hlost, hcrit, hw]), hf, if_neg (by decide)] at hx
  refine ends_of_done hx ⟨?_, logs_expiry ha rfl, ?_, rfl, regsKept_refresh fun r hm => ?_⟩
  · rw [fld_refresh _ _ (by decide)]
    refine (State.fld_of_regs_eq (y := (watchdogReload s).setFld fPwrBusy 1) rfl fWdRemain).trans ?_
    rw [State.fld_setFld_of_apart (by decide) (.inl (by decide)), remain_watchdogReload]
  · rw [flag_refresh _ _ (by decide)]
    exact State.flag_setFld_one _ 0x74 31 (by decide)
  · simp only [List.mem_cons, List.not_mem_nil, or_false, not_or] at hm
    exact (State.reg_setFld_of_ne (f := fPwrBusy) (Ne.symm hm.1)).trans (reg_watchdogReload (by simp [hm.2]))

end

theorem idle_watchdog_off {s : State} (hp : s.fld fWdPeriod = 0) : Idle .watchdogHalf s ∧ Idle .watchdogExpiry s := by
  have hoff : (interior s && decide (s.fld fWdPeriod ≠ 0)) = false := by rw [hp]; exact Bool.and_false _
  constructor
  · refine idle_of_done ?_
    change execWatchdogHalf s = _
    rw [execWatchdogHalf, onlyIf, hoff, if_neg (by decide)]
  · refine idle_of_done ?_
    change execWatchdogExpiry s = _
    rw [execWatchdogExpiry, onlyIf, hoff, if_neg (by decide)]

/-- Settles O9: a kick is a reload, a configuration one of the fields it has set, and an expiry a reload and an event before its ACTION. -/
theorem theWatchdogCountsAndActs : Obligations.The_watchdog_counts_and_acts := fun _ hi =>
  ⟨ends_watchdogKick hi, ends_watchdogConfig hi, ends_watchdogConfig_locked hi, idle_watchdog_off, ends_watchdogHalf hi,
    fun hp hr => ⟨ends_watchdogExpiry_none hi hp hr, ends_watchdogExpiry_warn hi hp hr, ends_watchdogExpiry_warm hi hp hr,
      ends_watchdogExpiry_powerCycle hi hp hr⟩⟩

end Sys2Proof.Machine
end

section
/-! PROOFS. O12: the event log is read by the page (R62, R64, R82, Table 3-14). -/

namespace Sys2Proof.Machine

open Sys2Proof Sys2Proof.Safety Sys2Proof.Claims

variable {s t : State}

/-! ### Reads of LOG_DATA -/

/-- A read of LOG_DATA while the interior runs and nothing is posted. -/
theorem ends_logDataRead {d : LogDamage} {v : W32} {q : State → Prop} (hi : interior s = true) (hp : s.host.posted = []) (hf : logRead d s = (v, t))
    (hq : ∀ x, x.host = { t.host with hd := v } → { x with host := t.host } = t → q (refresh x)) : Ends (.logDataRead d) s q :=
  ends_hostRead (f := fun s => if inDoze s then (0#32, s) else logRead d s) rfl hi hp
    ((if_neg (by rw [inDoze_of_interior hi]; decide)).trans hf) hq

theorem logRead_held {p : LogPage} (h : s.host.logPage = some p) (d : LogDamage) : logRead d s = logPageWord s := by
  unfold logRead
  rw [h]
  rfl

theorem logRead_clean (hi : interior s = true) (h : s.host.logPage = none) : logRead .clean s = logPageWord (takeLogPage .clean s) := by
  obtain ⟨-, -, hf, -⟩ := (interior_iff s).mp hi
  unfold logRead
  rw [h, hf, if_neg (by decide), if_neg (by decide)]

/-! ### A held page -/

/-- A word of the held page that is not its last. -/
theorem logPageWord_next {p : LogPage} (h : s.host.logPage = some p) (hw : s.fld fWordIndex < 1023) :
    logPageWord s = ((p.words[s.fld fWordIndex]?).getD 0#32, s.setFld fWordIndex (s.fld fWordIndex + 1)) := by
  rw [logPageWord, h]
  exact if_pos hw

/-- The fields of a page that has ended. -/
def pageEndFlds : List (Fld × Nat) := [(fWordIndex, 0), (fPageCount, 0), (fPageHeld, 0)]

/-- The last word of the held page ends it. -/
theorem logPageWord_last {p : LogPage} (h : s.host.logPage = some p) (hw : s.fld fWordIndex = 1023) :
    logPageWord s = ((p.words[1023]?).getD 0#32, { s.setFlds pageEndFlds with host := { s.host with logPage := none } }) := by
  rw [logPageWord, h, hw]
  rfl

theorem pageEndFlds_pairwise : pageEndFlds.Pairwise fun a b => a.1.Apart b.1 := by
  unfold pageEndFlds Fld.Apart; decide

theorem reg_pageEndFlds {r : Nat} (h : r ∉ [0x64, 0x70]) (s : State) : (s.setFlds pageEndFlds).reg r = s.reg r := by
  have hr : ∀ e ∈ pageEndFlds, e.1.reg ∈ [0x64, 0x70] := by decide
  exact State.reg_setFlds_of_ne _ _ fun e he hne => h (hne ▸ hr e he)

theorem flds_pageEndFlds (s : State) : ∀ f ∈ [fWordIndex, fPageCount, fPageHeld], (s.setFlds pageEndFlds).fld f = 0 := by
  have hm : ∀ f ∈ [fWordIndex, fPageCount, fPageHeld], f.hi < 32 ∧ (f, 0) ∈ pageEndFlds := by decide
  intro f hf
  rw [State.fld_setFlds_mem _ _ (hm f hf).1 (hm f hf).2 pageEndFlds_pairwise, Nat.zero_mod]

theorem ends_logDataRead_next (hi : interior s = true) (hp : s.host.posted = []) {p : LogPage} (h : s.host.logPage = some p) (d : LogDamage)
    (hw : s.fld fWordIndex < 1023) : Ends (.logDataRead d) s fun u => u.host = { s.host with hd := (p.words[s.fld fWordIndex]?).getD 0#32 }
      ∧ u.fld fWordIndex = s.fld fWordIndex + 1 ∧ RegsKept s u [0x64] := by
  refine ends_logDataRead hi hp ((logRead_held h d).trans (logPageWord_next h hw)) fun x hh ho => ?_
  have hr := regs_of_offHost ho
  refine ⟨hh, ?_, regsKept_refresh fun r hm => ?_⟩
  · rw [fld_refresh _ _ (by decide), State.fld_of_regs_eq hr, State.fld_setFld _ _ _ (by decide)]
    exact Nat.mod_eq_of_lt (by change _ < 1024; omega)
  · rw [State.reg_of_regs_eq hr, State.reg_setFld_of_ne (fun e => hm (List.mem_singleton.mpr e.symm))]

theorem ends_logDataRead_last (hi : interior s = true) (hp : s.host.posted = []) {p : LogPage} (h : s.host.logPage = some p) (d : LogDamage)
    (hw : s.fld fWordIndex = 1023) : Ends (.logDataRead d) s fun u =>
      u.host = { s.host with hd := (p.words[1023]?).getD 0#32, logPage := none } ∧ u.fld fWordIndex = 0 ∧ u.fld fPageCount = 0
        ∧ u.flag fPageHeld = false ∧ RegsKept s u [0x64, 0x70] := by
  refine ends_logDataRead hi hp ((logRead_held h d).trans (logPageWord_last h hw)) fun x hh ho => ?_
  have hr : x.regs = (s.setFlds pageEndFlds).regs := (congrArg State.regs ho :)
  have hz : ∀ f ∈ [fWordIndex, fPageCount, fPageHeld], (refresh x).fld f = 0 := fun f hf => by
    have h18 : ∀ f ∈ [fWordIndex, fPageCount, fPageHeld], f.reg ≠ 0x18 := by decide
    rw [fld_refresh _ _ (h18 f hf), State.fld_of_regs_eq hr, flds_pageEndFlds s f hf]
  refine ⟨hh, hz _ (by decide), hz _ (by decide), ?_, regsKept_refresh fun r hm => ?_⟩
  · rw [State.flag, hz _ (by decide)]; rfl
  · rw [State.reg_of_regs_eq hr, reg_pageEndFlds hm]

/-! ### A page is taken -/

/-- The page that a read takes: min(A, 256) entries from READ_SEQ on. -/
def logPageOf (s : State) : LogPage where
  first := s.fld fReadSeq
  n := min (undelivered s) 256
  words := (numsFrom 0 (min (undelivered s) 256)).flatMap fun i => pageEntry s ((s.fld fReadSeq + i) % 65536) false

/-- The fields of a page just taken. -/
def pageFlds (s : State) : List (Fld × Nat) :=
  [(fReadSeq, (s.fld fReadSeq + min (undelivered s) 256) % 65536), (fPageCount, min (undelivered s) 256), (fPageHeld, 1), (fWordIndex, 0)]

/-- The state with its page taken. -/
def pageTaken (s : State) : State := { s.setFlds (pageFlds s) with host := { s.host with logPage := some (logPageOf s) } }

theorem takeLogPage_clean (h : undelivered s ≠ 0) : takeLogPage .clean s = pageTaken s := by
  have hn : satN 256 (undelivered s) = min (undelivered s) 256 := by rw [satN_eq_min, Nat.min_comm]
  unfold takeLogPage
  simp only [hn]
  rw [if_neg (by omega)]
  rfl

theorem takeLogPage_empty (h : undelivered s = 0) (d : LogDamage) : takeLogPage d s = s := by
  unfold takeLogPage
  rw [h]
  rfl

theorem pageFlds_pairwise (s : State) : (pageFlds s).Pairwise fun a b => a.1.Apart b.1 := by
  have h : ([fReadSeq, fPageCount, fPageHeld, fWordIndex] : List Fld).Pairwise Fld.Apart := by unfold Fld.Apart; decide
  exact List.pairwise_map.mp (h : ((pageFlds s).map Prod.fst).Pairwise Fld.Apart)

theorem pageTaken_regs (s : State) : (pageTaken s).regs = (s.setFlds (pageFlds s)).regs := State.regs_setHost _ _

theorem fld_pageTaken {f : Fld} {v : Nat} (hf : f.hi < 32) (hm : (f, v) ∈ pageFlds s) : (pageTaken s).fld f = v % 2 ^ (f.hi + 1 - f.lo) := by
  rw [State.fld_of_regs_eq (pageTaken_regs s), State.fld_setFlds_mem _ s hf hm (pageFlds_pairwise s)]

theorem reg_pageTaken {r : Nat} (h : r ∉ [0x64, 0x70]) : (pageTaken s).reg r = s.reg r := by
  have hr : ∀ e ∈ pageFlds s, e.1.reg ∈ [0x64, 0x70] := by
    have hr : ∀ f ∈ (pageFlds s).map Prod.fst, f.reg ∈ [0x64, 0x70] := by
      change ∀ f ∈ [fReadSeq, fPageCount, fPageHeld, fWordIndex], f.reg ∈ [0x64, 0x70]
      decide
    exact fun e he => hr e.1 (List.mem_map_of_mem he)
  rw [State.reg_of_regs_eq (pageTaken_regs s), State.reg_setFlds_of_ne _ s fun e he (hne : e.1.reg = r) => h (hne ▸ hr e he)]

theorem length_pageEntry (s : State) (q : Nat) : (pageEntry s q false).length = 4 := by
  rw [pageEntry, if_neg (by decide)]
  cases Sparse.find s.log.ring (q % 4096) with
  | none => rfl
  | some e => rfl

/-- A word of an entry as it is copied into a page. -/
theorem getElem?_pageEntry (s : State) (q : Nat) {i : Nat} (hi : i < 4) : (pageEntry s q false)[i]? = some (entryWord s q i) := by
  have hl := length_pageEntry s q
  have hw : entryWord s q i = ((pageEntry s q false)[i]?).getD 0#32 := rfl
  rw [hw, List.getElem?_eq_getElem (by omega)]
  rfl

theorem words_logPageOf {k i : Nat} (hk : k < min (undelivered s) 256) (hi : i < 4) :
    (logPageOf s).words[4 * k + i]? = some (entryWord s ((s.fld fReadSeq + k) % 65536) i) := by
  rw [logPageOf, getElem?_flatMap_of_length _ (fun x => length_pageEntry s _) _ k hi, getElem?_numsFrom, if_pos hk, Nat.zero_add]
  exact getElem?_pageEntry s _ hi

theorem readSeq_lt (s : State) : s.fld fReadSeq < 65536 := bitsOf_lt _ _ _

/-- The first word of a page just taken. -/
theorem logRead_taken (hi : interior s = true) (h : s.host.logPage = none) (hu : undelivered s ≠ 0) :
    logRead .clean s = (entryWord s (s.fld fReadSeq) 0, (pageTaken s).setFld fWordIndex 1) := by
  have hw : (pageTaken s).fld fWordIndex = 0 := fld_pageTaken (v := 0) (by decide) (by simp [pageFlds])
  have hfirst : (logPageOf s).words[0]? = some (entryWord s (s.fld fReadSeq) 0) := by
    have := words_logPageOf (s := s) (k := 0) (i := 0) (by omega) (by decide)
    rwa [Nat.add_zero (s.fld fReadSeq), Nat.mod_eq_of_lt (readSeq_lt s)] at this
  rw [logRead_clean hi h, takeLogPage_clean hu, logPageWord_next (p := logPageOf s) rfl (by rw [hw]; decide), hw, hfirst]
  rfl

theorem ends_logDataRead_taken (hi : interior s = true) (hp : s.host.posted = []) (h : s.host.logPage = none) (hu : undelivered s ≠ 0) :
    Ends (.logDataRead .clean) s fun u => u.host.hd = entryWord s (s.fld fReadSeq) 0
      ∧ u.fld fReadSeq = (s.fld fReadSeq + min (undelivered s) 256) % 65536 ∧ u.fld fPageCount = min (undelivered s) 256 ∧ u.flag fPageHeld = true
      ∧ u.fld fWordIndex = 1 ∧ RegsKept s u [0x64, 0x70] ∧ u.log = s.log
      ∧ ∃ p, u.host.logPage = some p ∧ p.first = s.fld fReadSeq ∧ p.n = min (undelivered s) 256
        ∧ ∀ k < min (undelivered s) 256, ∀ i < 4, p.words[4 * k + i]? = some (entryWord s ((s.fld fReadSeq + k) % 65536) i) := by
  refine ends_logDataRead hi hp (logRead_taken hi h hu) fun x hh ho => ?_
  have hr := regs_of_offHost ho
  have hfld : ∀ f ∈ [fReadSeq, fPageCount, fPageHeld], ∀ v, (f, v) ∈ pageFlds s → (refresh x).fld f = v % 2 ^ (f.hi + 1 - f.lo) := fun f hf v hv => by
    have hd : ∀ f ∈ [fReadSeq, fPageCount, fPageHeld], f.hi < 32 ∧ f.reg ≠ 0x18 ∧ f.Apart fWordIndex := by unfold Fld.Apart; decide
    obtain ⟨h32, h18, ha⟩ := hd f hf
    rw [fld_refresh _ _ h18, State.fld_of_regs_eq hr, State.fld_setFld_of_apart h32 ha, fld_pageTaken h32 hv]
  refine ⟨congrArg HostSt.hd hh, ?_, ?_, ?_, ?_, regsKept_refresh fun r hm => ?_, (congrArg State.log ho :), logPageOf s, congrArg HostSt.logPage hh, rfl, rfl,
    fun k hk i h4 => words_logPageOf hk h4⟩
  · rw [hfld fReadSeq (by decide) _ List.mem_cons_self]
    exact Nat.mod_mod _ _
  · rw [hfld fPageCount (by decide) (min (undelivered s) 256) (by simp [pageFlds])]
    exact Nat.mod_eq_of_lt (by change _ < 512; omega)
  · rw [State.flag, hfld fPageHeld (by decide) 1 (by simp [pageFlds])]
    rfl
  · rw [fld_refresh _ _ (by decide), State.fld_of_regs_eq hr, State.fld_setFld _ _ _ (by decide)]
    rfl
  · have h64 : fWordIndex.reg ≠ r := fun e => hm (e ▸ by decide)
    rw [State.reg_of_regs_eq hr, State.reg_setFld_of_ne h64, reg_pageTaken hm]

theorem ends_logDataRead_empty (hi : interior s = true) (hp : s.host.posted = []) (h : s.host.logPage = none) (hu : undelivered s = 0) :
    Ends (.logDataRead .clean) s fun u => u.host = { s.host with hd := 0#32 } ∧ RegsKept s u [] := by
  have hf : logRead .clean s = (0#32, s) := by
    rw [logRead_clean hi h, takeLogPage_empty hu, logPageWord, h]
  exact ends_logDataRead hi hp hf fun x hh ho => ⟨hh, regsKept_refresh fun r _ => State.reg_of_regs_eq (regs_of_offHost ho) r⟩

/-! ### REWIND and CLR_LOST -/

theorem exec_rewind (hi : interior s = true) : exec .rewind s = done (rewindLog s) := by
  change execRewind s = _
  rw [execRewind, onlyIf, if_pos (by rw [hostServed_of_interior hi, inDoze_of_interior hi]; rfl)]

/-- The fields of a page rewound to its first entry. -/
def rewindFlds (first : Nat) : List (Fld × Nat) := [(fReadSeq, first), (fWordIndex, 0), (fPageCount, 0), (fPageHeld, 0)]

theorem rewindFlds_pairwise (first : Nat) : (rewindFlds first).Pairwise fun a b => a.1.Apart b.1 := by
  have h : ([fReadSeq, fWordIndex, fPageCount, fPageHeld] : List Fld).Pairwise Fld.Apart := by unfold Fld.Apart; decide
  exact List.pairwise_map.mp (h : ((rewindFlds first).map Prod.fst).Pairwise Fld.Apart)

/-- A page of which the ring has lost nothing is delivered again from its first entry. -/
theorem rewindLog_kept {p : LogPage} (h : s.host.logPage = some p) (hp : p.first < 65536) (ha : (p.first + 65536 - oldestSeq s) % 65536 ≤ 4096) :
    rewindLog s = ({ s with host := { s.host with logPage := none } } : State).setFlds (rewindFlds p.first) := by
  have ho : oldestSeq s < 65536 := Nat.mod_lt _ (by decide)
  generalize hb : (oldestSeq s + 65536 - p.first) % 65536 = behind
  have hcase : behind = 0 ∧ oldestSeq s = p.first ∨ 61440 ≤ behind := by omega
  rw [rewindLog, h]
  simp only [hb]
  rcases hcase with ⟨rfl, he⟩ | hge
  · rw [he]
    rfl
  · have hd : decide (behind < 61440) = false := decide_eq_false (by omega)
    rw [hd]
    rfl

theorem ends_rewind (hi : interior s = true) {p : LogPage} (h : s.host.logPage = some p) (hp : p.first < 65536)
    (ha : (p.first + 65536 - oldestSeq s) % 65536 ≤ 4096) : Ends .rewind s fun u => u.host = { s.host with logPage := none }
      ∧ u.fld fReadSeq = p.first ∧ u.fld fWordIndex = 0 ∧ u.fld fPageCount = 0 ∧ u.flag fPageHeld = false ∧ RegsKept s u [0x64, 0x70] := by
  have hx := exec_rewind hi
  rw [rewindLog_kept h hp ha] at hx
  have hd : ∀ f ∈ [fReadSeq, fWordIndex, fPageCount, fPageHeld], f.hi < 32 ∧ f.reg ≠ 0x18 ∧ f.reg ∈ [0x64, 0x70] := by decide
  have hreg : ∀ e ∈ rewindFlds p.first, e.1.reg ∈ [0x64, 0x70] := fun e he =>
    (hd e.1 (List.mem_map_of_mem he : e.1 ∈ (rewindFlds p.first).map Prod.fst)).2.2
  have hfld : ∀ f ∈ [fReadSeq, fWordIndex, fPageCount, fPageHeld], ∀ v, (f, v) ∈ rewindFlds p.first → ∀ x : State,
      (refresh (x.setFlds (rewindFlds p.first))).fld f = v % 2 ^ (f.hi + 1 - f.lo) := fun f hf v hv x => by
    rw [fld_refresh _ _ (hd f hf).2.1, State.fld_setFlds_mem _ _ (hd f hf).1 hv (rewindFlds_pairwise _)]
  refine ends_of_done hx ⟨by rw [refresh_host, State.setFlds_host], ?_, hfld fWordIndex (by decide) 0 (by simp [rewindFlds]) _,
    hfld fPageCount (by decide) 0 (by simp [rewindFlds]) _, ?_, regsKept_refresh fun r hm => ?_⟩
  · rw [hfld fReadSeq (by decide) _ List.mem_cons_self]
    exact Nat.mod_eq_of_lt hp
  · rw [State.flag, hfld fPageHeld (by decide) 0 (by simp [rewindFlds])]
    rfl
  · rw [State.reg_setFlds_of_ne _ _ fun e he (hne : e.1.reg = r) => hm (hne ▸ hreg e he)]
    rfl

theorem idle_rewind (hi : interior s = true) (h : s.host.logPage = none) : Idle .rewind s :=
  idle_of_done (by rw [exec_rewind hi, rewindLog, h])

theorem ends_clrLost (hi : interior s = true) : Ends .clrLost s fun u =>
    u.fld fLost = 0 ∧ u.fld fWriteSeq = s.fld fWriteSeq ∧ OnlyRegs s u [0x68] := by
  have hx : exec .clrLost s = done (s.setFld fLost 0) := by
    change execClrLost s = _
    rw [execClrLost, onlyIf, if_pos (by rw [hostServed_of_interior hi, inDoze_of_interior hi]; rfl), clearLost]
  refine ends_of_done hx ⟨?_, ?_, onlyRegs_setFld (by decide)⟩
  · rw [fld_refresh_setFld _ _ (by decide) (by decide) (by decide)]
  · rw [fld_refresh _ _ (by decide), State.fld_setFld_of_apart (by decide) (.inr (.inl (by decide)))]

end Sys2Proof.Machine
end

section
/-! PROOFS. O12: the units' events enter the ring in turn (R64, R448, R449, Table 21-4), and the obligation. -/

namespace Sys2Proof.Machine

open Sys2Proof Sys2Proof.Safety Sys2Proof.Claims

variable {s : State}

/-! ### Whose turn it is -/

/-- Of the units with an event the next after the last one written has its turn (R448). -/
theorem nextUnit_eq {un : Nat} (hun : un < 16) (hm : ∃ q ∈ s.log.queued, q.1 = un)
    (hmin : ∀ q ∈ s.log.queued, (un + 15 - s.log.lastUnit % 16) % 16 ≤ (q.1 + 15 - s.log.lastUnit % 16) % 16) : nextUnit s = some un := by
  have hany : (s.log.queued.any fun q => q.1 = un) = true := by
    obtain ⟨q, hq, he⟩ := hm
    exact List.any_eq_true.mpr ⟨q, hq, decide_eq_true he⟩
  rw [nextUnit, numsFrom_eq_range', List.find?_eq_some_iff_getElem]
  refine ⟨hany, (un + 15 - s.log.lastUnit % 16) % 16, by rw [List.length_map, List.length_range']; exact Nat.mod_lt _ (by decide), ?_, fun j hj => ?_⟩
  · rw [List.getElem_map, List.getElem_range']
    omega
  · rw [List.getElem_map, List.getElem_range', Bool.not_eq_true', List.any_eq_false]
    intro q hq he
    have he := of_decide_eq_true he
    have := hmin q hq
    omega

/-- The oldest event of the unit whose turn it is enters the ring and leaves the queue. -/
theorem logWriteNext_eq {un : Nat} {e : LogEntry} {pre post : List (Nat × LogEntry)} (hq : s.log.queued = pre ++ (un, e) :: post)
    (hpre : ∀ q ∈ pre, q.1 ≠ un) (hn : nextUnit s = some un) :
    logWriteNext s = ringWrite e { s with log := { s.log with queued := pre ++ post, lastUnit := un } } := by
  have hfind : s.log.queued.find? (fun q => q.1 = un) = some (un, e) := by
    have hnone : pre.find? (fun q => q.1 = un) = none := List.find?_eq_none.mpr fun q h he => hpre q h (of_decide_eq_true he)
    rw [hq, List.find?_append, hnone, List.find?_cons_of_pos (by simp)]
    rfl
  have herase : s.log.queued.erase (un, e) = pre ++ post := by
    rw [hq, List.erase_append_right _ fun h => hpre _ h rfl, List.erase_cons_head]
  unfold logWriteNext
  rw [hn]
  dsimp only
  rw [hfind]
  dsimp only
  rw [herase]

theorem exec_logEntryWrite (hi : interior s = true) (hp : 2 ≤ s.fld fPhase) : exec .logEntryWrite s = done (logWriteNext s) := by
  change execLogEntryWrite s = _
  rw [execLogEntryWrite, onlyIf, logRuns, hi, decide_eq_true hp, if_pos (by decide)]

theorem idle_logEntryWrite (hi : interior s = true) (hp : 2 ≤ s.fld fPhase) (hq : s.log.queued = []) : Idle .logEntryWrite s := by
  have hn : nextUnit s = none := by
    rw [nextUnit, hq, List.find?_eq_none]
    exact fun _ _ h => Bool.noConfusion h
  refine idle_of_done ((exec_logEntryWrite hi hp).trans ?_)
  unfold logWriteNext
  rw [hn]

/-! ### An entry enters the ring -/

/-- The log with an entry in the ring at a place. -/
def LogSt.enter (l : LogSt) (place : Nat) (e : LogEntry) : LogSt := { l with ring := Sparse.insert l.ring place e, count := min 4096 (l.count + 1) }

/-- The state with an entry in the ring and WRITE_SEQ moved on. -/
def ringEntered (e : LogEntry) (s : State) : State :=
  ({ s with log := s.log.enter (s.fld fWriteSeq % 4096) e } : State).setFld fWriteSeq ((s.fld fWriteSeq + 1) % 65536)

/-- ERR_UNCORR is raised by an entry of CLASS 2 or 3. -/
def raiseUncorr (e : LogEntry) (s : State) : State := if e.cls = 2 ∨ e.cls = 3 then raiseInt iErrUncorr s else s

/-- READ_SEQ passes the oldest entry, which is lost (R64). -/
def loseOldest (s : State) : State := raiseInt iLogLost ((s.setFld fReadSeq ((s.fld fReadSeq + 1) % 65536)).addSat fLost 1)

theorem ringWrite_eq (e : LogEntry) (s : State) : ringWrite e s = raiseUncorr e (if 4096 ≤ undelivered s then loseOldest (ringEntered e s) else ringEntered e s) := by
  unfold ringWrite raiseUncorr
  simp only [satN_eq_min, Bool.or_eq_true, decide_eq_true_eq]
  rfl

theorem reg_raiseUncorr (e : LogEntry) (s : State) {r : Nat} (h : r ≠ 0x18) : (raiseUncorr e s).reg r = s.reg r := by
  unfold raiseUncorr
  split
  · exact State.reg_setFld_of_ne (Ne.symm h)
  · rfl

theorem status_raiseUncorr (e : LogEntry) (s : State) : (raiseUncorr e s).reg 0x18
    = (if e.cls = 2 ∨ e.cls = 3 then [5] else []).foldl (fun w b => w ||| 1#32 <<< b) (s.reg 0x18) := by
  unfold raiseUncorr
  split
  · exact reg_raiseInt _ _ (by decide)
  · rfl

theorem log_raiseUncorr (e : LogEntry) (s : State) : (raiseUncorr e s).log = s.log := by
  unfold raiseUncorr
  split <;> rfl

theorem fld_refresh_raiseUncorr (e : LogEntry) (s : State) {f : Fld} (h : f.reg ≠ 0x18) : (refresh (raiseUncorr e s)).fld f = s.fld f := by
  rw [fld_refresh _ _ h, State.fld, reg_raiseUncorr e s h, State.fld]

theorem reg_ringEntered (e : LogEntry) (s : State) {r : Nat} (h : r ≠ 0x68) : (ringEntered e s).reg r = s.reg r :=
  State.reg_setFld_of_ne (f := fWriteSeq) (Ne.symm h)

theorem writeSeq_ringEntered (e : LogEntry) (s : State) : (ringEntered e s).fld fWriteSeq = (s.fld fWriteSeq + 1) % 65536 := by
  rw [ringEntered, State.fld_setFld _ _ _ (by decide)]
  exact Nat.mod_mod _ _

theorem ends_logEntryWrite_room (hi : interior s = true) (hp : 2 ≤ s.fld fPhase) {un : Nat} {e : LogEntry} {pre post : List (Nat × LogEntry)}
    (hq : s.log.queued = pre ++ (un, e) :: post) (hun : un < 16) (hpre : ∀ q ∈ pre, q.1 ≠ un)
    (hmin : ∀ q ∈ s.log.queued, (un + 15 - s.log.lastUnit % 16) % 16 ≤ (q.1 + 15 - s.log.lastUnit % 16) % 16) (hu : undelivered s < 4096) :
    Ends .logEntryWrite s fun u => u.fld fWriteSeq = (s.fld fWriteSeq + 1) % 65536
      ∧ u.log = { s.log with
          queued := pre ++ post, lastUnit := un, count := min 4096 (s.log.count + 1)
          ring := Sparse.insert s.log.ring (s.fld fWriteSeq % 4096) e }
      ∧ Rings s u (if e.cls = 2 ∨ e.cls = 3 then [5] else []) ∧ RegsKept s u [0x18, 0x68] := by
  have hn : nextUnit s = some un := nextUnit_eq hun ⟨(un, e), by rw [hq]; simp, rfl⟩ hmin
  obtain ⟨x, hx, hlog, hreg⟩ : ∃ x : State, x = { s with log := { s.log with queued := pre ++ post, lastUnit := un } }
      ∧ x.log = { s.log with queued := pre ++ post, lastUnit := un } ∧ x.regs = s.regs := ⟨_, rfl, rfl, rfl⟩
  have hex := exec_logEntryWrite hi hp
  rw [logWriteNext_eq hq hpre hn, ← hx, ringWrite_eq, if_neg (by rw [hx]; exact Nat.not_le.mpr hu)] at hex
  have hseq : x.fld fWriteSeq = s.fld fWriteSeq := State.fld_of_regs_eq hreg _
  refine ends_of_done hex ⟨?_, ?_, rings_refresh ?_, regsKept_refresh fun r hm => ?_⟩
  · rw [fld_refresh_raiseUncorr e _ (by decide), writeSeq_ringEntered, hseq]
  · rw [refresh_log, log_raiseUncorr, ringEntered, State.setFld_log, hlog, hseq]
    rfl
  · rw [status_raiseUncorr, reg_ringEntered e x (by decide), State.reg_of_regs_eq hreg]
  · simp only [List.mem_cons, List.not_mem_nil, or_false, not_or] at hm
    rw [reg_raiseUncorr e _ hm.1, reg_ringEntered e x hm.2, State.reg_of_regs_eq hreg]

theorem fld_loseOldest_writeSeq (s : State) : (loseOldest s).fld fWriteSeq = s.fld fWriteSeq := by
  rw [loseOldest, raiseInt, State.fld_setFld_of_apart (by decide) (.inl (by decide)), State.addSat, State.fld_setFld_of_apart (by decide) (.inr (.inl (by decide))),
    State.fld_setFld_of_apart (by decide) (.inl (by decide))]

theorem fld_loseOldest_readSeq (s : State) : (loseOldest s).fld fReadSeq = (s.fld fReadSeq + 1) % 65536 := by
  rw [loseOldest, raiseInt, State.fld_setFld_of_apart (by decide) (.inl (by decide)), State.addSat, State.fld_setFld_of_apart (by decide) (.inl (by decide)),
    State.fld_setFld _ _ _ (by decide)]
  exact Nat.mod_mod _ _

theorem fld_loseOldest_lost (s : State) : (loseOldest s).fld fLost = min 65535 (s.fld fLost + 1) := by
  rw [loseOldest, raiseInt, State.fld_setFld_of_apart (by decide) (.inl (by decide)), State.addSat, State.fld_setFld _ _ _ (by decide),
    State.fld_setFld_of_apart (by decide) (.inl (by decide)), satN_eq_min]
  exact Nat.mod_eq_of_lt (by change min 65535 _ < 65536; omega)

theorem flag_loseOldest_logLost (s : State) : (loseOldest s).flag ⟨0x18, 3, 3⟩ = true := State.flag_setFld_one _ 0x18 3 (by decide)

theorem ends_logEntryWrite_full (hi : interior s = true) (hp : 2 ≤ s.fld fPhase) {un : Nat} {e : LogEntry} (hq : s.log.queued = [(un, e)])
    (hun : un < 16) (hu : undelivered s = 4096) :
    Ends .logEntryWrite s fun u => u.fld fWriteSeq = (s.fld fWriteSeq + 1) % 65536 ∧ u.fld fReadSeq = (s.fld fReadSeq + 1) % 65536
      ∧ u.fld fLost = min 65535 (s.fld fLost + 1) ∧ IntSet u 3 ∧ Sparse.find u.log.ring (s.fld fWriteSeq % 4096) = some e := by
  have hn : nextUnit s = some un := nextUnit_eq hun ⟨(un, e), by rw [hq]; simp, rfl⟩ (by rw [hq]; simp)
  obtain ⟨x, hx, hring, hreg⟩ : ∃ x : State, x = { s with log := { s.log with queued := [] ++ [], lastUnit := un } }
      ∧ x.log.ring = s.log.ring ∧ x.regs = s.regs := ⟨_, rfl, rfl, rfl⟩
  have hex := exec_logEntryWrite hi hp
  rw [logWriteNext_eq (pre := []) (post := []) hq (by simp) hn, ← hx, ringWrite_eq, if_pos (by rw [hx]; exact Nat.le_of_eq hu.symm)] at hex
  have hseq : x.fld fWriteSeq = s.fld fWriteSeq := State.fld_of_regs_eq hreg _
  have hread : (ringEntered e x).fld fReadSeq = s.fld fReadSeq := by
    rw [ringEntered, State.fld_setFld_of_apart (by decide) (.inl (by decide))]
    exact State.fld_of_regs_eq hreg _
  have hlost : (ringEntered e x).fld fLost = s.fld fLost := by
    rw [ringEntered, State.fld_setFld_of_apart (by decide) (.inr (.inr (by decide)))]
    exact State.fld_of_regs_eq hreg _
  have hstatus : ∀ y : State, y.flag ⟨0x18, 3, 3⟩ = true → IntSet (refresh (raiseUncorr e y)) 3 := fun y hy => by
    refine intSet_refresh ?_
    unfold raiseUncorr
    split
    · rw [raiseInt, State.flag_setFld_of_apart (by decide) (.inr (.inl (by decide))), hy]
    · exact hy
  refine ends_of_done hex ⟨?_, ?_, ?_, hstatus _ (flag_loseOldest_logLost _), ?_⟩
  · rw [fld_refresh_raiseUncorr e _ (by decide), fld_loseOldest_writeSeq, writeSeq_ringEntered, hseq]
  · rw [fld_refresh_raiseUncorr e _ (by decide), fld_loseOldest_readSeq, hread]
  · rw [fld_refresh_raiseUncorr e _ (by decide), fld_loseOldest_lost, hlost]
  · have hl : (loseOldest (ringEntered e x)).log = x.log.enter (x.fld fWriteSeq % 4096) e := rfl
    rw [refresh_log, log_raiseUncorr, hl, LogSt.enter, Sparse.find_insert, hseq, if_pos rfl]

/-! ### CE_WINDOW and ERR_CLR -/

theorem ends_ceWindow (hi : interior s = true) (hp : 2 ≤ s.fld fPhase) : Ends .ceWindow s fun u => u.log = { s.log with ceSpent := [] } ∧ RegsKept s u [] := by
  have hx : exec .ceWindow s = done { s with log := { s.log with ceSpent := [] } } := by
    change execCeWindow s = _
    rw [execCeWindow, onlyIf, logRuns, hi, decide_eq_true hp, if_pos (by decide)]
  exact ends_of_done hx ⟨rfl, regsKept_refresh fun _ _ => rfl⟩

theorem ends_errClr (hr : running s = true) : Ends .errClr s fun u => (∀ i < 4, u.reg (C (0xC0004 + 4 * i)) = 0#32)
    ∧ OnlyRegs s u ((List.range 16).map fun k => C (0xC0004 + k)) := by
  have hx : exec .errClr s = done (resetRange (C 0xC0004) 16 s) := by
    change execErrClr s = _
    rw [execErrClr, onlyIf, if_pos hr, errClear]
  have hzero : ∀ i < 4, regReset (C (0xC0004 + 4 * i)) = 0#32 := by decide
  refine ends_of_done hx ⟨fun i hi => ?_, onlyRegs_refresh (fun r hm => ?_) rfl⟩
  · have hin : C 0xC0004 ≤ C (0xC0004 + 4 * i) ∧ C (0xC0004 + 4 * i) < C 0xC0004 + 16 := by simp only [C_eq]; omega
    rw [reg_refresh_of_ne _ (by simp only [C_eq]; omega), reg_resetRange, if_pos hin, hzero i hi]
  · rw [reg_resetRange, if_neg]
    rintro ⟨h1, h2⟩
    simp only [C_eq] at h1 h2
    exact hm (List.mem_map.mpr ⟨r - C 0xC0004, by rw [List.mem_range, C_eq]; omega, by simp only [C_eq]; omega⟩)

/-- Settles O12: a page is taken and its words delivered, a rewind goes back to its first entry, and an entry enters the ring from the
queue of the unit whose turn it is. -/
theorem theEventLogIsWrittenAndDrained : Obligations.The_event_log_is_written_and_drained := fun _ hi =>
  ⟨fun hp h hu => ends_logDataRead_taken hi hp h hu, fun hp h hu => ends_logDataRead_empty hi hp h hu,
    fun hp _ d h => ⟨ends_logDataRead_next hi hp h d, ends_logDataRead_last hi hp h d⟩, fun _ h hf ha => ends_rewind hi h hf ha, idle_rewind hi, ends_clrLost hi,
    fun hp => ⟨idle_logEntryWrite hi hp, fun _ _ _ _ hq hun hpre hmin hu => ends_logEntryWrite_room hi hp hq hun hpre hmin hu,
      fun _ _ hq hun hu => ends_logEntryWrite_full hi hp hq hun hu, ends_ceWindow hi hp⟩, ends_errClr⟩

end Sys2Proof.Machine
end

section
/-! PROOFS. O18: fault records and invalidations (R81, R128-R130, Tables 6-7 and 6-8). -/

namespace Sys2Proof.Machine

open Sys2Proof Sys2Proof.Safety Sys2Proof.Claims

variable {s : State}

/-! ### Slots of the fault queue -/

/-- With no record there is no mark to settle. -/
theorem settleSlots_of_nil (h : s.mmu.recs = []) : settleSlots s = s := by
  rw [settleSlots, h, List.map_nil, ← h]

theorem regs_settleSlots (s : State) : (settleSlots s).regs = s.regs := rfl

/-- A record with its in-use mark settled (R129). -/
def settledRec (s : State) (r : FaultRec) : FaultRec := { r with inUse := r.inUse && !(passed s r.seq && (r.answered || !r.needAnswer)) }

theorem recs_settleSlots (s : State) : (settleSlots s).mmu.recs = s.mmu.recs.map fun e => (e.1, settledRec s e.2) := rfl

theorem find_map_values {α β : Type} (f : α → β) (m : Sparse α) (k : Nat) : Sparse.find (m.map fun e => (e.1, f e.2)) k = (Sparse.find m k).map f := by
  induction m with
  | nil => rfl
  | cons e m ih =>
    simp only [List.map_cons, Sparse.find, ih]
    split <;> rfl

/-- With no record and none undelivered the next record takes the slot of FAULT_TAIL. -/
theorem mayRecord_of_nil (h : s.mmu.recs = []) (ht : s.fld fHead = s.fld fTail) (c : Nat) : mayRecord s c = some (s.fld fTail) := by
  have huse : slotsInUse s = 0 := by rw [slotsInUse, h]; rfl
  have hbusy : slotBusy s (s.fld fTail % 256) = false := by rw [slotBusy, h]; rfl
  rw [mayRecord, huse, if_neg (by simp)]
  change nextIndex s (255 + 1) _ = _
  rw [nextIndex, ht, if_neg (by omega), hbusy]
  rfl

/-! ### A held record is written -/

theorem exec_faultRecordWrite (hr : running s = true) (h : s.mmu.recs = []) : exec .faultRecordWrite s = done (
    match s.mmu.held.find? (fun r => (mayRecord s r.ctx).isSome) with
    | none => s
    | some r =>
      match mayRecord s r.ctx with
      | none => s
      | some i => writeRecord i r { s with mmu := { s.mmu with held := s.mmu.held.erase r } }) := by
  change execFaultRecordWrite s = _
  rw [execFaultRecordWrite, onlyIf, if_pos hr, settleSlots_of_nil h] <;> rfl

theorem idle_faultRecordWrite (hr : running s = true) (h : s.mmu.recs = []) (hh : s.mmu.held = []) : Idle .faultRecordWrite s :=
  idle_of_done (by rw [exec_faultRecordWrite hr h, hh]; rfl)

theorem fTail_lt (s : State) : s.fld fTail < 512 := bitsOf_lt _ _ _

theorem fRaised_ne {c r : Nat} (h : r < C 0) : (fRaised c).reg ≠ r := by
  simp only [fRaised, C_eq] at h ⊢
  omega

/-- The registers after a record is written at an index: FAULT_TAIL past it, and RAISED of its context. -/
theorem regs_writeRecord (i : Nat) (r : FaultRec) (s : State) : (writeRecord i r s).regs = ((s.setFld fTail ((i + 1) % 512)).addSat (fRaised r.ctx) 1).regs := rfl

theorem ends_faultRecordWrite (hr : running s = true) {r : FaultRec} (h : s.mmu.recs = []) (hh : s.mmu.held = [r]) (ht : s.fld fHead = s.fld fTail) :
    Ends .faultRecordWrite s fun u => u.fld fTail = (s.fld fTail + 1) % 512 ∧ u.mmu = { s.mmu with
          held := [], recs := [(s.fld fTail % 256, { r with seq := s.fld fTail, time := s.core.timebase.toNat, inUse := true })] }
        ∧ u.fld (fRaised r.ctx) = min 65535 (s.fld (fRaised r.ctx) + 1) ∧ IntSet u 1
        ∧ RegsKept s u [0x18, 0x5C, C (0x1000C + 0x40 * r.ctx)] := by
  have hfree := mayRecord_of_nil h ht r.ctx
  obtain ⟨x, hx, hmmu, hreg⟩ : ∃ x : State, exec .faultRecordWrite s = done x ∧ x.mmu = { s.mmu with
      held := [], recs := [(s.fld fTail % 256, { r with seq := s.fld fTail, time := s.core.timebase.toNat, inUse := true })] }
      ∧ x.regs = ((s.setFld fTail ((s.fld fTail + 1) % 512)).addSat (fRaised r.ctx) 1).regs := by
    refine ⟨writeRecord (s.fld fTail) r { s with mmu := { s.mmu with held := [] } }, ?_, ?_, regs_writeRecord _ _ _⟩
    · rw [exec_faultRecordWrite hr h, hh, List.find?_cons_of_pos (by rw [hfree]; rfl)]
      simp only [hfree, List.erase_cons_head]
    · rw [writeRecord, State.addSat_mmu, State.setFld_mmu, h]
      rfl
  have hlow : ∀ q < C 0, x.reg q = (s.setFld fTail ((s.fld fTail + 1) % 512)).reg q := fun q hq => by
    rw [State.reg_of_regs_eq hreg, State.addSat, State.reg_setFld_of_ne (fRaised_ne hq)]
  have htail : x.fld fTail = (s.fld fTail + 1) % 512 := by
    rw [State.fld, hlow _ (by decide), ← State.fld, State.fld_setFld _ _ _ (by decide)]
    exact Nat.mod_mod _ _
  have hhead : x.fld fHead = s.fld fTail := by
    rw [State.fld, hlow _ (by decide), ← State.fld, State.fld_setFld_of_apart (by decide) (.inl (by decide)), ht]
  refine ends_of_done hx ⟨?_, hmmu, ?_, ?_, regsKept_refresh fun q hq => ?_⟩
  · rw [fld_refresh _ _ (by decide), htail]
  · rw [fld_refresh _ _ (fRaised_ne (by decide)), State.fld_of_regs_eq hreg, State.addSat, State.fld_setFld _ _ _ (by change 15 < 32; decide),
      State.fld_setFld_of_apart (by change 15 < 32; decide) (.inl (fRaised_ne (by decide))), satN_eq_min]
    exact Nat.mod_eq_of_lt (by change min 65535 _ < 65536; omega)
  · refine (conditionsShown_refresh x).1 ?_
    have := fTail_lt s
    rw [fld_refresh _ _ (by decide), fld_refresh _ _ (by decide), htail, hhead]
    omega
  · simp only [List.mem_cons, List.not_mem_nil, or_false, not_or] at hq
    obtain ⟨-, h5c, hraised⟩ := hq
    have hne : (fRaised r.ctx).reg ≠ q := fun e => hraised (by rw [← e, Nat.mul_comm]; rfl)
    rw [State.reg_of_regs_eq hreg, State.addSat, State.reg_setFld_of_ne hne, State.reg_setFld_of_ne (Ne.symm h5c)]

/-! ### FAULT_HEAD -/

theorem exec_faultHeadWrite (hi : interior s = true) (h : BitVec 9) : exec (.faultHeadWrite h) s = done (
    if 256 < (s.fld fTail + 512 - h.toNat) % 512 then s else settleSlots (s.setFld fHead h.toNat)) := by
  change execFaultHeadWrite h s = _
  rw [execFaultHeadWrite, onlyIf, if_pos hi, faultHeadWrite, Nat.mod_eq_of_lt (h.isLt : h.toNat < 512)]

theorem ends_faultHeadWrite (hi : interior s = true) (h : BitVec 9) (hle : (s.fld fTail + 512 - h.toNat) % 512 ≤ 256) :
    Ends (.faultHeadWrite h) s fun u => u.fld fHead = h.toNat ∧ RegsKept s u [0x58] ∧ u.mem = s.mem
      ∧ ∀ k, Sparse.find u.mmu.recs k = (Sparse.find s.mmu.recs k).map (fun r => { r with
          inUse := r.inUse && !(decide ((s.fld fTail + 512 - h.toNat) % 512 ≤ (r.seq + 512 - h.toNat) % 512) && (r.answered || !r.needAnswer)) }) := by
  have hx := exec_faultHeadWrite hi h
  rw [if_neg (Nat.not_lt.mpr hle)] at hx
  have hhead : (s.setFld fHead h.toNat).fld fHead = h.toNat := by
    rw [State.fld_setFld _ _ _ (by decide)]
    exact Nat.mod_eq_of_lt h.isLt
  have htail : (s.setFld fHead h.toNat).fld fTail = s.fld fTail := State.fld_setFld_of_apart (by decide) (.inl (by decide))
  refine ends_of_done hx ⟨?_, regsKept_refresh fun r hr => ?_, rfl, fun k => ?_⟩
  · rw [fld_refresh _ _ (by decide), State.fld_of_regs_eq (regs_settleSlots _), hhead]
  · rw [State.reg_of_regs_eq (regs_settleSlots _), State.reg_setFld_of_ne fun e => hr (List.mem_singleton.mpr e.symm)]
  · have hpassed : ∀ q, passed (s.setFld fHead h.toNat) q = decide ((s.fld fTail + 512 - h.toNat) % 512 ≤ (q + 512 - h.toNat) % 512) := fun q => by
      rw [passed, hhead, htail]
    rw [refresh_mmu, recs_settleSlots, find_map_values]
    refine congrArg (Option.map · (Sparse.find s.mmu.recs k)) (funext fun r => ?_)
    rw [settledRec, hpassed]

theorem idle_faultHeadWrite (hi : interior s = true) (h : BitVec 9) (hlt : 256 < (s.fld fTail + 512 - h.toNat) % 512) : Idle (.faultHeadWrite h) s :=
  idle_of_done ((exec_faultHeadWrite hi h).trans (by rw [if_pos hlt]))

/-! ### Invalidations begin -/

def fInvalBusy : Fld := ⟨C 0x10808, 31, 31⟩
def fInvalCtx : Fld := ⟨C 0x10808, 27, 24⟩
def fInvalScope : Fld := ⟨C 0x10808, 23, 22⟩
def fInvalCount : Fld := ⟨C 0x10808, 20, 1⟩

/-- The fields of INVAL_CTRL once an invalidation has started. -/
def invalFlds (scope c count : Nat) : List (Fld × Nat) := [(fInvalCtx, c), (fInvalScope, scope), (fInvalCount, count), (fInvalBusy, 1)]

theorem invalWrite_eq (h : s.mmu.inval = none) (scope c va count : Nat) :
    invalWrite scope c va count s = { s.setFlds (invalFlds scope c count) with mmu := { s.mmu with inval := some (scope, c, va, count) } } := by
  rw [invalWrite, invalStart, State.setFlds_mmu, h]
  rfl

theorem invalFlds_pairwise (scope c count : Nat) : (invalFlds scope c count).Pairwise fun a b => a.1.Apart b.1 := by
  have h : ([fInvalCtx, fInvalScope, fInvalCount, fInvalBusy] : List Fld).Pairwise Fld.Apart := by unfold Fld.Apart; decide
  exact List.pairwise_map.mp (h : ((invalFlds scope c count).map Prod.fst).Pairwise Fld.Apart)

theorem invalFlds_reg (scope c count : Nat) : ∀ e ∈ invalFlds scope c count, e.1.reg = C 0x10808 := by
  have h : ∀ f ∈ (invalFlds scope c count).map Prod.fst, f.reg = C 0x10808 := by
    change ∀ f ∈ [fInvalCtx, fInvalScope, fInvalCount, fInvalBusy], f.reg = C 0x10808
    decide
  exact fun e he => h e.1 (List.mem_map_of_mem he)

theorem reg_invalFlds {scope c count r : Nat} (h : r ≠ C 0x10808) (s : State) : (s.setFlds (invalFlds scope c count)).reg r = s.reg r :=
  State.reg_setFlds_of_ne _ s fun e he => by rw [invalFlds_reg scope c count e he]; exact h.symm

/-- What INVAL_CTRL shows of an invalidation that has started. -/
theorem shown_invalFlds {scope c count : Nat} (hs : scope < 4) (hc : c < 16) (hn : count < 2 ^ 20) {x : State}
    (hx : x.regs = (s.setFlds (invalFlds scope c count)).regs) :
    (refresh x).flag fInvalBusy = true ∧ (refresh x).fld fInvalScope = scope ∧ (refresh x).fld fInvalCtx = c ∧ (refresh x).fld fInvalCount = count := by
  have hfld : ∀ f ∈ [fInvalCtx, fInvalScope, fInvalCount, fInvalBusy], ∀ v, (f, v) ∈ invalFlds scope c count →
      (refresh x).fld f = v % 2 ^ (f.hi + 1 - f.lo) := fun f hf v hv => by
    have hd : ∀ f ∈ [fInvalCtx, fInvalScope, fInvalCount, fInvalBusy], f.hi < 32 ∧ f.reg ≠ 0x18 := by decide
    rw [fld_refresh _ _ (hd f hf).2, State.fld_of_regs_eq hx, State.fld_setFlds_mem _ s (hd f hf).1 hv (invalFlds_pairwise _ _ _)]
  refine ⟨?_, ?_, ?_, ?_⟩
  · rw [State.flag, hfld fInvalBusy (by decide) 1 (by simp [invalFlds])]
    rfl
  · rw [hfld fInvalScope (by decide) scope (by simp [invalFlds])]
    exact Nat.mod_eq_of_lt hs
  · rw [hfld fInvalCtx (by decide) c (by simp [invalFlds])]
    exact Nat.mod_eq_of_lt hc
  · rw [hfld fInvalCount (by decide) count (by simp [invalFlds])]
    exact Nat.mod_eq_of_lt hn

/-- An invalidation has started: BUSY, its scope, and what it covers. -/
def InvalStarted (s u : State) (scope c va count : Nat) : Prop :=
  u.flag ⟨C 0x10808, 31, 31⟩ = true ∧ u.fld ⟨C 0x10808, 23, 22⟩ = scope ∧ u.mmu = { s.mmu with inval := some (scope, c, va, count) }

theorem invalCtx_lt (s : State) : s.fld fInvalCtx < 16 := bitsOf_lt _ _ _

theorem invalCount_lt (s : State) : s.fld fInvalCount < 2 ^ 20 := bitsOf_lt _ _ _

/-- A command that starts an invalidation by its fields in INVAL_CTRL alone. -/
theorem ends_invalWrite {i : Instr} (h : s.mmu.inval = none) {scope c va count : Nat} (hs : scope < 4) (hc : c < 16) (hn : count < 2 ^ 20)
    (hx : exec i s = done (invalWrite scope c va count s)) :
    Ends i s fun u => InvalStarted s u scope c va count ∧ u.fld ⟨C 0x10808, 27, 24⟩ = c ∧ RegsKept s u [C 0x10808] := by
  rw [invalWrite_eq h] at hx
  obtain ⟨hbusy, hscope, hctx, -⟩ := shown_invalFlds hs hc hn
    (x := { s.setFlds (invalFlds scope c count) with mmu := { s.mmu with inval := some (scope, c, va, count) } }) (State.regs_setMmu _ _)
  refine ends_of_done hx ⟨⟨hbusy, hscope, rfl⟩, hctx, regsKept_refresh fun r hr => ?_⟩
  rw [State.reg_of_regs_eq (State.regs_setMmu _ _), reg_invalFlds fun e => hr (List.mem_singleton.mpr e)]

theorem ends_invalContext (hr : running s = true) (h : s.mmu.inval = none) (c : Fin 16) : Ends (.invalContext c) s fun u =>
    InvalStarted s u 1 c.val 0 (s.fld ⟨C 0x10808, 20, 1⟩) ∧ u.fld ⟨C 0x10808, 27, 24⟩ = c.val ∧ RegsKept s u [C 0x10808] := by
  refine ends_invalWrite h (by decide) c.isLt (invalCount_lt s) ?_
  change execInvalContext c s = _
  rw [execInvalContext, onlyIf, if_pos hr]

theorem ends_invalAll (hr : running s = true) (h : s.mmu.inval = none) : Ends .invalAll s fun u =>
    InvalStarted s u 2 (s.fld ⟨C 0x10808, 27, 24⟩) 0 (s.fld ⟨C 0x10808, 20, 1⟩) ∧ RegsKept s u [C 0x10808] := by
  have hx : exec .invalAll s = done (invalWrite 2 (s.fld fInvalCtx) 0 (s.fld fInvalCount) s) := by
    change execInvalAll s = _
    rw [execInvalAll, onlyIf, if_pos hr]
    rfl
  exact ends_imp (ends_invalWrite h (by decide) (invalCtx_lt s) (invalCount_lt s) hx) fun u hu => ⟨hu.1, hu.2.2⟩

/-- The address of a range, as INVAL_RANGE sets it. -/
def invalAddrFlds (va : Nat) : List (Fld × Nat) := [(⟨C 0x10800, 31, 12⟩, va / 4096), (⟨C 0x10804, 15, 0⟩, va / 2 ^ 32)]

theorem exec_invalRange (hr : running s = true) (c : Fin 16) (va : BitVec 48) {n : BitVec 20} (hn : n ≠ 0#20) :
    exec (.invalRange c va n) s = done (invalWrite 0 c.val va.toNat n.toNat (s.setFlds (invalAddrFlds va.toNat))) := by
  change execInvalRange c va n s = _
  rw [execInvalRange, onlyIf, if_pos hr, if_neg hn]
  rfl

theorem ends_invalRange (hr : running s = true) (h : s.mmu.inval = none) (c : Fin 16) (va : BitVec 48) {n : BitVec 20} (hn : n ≠ 0#20) :
    Ends (.invalRange c va n) s fun u => InvalStarted s u 0 c.val va.toNat n.toNat ∧ u.fld ⟨C 0x10808, 27, 24⟩ = c.val
      ∧ u.fld ⟨C 0x10808, 20, 1⟩ = n.toNat ∧ u.fld ⟨C 0x10800, 31, 12⟩ = va.toNat / 4096 % 2 ^ 20 ∧ u.fld ⟨C 0x10804, 15, 0⟩ = va.toNat / 2 ^ 32
      ∧ RegsKept s u [C 0x10800, C 0x10804, C 0x10808] := by
  have hx := exec_invalRange hr c va hn
  obtain ⟨y, hy, hmmu, hreg, haddr, hhigh⟩ : ∃ y : State, y = s.setFlds (invalAddrFlds va.toNat) ∧ y.mmu = s.mmu
      ∧ (∀ r, r ≠ C 0x10800 → r ≠ C 0x10804 → y.reg r = s.reg r)
      ∧ y.fld ⟨C 0x10800, 31, 12⟩ = va.toNat / 4096 % 2 ^ 20 ∧ y.fld ⟨C 0x10804, 15, 0⟩ = va.toNat / 2 ^ 32 := by
    refine ⟨_, rfl, State.setFlds_mmu _ _, fun r h0 h4 => ?_, ?_, ?_⟩
    · exact State.reg_setFlds_of_ne _ s (List.forall_mem_cons.mpr ⟨Ne.symm h0, List.forall_mem_cons.mpr ⟨Ne.symm h4, fun _ h => absurd h List.not_mem_nil⟩⟩)
    · rw [invalAddrFlds, State.setFlds_cons, State.setFlds_cons, State.setFlds_nil,
        State.fld_setFld_of_apart (f := ⟨C 0x10800, 31, 12⟩) (by decide) (.inl (by decide)), State.fld_setFld _ _ _ (by decide)]
      rfl
    · rw [invalAddrFlds, State.setFlds_cons, State.setFlds_cons, State.setFlds_nil, State.fld_setFld _ _ _ (by decide)]
      have := va.isLt
      exact Nat.mod_eq_of_lt (by change _ < 65536; omega)
  rw [← hy, invalWrite_eq (hmmu ▸ h), hmmu] at hx
  obtain ⟨hbusy, hscope, hctx, hcount⟩ := shown_invalFlds (s := y) (scope := 0) (by decide) c.isLt n.isLt
    (x := { y.setFlds (invalFlds 0 c.val n.toNat) with mmu := { s.mmu with inval := some (0, c.val, va.toNat, n.toNat) } }) (State.regs_setMmu _ _)
  have hkept : ∀ r, r ≠ C 0x10808 → State.reg { y.setFlds (invalFlds 0 c.val n.toNat) with mmu := { s.mmu with inval := some (0, c.val, va.toNat, n.toNat) } } r
      = y.reg r := fun r hr => by
    rw [State.reg_of_regs_eq (State.regs_setMmu _ _), reg_invalFlds hr]
  refine ends_of_done hx ⟨⟨hbusy, hscope, rfl⟩, hctx, hcount, ?_, ?_, regsKept_refresh fun r hm => ?_⟩
  · rw [fld_refresh _ ⟨C 0x10800, 31, 12⟩ (by decide), State.fld, hkept _ (by decide)]
    exact haddr
  · rw [fld_refresh _ ⟨C 0x10804, 15, 0⟩ (by decide), State.fld, hkept _ (by decide)]
    exact hhigh
  · simp only [List.mem_cons, List.not_mem_nil, or_false, not_or] at hm
    rw [hkept r hm.2.2, hreg r hm.1 hm.2.1]

theorem ends_invalRange_zero (hr : running s = true) (hroom : Room s 0x041) (c : Fin 16) (va : BitVec 48) : Ends (.invalRange c va 0#20) s fun u =>
    Logs s u 4 0x041 0 0 0x110000010808 ∧ RegsKept s u [] ∧ u.mmu = s.mmu := by
  have hx : exec (.invalRange c va 0#20) s = done (logEvent 4 0x041 0 0 0x110000010808 s) := by
    change execInvalRange c va 0#20 s = _
    rw [execInvalRange, onlyIf, if_pos hr, if_pos rfl]
    rfl
  rw [logEvent_of_room (interior_of_running hr) (by decide) hroom] at hx
  exact ends_of_done hx ⟨fun _ => rfl, regsKept_refresh fun _ _ => rfl, rfl⟩

/-! ### An invalidation ends -/

theorem idle_invalidationDone (hr : running s = true) (h : s.mmu.inval = none) : Idle .invalidationDone s := by
  refine idle_of_done ?_
  change execInvalidationDone s = _
  rw [execInvalidationDone, onlyIf, if_pos hr, h]

/-- An entry of a translation cache that an invalidation covers. -/
theorem inScope_iff {scope c va n : Nat} (hs : scope ≤ 2) (e : TlbEnt) : inScope scope c va n e.ctx e.va (2 ^ e.size) = true ↔
    scope = 2 ∨ (scope = 1 ∧ e.ctx = c) ∨ (scope = 0 ∧ e.ctx = c ∧ e.va < va / 4096 * 4096 + n * 4096 ∧ va / 4096 * 4096 < e.va + 2 ^ e.size) := by
  have hcase : scope = 0 ∨ scope = 1 ∨ scope = 2 := by omega
  rcases hcase with rfl | rfl | rfl <;> simp [inScope, and_assoc]

theorem ends_invalidationDone (hr : running s = true) {scope c va n : Nat} (h : s.mmu.inval = some (scope, c, va, n)) (hs : scope ≤ 2) :
    let hit := fun (e : TlbEnt) => scope = 2 ∨ (scope = 1 ∧ e.ctx = c)
      ∨ (scope = 0 ∧ e.ctx = c ∧ e.va < va / 4096 * 4096 + n * 4096 ∧ va / 4096 * 4096 < e.va + 2 ^ e.size)
    Ends .invalidationDone s fun u => u.flag ⟨C 0x10808, 31, 31⟩ = false ∧ u.mmu.inval = none
      ∧ (∀ e, e ∈ u.mmu.tlb ↔ e ∈ s.mmu.tlb ∧ ¬ hit e) ∧ (∀ w, w ∈ u.mmu.walkCache ↔ w ∈ s.mmu.walkCache ∧ scope ≠ 2 ∧ w.ctx ≠ c)
      ∧ u.mmu.recs = s.mmu.recs ∧ OnlyRegs { s with mmu := u.mmu } u [C 0x10808] := by
  have hx : exec .invalidationDone s = done { (s.setFld fInvalBusy 0) with mmu := { s.mmu with
      tlb := s.mmu.tlb.filter (fun e => ! inScope scope c va n e.ctx e.va (2 ^ e.size))
      walkCache := s.mmu.walkCache.filter (fun e => ! (scope = 2 || e.ctx = c)), inval := none } } := by
    change execInvalidationDone s = _
    rw [execInvalidationDone, onlyIf, if_pos hr, h]
    rfl
  refine ends_of_done hx ⟨?_, rfl, fun e => ?_, fun w => ?_, rfl, onlyRegs_refresh (fun r hm => ?_) rfl⟩
  · rw [flag_refresh _ ⟨C 0x10808, 31, 31⟩ (by decide)]
    exact State.flag_setFlag s (C 0x10808) 31 false (by decide)
  · refine Iff.trans ?_ (and_congr_right fun _ => not_congr (inScope_iff hs e))
    rw [refresh_mmu, List.mem_filter, Bool.not_eq_true', Bool.not_eq_true]
  · rw [refresh_mmu, List.mem_filter]
    simp
  · exact State.reg_setFld_of_ne (f := fInvalBusy) fun e => hm (List.mem_singleton.mpr e.symm)

/-- Settles O18: a record takes the slot of FAULT_TAIL, FAULT_HEAD settles the slots it has passed, and an invalidation is the fields it
sets and the filters it ends with. -/
theorem faultQueueAndInvalidations : Obligations.Fault_queue_and_invalidations := fun _ hr =>
  have hi := interior_of_running hr
  ⟨fun _ h hh ht => ends_faultRecordWrite hr h hh ht, idle_faultRecordWrite hr, ends_faultHeadWrite hi, idle_faultHeadWrite hi,
    fun h => ⟨fun c va _ hn => ends_invalRange hr h c va hn, ends_invalContext hr h, ends_invalAll hr h, idle_invalidationDone hr h⟩,
    ends_invalRange_zero hr, fun _ _ _ _ h hs => ends_invalidationDone hr h hs⟩

end Sys2Proof.Machine
end

section
/-! PROOFS. The bytes of a flit (Table 18-1). -/

namespace Sys2Proof.Machine

open Sys2Proof Sys2Proof.Safety

/-! ### Fields of byte lists -/

theorem leNat_leBytes (n v : Nat) : leNat (leBytes n v) = v % 256 ^ n := by
  induction n generalizing v with
  | zero => rw [leBytes, leNat, Nat.pow_zero, Nat.mod_one]
  | succ n ih => rw [leBytes, leNat, ih, BitVec.toNat_ofNat, pow_succ' 256 n, Nat.mod_mul]

/-- A field that stands in a list is the number its bytes make. -/
theorem fieldAt_append (a b c : List Byte) : fieldAt (a ++ b ++ c) a.length b.length = leNat b := by
  rw [fieldAt, List.append_assoc, List.drop_left, List.take_left]

theorem fieldAt_leBytes {f a c : List Byte} {o n v : Nat} (hf : f = a ++ leBytes n v ++ c) (ha : a.length = o) (hv : v < 256 ^ n) :
    fieldAt f o n = v := by
  have h := fieldAt_append a (leBytes n v) c
  rw [length_leBytes, leNat_leBytes, Nat.mod_eq_of_lt hv, ha, ← hf] at h
  exact h

/-! ### The CRC -/

theorem crcByte_lt {crc : Nat} (h : crc < 2 ^ 32) (b : Byte) : crcByte crc b < 2 ^ 32 := by
  have hstep : ∀ c : Nat, c < 2 ^ 32 → (if c % 2 = 1 then (c / 2) ^^^ 0x82F63B78 else c / 2) < 2 ^ 32 := fun c hc => by
    have hhalf : c / 2 < 2 ^ 32 := by omega
    split
    · exact Nat.xor_lt_two_pow hhalf (by decide)
    · exact hhalf
  have hfold : ∀ (l : List Nat) (c : Nat), c < 2 ^ 32 → l.foldl (fun c _ => if c % 2 = 1 then (c / 2) ^^^ 0x82F63B78 else c / 2) c < 2 ^ 32 := fun l => by
    induction l with
    | nil => exact fun _ hc => hc
    | cons x l ih => exact fun c hc => ih _ (hstep c hc)
  exact hfold _ _ (Nat.xor_lt_two_pow h (lt_trans b.isLt (by decide)))

theorem crc32c_lt (bs : List Byte) : crc32c bs < 2 ^ 32 := by
  have hfold : ∀ (l : List Byte) (c : Nat), c < 2 ^ 32 → l.foldl crcByte c < 2 ^ 32 := fun l => by
    induction l with
    | nil => exact fun _ hc => hc
    | cons b l ih => exact fun c hc => ih _ (crcByte_lt hc b)
  exact Nat.xor_lt_two_pow (hfold _ _ (by decide)) (by decide)

/-! ### The flit -/

/-- The 224 slot bytes of a flit. -/
def flitSlots (slots : List Byte) : List Byte := slots.take 224 ++ leBytes (224 - slots.length) 0

/-- The 236 bytes that the CRC of a flit covers. -/
def flitCovered (slots : List Byte) (ftype seq ack : Nat) (cr : List Nat) : List Byte :=
  flitSlots slots ++ leBytes 1 ftype ++ leBytes 3 (seq % 4096 + ack % 4096 * 4096) ++ (numsFrom 0 4).flatMap (fun v => leBytes 2 (nth cr v))

theorem length_flitSlots (slots : List Byte) : (flitSlots slots).length = 224 := by
  rw [flitSlots, List.length_append, List.length_take, length_leBytes]
  omega

theorem length_flitCovered (slots : List Byte) (ftype seq ack : Nat) (cr : List Nat) : (flitCovered slots ftype seq ack cr).length = 236 := by
  simp only [flitCovered, List.length_append, length_flitSlots, length_leBytes, List.length_flatMap, List.map_const', List.sum_replicate]
  rfl

/-- A flit is the covered bytes, their CRC and sixteen bytes of parity. -/
theorem flitEncode_eq (slots : List Byte) (ftype seq ack : Nat) (cr : List Nat) : ∃ par : List Byte, par.length = 16 ∧
    flitEncode slots ftype seq ack cr = flitCovered slots ftype seq ack cr ++ leBytes 4 (crc32c (flitCovered slots ftype seq ack cr)) ++ par := by
  unfold flitEncode
  extract_lets body whole par
  refine ⟨_, ?_, rfl⟩
  simp only [List.length_flatMap, length_leBytes, List.map_const', List.sum_replicate]
  rfl

/-- What a receiver finds in a flit: its length, its CRC, its type, SEQ and ACK, and its slots (Table 18-1). -/
theorem flitEncode_fields (slots : List Byte) {ftype : Nat} (hf : ftype < 256) (seq ack : Nat) (cr : List Nat) :
    let f := flitEncode slots ftype seq ack cr
    f.length = 256 ∧ fieldAt f 236 4 = crc32c (f.take 236) ∧ fieldAt f 224 1 = ftype ∧ fieldAt f 225 3 / 4096 = ack % 4096
      ∧ fieldAt f 225 3 % 4096 = seq % 4096 ∧ f.take (min 224 slots.length) = slots.take 224 := by
  intro f
  obtain ⟨par, hpar, he⟩ := flitEncode_eq slots ftype seq ack cr
  have hcov := length_flitCovered slots ftype seq ack cr
  have hslots := length_flitSlots slots
  have hword : fieldAt f 225 3 = seq % 4096 + ack % 4096 * 4096 :=
    fieldAt_leBytes (a := flitSlots slots ++ leBytes 1 ftype)
      (he.trans (by simp only [flitCovered, List.append_assoc]; rfl)) (by rw [List.length_append, hslots, length_leBytes]) (by omega)
  refine ⟨?_, ?_, ?_, by rw [hword]; omega, by rw [hword]; omega, ?_⟩
  · rw [show f = _ from he, List.length_append, List.length_append, hcov, length_leBytes, hpar]
  · have htake : f.take 236 = flitCovered slots ftype seq ack cr := by rw [show f = _ from he, List.append_assoc, List.take_left' hcov]
    rw [htake]
    exact fieldAt_leBytes he hcov (crc32c_lt _)
  · exact fieldAt_leBytes (he.trans (by simp only [flitCovered, List.append_assoc]; rfl)) hslots (by omega)
  · have hmin : min 224 slots.length = (slots.take 224).length := by rw [List.length_take]
    rw [show f = _ from he, hmin]
    simp only [flitCovered, flitSlots, List.append_assoc, List.take_left]

end Sys2Proof.Machine
end

section
/-! PROOFS. O58: time passes while no command waits (R60, R78, R84, R393, R396). -/

namespace Sys2Proof.Machine

open Sys2Proof Sys2Proof.Safety Sys2Proof.Claims

/-! ### A step of time -/

theorem step_of_pending_nil {s : State} (h : s.pending = []) : step s = done (tick s) := by rw [step, h]

theorem drainPosted_of_posted_nil {s : State} (h : s.host.posted = []) : drainPosted s = s := by rw [drainPosted, h]

theorem tick_of_interior {s : State} (hi : interior s = true) (hd : interior (drainPosted s) = true) : tick s = mclkCycle (drainPosted s) := by
  rw [tick, onlyIf, if_pos (hostServed_of_interior hi), if_pos hd]

theorem tick_of_posted_nil {s : State} (hp : s.host.posted = []) (hi : interior s = true) : tick s = mclkCycle s := by
  have hd := drainPosted_of_posted_nil hp
  rw [tick_of_interior hi (by rw [hd]; exact hi), hd]

/-- Where neither MCLK nor the accumulator runs, time does nothing. -/
theorem tick_of_no_clock {s : State} (hp : s.host.posted = []) (hi : interior s = false) (hd : inDoze s = false) : tick s = s := by
  have : onlyIf (hostServed s) drainPosted s = s := by rw [onlyIf, drainPosted_of_posted_nil hp, ite_self]
  rw [tick, this, hi, hd]
  rfl

/-- A cycle of MCLK has counted. -/
def State.ticked (s : State) : State := { s with core := { s.core with timebase := s.core.timebase + 1#64 } }

theorem toNat_timebase_ticked (s : State) : s.ticked.core.timebase.toNat = (s.core.timebase.toNat + 1) % 2 ^ 64 := BitVec.toNat_add _ _

/-! ### Ports that send nothing -/

/-- No port sends a flit. -/
def NoneSends (s : State) : Prop := ∀ n < 4, receives s n = false

theorem transmit_of_not_receives {s : State} {n : Nat} (h : receives s n = false) : transmit n s = s := by
  rw [transmit, h]
  rfl

theorem foldl_transmit_of_not_receives {s : State} {l : List Nat} (h : ∀ n ∈ l, receives s n = false) :
    l.foldl (fun s n => transmit n s) s = s := by
  induction l with
  | nil => rfl
  | cons n l ih =>
    rw [List.foldl_cons, transmit_of_not_receives (h n (List.mem_cons_self ..))]
    exact ih fun m hm => h m (List.mem_cons_of_mem _ hm)

theorem transmitAll_of_noneSends {s : State} (h : NoneSends s) : transmitAll s = s :=
  foldl_transmit_of_not_receives fun n hn => h n (((mem_numsFrom _ _ _).mp hn).2.trans_eq (Nat.zero_add 4))

/-- A port whose link is neither up nor quiesced nor at Credit sends nothing. -/
theorem receives_of_quiet {s : State} {n : Nat} (h : lstate s n ≠ 2 ∧ lstate s n ≠ 3 ∧ (lstate s n = 1 → (peerAt s n).step ≠ 4)) :
    receives s n = false := by
  obtain ⟨h2, h3, h1⟩ := h
  change s.fld (fLkState n) ≠ 2 at h2
  change s.fld (fLkState n) ≠ 3 at h3
  change s.fld (fLkState n) = 1 → _ at h1
  by_cases h4 : s.fld (fLkState n) = 1
  · simp [receives, portLive, linkLive, h4, h1 h4]
  · simp [receives, portLive, linkLive, h2, h3, h4]

theorem receives_of_lstate_zero {s : State} {n : Nat} (h : lstate s n = 0) : receives s n = false :=
  receives_of_quiet (by rw [h]; exact ⟨by decide, by decide, fun e => absurd e (by decide)⟩)

/-- A cycle in which no port sends. -/
theorem mclkCycle_of_noneSends {s : State} (h : NoneSends s) :
    mclkCycle s = if (s.core.timebase.toNat + 1) % 2 ^ 64 % 500000 = 0 then watchdogTick s.ticked else s.ticked := by
  have ht : transmitAll s.ticked = s.ticked := transmitAll_of_noneSends (s := s.ticked) h
  change (if (transmitAll s.ticked).core.timebase.toNat % 500000 = 0 then watchdogTick (transmitAll s.ticked) else transmitAll s.ticked) = _
  rw [ht, toNat_timebase_ticked]

/-! ### The watchdog counts a millisecond -/

/-- The watchdog counts one down, short of its half and of its end. -/
theorem watchdogTick_of_between {s : State} (h1 : 1 < s.fld fWdRemain) (hp : s.fld fWdPeriod ≠ 0) (hh : s.fld fWdRemain - 1 ≠ s.fld fWdPeriod * 8) :
    watchdogTick s = s.setFld fWdRemain (s.fld fWdRemain - 1) ∧ (s.setFld fWdRemain (s.fld fWdRemain - 1)).fld fWdRemain = s.fld fWdRemain - 1 := by
  have hlt : s.fld fWdRemain < 4096 := bitsOf_lt _ _ _
  have hrem : (s.setFld fWdRemain (s.fld fWdRemain - 1)).fld fWdRemain = s.fld fWdRemain - 1 :=
    (State.fld_setFld _ _ _ (by decide)).trans (Nat.mod_eq_of_lt (by change _ < 4096; omega))
  have hper : (s.setFld fWdRemain (s.fld fWdRemain - 1)).fld fWdPeriod = s.fld fWdPeriod :=
    State.fld_setFld_of_apart (by decide) (.inr (.inl (by decide)))
  refine ⟨?_, hrem⟩
  unfold watchdogTick
  rw [if_neg hp]
  simp only [hrem, hper]
  rw [if_neg (by omega), if_neg hh]

/-! ### A posted write -/

theorem drainPosted_intEnable {s : State} {v : W32} {rest : List (Nat × W32)} (hp : s.host.posted = (0x1C, v) :: rest) (hi : interior s = true)
    (hq : s.flag fQuiesce = false) : drainPosted s = State.setReg { s with host := { s.host with posted := rest, wait := false } } 0x1C
      ((s.reg 0x1C &&& ~~~0x3FFFFF#32) ||| (v &&& 0x3FFFFF#32)) := by
  obtain ⟨row, hrow, hok, hrw, hw1c, hd⟩ := regRow_of_mem_plainRegs (e := (0x1C, 0x3FFFFF#32, 0#32)) (by decide)
  have hword : writeFields row.flds (s.reg 0x1C) v = (s.reg 0x1C &&& ~~~0x3FFFFF#32) ||| (v &&& 0x3FFFFF#32) := by
    rw [writeFields_eq _ _ _ (by rw [hrw, hw1c, hd]), hrw, hw1c, BitVec.zero_and, BitVec.or_zero]
  unfold drainPosted
  rw [hp, ← hword]
  exact hostApply_plain (s := { s with host := { s.host with posted := rest, wait := false } }) hi hq (by decide) hrow hok v

/-- A write of a host register other than these three leaves MCLK and the ports running as they are. -/
theorem interior_setReg {x : State} {r : Nat} (h : r ≠ fFrozen.reg) (w : W32) : interior (x.setReg r w) = interior x := by
  rw [interior, interior, State.flag_setReg_of_ne _ _ _ _ h]
  rfl

theorem receives_setReg {x : State} {r : Nat} (h : r ≠ fFrozen.reg) (h' : r ≠ 0x9C) (w : W32) (n : Nat) : receives (x.setReg r w) n = receives x n := by
  have hst : (x.setReg r w).fld (fLkState n) = x.fld (fLkState n) := State.fld_setReg_of_ne x (fLkState n) r w h'
  rw [receives, receives, running, running, interior_setReg h, portLive, portLive, linkLive, linkLive, hst]
  rfl

/-! ### A port that sends -/

theorem peerAt_setPeer {s : State} {n : Nat} (h : n < s.peer.ports.length) (p : PeerPort) : peerAt (setPeer n p s) n = p := by
  rw [peerAt, setPeer, getElem?_setAt, if_pos ⟨rfl, h⟩]
  rfl

/-- One flit of a port that is not in loopback: nothing but the port changes. -/
theorem transmit_of_receives {s : State} {n : Nat} (h : receives s n = true) (hl : s.flag (fLcLoop n) = false) :
    transmit n s = setPeer n { (nextFlit (peerAt s n)).2 with tx := some (nextFlit (peerAt s n)).1 } s := by
  have hloop : ∀ p, looped (setPeer n p s) n = false := fun p => by rw [looped, show (setPeer n p s).flag (fLcLoop n) = false from hl]; rfl
  rw [transmit, if_pos h]
  change (if (looped (setPeer n _ s) n && _) = true then _ else _) = _
  rw [hloop]
  rfl

/-- Where only one port's link is not down, only that port sends. -/
theorem transmitAll_of_one {s : State} {n : Nat} (hn : n < 4) (hm : ∀ m < 4, m ≠ n → lstate s m = 0)
    (ht : (transmit n s).regs = s.regs) : transmitAll s = transmit n s := by
  have hsplit : numsFrom 0 4 = numsFrom 0 n ++ n :: numsFrom (n + 1) (3 - n) := by
    have h : ∀ n < 4, numsFrom 0 4 = numsFrom 0 n ++ n :: numsFrom (n + 1) (3 - n) := by decide
    exact h n hn
  have hbefore : ∀ m ∈ numsFrom 0 n, receives s m = false := fun m h => by
    have := ((mem_numsFrom _ _ _).mp h).2
    exact receives_of_lstate_zero (hm m (by omega) (by omega))
  have hafter : ∀ m ∈ numsFrom (n + 1) (3 - n), receives (transmit n s) m = false := fun m h => by
    have := (mem_numsFrom _ _ _).mp h
    exact receives_of_lstate_zero ((State.fld_of_regs_eq ht _).trans (hm m (by omega) (by omega)))
  rw [transmitAll, hsplit, List.foldl_append, foldl_transmit_of_not_receives hbefore, List.foldl_cons, foldl_transmit_of_not_receives hafter]

/-- The next flit of a port with nothing to repeat: an IDLE flit, or new slots under the next SEQ. -/
theorem nextFlit_of_new {p : PeerPort} (hk : p.nakDue = false) (hr : p.resend = none) (hl : p.replay.length < 256) :
    nextFlit p = if p.ready = [] then (flitEncode [] 1 p.seq p.ack p.freed, p)
      else (flitEncode (p.ready.take 224) 0 ((p.seq + 1) % 4096) p.ack p.freed,
        { p with seq := (p.seq + 1) % 4096, ready := p.ready.drop 224, replay := p.replay ++ [⟨(p.seq + 1) % 4096, p.ready.take 224, 0⟩] }) := by
  have hle : decide (256 ≤ p.replay.length) = false := decide_eq_false (by omega)
  unfold nextFlit
  rw [hk, if_neg (by decide), hr]
  simp only [hle, Bool.or_false, List.isEmpty_iff]

/-! ### The clauses -/

section
variable {s : State} (hpend : s.pending = [])
include hpend

theorem step_noClock (hp : s.host.posted = []) (hi : interior s = false) (hd : inDoze s = false) : ∃ u, step s = .next u ∧ OnlyRegs s u [] := by
  refine ⟨refresh s, ?_, onlyRegs_refresh (fun _ _ => rfl) rfl⟩
  rw [step_of_pending_nil hpend, tick_of_no_clock hp hi hd]
  rfl

theorem step_timebase (hp : s.host.posted = []) (hi : interior s = true) (hq : NoneSends s) (hne : (s.core.timebase.toNat + 1) % 2 ^ 64 % 500000 ≠ 0) :
    ∃ u, step s = .next u ∧ u.core = { s.core with timebase := s.core.timebase + 1#64 } ∧ RegsKept s u []
      ∧ { u with core := s.core, regs := s.regs } = s := by
  refine ⟨refresh s.ticked, ?_, rfl, regsKept_refresh fun _ _ => rfl, rfl⟩
  rw [step_of_pending_nil hpend, tick_of_posted_nil hp hi, mclkCycle_of_noneSends hq, if_neg hne]
  rfl

theorem step_watchdog (hp : s.host.posted = []) (hi : interior s = true) (hq : NoneSends s) (he : (s.core.timebase.toNat + 1) % 2 ^ 64 % 500000 = 0)
    (h1 : 1 < s.fld fWdRemain) (hper : s.fld fWdPeriod ≠ 0) (hh : s.fld fWdRemain - 1 ≠ s.fld fWdPeriod * 8) :
    ∃ u, step s = .next u ∧ u.fld fWdRemain = s.fld fWdRemain - 1 ∧ RegsKept s u [0xB0] ∧ u.mem = s.mem ∧ u.log = s.log := by
  obtain ⟨hw, hr⟩ := watchdogTick_of_between (s := s.ticked) h1 hper hh
  refine ⟨refresh (s.ticked.setFld fWdRemain (s.fld fWdRemain - 1)), ?_, (fld_refresh _ _ (by decide)).trans hr, regsKept_refresh fun r hm => ?_, rfl, rfl⟩
  · rw [step_of_pending_nil hpend, tick_of_posted_nil hp hi, mclkCycle_of_noneSends hq, if_pos he, hw]
    rfl
  · exact State.reg_setFld_of_ne (s := s.ticked) fun e => hm (List.mem_singleton.mpr e.symm)

theorem step_posted {v : W32} {rest : List (Nat × W32)} (hp : s.host.posted = (0x1C, v) :: rest) (hr : running s = true) (hf : s.flag fQuiesce = false)
    (hq : NoneSends s) (hne : (s.core.timebase.toNat + 1) % 2 ^ 64 % 500000 ≠ 0) :
    ∃ u, step s = .next u ∧ u.reg 0x1C = (s.reg 0x1C &&& ~~~0x3FFFFF#32) ||| (v &&& 0x3FFFFF#32)
      ∧ u.host = { s.host with posted := rest, wait := false } ∧ RegsKept s u [0x1C] ∧ u.core.timebase = s.core.timebase + 1#64 := by
  have hi := interior_of_running hr
  have hd := drainPosted_intEnable hp hi hf
  generalize (s.reg 0x1C &&& ~~~0x3FFFFF#32) ||| (v &&& 0x3FFFFF#32) = w at hd ⊢
  have hreg : ∀ r, (drainPosted s).reg r = if 0x1C = r then w else s.reg r := fun r => by rw [hd, State.reg_setReg]; rfl
  have hint : interior (drainPosted s) = true := by rw [hd, interior_setReg (by decide)]; exact hi
  have hnone : NoneSends (drainPosted s) := fun n hn => by rw [hd, receives_setReg (by decide) (by decide)]; exact hq n hn
  have hcore : (drainPosted s).core = s.core := by rw [hd]; rfl
  have hhost : (drainPosted s).host = { s.host with posted := rest, wait := false } := by rw [hd]; rfl
  have hstep : step s = .next (refresh (drainPosted s).ticked) := by
    rw [step_of_pending_nil hpend, tick_of_interior hi hint, mclkCycle_of_noneSends hnone, hcore, if_neg hne]
    rfl
  generalize drainPosted s = x at *
  refine ⟨_, hstep, ?_, hhost, regsKept_refresh fun r hm => ?_, ?_⟩
  · rw [reg_refresh_of_ne _ (by decide)]
    exact (hreg _).trans (if_pos rfl)
  · exact (hreg r).trans (if_neg fun e => hm (List.mem_singleton.mpr e.symm))
  · exact congrArg (fun c => c.timebase + 1#64) hcore

/-- The port sends one flit and the others nothing: the step is the flit and the cycle. -/
theorem step_flit {n : Nat} (hn : n < 4) (hlive : Live s n) (hp : s.host.posted = []) (hm : ∀ m < 4, m ≠ n → lstate s m = 0)
    (hl : s.flag ⟨0xA0, 8 * n + 5, 8 * n + 5⟩ = false) (hne : (s.core.timebase.toNat + 1) % 2 ^ 64 % 500000 ≠ 0) :
    step s = .next (refresh (setPeer n { (nextFlit (peerAt s n)).2 with tx := some (nextFlit (peerAt s n)).1 } s.ticked)) := by
  obtain ⟨hr, -, hst, -⟩ := hlive
  change s.fld (fLkState n) = 2 ∨ s.fld (fLkState n) = 3 at hst
  have hrec : receives s.ticked n = true := by
    have hlink : linkLive s n = true := by simpa [linkLive] using hst
    change (running s && (linkLive s n || _)) = true
    rw [hr, hlink]
    rfl
  have ht : transmit n s.ticked = setPeer n { (nextFlit (peerAt s n)).2 with tx := some (nextFlit (peerAt s n)).1 } s.ticked :=
    transmit_of_receives hrec hl
  have hall := transmitAll_of_one (s := s.ticked) hn hm (by rw [ht]; rfl)
  rw [step_of_pending_nil hpend, tick_of_posted_nil hp (interior_of_running hr)]
  change done (if (transmitAll s.ticked).core.timebase.toNat % 500000 = 0 then watchdogTick (transmitAll s.ticked) else transmitAll s.ticked) = _
  rw [hall, ht]
  change done (if s.ticked.core.timebase.toNat % 500000 = 0 then _ else _) = _
  rw [toNat_timebase_ticked, if_neg hne]
  rfl

end

/-- Settles O58: a step with no command is one posted write and one cycle; a cycle is the timebase, one flit of each port that sends and the watchdog. -/
theorem timePassesWhileNoCommandWaits : Obligations.Time_passes_while_no_command_waits := by
  unfold Obligations.Time_passes_while_no_command_waits
  intro s hpend quietPorts next
  have hquiet : quietPorts → NoneSends s := fun h n hn => receives_of_quiet (h n hn)
  refine ⟨fun hp hi hq => step_timebase hpend hp hi (hquiet hq), step_noClock hpend, fun hp hi hq => step_watchdog hpend hp hi (hquiet hq),
    fun v rest hp hr hf hq => step_posted hpend hp hr hf (hquiet hq), fun n hn hlive hp hm hl hne => ?_⟩
  intro p hk hresend hlen
  obtain ⟨-, hports, -⟩ := id hlive
  have hpeer : ∀ q, peerAt (refresh (setPeer n q s.ticked)) n = q := fun q => peerAt_setPeer (s := s.ticked) (hports.symm ▸ hn) q
  have hstep := step_flit hpend hn hlive hp hm hl hne
  rw [nextFlit_of_new hk hresend hlen] at hstep
  by_cases hready : (peerAt s n).ready = []
  · obtain ⟨hf256, hcrc, htype, hack, hseq, -⟩ := flitEncode_fields [] (ftype := 1) (by decide) p.seq p.ack p.freed
    rw [if_pos hready] at hstep
    refine ⟨_, _, hstep, by rw [hpeer], hf256, regsKept_refresh fun _ _ => rfl, rfl, hcrc, hack, fun _ => ?_, fun h => absurd hready h⟩
    exact ⟨htype, hseq, by rw [hpeer], by rw [hpeer]⟩
  · obtain ⟨hf256, hcrc, htype, hack, hseq, hslots⟩ := flitEncode_fields (p.ready.take 224) (ftype := 0) (by decide) ((p.seq + 1) % 4096) p.ack p.freed
    rw [if_neg hready] at hstep
    refine ⟨_, _, hstep, by rw [hpeer], hf256, regsKept_refresh fun _ _ => rfl, rfl, hcrc, hack, fun h => absurd h hready, fun _ _ => ?_⟩
    rw [List.length_take, ← Nat.min_assoc, Nat.min_self, List.take_take, min_self] at hslots
    exact ⟨htype, hseq.trans (Nat.mod_mod _ _), hslots, by rw [hpeer], by rw [hpeer], by rw [hpeer]⟩

end Sys2Proof.Machine
end

section
/-! PROOFS. Function resets (R76, R86): one bit of RESET_CTRL, and FUNC_BUSY. -/

namespace Sys2Proof.Machine

open Sys2Proof Sys2Proof.Safety Sys2Proof.Claims

variable {s t u : State} {b : Nat}

/-! ### One bit -/

/-- FUNC_BUSY's bit of a function. -/
theorem funcBusy_eq_flag (hb : b < 14) (s : State) : funcBusy s b = s.flag ⟨0x14, b, b⟩ := by
  rw [flag_eq_bitN, funcBusy, show s.fld fFuncBusy = (s.reg 0x14).toNat % 2 ^ 14 by
    change (s.reg 0x14).toNat / 2 ^ 0 % 2 ^ 14 = _
    rw [Nat.pow_zero, Nat.div_one], bitN, Nat.testBit_mod_two_pow, bitN, decide_eq_true hb, Bool.true_and]

/-- One step of functionResets. -/
def resetStep (bits : Nat) (s : State) (b : Nat) : State :=
  if bitN bits b && !funcBusy s b then (functionReset b s).setFld ⟨0x14, b, b⟩ 1 else s

theorem functionResets_eq (bits : Nat) (s : State) :
    functionResets bits s = if !(interior s && ready s) then s else (numsFrom 0 14).foldl (resetStep bits) s := rfl

theorem foldl_resetStep_of_clear {bits : Nat} {l : List Nat} (h : ∀ c ∈ l, bitN bits c = false) (s : State) : l.foldl (resetStep bits) s = s := by
  induction l with
  | nil => rfl
  | cons c l ih =>
    rw [List.foldl_cons, resetStep, h c List.mem_cons_self, Bool.false_and, if_neg (by decide)]
    exact ih fun x hx => h x (List.mem_cons_of_mem c hx)

/-- A word of one bit resets one function. -/
theorem foldl_resetStep_two_pow (hb : b < 14) (s : State) : (numsFrom 0 14).foldl (resetStep (2 ^ b)) s = resetStep (2 ^ b) s b := by
  have hsplit : numsFrom 0 14 = numsFrom 0 b ++ b :: numsFrom (b + 1) (13 - b) := by
    have h : ∀ b < 14, numsFrom 0 14 = numsFrom 0 b ++ b :: numsFrom (b + 1) (13 - b) := by decide
    exact h b hb
  have hclear : ∀ c, c ≠ b → bitN (2 ^ b) c = false := fun c hc => Nat.testBit_two_pow_of_ne (Ne.symm hc)
  have hbefore : ∀ c ∈ numsFrom 0 b, bitN (2 ^ b) c = false := fun c hc => hclear c (by have := (mem_numsFrom _ _ _).mp hc; omega)
  have hafter : ∀ c ∈ numsFrom (b + 1) (13 - b), bitN (2 ^ b) c = false := fun c hc => hclear c (by have := (mem_numsFrom _ _ _).mp hc; omega)
  rw [hsplit, List.foldl_append, foldl_resetStep_of_clear hbefore, List.foldl_cons, foldl_resetStep_of_clear hafter]

/-- The state a reset of function b ends in. -/
def resetDone (b : Nat) (s : State) : State := refresh ((functionReset b s).setFld ⟨0x14, b, b⟩ 1)

theorem functionResets_two_pow (hb : b < 14) (hi : interior s = true) (hr : ready s = true) (hf : s.flag ⟨0x14, b, b⟩ = false) :
    functionResets (2 ^ b) s = (functionReset b s).setFld ⟨0x14, b, b⟩ 1 := by
  rw [functionResets_eq, hi, hr, if_neg (by decide), foldl_resetStep_two_pow hb, resetStep, funcBusy_eq_flag hb, hf,
    show bitN (2 ^ b) b = true from Nat.testBit_two_pow_self, if_pos (by decide)]

/-- Before READY, and where the function is being reset, nothing happens. -/
theorem functionResets_ignored (hb : b < 14) (h : ready s = false ∨ s.flag ⟨0x14, b, b⟩ = true) : functionResets (2 ^ b) s = s := by
  rw [functionResets_eq]
  rcases h with h | h
  · rw [h, Bool.and_false, if_pos (by decide)]
  · have hstep : resetStep (2 ^ b) s b = s := by
      rw [resetStep, funcBusy_eq_flag hb, h, Bool.not_true, Bool.and_false]
      rfl
    rw [foldl_resetStep_two_pow hb, hstep, ite_self]

theorem flag_resetDone (hb : b < 14) (s : State) : (resetDone b s).flag ⟨0x14, b, b⟩ = true :=
  (flag_refresh _ _ (by change 0x14 ≠ 0x18; decide)).trans (State.flag_setFld_one _ _ _ (by omega))

theorem reg_resetDone {r : Nat} (h14 : r ≠ 0x14) (h18 : r ≠ 0x18) (s : State) : (resetDone b s).reg r = (functionReset b s).reg r :=
  (reg_refresh_of_ne _ h18).trans (State.reg_setFld_of_ne (Ne.symm h14))

theorem fld_resetDone {f : Fld} (h14 : f.reg ≠ 0x14) (h18 : f.reg ≠ 0x18) (s : State) : (resetDone b s).fld f = (functionReset b s).fld f := by
  rw [State.fld, State.fld, reg_resetDone h14 h18]

theorem flag_resetDone_of_ne {f : Fld} (h14 : f.reg ≠ 0x14) (h18 : f.reg ≠ 0x18) (s : State) : (resetDone b s).flag f = (functionReset b s).flag f :=
  State.flag_of_fld_eq (fld_resetDone h14 h18 s)

/-- A block of the control space at its reset values. -/
theorem block_resetDone {off n : Nat} {ex : List Nat} (h : ∀ k < n, C off + k ∉ ex → (functionReset b s).reg (C off + k) = regReset (C off + k)) :
    ∀ k < n, C off + k ∉ ex → (resetDone b s).reg (C off + k) = regReset (C off + k) := fun k hk hx =>
  (reg_resetDone (by simp only [C_eq]; omega) (by simp only [C_eq]; omega) s).trans (h k hk hx)

theorem ends_reset {c : Instr} {q : State → Prop} (hc : exec c s = done (functionResets (2 ^ b) s)) (hb : b < 14) (hi : interior s = true)
    (hr : ready s = true) (hf : s.flag ⟨0x14, b, b⟩ = false) (hq : q (resetDone b s)) : Ends c s q := by
  rw [functionResets_two_pow hb hi hr hf] at hc
  exact ends_of_done hc hq

theorem idle_reset {c : Instr} (hc : exec c s = done (functionResets (2 ^ b) s)) (hb : b < 14)
    (h : ready s = false ∨ s.flag ⟨0x14, b, b⟩ = true) : Idle c s := by
  rw [functionResets_ignored hb h] at hc
  exact idle_of_done hc

theorem idle_resets : ∀ e ∈ [(Instr.resetRay, 0), (.resetRaster, 1), (.resetPipe 0, 2), (.resetPipe 1, 3), (.resetPipe 2, 4), (.resetPipe 3, 5),
      (.resetTouch, 6), (.resetCamera, 7), (.resetAudio, 8), (.resetPeer 0, 9), (.resetPeer 1, 10), (.resetPeer 2, 11), (.resetPeer 3, 12),
      (.resetReel, 13)], ready s = false ∨ s.flag ⟨0x14, e.2, e.2⟩ = true → Idle e.1 s := by
  have hx : ∀ e ∈ [(Instr.resetRay, 0), (.resetRaster, 1), (.resetPipe 0, 2), (.resetPipe 1, 3), (.resetPipe 2, 4), (.resetPipe 3, 5),
      (.resetTouch, 6), (.resetCamera, 7), (.resetAudio, 8), (.resetPeer 0, 9), (.resetPeer 1, 10), (.resetPeer 2, 11), (.resetPeer 3, 12),
      (.resetReel, 13)], exec e.1 s = done (functionResets (2 ^ e.2) s) ∧ e.2 < 14 := by
    simp only [List.forall_mem_cons, List.not_mem_nil, false_imp_iff, implies_true, and_true]
    refine ⟨⟨rfl, ?_⟩, ⟨rfl, ?_⟩, ⟨rfl, ?_⟩, ⟨rfl, ?_⟩, ⟨rfl, ?_⟩, ⟨rfl, ?_⟩, ⟨rfl, ?_⟩, ⟨rfl, ?_⟩, ⟨rfl, ?_⟩, ⟨rfl, ?_⟩, ⟨rfl, ?_⟩, ⟨rfl, ?_⟩,
      ⟨rfl, ?_⟩, ⟨rfl, ?_⟩⟩ <;> decide
  exact fun e he h => idle_reset (hx e he).1 (hx e he).2 h

end Sys2Proof.Machine
end

section
/-! PROOFS. Function resets of the pipes, touch, the camera and audio (R338, R362, R390). -/

namespace Sys2Proof.Machine

open Sys2Proof Sys2Proof.Safety Sys2Proof.Claims

variable {s t u : State} {n : Nat}

/-! ### Parts of the state that hold no register -/

theorem State.regs_setCam (s : State) (c : CameraSt) : ({ s with cam := c } : State).regs = s.regs := rfl

theorem State.regs_setAud (s : State) (a : AudioSt) : ({ s with aud := a } : State).regs = s.regs := rfl

theorem State.regs_setTouchHost (s : State) (c : TouchSt) (h : HostSt) : ({ s with touch := c, host := h } : State).regs = s.regs := rfl

theorem regs_setPipe (n : Nat) (p : PipeSt) (s : State) : (setPipe n p s).regs = s.regs := rfl

theorem regs_setPort (n : Nat) (p : PortSt) (s : State) : (setPort n p s).regs = s.regs := rfl

/-- A list's default put into the list is what its place reads, be it in the list or not. -/
theorem getD_setAt_default {α : Type} (l : List α) (n : Nat) (x : α) : ((setAt l n x)[n]?).getD x = x := by
  rw [getElem?_setAt]
  by_cases h : n < l.length
  · rw [if_pos ⟨rfl, h⟩]; rfl
  · rw [if_neg fun e => h e.2, List.getElem?_eq_none (by omega)]; rfl

/-! ### What each bit resets -/

theorem functionReset_pipe (hn : n < 4) (s : State) : functionReset (2 + n) s = resetPipe n s := by
  rw [functionReset, if_neg (by omega), if_neg (by omega), if_pos (by omega), Nat.add_sub_cancel_left]

theorem functionReset_touch (s : State) : functionReset 6 s = resetTouch s := by
  rw [functionReset, if_neg (by decide), if_neg (by decide), if_neg (by decide), if_pos rfl]

theorem functionReset_camera (s : State) : functionReset 7 s = resetCamera s := by
  rw [functionReset, if_neg (by decide), if_neg (by decide), if_neg (by decide), if_neg (by decide), if_pos rfl]

theorem functionReset_audio (s : State) : functionReset 8 s = resetAudio s := by
  rw [functionReset, if_neg (by decide), if_neg (by decide), if_neg (by decide), if_neg (by decide), if_neg (by decide), if_pos rfl]

theorem functionReset_peer (hn : n < 4) (s : State) : functionReset (9 + n) s = resetPeer n s := by
  rw [functionReset, if_neg (by omega), if_neg (by omega), if_neg (by omega), if_neg (by omega), if_neg (by omega), if_neg (by omega),
    if_pos (by omega), Nat.add_sub_cancel_left]

theorem functionReset_reel (s : State) : functionReset 13 s = reelResets s := by
  rw [functionReset, if_neg (by decide), if_neg (by decide), if_neg (by decide), if_neg (by decide), if_neg (by decide), if_neg (by decide),
    if_neg (by decide), if_pos rfl]

/-! ### Audio -/

theorem reg_resetAudio (r : Nat) (s : State) :
    (resetAudio s).reg r = if C 0x80000 ≤ r ∧ r < C 0x80000 + 0x10000 then regReset r else s.reg r :=
  (State.reg_of_regs_eq (State.regs_setAud _ _) r).trans (reg_resetRange (C 0x80000) 0x10000 r s)

theorem ends_resetAudio (hi : interior s = true) (hr : ready s = true) (hf : s.flag ⟨0x14, 8, 8⟩ = false) : Ends .resetAudio s fun u =>
    u.flag ⟨0x14, 8, 8⟩ = true ∧ u.aud = AudioSt.empty ∧ (∀ k < 0x10000, C 0x80000 + k ∉ ([] : List Nat) → u.reg (C 0x80000 + k) = regReset (C 0x80000 + k))
      ∧ (∀ r, r ≠ 0x14 → r ≠ 0x18 → (r < C 0x80000 ∨ C 0x90000 ≤ r) → u.reg r = s.reg r) ∧ u.mem = s.mem := by
  refine ends_reset (b := 8) rfl (by decide) hi hr hf ⟨flag_resetDone (by decide) s, ?_, block_resetDone fun k hk _ => ?_, fun r h14 h18 h => ?_, ?_⟩
  · change (functionReset 8 s).aud = _
    rw [functionReset_audio]
    rfl
  · rw [functionReset_audio, reg_resetAudio, if_pos (by omega)]
  · rw [reg_resetDone h14 h18, functionReset_audio, reg_resetAudio, if_neg (by simp only [C_eq] at h ⊢; omega)]
  · change (functionReset 8 s).mem = _
    rw [functionReset_audio]
    rfl

/-! ### The camera -/

/-- FLT of both illuminators, and no other register of the block, keeps its value. -/
theorem reg_resetCamera {r : Nat} (h : r ≠ C 0x70308) (h' : r ≠ C 0x70318) (s : State) :
    (resetCamera s).reg r = if C 0x70000 ≤ r ∧ r < C 0x70000 + 0x10000 then regReset r else s.reg r := by
  have hne : ∀ e ∈ [(fFltPin 0, s.fld (fFltPin 0)), (fFltPin 1, s.fld (fFltPin 1))], e.1.reg ≠ r := by
    have h0 : (fFltPin 0).reg ≠ r := Ne.symm h
    have h1 : (fFltPin 1).reg ≠ r := Ne.symm h'
    simp [h0, h1]
  rw [resetCamera, State.reg_of_regs_eq (State.regs_setCam _ _), State.reg_setFlds_of_ne _ _ hne, reg_resetRange]

theorem flag_resetCamera (s : State) : ∀ k < 2, (resetCamera s).flag (fFltPin k) = s.flag (fFltPin k) := by
  have hap : (fFltPin 0).Apart (fFltPin 1) := .inl (by decide)
  have hlt : ∀ k, s.fld (fFltPin k) < 2 := fun k => bitsOf_lt _ _ _
  refine fun k hk => State.flag_of_fld_eq ?_
  obtain ⟨x, hx⟩ : ∃ x, resetRange (C 0x70000) 0x10000 s = x := ⟨_, rfl⟩
  have hy : (resetCamera s).fld (fFltPin k) = (x.setFlds [(fFltPin 0, s.fld (fFltPin 0)), (fFltPin 1, s.fld (fFltPin 1))]).fld (fFltPin k) := by
    rw [← hx, resetCamera, State.fld_of_regs_eq (State.regs_setCam _ _)]
  rw [hy, State.setFlds_cons, State.setFlds_cons, State.setFlds_nil]
  obtain rfl | rfl : k = 0 ∨ k = 1 := by omega
  · rw [State.fld_setFld_of_apart (by decide) hap, State.fld_setFld _ _ _ (by decide)]
    exact Nat.mod_eq_of_lt (hlt 0)
  · rw [State.fld_setFld _ _ _ (by decide)]
    exact Nat.mod_eq_of_lt (hlt 1)

theorem ends_resetCamera (hi : interior s = true) (hr : ready s = true) (hf : s.flag ⟨0x14, 7, 7⟩ = false) : Ends .resetCamera s fun u =>
    u.flag ⟨0x14, 7, 7⟩ = true ∧ u.cam = CameraSt.empty
      ∧ (∀ k < 0x10000, C 0x70000 + k ∉ [C 0x70308, C 0x70318] → u.reg (C 0x70000 + k) = regReset (C 0x70000 + k))
      ∧ (∀ k < 2, u.flag (fFltPin k) = s.flag (fFltPin k)) ∧ u.mem = s.mem := by
  refine ends_reset (b := 7) rfl (by decide) hi hr hf ⟨flag_resetDone (by decide) s, ?_, block_resetDone fun k hk hx => ?_, fun k hk => ?_, ?_⟩
  · change (functionReset 7 s).cam = _
    rw [functionReset_camera]
    rfl
  · simp only [List.mem_cons, List.not_mem_nil, or_false, not_or] at hx
    rw [functionReset_camera, reg_resetCamera hx.1 hx.2, if_pos (by omega)]
  · have hne : ∀ k < 2, (fFltPin k).reg ≠ 0x14 ∧ (fFltPin k).reg ≠ 0x18 := by decide
    rw [flag_resetDone_of_ne (hne k hk).1 (hne k hk).2, functionReset_camera, flag_resetCamera s k hk]
  · change (functionReset 7 s).mem = _
    rw [functionReset_camera, resetCamera]
    exact State.setFlds_mem _ _

/-! ### Touch -/

/-- The registers of the block, DROP_COUNT and TOUCH_STATUS after a reset with n reports in the FIFO. -/
def touchRegs (n : Nat) (s : State) : State := (((resetRange (tR 0) 0x10000 s).setReg 0xA8 0#32).addSat fDropCount n).setFld fTouchDropped (n % 256)

theorem resetTouch_eq (s : State) : resetTouch s =
    { touchRegs s.touch.fifo.length s with touch := .empty, host := { (touchRegs s.touch.fifo.length s).host with drainTaken := s.host.drainTaken } } := rfl

theorem reg_touchRegs {r : Nat} (h : r ≠ 0xA8) (h' : r ≠ C 0x60348) (n : Nat) (s : State) :
    (touchRegs n s).reg r = if tR 0 ≤ r ∧ r < tR 0 + 0x10000 then regReset r else s.reg r := by
  rw [touchRegs, State.addSat, State.reg_setFld_of_ne (Ne.symm h), State.reg_setFld_of_ne (Ne.symm h'), State.reg_setReg, if_neg (Ne.symm h), reg_resetRange]

/-- Both fields of TOUCH_STATUS, and DROP_COUNT, which counts from its own reset. -/
theorem flds_touchRegs (n : Nat) (s : State) : (touchRegs n s).fld fFifoLevel = 0 ∧ (touchRegs n s).fld fTouchDropped = n % 256
    ∧ (touchRegs n s).fld fDropCount = min (2 ^ 32 - 1) n := by
  have hdrop : ((resetRange (tR 0) 0x10000 s).setReg 0xA8 0#32).fld fDropCount = 0 := by
    rw [State.fld_setReg_of_ne _ _ _ _ (by decide), State.fld, reg_resetRange, if_pos (by decide)]
    decide
  have hlevel : ((resetRange (tR 0) 0x10000 s).setReg 0xA8 0#32).fld fFifoLevel = 0 := by
    rw [State.fld, State.reg_setReg, if_pos (show 0xA8 = fFifoLevel.reg from rfl)]
    rfl
  rw [touchRegs, State.addSat, hdrop, Nat.zero_add, satN_eq_min]
  obtain ⟨x, hx⟩ : ∃ x, (resetRange (tR 0) 0x10000 s).setReg 0xA8 0#32 = x := ⟨_, rfl⟩
  rw [hx] at hlevel ⊢
  have a1 : fFifoLevel.Apart fTouchDropped := .inr (.inr (by decide))
  have a2 : fFifoLevel.Apart fDropCount := .inl (by decide)
  have a3 : fDropCount.Apart fTouchDropped := .inl (by decide)
  refine ⟨?_, ?_, ?_⟩
  · rw [State.fld_setFld_of_apart (by decide) a1, State.fld_setFld_of_apart (by decide) a2, hlevel]
  · rw [State.fld_setFld _ _ _ (by decide)]
    exact Nat.mod_mod _ _
  · rw [State.fld_setFld_of_apart (by decide) a3, State.fld_setFld _ _ _ (by decide)]
    exact Nat.mod_eq_of_lt (lt_of_le_of_lt (Nat.min_le_left _ _) (by decide))

theorem ends_resetTouch (hi : interior s = true) (hr : ready s = true) (hf : s.flag ⟨0x14, 6, 6⟩ = false) : Ends .resetTouch s fun u =>
    u.flag ⟨0x14, 6, 6⟩ = true ∧ u.touch = TouchSt.empty
      ∧ (∀ k < 0x10000, C 0x60000 + k ∉ [C 0x60348] → u.reg (C 0x60000 + k) = regReset (C 0x60000 + k))
      ∧ u.fld fFifoLevel = 0 ∧ u.fld fTouchDropped = s.touch.fifo.length % 256 ∧ u.fld fDropCount = min (2 ^ 32 - 1) s.touch.fifo.length
      ∧ u.mem = s.mem := by
  have hregs : (functionReset 6 s).regs = (touchRegs s.touch.fifo.length s).regs := by
    rw [functionReset_touch, resetTouch_eq, State.regs_setTouchHost]
  obtain ⟨hlevel, hdropped, hcount⟩ := flds_touchRegs s.touch.fifo.length s
  have hfld : ∀ f ∈ [fFifoLevel, fTouchDropped, fDropCount], (resetDone 6 s).fld f = (touchRegs s.touch.fifo.length s).fld f := fun f hf => by
    have hne : ∀ f ∈ [fFifoLevel, fTouchDropped, fDropCount], f.reg ≠ 0x14 ∧ f.reg ≠ 0x18 := by decide
    rw [fld_resetDone (hne f hf).1 (hne f hf).2, State.fld_of_regs_eq hregs]
  refine ends_reset (b := 6) rfl (by decide) hi hr hf ⟨flag_resetDone (by decide) s, ?_, block_resetDone fun k hk hx => ?_,
    (hfld _ (by decide)).trans hlevel, (hfld _ (by decide)).trans hdropped, (hfld _ (by decide)).trans hcount, ?_⟩
  · change (functionReset 6 s).touch = _
    rw [functionReset_touch]
    rfl
  · simp only [List.mem_cons, List.not_mem_nil, or_false] at hx
    rw [State.reg_of_regs_eq hregs, reg_touchRegs (by simp only [C_eq]; omega) hx, if_pos (by simp only [tR, Nat.add_zero]; omega)]
  · change (functionReset 6 s).mem = _
    rw [functionReset_touch]
    rfl

/-! ### Pipes -/

theorem mem_setPipe (n : Nat) (p : PipeSt) (s : State) : (setPipe n p s).mem = s.mem := rfl

theorem mem_stopPipe (n : Nat) (s : State) : (stopPipe n s).mem = s.mem := by
  rw [stopPipe_eq, mem_setPipe, stopRegs, State.setFlds_mem, setActive, State.setFlag_mem, State.setFlag_mem, setRelock, State.setFlag_mem,
    State.setFlag_mem, setApplyPending, State.setFlag_mem, State.setFlag_mem]

theorem mem_foldl_stopPipe (l : List Nat) (s : State) : (l.foldl (fun s m => stopPipe m s) s).mem = s.mem := by
  induction l generalizing s with
  | nil => rfl
  | cons m l ih => rw [List.foldl_cons, ih, mem_stopPipe]

/-- The pipes that showed port n have stopped. -/
def pipesStopped (n : Nat) (s : State) : State :=
  ((numsFrom 0 4).filter (fun m => m ≠ n && s.flag (fPipeEn m) && s.fld (fPipePort m) = n)).foldl (fun s m => stopPipe m s) s

theorem resetPipe_eq (n : Nat) (s : State) : resetPipe n s =
    setPort n .empty (setPipe n .empty ((resetRange (pipeR n 0) 0x4000 (pipesStopped n s)).setFld ⟨0xA4, 8 * n + 7, 8 * n⟩ 0)) := rfl

theorem ends_resetPipe (n : Fin 4) (hi : interior s = true) (hr : ready s = true) (hf : s.flag ⟨0x14, 2 + n.val, 2 + n.val⟩ = false) :
    Ends (.resetPipe n) s fun u => u.flag ⟨0x14, 2 + n.val, 2 + n.val⟩ = true
      ∧ (∀ k < 0x4000, C (0x50000 + 0x4000 * n.val) + k ∉ ([] : List Nat) →
          u.reg (C (0x50000 + 0x4000 * n.val) + k) = regReset (C (0x50000 + 0x4000 * n.val) + k))
      ∧ u.fld ⟨0xA4, 8 * n.val + 7, 8 * n.val⟩ = 0 ∧ pipeAt u n.val = PipeSt.empty ∧ portAt u n.val = PortSt.empty ∧ u.mem = s.mem := by
  have hn := n.isLt
  have hregs : (functionReset (2 + n.val) s).regs = ((resetRange (pipeR n 0) 0x4000 (pipesStopped n s)).setFld ⟨0xA4, 8 * n.val + 7, 8 * n.val⟩ 0).regs := by
    rw [functionReset_pipe hn, resetPipe_eq, regs_setPort, regs_setPipe]
  refine ends_reset (b := 2 + n.val) rfl (by omega) hi hr hf ⟨flag_resetDone (by omega) s, block_resetDone fun k hk _ => ?_, ?_, ?_, ?_, ?_⟩
  · rw [State.reg_of_regs_eq hregs, State.reg_setFld_of_ne (by simp only [C_eq]; omega), reg_resetRange,
      if_pos (by simp only [pipeR, Nat.add_zero]; omega)]
  · rw [fld_resetDone (by change 0xA4 ≠ 0x14; decide) (by change 0xA4 ≠ 0x18; decide), State.fld_of_regs_eq hregs,
      State.fld_setFld _ _ _ (by change 8 * n.val + 7 < 32; omega), Nat.zero_mod]
  · change pipeAt (functionReset (2 + n.val) s) n.val = _
    rw [functionReset_pipe hn, resetPipe_eq]
    exact getD_setAt_default _ _ _
  · change portAt (functionReset (2 + n.val) s) n.val = _
    rw [functionReset_pipe hn, resetPipe_eq]
    exact getD_setAt_default _ _ _
  · change (functionReset (2 + n.val) s).mem = _
    rw [functionReset_pipe hn, resetPipe_eq]
    exact mem_foldl_stopPipe _ s

end Sys2Proof.Machine
end

section
/-! PROOFS. Function resets of a peer port and of reel, and FUNCTION_RESET_DONE (Tables 18-8a and 19-5, R76). -/

namespace Sys2Proof.Machine

open Sys2Proof Sys2Proof.Safety Sys2Proof.Claims

variable {s t u : State} {n : Nat}

/-! ### A peer port -/

/-- Its link is down, or its training has failed. -/
def portDown (n : Nat) (s : State) : State := if s.fld (fLkState n) = 1 then trainFail n (peerAt s n).step 0 s else linkDown n 6 s

/-- The registers of the port after that. -/
def portRegs (n : Nat) (s : State) : State := (resetRange (peerR n 0) 0x4000 (portDown n s)).setFld (fLkErr n) 0

theorem resetPeer_eq (n : Nat) (s : State) :
    resetPeer n s = setPeer n { PeerPort.empty with ended := (peerAt (portDown n s) n).ended } (portRegs n s) := rfl

theorem regs_setPeer (n : Nat) (p : PeerPort) (s : State) : (setPeer n p s).regs = s.regs := rfl

theorem mem_portDown (n : Nat) (s : State) : (portDown n s).mem = s.mem := (congrArg State.mem (moves_down n 6 s).keeps.view :)

theorem reg_portRegs {r : Nat} (h : r ≠ 0x9C) (n : Nat) (s : State) :
    (portRegs n s).reg r = if peerR n 0 ≤ r ∧ r < peerR n 0 + 0x4000 then regReset r else (portDown n s).reg r := by
  rw [portRegs, State.reg_setFld_of_ne (Ne.symm h), reg_resetRange]

theorem fld_portRegs (hn : n < 4) (s : State) : (portRegs n s).fld (fLkState n) = 0 ∧ (portRegs n s).flag (fLkErr n) = false := by
  have hap : (fLkState n).Apart (fLkErr n) := .inr (.inr (by change 8 * n + 1 < 8 * n + 4; omega))
  have hout : ¬ (peerR n 0 ≤ 0x9C ∧ 0x9C < peerR n 0 + 0x4000) := by simp only [peerR, C_eq]; omega
  have hdown := lkState_down hn 6 s
  constructor
  · rw [portRegs, State.fld_setFld_of_apart (by change 8 * n + 6 < 32; omega) hap, State.fld, show (fLkState n).reg = 0x9C from rfl, reg_resetRange, if_neg hout]
    exact hdown
  · exact State.flag_setFlag _ _ _ false (by omega)

/-- A port in reset has no request, be it in the list of ports or not. -/
theorem peerAt_setPeer_empty (n : Nat) (e : List PeerDone) (s : State) :
    (peerAt (setPeer n { PeerPort.empty with ended := e } s) n).tags = [] ∧ (peerAt (setPeer n { PeerPort.empty with ended := e } s) n).waiting = [] := by
  rw [peerAt, setPeer, getElem?_setAt]
  by_cases h : n < s.peer.ports.length
  · rw [if_pos ⟨rfl, h⟩]
    exact ⟨rfl, rfl⟩
  · rw [if_neg fun x => h x.2, List.getElem?_eq_none (by omega)]
    exact ⟨rfl, rfl⟩

theorem ends_resetPeer (n : Fin 4) (hi : interior s = true) (hr : ready s = true) (hf : s.flag ⟨0x14, 9 + n.val, 9 + n.val⟩ = false) :
    Ends (.resetPeer n) s fun u => u.flag ⟨0x14, 9 + n.val, 9 + n.val⟩ = true ∧ u.fld (fLkState n.val) = 0 ∧ u.flag (fLkErr n.val) = false
      ∧ (∀ k < 0x4000, C (0x90000 + 0x4000 * n.val) + k ∉ ([] : List Nat) →
          u.reg (C (0x90000 + 0x4000 * n.val) + k) = regReset (C (0x90000 + 0x4000 * n.val) + k))
      ∧ (peerAt u n.val).tags = [] ∧ (peerAt u n.val).waiting = [] ∧ u.mem = s.mem := by
  have hn := n.isLt
  have hx : functionReset (9 + n.val) s = _ := (functionReset_peer hn s).trans (resetPeer_eq n.val s)
  have hregs : (functionReset (9 + n.val) s).regs = (portRegs n.val s).regs := by rw [hx, regs_setPeer]
  obtain ⟨hstate, herr⟩ := fld_portRegs hn s
  have hpeer := peerAt_setPeer_empty n.val (peerAt (portDown n.val s) n.val).ended (portRegs n.val s)
  rw [← hx] at hpeer
  have h14 : 0x9C ≠ 0x14 := by decide
  have h18 : 0x9C ≠ 0x18 := by decide
  refine ends_reset (b := 9 + n.val) rfl (by omega) hi hr hf ⟨flag_resetDone (by omega) s, ?_, ?_, block_resetDone fun k hk _ => ?_, hpeer.1, hpeer.2, ?_⟩
  · rw [fld_resetDone h14 h18, State.fld_of_regs_eq hregs, hstate]
  · rw [flag_resetDone_of_ne h14 h18, State.flag_of_fld_eq (State.fld_of_regs_eq hregs _), herr]
  · rw [State.reg_of_regs_eq hregs, reg_portRegs (by simp only [C_eq]; omega), if_pos (by simp only [peerR, Nat.add_zero]; omega)]
  · change (functionReset (9 + n.val) s).mem = _
    rw [hx]
    exact mem_portDown n.val s

/-! ### Reel -/

theorem reel_syncReel (ch : Nat) (s : State) : (syncReel ch s).reel = s.reel := (congrArg State.reel (keeps_syncReel ch s).view :)

/-- The chain of a channel that is not the host's is gone, and no other. -/
theorem chains_reelFree {ch : Nat} (h : ch ≠ 15) (s : State) : (reelFree ch s).reel.chains = Sparse.erase s.reel.chains ch := by
  unfold reelFree
  rw [if_pos h, reel_syncReel]
  rfl

theorem chains_chainEnd {ch : Nat} (h : ch ≠ 15) (c : Chain) (status : Nat) (s : State) :
    (chainEnd ch c status s).reel.chains = Sparse.erase s.reel.chains ch := by
  unfold chainEnd
  extract_lets s1
  have h1 : s1.reel = s.reel := by
    change (match c.index with
      | some i => onPacket c.ctx i (fun p => { p with ended := true }) (packetStatus c.ctx i status s)
      | none => s.setFlds [(fReel15Busy, 0), (fReel15Result, status)]).reel = s.reel
    cases c.index with
    | none => exact State.setFlds_reel _ _
    | some i => rfl
  rw [chains_reelFree h, h1]

/-- A key that is found is listed. -/
theorem exists_mem_of_find {α : Type} {m : Sparse α} {k : Nat} {v : α} (h : Sparse.find m k = some v) : ∃ e ∈ m, e.1 = k := by
  induction m with
  | nil => exact absurd h (by simp)
  | cons e m ih =>
    by_cases hk : e.1 = k
    · exact ⟨e, List.mem_cons_self, hk⟩
    · rw [Sparse.find, if_neg hk] at h
      obtain ⟨x, hx, he⟩ := ih h
      exact ⟨x, List.mem_cons_of_mem _ hx, he⟩

/-- The chains of a list have ended. -/
theorem chainOf_foldl_chainEnd {l : List (Nat × Chain)} (hl : ∀ e ∈ l, e.1 ≠ 15) (status ch : Nat) (s : State) :
    chainOf (l.foldl (fun s e => chainEnd e.1 e.2 status s) s) ch = if ∃ e ∈ l, e.1 = ch then none else chainOf s ch := by
  induction l generalizing s with
  | nil => simp
  | cons e l ih =>
    have hfind : chainOf (chainEnd e.1 e.2 status s) ch = if e.1 = ch then none else chainOf s ch := by
      rw [chainOf, chains_chainEnd (hl e List.mem_cons_self), Sparse.find_erase, chainOf]
    rw [List.foldl_cons, ih fun x hx => hl x (List.mem_cons_of_mem e hx), hfind]
    by_cases hm : ∃ x ∈ l, x.1 = ch
    · rw [if_pos hm, if_pos (hm.imp fun x hx => ⟨List.mem_cons_of_mem e hx.1, hx.2⟩)]
    · by_cases he : e.1 = ch
      · rw [if_neg hm, if_pos he, if_pos ⟨e, List.mem_cons_self, he⟩]
      · rw [if_neg hm, if_neg he, if_neg]
        rintro ⟨x, hx, hc⟩
        rcases List.mem_cons.mp hx with rfl | hx
        · exact he hc
        · exact hm ⟨x, hx, hc⟩

theorem chainOf_resetReel (ch : Nat) (s : State) : chainOf (resetReel s) ch = if ch = 15 then chainOf s 15 else none := by
  have hl : ∀ e ∈ s.reel.chains.filter (fun e => e.1 ≠ 15), e.1 ≠ 15 := fun e he => of_decide_eq_true (List.mem_filter.mp he).2
  change chainOf ((s.reel.chains.filter (fun e => e.1 ≠ 15)).foldl (fun s e => chainEnd e.1 e.2 3 s) s) ch = _
  rw [chainOf_foldl_chainEnd hl]
  by_cases h15 : ch = 15
  · rw [if_pos h15, if_neg (fun ⟨e, he, h⟩ => hl e he (h.trans h15)), h15]
  · rw [if_neg h15]
    cases hf : chainOf s ch with
    | none => exact ite_self _
    | some c =>
      obtain ⟨e, he, hk⟩ := exists_mem_of_find hf
      exact if_pos ⟨e, List.mem_filter.mpr ⟨he, decide_eq_true fun h => h15 (hk.symm.trans h)⟩, hk⟩

/-- Where no record is held, a reset has no record to answer. -/
theorem reel_resetFaults_of_nil (mine : Waiter → Bool) (h : s.mmu.recs = []) : (resetFaults mine s).reel = s.reel := by
  unfold resetFaults
  extract_lets hit m s1 s2
  have hhit : hit = [] := by rw [show hit = s.mmu.recs.filter _ from rfl, h, List.filter_nil]
  have h2 : s2 = s1 := by rw [show s2 = hit.foldl _ s1 from rfl, hhit, List.foldl_nil]
  have hrecs : s1.mmu.recs = [] := by rw [show s1.mmu.recs = s.mmu.recs.map _ from rfl, h, List.map_nil]
  rw [h2, hhit, settleSlots_of_nil hrecs]
  rfl

theorem ends_resetReel (hi : interior s = true) (hr : ready s = true) (hf : s.flag ⟨0x14, 13, 13⟩ = false) : Ends .resetReel s fun u =>
    u.flag ⟨0x14, 13, 13⟩ = true ∧ (∀ ch < 15, chainOf u ch = none) ∧ (s.mmu.recs = [] → chainOf u 15 = chainOf s 15)
      ∧ (∀ k < 0x3C0, C 0xA0000 + k ∉ ([] : List Nat) → u.reg (C 0xA0000 + k) = regReset (C 0xA0000 + k)) := by
  have hchain : ∀ ch, chainOf (resetDone 13 s) ch = chainOf (reelResets s) ch := fun ch => by
    change chainOf (functionReset 13 s) ch = _
    rw [functionReset_reel]
  refine ends_reset (b := 13) rfl (by decide) hi hr hf ⟨flag_resetDone (by decide) s, fun ch hlt => ?_, fun h => ?_, block_resetDone fun k hk _ => ?_⟩
  · rw [hchain, reelResets, chainOf_resetReel, if_neg (by omega)]
  · rw [hchain, reelResets, chainOf_resetReel, if_pos rfl, chainOf, reel_resetFaults_of_nil _ h, chainOf]
  · rw [functionReset_reel, reelResets, resetReel, reg_resetRange, if_pos (by simp only [reelR, Nat.mul_zero, Nat.add_zero]; omega)]

/-! ### FUNCTION_RESET_DONE -/

/-- INT_STATUS.RESET_DONE stays set. -/
def StaysDone (s t : State) : Prop := s.flag ⟨0x18, 18, 18⟩ = true → t.flag ⟨0x18, 18, 18⟩ = true

theorem StaysDone.trans (h : StaysDone s t) (k : StaysDone t u) : StaysDone s u := fun x => k (h x)

theorem staysDone_of_regs (h : t.regs = s.regs) : StaysDone s t := fun x => (State.flag_of_fld_eq (State.fld_of_regs_eq h _)).trans x

theorem staysDone_setFld {f : Fld} (h : f.reg ≠ 0x18) (v : Nat) : StaysDone s (s.setFld f v) := fun x =>
  (State.flag_setFld_of_apart (by decide) (.inl (Ne.symm h))).trans x

theorem staysDone_setFlds {l : List (Fld × Nat)} (h : ∀ e ∈ l, e.1.reg ≠ 0x18) (s : State) : StaysDone s (s.setFlds l) := by
  induction l generalizing s with
  | nil => exact id
  | cons e l ih => exact (staysDone_setFld (h e List.mem_cons_self) e.2).trans (ih (fun x hx => h x (List.mem_cons_of_mem e hx)) _)

theorem staysDone_raiseInt (b : Nat) (s : State) : StaysDone s (raiseInt b s) := fun x => by
  by_cases hb : b = 18
  · rw [hb]
    exact State.flag_setFld_one s 0x18 18 (by decide)
  · exact (State.flag_setFld_of_apart (by decide) (.inr (by change 18 < b ∨ b < 18; omega))).trans x

theorem staysDone_queueEvent (e : LogEntry) (s : State) : StaysDone s (queueEvent e s) := by
  rw [queueEvent]
  split
  · exact (staysDone_setFld (by decide) _).trans (staysDone_raiseInt _ _)
  · exact staysDone_of_regs rfl

theorem staysDone_reportEvent (e : LogEntry) (s : State) : StaysDone s (reportEvent e s) := by
  unfold reportEvent
  split
  · have h1 : StaysDone s (raiseInt iErrCorr (s.addSat ⟨C 0xC0004, 31, 0⟩ 1)) := (staysDone_setFld (by decide) _).trans (staysDone_raiseInt _ _)
    extract_lets s1 lim spent
    split
    · exact h1.trans (staysDone_setFld (by decide) _)
    · refine h1.trans (.trans ?_ (staysDone_queueEvent e _))
      exact staysDone_of_regs rfl
  · split
    · exact (staysDone_setFld (by decide) _).trans (staysDone_queueEvent e _)
    · exact staysDone_queueEvent e s

theorem staysDone_logEvent (cls code ctx src arg : Nat) (s : State) : StaysDone s (logEvent cls code ctx src arg s) := by
  unfold logEvent
  extract_lets now e
  split
  · exact staysDone_of_regs rfl
  · exact staysDone_reportEvent e s

theorem staysDone_setLink (n st cause : Nat) (s : State) : StaysDone s (setLink n st cause s) := by
  unfold setLink
  extract_lets old
  split
  · exact id
  · exact (staysDone_setFld (by change 0x9C ≠ 0x18; decide) _).trans ((staysDone_logEvent _ _ _ _ _ _).trans (staysDone_raiseInt _ _))

theorem staysDone_trainStart (n : Nat) (s : State) : StaysDone s (trainStart n s) := by
  unfold trainStart
  extract_lets s1 s2 p
  have hne : ∀ off hi lo, (⟨peerR n off, hi, lo⟩ : Fld).reg ≠ 0x18 := fun off hi lo => by simp only [peerR, C_eq]; omega
  refine (staysDone_setLink n 1 0 s).trans ((staysDone_setFlds (fun e he => ?_) s1).trans (staysDone_of_regs (regs_setPeer n _ s2)))
  rcases List.mem_append.mp he with h | h
  · simp only [List.mem_cons, List.not_mem_nil, or_false] at h
    rcases h with rfl | rfl | rfl <;> exact hne _ _ _
  · obtain ⟨off, hi, lo, h⟩ := credits_peerR n _ e h
    rw [h]
    exact hne _ _ _

theorem staysDone_tryTrain (n : Nat) (s : State) : StaysDone s (tryTrain n s) := by
  unfold tryTrain
  split
  · extract_lets s1
    split
    · exact (staysDone_trainStart n s).trans (staysDone_trainStart _ s1)
    · exact staysDone_trainStart n s
  · exact id

/-- The peer ports that a word of function bits names train. -/
def trainPorts (was : Nat) (s : State) : State := (numsFrom 0 4).foldl (fun s n => if bitN was (9 + n) then tryTrain n s else s) s

theorem staysDone_trainPorts (was : Nat) (s : State) : StaysDone s (trainPorts was s) := by
  have step : ∀ s n, StaysDone s (if bitN was (9 + n) then tryTrain n s else s) := fun s n => by
    split
    · exact staysDone_tryTrain n s
    · exact id
  exact (step s 0).trans ((step _ 1).trans ((step _ 2).trans (step _ 3)))

theorem moves_trainPorts (was : Nat) (s : State) : Moves linksFld offPeer s (trainPorts was s) :=
  .foldl _ s fun n _ s => .ite_refl (moves_tryTrain n s)

theorem trainPorts_of_clear {was : Nat} (h : ∀ n < 4, bitN was (9 + n) = false) (s : State) : trainPorts was s = s := by
  have step : ∀ n < 4, (if bitN was (9 + n) then tryTrain n s else s) = s := fun n hn => by rw [h n hn, if_neg (by decide)]
  change (fun s => if bitN was (9 + 3) then tryTrain 3 s else s) ((fun s => if bitN was (9 + 2) then tryTrain 2 s else s)
    ((fun s => if bitN was (9 + 1) then tryTrain 1 s else s) (if bitN was (9 + 0) then tryTrain 0 s else s))) = s
  rw [step 0 (by decide)]
  simp only [step 1 (by decide), step 2 (by decide), step 3 (by decide)]

/-- FUNC_BUSY is clear and RESET_DONE set. -/
def busyCleared (s : State) : State := raiseInt iResetDone (s.setFld fFuncBusy 0)

theorem exec_functionResetDone (hi : interior s = true) (hb : s.fld fFuncBusy ≠ 0) :
    exec .functionResetDone s = done (trainPorts (s.fld fFuncBusy) (busyCleared s)) := by
  change execFunctionResetDone s = _
  rw [execFunctionResetDone, onlyIf, if_pos (by rw [hi, decide_eq_true hb]; rfl)]
  rfl

theorem fld_busyCleared (s : State) : (busyCleared s).fld fFuncBusy = 0 := by
  rw [busyCleared, raiseInt, State.fld_setFld_of_apart (by decide) (.inl (by decide)), State.fld_setFld _ _ _ (by decide), Nat.zero_mod]

theorem ends_functionResetDone (hi : interior s = true) (hb : s.fld fFuncBusy ≠ 0) : Ends .functionResetDone s fun u =>
    u.fld fFuncBusy = 0 ∧ IntSet u 18 ∧ (s.fld ⟨0x14, 12, 9⟩ = 0 → OnlyRegs s u [0x14, 0x18] ∧ Rings s u [18]) := by
  have hm := moves_trainPorts (s.fld fFuncBusy) (busyCleared s)
  have hap : ∀ g, linksFld g → fFuncBusy.Apart g := fun g hg => .inl (by
    have h14 : fFuncBusy.reg = 0x14 := rfl
    rcases hg with (h | h) | h
    · rw [h]; decide
    · simp only [C_eq] at h; omega
    · rw [h]; decide)
  refine ends_of_done (exec_functionResetDone hi hb) ⟨?_, intSet_refresh ?_, fun h => ?_⟩
  · rw [fld_refresh _ _ (by decide), hm.keeps.fld _ (by decide) hap, fld_busyCleared]
  · exact staysDone_trainPorts _ _ (State.flag_setFld_one _ 0x18 18 (by decide))
  · have hclear : ∀ n < 4, bitN (s.fld fFuncBusy) (9 + n) = false := fun n hn => by
      have hmod : (s.reg 0x14).toNat / 2 ^ 9 % 2 ^ 4 = 0 := h
      have hbit := congrArg (fun x => x.testBit n) hmod
      simp only [Nat.testBit_mod_two_pow, Nat.testBit_div_two_pow, Nat.zero_testBit, hn, decide_true, Bool.true_and] at hbit
      rw [show bitN (s.fld fFuncBusy) (9 + n) = funcBusy s (9 + n) from rfl, funcBusy_eq_flag (by omega), flag_eq_bitN]
      rwa [Nat.add_comm] at hbit
    rw [trainPorts_of_clear hclear]
    have hreg : ∀ r, r ∉ [0x14, 0x18] → (busyCleared s).reg r = s.reg r := fun r hr => by
      simp only [List.mem_cons, List.not_mem_nil, or_false, not_or] at hr
      rw [busyCleared, raiseInt, State.reg_setFld_of_ne (Ne.symm hr.2), State.reg_setFld_of_ne (Ne.symm hr.1)]
    refine ⟨onlyRegs_refresh hreg rfl, rings_refresh ?_⟩
    rw [busyCleared, reg_raiseInt _ _ (by decide), State.reg_setFld_of_ne (by decide)]
    rfl

theorem idle_functionResetDone (hb : s.fld fFuncBusy = 0) : Idle .functionResetDone s := by
  refine idle_of_done ?_
  change execFunctionResetDone s = _
  rw [execFunctionResetDone, onlyIf, hb, if_neg (by simp)]

end Sys2Proof.Machine
end

section
/-! SUPPORT. Work that is discarded: what the units' views of it write, and that nothing of a context comes back (R157, R275, R318). -/

namespace Sys2Proof.Machine

open Sys2Proof Sys2Proof.Safety

variable {s t u : State} {n : Nat}

/-! ### Views of the registers -/

/-- Any field but CTX_ENABLE's. -/
def offEnable (f : Fld) : Prop := f.reg ≠ 0x4C

theorem offEnable_C (off hi lo : Nat) : offEnable ⟨C off, hi, lo⟩ := by change C off ≠ 0x4C; simp only [C_eq]; omega

/-- Fields of one register of the control space. -/
theorem keeps_view {l : List (Fld × Nat)} {off : Nat} (h : ∀ e ∈ l, e.1.reg = C off) (s : State) : Keeps offEnable offRegs s (s.setFlds l) :=
  keeps_setFlds l s (fun e he => by rw [offEnable, h e he]; exact offEnable_C off 0 0) fun _ _ _ => rfl

theorem keeps_syncResident (c : Nat) (s : State) : Keeps offEnable offRegs s (syncResident c s) := keeps_setFld (offEnable_C _ _ _) _ rfl

theorem keeps_syncCard (sp : Nat) (s : State) : Keeps offEnable offRegs s (syncCard sp s) := keeps_view (off := 0x1004C0 + sp * 0x1000) (by simp) s

theorem keeps_syncFly (f : Nat) (s : State) : Keeps offEnable offRegs s (syncFly f s) :=
  keeps_view (off := 0x100010 + (f / 4) * 0x1000 + 4 * (f % 4)) (by simp) s

theorem keeps_syncRas (s : State) : Keeps offEnable offRegs s (syncRas s) := by
  unfold syncRas
  extract_lets r
  split
  · exact keeps_view (off := 0x40000) (by simp [r]) s
  · exact keeps_view (off := 0x40000) (by simp [r]) s

theorem keeps_syncWeft (sp : Nat) (s : State) : Keeps offEnable offRegs s (syncWeft sp s) := by
  unfold syncWeft
  extract_lets r q
  split
  · exact keeps_view (off := 0x100300 + sp * 0x1000) (by simp [r]) s
  · exact keeps_view (off := 0x100300 + sp * 0x1000) (by simp [r]) s

theorem keeps_syncHalted (s : State) : Keeps offEnable offRegs s (syncHalted s) :=
  .foldl _ s fun _ _ _ => keeps_setReg _ (offEnable_C _ _ _) rfl

theorem keeps_syncSel (s : State) : Keeps offEnable offRegs s (syncSel s) := by
  unfold syncSel
  extract_lets sel k
  split
  · exact keeps_view (off := 0xD0008) (by simp) s
  · exact keeps_view (off := 0xD0008) (by simp) s

theorem keeps_syncDbg (s : State) : Keeps offEnable offRegs s (syncDbg s) := (keeps_syncHalted s).trans (keeps_syncSel _)

/-! ### What a discard of other work leaves -/

/-- The plies, packets, passes, traces and queued weft ops. -/
def workOf (s : State) : State :=
  { State.reset with q := s.q, fly := s.fly, ras := s.ras, weft := s.weft, ray := { State.reset.ray with traces := s.ray.traces } }

/-- Of CTX_ENABLE and of a context's work nothing has changed. -/
abbrev Still (s t : State) : Prop := Keeps offEnable workOf s t

theorem Still.of_regs (h : Keeps offEnable offRegs s t) : Still s t := h.coarsen workOf

theorem Still.of_mem (h : Moves memFld offMem s t) : Still s t := (h.keeps.coarsen workOf).mono fun g hg => by
  rcases hg with h | h
  · rw [offEnable, h]; decide
  · rw [offEnable]; simp only [C_eq] at h; omega

theorem Still.fly (h : Still s t) : t.fly = s.fly := (congrArg State.fly h.view :)
theorem Still.q (h : Still s t) : t.q = s.q := (congrArg State.q h.view :)
theorem Still.ras (h : Still s t) : t.ras = s.ras := (congrArg State.ras h.view :)
theorem Still.weft (h : Still s t) : t.weft = s.weft := (congrArg State.weft h.view :)
theorem Still.traces (h : Still s t) : t.ray.traces = s.ray.traces := (congrArg (fun x : State => x.ray.traces) h.view :)

/-! ### Hanks that free -/

theorem still_putRay (r : Ray) (s : State) : Still s (putRay r s) := .of_regs_eq rfl rfl

theorem still_cardCount (sp i : Nat) (s : State) : Still s (cardCount sp i s) := .of_mem (moves_bumpSp sp _ 1 s)

theorem still_closeHank (id why : Nat) (s : State) : Still s (closeHank id why s) := by
  unfold closeHank
  split
  · exact .refl s
  · next h _ =>
    dsimp only [freshId]
    have h1 : Still s { s with ray := { s.ray with next := s.ray.next + 1, hanks := s.ray.hanks.map (fun x =>
        if x.id = id then { x with phase := 1, closedAt := s.ray.next } else x) } } := .of_regs_eq rfl rfl
    exact .ite (fun _ => h1) fun _ => h1.trans (still_cardCount h.sp why _)

theorem still_fileRay (r : Ray) (s : State) : Still s (fileRay r s) := by
  unfold fileRay
  extract_lets key r1 mine sUnfiled
  split
  · next h _ =>
    extract_lets s1 y s2 s3
    have h1 : Still s s1 := still_putRay _ s
    have h2 : Still s1 s2 := .of_regs_eq rfl rfl
    have h3 : Still s2 s3 := still_cardCount _ 0 s2
    exact ((h1.trans (h2.trans h3)).trans (.ite (fun _ => still_closeHank h.id 1 s3) fun _ => .refl s3)).trans (Still.of_regs (keeps_syncCard _ _))
  · split
    · dsimp only [freshId]
      refine Keeps.trans ?_ (Still.of_regs (keeps_syncCard _ _))
      refine Keeps.trans ?_ (still_cardCount _ 0 _)
      refine Keeps.trans ?_ (still_putRay _ _)
      exact .of_regs_eq rfl rfl
    · have h1 : Still s sUnfiled := still_putRay _ s
      split
      · exact h1.trans (still_closeHank _ 8 sUnfiled)
      · exact h1

theorem still_fileWaiting (sp : Nat) (s : State) : Still s (fileWaiting sp s) :=
  .foldl _ s fun r _ s => .ite (fun _ => still_fileRay r s) fun _ => .refl s

theorem still_freeHanks (sp : Nat) (s : State) : Still s (freeHanks sp s) := by
  unfold freeHanks
  extract_lets m s1
  have h1 : Still s s1 := .of_regs_eq rfl rfl
  exact (h1.trans (still_fileWaiting sp s1)).trans (Still.of_regs (keeps_syncCard sp _))

/-! ### Areas whose content is lost -/

theorem still_undefBlock (h d : List Byte) (c base bx by' sm : Nat) (s : State) : Still s (undefBlock h d c base bx by' sm s) := by
  unfold undefBlock
  extract_lets old
  cases old with
  | none => exact .refl s
  | some o =>
    refine .foldl _ s fun w _ s => ?_
    split
    · exact Still.of_mem (moves_memPut _ _ _ s)
    · exact .refl s

theorem still_undefArea (p : Pass) (keep : List (Nat × Nat)) (s : State) : Still s (undefArea p keep s) := by
  unfold undefArea
  extract_lets base blocks one x
  have hone : ∀ d k n s, Still s (one d k n s) := fun d k n s =>
    .foldl _ s fun e _ s => .foldl _ s fun sm _ s => still_undefBlock _ _ _ _ _ _ _ s
  have h0 : Still s { s with free := base + 2 } := .of_regs_eq rfl rfl
  have hx : Still s x := h0.trans (hone p.target 0 (phSamples p.hdr) _)
  split
  · exact hx.trans (hone _ _ _ x)
  · exact hx

/-! ### Plies that are dropped -/

/-- All but the registers and the rays. -/
def offRays (s : State) : State := { offRegs s with ray := { s.ray with rays := [] } }

theorem Still.of_rays (h : Keeps offEnable offRays s t) : Still s t := h.coarsen workOf

/-- The plies that p picks are no longer there. -/
def withoutPlies (p : Ply → Bool) (s : State) : State := { s with fly := { s.fly with plies := s.fly.plies.filter (fun e => !p e.2) } }

theorem keeps_withoutPlies (p : Ply → Bool) (h : Keeps offEnable offRays s t) : Keeps offEnable offRays (withoutPlies p s) (withoutPlies p t) :=
  ⟨h.fld, congrArg (withoutPlies p) h.view⟩

theorem keeps_dropAllot (uid : Nat) (gone : Nat → Bool) (s : State) : Keeps offEnable offRays s (dropAllot uid gone s) := .of_regs_eq rfl rfl

theorem Keeps.to_rays (h : Keeps offEnable offRegs s t) : Keeps offEnable offRays s t := h.coarsen offRays

/-- Besides the plies only rays and views change. -/
theorem keeps_dropPlies (p : Ply → Bool) (s : State) : Keeps offEnable offRays (withoutPlies p s) (dropPlies p s) := by
  unfold dropPlies
  extract_lets gone s1 fly s2 s3 s4
  have h1 : Keeps offEnable offRays s s1 := .foldl _ s fun e _ s => keeps_dropAllot _ _ s
  have h2 : Keeps offEnable offRays (withoutPlies p s) s2 := keeps_withoutPlies p h1
  have h3 : Keeps offEnable offRegs s2 s3 := .foldl _ s2 fun f _ s => keeps_syncFly f s
  have h4 : Keeps offEnable offRegs s3 s4 := .foldl _ s3 fun c _ s => keeps_syncResident c s
  exact h2.trans (h3.trans (h4.trans (keeps_syncDbg s4))).to_rays

theorem plies_dropPlies (p : Ply → Bool) (s : State) : (dropPlies p s).fly.plies = s.fly.plies.filter (fun e => !p e.2) :=
  (congrArg (fun x : State => x.fly.plies) (keeps_dropPlies p s).view :)

/-! ### What comes back of a context: nothing -/

def NoPly (n : Nat) (s : State) : Prop := ∀ e ∈ s.fly.plies, e.2.owner.ctx ≠ n
def NoTrace (n : Nat) (s : State) : Prop := ∀ t ∈ s.ray.traces, t.ctx ≠ n
def NoPass (n : Nat) (s : State) : Prop := ∀ p ∈ s.ras.passes, p.ctx ≠ n
def NoWeft (n : Nat) (s : State) : Prop := ∀ e ∈ s.weft.queue, e.2.ctx ≠ n

/-- CTX_ENABLE is as it was, and of context n nothing has come up that was not there before. -/
structure Sheds (n : Nat) (s t : State) : Prop where
  enable : t.reg 0x4C = s.reg 0x4C
  flight : (ctxQ s n).flight = [] → (ctxQ t n).flight = []
  saved : (ctxQ s n).saved = none → (ctxQ t n).saved = none
  plies : NoPly n s → NoPly n t
  traces : NoTrace n s → NoTrace n t
  passes : NoPass n s → NoPass n t
  weft : NoWeft n s → NoWeft n t

theorem Sheds.refl (s : State) : Sheds n s s := ⟨rfl, id, id, id, id, id, id⟩

theorem Sheds.trans (h : Sheds n s t) (k : Sheds n t u) : Sheds n s u :=
  ⟨k.enable.trans h.enable, k.flight ∘ h.flight, k.saved ∘ h.saved, k.plies ∘ h.plies, k.traces ∘ h.traces, k.passes ∘ h.passes, k.weft ∘ h.weft⟩

theorem Sheds.foldl {α : Type} {f : State → α → State} (l : List α) (s : State) (h : ∀ a ∈ l, ∀ s, Sheds n s (f s a)) : Sheds n s (l.foldl f s) := by
  induction l generalizing s with
  | nil => exact .refl s
  | cons a t ih => exact (h a List.mem_cons_self s).trans (ih _ fun b hb => h b (List.mem_cons_of_mem a hb))

theorem ctxQ_of_q (h : t.q = s.q) (n : Nat) : ctxQ t n = ctxQ s n := by rw [ctxQ, ctxQ, h]

theorem Sheds.of_still (h : Still s t) : Sheds n s t where
  enable := h.reg 0x4C fun _ hg => hg
  flight := by rw [ctxQ_of_q h.q]; exact id
  saved := by rw [ctxQ_of_q h.q]; exact id
  plies := by rw [NoPly, NoPly, h.fly]; exact id
  traces := by rw [NoTrace, NoTrace, h.traces]; exact id
  passes := by rw [NoPass, NoPass, h.ras]; exact id
  weft := by rw [NoWeft, NoWeft, h.weft]; exact id

/-- The saved plies of a context with the one of a uid changed. -/
def onSaved (uid : Nat) (f : Ply → Ply) (q : CtxQ) : CtxQ :=
  { q with saved := q.saved.map fun w => { w with plies := w.plies.map fun e => if e.2.uid = uid then (e.1, f e.2) else e } }

theorem ctxQ_onUid (uid : Nat) (f : Ply → Ply) (s : State) (n : Nat) : ctxQ (onUid uid f s) n = onSaved uid f (ctxQ s n) := by
  have hfind : Sparse.find (onUid uid f s).q.ctxs n = (Sparse.find s.q.ctxs n).map (onSaved uid f) := find_map_values (onSaved uid f) _ _
  rw [ctxQ, ctxQ, Sparse.get, Sparse.get, hfind]
  cases Sparse.find s.q.ctxs n <;> rfl

/-- A ply with a uid changes, but not its owner. -/
theorem sheds_onUid (uid : Nat) {f : Ply → Ply} (hf : ∀ y, (f y).owner = y.owner) (s : State) : Sheds n s (onUid uid f s) := by
  refine ⟨rfl, fun h => by rw [ctxQ_onUid]; exact h, fun h => by rw [ctxQ_onUid, onSaved, h]; rfl, fun h e he => ?_, id, id, id⟩
  obtain ⟨x, hx, rfl⟩ := List.mem_map.mp he
  split
  · change (f x.2).owner.ctx ≠ n
    rw [hf]
    exact h x hx
  · exact h x hx

theorem ctxQ_setCtxQ (c : Nat) (q : CtxQ) (s : State) (n : Nat) : ctxQ (setCtxQ c q s) n = if c = n then q else ctxQ s n := Sparse.get_put _ _ _ _ _

theorem sheds_onPacket (c index : Nat) (f : Packet → Packet) (s : State) : Sheds n s (onPacket c index f s) := by
  have hq : (ctxQ s n).flight = [] → (ctxQ (onPacket c index f s) n).flight = [] := fun h => by
    rw [onPacket, ctxQ_setCtxQ]
    split
    · next hc => subst hc; rw [h]; rfl
    · exact h
  have hs : (ctxQ s n).saved = none → (ctxQ (onPacket c index f s) n).saved = none := fun h => by
    rw [onPacket, ctxQ_setCtxQ]
    split
    · next hc => subst hc; rw [h]; rfl
    · exact h
  exact ⟨rfl, hq, hs, id, id, id, id⟩

theorem sheds_packetStatus (c index st : Nat) (s : State) : Sheds n s (packetStatus c index st s) := sheds_onPacket c index _ s

theorem sheds_withoutPlies (p : Ply → Bool) (s : State) : Sheds n s (withoutPlies p s) :=
  ⟨rfl, id, id, fun h e he => h e (List.mem_filter.mp he).1, id, id, id⟩

theorem sheds_dropPlies (p : Ply → Bool) (s : State) : Sheds n s (dropPlies p s) :=
  (sheds_withoutPlies p s).trans (.of_still (Still.of_rays (keeps_dropPlies p s)))

theorem noPly_dropPlies (s : State) : NoPly n (dropPlies (fun y => y.owner.ctx = n) s) := fun e he => by
  rw [plies_dropPlies] at he
  simpa using (List.mem_filter.mp he).2

/-! ### Passes that end -/

/-- A discarded pass ends: its plies go, its area is lost, and it is no longer there. -/
theorem passEnd_shed (p : Pass) {status : Nat} (h0 : status ≠ 0) (s : State) : Sheds n s (passEnd p status s)
    ∧ (passEnd p status s).ras.passes = s.ras.passes.filter (fun q => !(q.ctx = p.ctx && q.index = p.index)) := by
  unfold passEnd
  rw [if_neg h0]
  extract_lets s1 ras s2
  have hplies : Keeps offEnable offRays (withoutPlies (plyOfPass p.ctx p.index) s) (dropPlies (plyOfPass p.ctx p.index) s) := keeps_dropPlies _ s
  have harea : Still (dropPlies (plyOfPass p.ctx p.index) s) s1 := still_undefArea _ _ _
  have hpasses : s1.ras.passes = s.ras.passes := congrArg (fun r : RasSt => r.passes) (harea.ras.trans (Still.of_rays hplies).ras)
  have hsync : Keeps offEnable offRegs s2 (syncRas s2) := keeps_syncRas s2
  have h1 : Sheds n s s1 := (sheds_dropPlies _ s).trans (.of_still harea)
  have h2 : Sheds n s1 s2 := ⟨rfl, id, id, id, id, fun h q hq => h q (List.mem_filter.mp hq).1, id⟩
  refine ⟨(h1.trans h2).trans ((Sheds.of_still (Still.of_regs hsync)).trans ((sheds_packetStatus _ _ _ _).trans (sheds_onPacket _ _ _ _))), ?_⟩
  change (syncRas s2).ras.passes = _
  rw [(Still.of_regs hsync).ras, ← hpasses]

/-- Passes of a list have ended. -/
theorem foldl_passEnd {status : Nat} (h0 : status ≠ 0) (l : List Pass) (s : State) : Sheds n s (l.foldl (fun s p => passEnd p status s) s)
    ∧ ∀ q ∈ (l.foldl (fun s p => passEnd p status s) s).ras.passes, q ∈ s.ras.passes ∧ q ∉ l := by
  induction l generalizing s with
  | nil => exact ⟨.refl s, fun q hq => ⟨hq, List.not_mem_nil⟩⟩
  | cons p l ih =>
    obtain ⟨hs, hp⟩ := passEnd_shed (n := n) p h0 s
    obtain ⟨ihs, ihp⟩ := ih (passEnd p status s)
    refine ⟨hs.trans ihs, fun q hq => ?_⟩
    obtain ⟨hq, hl⟩ := ihp q hq
    rw [hp] at hq
    obtain ⟨hq, hne⟩ := List.mem_filter.mp hq
    refine ⟨hq, fun h => ?_⟩
    rcases List.mem_cons.mp h with rfl | h
    · simp at hne
    · exact hl h

theorem dropPasses_shed (q : Pass → Bool) {status : Nat} (h0 : status ≠ 0) (s : State) : Sheds n s (dropPasses q status s)
    ∧ ∀ p ∈ (dropPasses q status s).ras.passes, p ∈ s.ras.passes ∧ q p = false := by
  obtain ⟨hs, hp⟩ := foldl_passEnd (n := n) h0 (s.ras.passes.filter q) s
  refine ⟨hs, fun p hm => ?_⟩
  obtain ⟨hm, hn⟩ := hp p hm
  exact ⟨hm, by simpa using fun h => hn (List.mem_filter.mpr ⟨hm, h⟩)⟩

theorem noPass_dropPasses {status : Nat} (h0 : status ≠ 0) (s : State) : NoPass n (dropPasses (fun p => p.ctx = n) status s) := fun p hp => by
  simpa using ((dropPasses_shed (n := n) _ h0 s).2 p hp).2

/-! ### Traces that are dropped -/

/-- A dropped trace's instruction retires, and its token or packet ends. -/
def endTrace (status : Nat) (s : State) (t : Trace) : State :=
  match t.owner with
  | .token u n => if t.told then traceRetire t s else tokenDone u n 1 (traceRetire t s)
  | .packet c i => onPacket c i (fun p => { p with ended := true }) (packetStatus c i status (traceRetire t s))

/-- The traces and rays of a list are no longer there. -/
def withoutTraces (ids lost : List Nat) (s : State) : State := { s with ray := { s.ray with
  traces := s.ray.traces.filter (fun t => !ids.contains t.id)
  rays := s.ray.rays.filter (fun r => !lost.contains r.id)
  groups := (s.ray.groups.map (fun g => { g with rays := g.rays.filter (fun e => !lost.contains e.1) })).filter (fun g => !g.rays.isEmpty)
  overflow := s.ray.overflow.filter (fun x => !lost.contains x.2.2.2.1)
  spooled := s.ray.spooled.filter (fun x => !lost.contains x.2.2.2.1) } }

/-- A thread's allotment is free. -/
def freeAllot (l : Nat) (y : Ply) : Ply := { y with allot := y.allot.map (fun a => if a.1 = l then (a.1, a.2.1, false) else a) }

/-- A lost ray's hank and its thread's allotment are free. -/
def freeRay (s : State) (r : Ray) : State :=
  freeHanks r.sp (match r.thread with
    | some (u, l) => onUid u (freeAllot l) s
    | none => s)

theorem dropTraces_eq (p : Trace → Bool) (status : Nat) (s : State) : dropTraces p status s =
    let gone := s.ray.traces.filter p
    let lost := s.ray.rays.filter (fun r => (gone.map (fun t => t.id)).contains r.trace)
    (lost.map (fun r => r.ctx)).dedup.foldl (fun s c => syncResident c s)
      (lost.foldl freeRay (withoutTraces (gone.map (fun t => t.id)) (lost.map (fun r => r.id)) (gone.foldl (endTrace status) s))) := rfl

theorem sheds_traceRetire (t : Trace) (s : State) : Sheds n s (traceRetire t s) := by
  unfold traceRetire
  split
  · exact .refl s
  · refine sheds_onUid _ (fun y => ?_) s
    split <;> rfl

theorem sheds_tokenDone (uid t status : Nat) (s : State) : Sheds n s (tokenDone uid t status s) :=
  sheds_onUid uid (f := fun y => { y with tokens := setAt y.tokens t ⟨false, status⟩ }) (fun _ => rfl) s

theorem sheds_endTrace (status : Nat) (s : State) (t : Trace) : Sheds n s (endTrace status s t) := by
  unfold endTrace
  split
  · split
    · exact sheds_traceRetire t s
    · exact (sheds_traceRetire t s).trans (sheds_tokenDone _ _ 1 _)
  · exact (sheds_traceRetire t s).trans ((sheds_packetStatus _ _ _ _).trans (sheds_onPacket _ _ _ _))

theorem ray_traceRetire (t : Trace) (s : State) : (traceRetire t s).ray = s.ray := by
  unfold traceRetire
  split <;> rfl

theorem ray_endTrace (status : Nat) (s : State) (t : Trace) : (endTrace status s t).ray = s.ray := by
  rw [← ray_traceRetire t s, endTrace]
  split
  · split <;> rfl
  · rfl

theorem ray_foldl_endTrace (status : Nat) (l : List Trace) (s : State) : (l.foldl (endTrace status) s).ray = s.ray := by
  induction l generalizing s with
  | nil => rfl
  | cons t l ih => rw [List.foldl_cons, ih, ray_endTrace]

theorem sheds_withoutTraces (ids lost : List Nat) (s : State) : Sheds n s (withoutTraces ids lost s) :=
  ⟨rfl, id, id, id, fun h t ht => h t (List.mem_filter.mp ht).1, id, id⟩

theorem freeRay_shed (s : State) (r : Ray) : Sheds n s (freeRay s r) ∧ (freeRay s r).ray.traces = s.ray.traces := by
  unfold freeRay
  cases r.thread with
  | none => exact ⟨.of_still (still_freeHanks r.sp s), (still_freeHanks r.sp s).traces⟩
  | some e => exact ⟨(sheds_onUid e.1 (f := freeAllot e.2) (fun _ => rfl) s).trans (.of_still (still_freeHanks r.sp _)), (still_freeHanks r.sp _).traces⟩

theorem foldl_freeRay_shed (l : List Ray) (s : State) : Sheds n s (l.foldl freeRay s) ∧ (l.foldl freeRay s).ray.traces = s.ray.traces := by
  induction l generalizing s with
  | nil => exact ⟨.refl s, rfl⟩
  | cons r l ih =>
    obtain ⟨hs, ht⟩ := freeRay_shed (n := n) s r
    obtain ⟨ihs, iht⟩ := ih (freeRay s r)
    exact ⟨hs.trans ihs, iht.trans ht⟩

theorem dropTraces_shed (p : Trace → Bool) (status : Nat) (s : State) : Sheds n s (dropTraces p status s)
    ∧ (dropTraces p status s).ray.traces = s.ray.traces.filter (fun t => !((s.ray.traces.filter p).map (fun t => t.id)).contains t.id) := by
  rw [dropTraces_eq]
  extract_lets gone lost
  have hres : ∀ x, Still x ((lost.map (fun r => r.ctx)).dedup.foldl (fun s c => syncResident c s) x) := fun x =>
    Still.of_regs (.foldl _ x fun c _ s => keeps_syncResident c s)
  obtain ⟨hfree, htraces⟩ := foldl_freeRay_shed (n := n) lost
    (withoutTraces (gone.map (fun t => t.id)) (lost.map (fun r => r.id)) (gone.foldl (endTrace status) s))
  refine ⟨?_, ?_⟩
  · have hend : Sheds n s (gone.foldl (endTrace status) s) := .foldl _ s fun t _ s => sheds_endTrace status s t
    exact hend.trans ((sheds_withoutTraces _ _ _).trans (hfree.trans (.of_still (hres _))))
  · rw [(hres _).traces, htraces, withoutTraces, ray_foldl_endTrace]

/-- No trace that p picks is left. -/
theorem not_picked_of_mem_dropTraces {p : Trace → Bool} {status : Nat} {s : State} {t : Trace} (h : t ∈ (dropTraces p status s).ray.traces) :
    p t = false := by
  rw [(dropTraces_shed (n := 0) p status s).2] at h
  obtain ⟨hm, hne⟩ := List.mem_filter.mp h
  cases hp : p t with
  | false => rfl
  | true =>
    have : t.id ∈ (s.ray.traces.filter p).map (fun t => t.id) := List.mem_map.mpr ⟨t, List.mem_filter.mpr ⟨hm, hp⟩, rfl⟩
    rw [List.contains_iff_mem.mpr this] at hne
    exact absurd hne (by decide)

theorem noTrace_dropTraces (status : Nat) (s : State) : NoTrace n (dropTraces (fun t => t.ctx = n) status s) := fun t ht => by
  simpa using not_picked_of_mem_dropTraces ht

end Sys2Proof.Machine
end

section
/-! PROOFS. O6: function resets of the ray engine and of raster, and all of them (R275, R294, R318). -/

namespace Sys2Proof.Machine

open Sys2Proof Sys2Proof.Safety Sys2Proof.Claims

variable {s t u : State}

/-! ### RAY -/

/-- No hank, group or allotment. -/
def rayCleared (s : State) : State :=
  { s with ray := { s.ray with hanks := [], groups := [], overflow := [], spooled := [], homes := [] }
           fly := { s.fly with plies := s.fly.plies.map (fun e => (e.1, { e.2 with allot := [] })) } }

theorem Keeps.ray_of_regs {W : Fld → Prop} (h : Keeps W offRegs s t) : t.ray = s.ray := (congrArg State.ray h.view :)

theorem Keeps.fly_of_regs {W : Fld → Prop} (h : Keeps W offRegs s t) : t.fly = s.fly := (congrArg State.fly h.view :)

theorem ray_resetDone (b : Nat) (s : State) : (resetDone b s).ray = (functionReset b s).ray := rfl

theorem fly_resetDone (b : Nat) (s : State) : (resetDone b s).fly = (functionReset b s).fly := rfl

theorem ras_resetDone (b : Nat) (s : State) : (resetDone b s).ras = (functionReset b s).ras := rfl

/-- The ray engine holds nothing. -/
structure RayIdle (s : State) : Prop where
  traces : s.ray.traces = []
  hanks : s.ray.hanks = []
  groups : s.ray.groups = []
  overflow : s.ray.overflow = []
  spooled : s.ray.spooled = []
  allot : ∀ e ∈ s.fly.plies, e.2.allot = []

theorem rayReset_eq (s : State) : rayReset s = (numsFrom 0 16).foldl (fun s c => syncResident c s)
    ((numsFrom 0 64).foldl (fun s sp => syncCard sp s) (rayCleared (dropTraces (fun _ => true) 3 s))) := rfl

theorem rayIdle_rayReset (s : State) : RayIdle (rayReset s) := by
  have hcards : ∀ x, Keeps offEnable offRegs x ((numsFrom 0 64).foldl (fun s sp => syncCard sp s) x) := fun x => .foldl _ x fun sp _ s => keeps_syncCard sp s
  have hres : ∀ x, Keeps offEnable offRegs x ((numsFrom 0 16).foldl (fun s c => syncResident c s) x) := fun x => .foldl _ x fun c _ s => keeps_syncResident c s
  have hk : Keeps offEnable offRegs (rayCleared (dropTraces (fun _ => true) 3 s)) (rayReset s) := by
    rw [rayReset_eq]
    exact (hcards _).trans (hres _)
  have htraces : (dropTraces (fun _ => true) 3 s).ray.traces = [] :=
    List.eq_nil_iff_forall_not_mem.mpr fun t ht => absurd (not_picked_of_mem_dropTraces ht) (by decide)
  have hray : (rayReset s).ray = (rayCleared (dropTraces (fun _ => true) 3 s)).ray := hk.ray_of_regs
  have hfly : (rayReset s).fly = (rayCleared (dropTraces (fun _ => true) 3 s)).fly := hk.fly_of_regs
  refine ⟨?_, ?_, ?_, ?_, ?_, ?_⟩
  · rw [hray]; exact htraces
  · rw [hray]; rfl
  · rw [hray]; rfl
  · rw [hray]; rfl
  · rw [hray]; rfl
  · rw [hfly]
    intro e he
    obtain ⟨x, -, rfl⟩ := List.mem_map.mp he
    rfl

theorem RayIdle.of_eq (h : RayIdle s) (hr : t.ray = s.ray) (hf : t.fly = s.fly) : RayIdle t := by
  obtain ⟨h1, h2, h3, h4, h5, h6⟩ := h
  exact ⟨hr ▸ h1, hr ▸ h2, hr ▸ h3, hr ▸ h4, hr ▸ h5, hf ▸ h6⟩

theorem rayIdle_dropPlies (p : Ply → Bool) (h : RayIdle s) : RayIdle (dropPlies p s) := by
  have hk := (keeps_dropPlies p s).view
  refine ⟨(congrArg (fun x : State => x.ray.traces) hk :).trans h.traces, (congrArg (fun x : State => x.ray.hanks) hk :).trans h.hanks,
    (congrArg (fun x : State => x.ray.groups) hk :).trans h.groups, (congrArg (fun x : State => x.ray.overflow) hk :).trans h.overflow,
    (congrArg (fun x : State => x.ray.spooled) hk :).trans h.spooled, fun e he => ?_⟩
  rw [plies_dropPlies] at he
  exact h.allot e (List.mem_filter.mp he).1

/-- Plies with callbacks go after the rays. -/
theorem functionReset_ray (s : State) : ∃ x, functionReset 0 s = dropPlies (fun y => !y.cbs.isEmpty) (rayReset x) := by
  rw [functionReset, if_pos rfl, resetRay]
  exact ⟨_, rfl⟩

/-- Plies of raster go after the passes. -/
theorem functionReset_raster (s : State) :
    ∃ x, functionReset 1 s = syncRas (dropPlies (fun y => y.owner.source = 1) (dropPasses (fun _ => true) 3 x)) := by
  rw [functionReset, if_neg (by decide), if_pos rfl, resetRaster]
  exact ⟨_, rfl⟩

theorem ends_resetRay (hi : interior s = true) (hr : ready s = true) (hf : s.flag ⟨0x14, 0, 0⟩ = false) : Ends .resetRay s fun u =>
    u.flag ⟨0x14, 0, 0⟩ = true ∧ u.ray.traces = [] ∧ u.ray.hanks = [] ∧ u.ray.groups = [] ∧ u.ray.overflow = [] ∧ u.ray.spooled = []
      ∧ (∀ e ∈ u.fly.plies, e.2.cbs = [] ∧ e.2.allot = []) := by
  obtain ⟨x, hx⟩ := functionReset_ray s
  have hplies : (resetDone 0 s).fly.plies = (rayReset x).fly.plies.filter (fun e => !!e.2.cbs.isEmpty) := by
    rw [fly_resetDone, hx, plies_dropPlies]
  have hidle : RayIdle (resetDone 0 s) :=
    (rayIdle_dropPlies _ (rayIdle_rayReset x)).of_eq (by rw [ray_resetDone, hx]) (by rw [fly_resetDone, hx])
  refine ends_reset (b := 0) rfl (by decide) hi hr hf ⟨flag_resetDone (by decide) s, hidle.traces, hidle.hanks, hidle.groups, hidle.overflow,
    hidle.spooled, fun e he => ⟨?_, hidle.allot e he⟩⟩
  rw [hplies] at he
  simpa using (List.mem_filter.mp he).2

/-! ### RASTER -/

/-- With no pass left, RASTER_STATUS shows none. -/
theorem flag_syncRas (h : s.ras.passes = []) : (syncRas s).flag ⟨C 0x40000, 31, 31⟩ = false := by
  unfold syncRas
  extract_lets r
  rw [activePass, h, List.find?_nil]
  change (s.setFlds [(⟨r, 31, 31⟩, 0), (⟨r, 30, 28⟩, 0), (⟨r, 27, 24⟩, 0), (⟨r, 9, 0⟩, 512)]).flag ⟨r, 31, 31⟩ = false
  rw [State.setFlds_cons, State.setFlds_cons, State.setFlds_cons, State.setFlds_cons, State.setFlds_nil]
  obtain ⟨x, hx⟩ : ∃ x, s.setFld ⟨r, 31, 31⟩ 0 = x := ⟨_, rfl⟩
  have h0 : x.flag ⟨r, 31, 31⟩ = false := hx ▸ State.flag_setFlag s r 31 false (by decide)
  rw [hx, State.flag_setFld_of_apart (show 31 < 32 by decide) (.inr (.inr (show 9 < 31 by decide))),
    State.flag_setFld_of_apart (show 31 < 32 by decide) (.inr (.inr (show 27 < 31 by decide))),
    State.flag_setFld_of_apart (show 31 < 32 by decide) (.inr (.inr (show 30 < 31 by decide))), h0]

theorem ends_resetRaster (hi : interior s = true) (hr : ready s = true) (hf : s.flag ⟨0x14, 1, 1⟩ = false) : Ends .resetRaster s fun u =>
    u.flag ⟨0x14, 1, 1⟩ = true ∧ u.ras.passes = [] ∧ (∀ e ∈ u.fly.plies, e.2.owner.source ≠ 1) ∧ u.flag ⟨C 0x40000, 31, 31⟩ = false := by
  obtain ⟨x, hx⟩ := functionReset_raster s
  have hpasses : (dropPasses (fun _ => true) 3 x).ras.passes = [] :=
    List.eq_nil_iff_forall_not_mem.mpr fun p hp => absurd ((dropPasses_shed (n := 0) (fun _ => true) (by decide) x).2 p hp).2 (by decide)
  generalize dropPasses (fun _ => true) 3 x = y at hx hpasses
  have hras : (dropPlies (fun y => y.owner.source = 1) y).ras = y.ras := (Still.of_rays (keeps_dropPlies _ y)).ras
  have hplies := plies_dropPlies (fun y => y.owner.source = 1) y
  generalize dropPlies (fun y => y.owner.source = 1) y = z at hx hras hplies
  have hsync : Still z (syncRas z) := Still.of_regs (keeps_syncRas z)
  refine ends_reset (b := 1) rfl (by decide) hi hr hf ⟨flag_resetDone (by decide) s, ?_, fun e he => ?_, ?_⟩
  · rw [ras_resetDone, hx, hsync.ras, hras, hpasses]
  · rw [fly_resetDone, hx, hsync.fly, hplies] at he
    simpa using (List.mem_filter.mp he).2
  · rw [flag_resetDone_of_ne (by decide) (by decide), hx, flag_syncRas (by rw [hras, hpasses])]

/-- Settles O6: a reset command resets the one function whose bit it is, and each function's reset is a reset of its registers and of its part of the state. -/
theorem functionResetsClearTheirFunction : Obligations.Function_resets_clear_their_function := fun _ hi =>
  ⟨fun hr => ⟨ends_resetRay hi hr, ends_resetRaster hi hr, fun n => ends_resetPipe n hi hr, ends_resetTouch hi hr, ends_resetCamera hi hr,
    ends_resetAudio hi hr, fun n => ends_resetPeer n hi hr, ends_resetReel hi hr⟩, idle_resets, ends_functionResetDone hi, idle_functionResetDone⟩

end Sys2Proof.Machine
end

section
/-! PROOFS. A context's STATE and CTX_STATUS, and doorbells (R80, R142, R144). -/

namespace Sys2Proof.Machine

open Sys2Proof Sys2Proof.Safety Sys2Proof.Claims

variable {s t u : State} {c n : Nat}

/-! ### Registers of a context -/

theorem reg_fQ (c : Nat) : C (0x20020 + c * 0x40) = qreg c 0x20 := congrArg C (by omega)

theorem qreg_ne (c off : Nat) {r : Nat} (h : r < 0x1000000) : qreg c off ≠ r := by simp only [qreg, C_eq]; omega

/-! ### CTX_STATUS -/

theorem offRegs_syncCtx (c : Nat) (s : State) : offRegs (syncCtx c s) = offRegs s := rfl

theorem reg_syncCtx {r : Nat} (h : r ≠ 0x50) (c : Nat) (s : State) : (syncCtx c s).reg r = s.reg r := State.reg_setFld_of_ne (Ne.symm h)

theorem fld_syncCtx {f : Fld} (h : f.reg ≠ 0x50) (c : Nat) (s : State) : (syncCtx c s).fld f = s.fld f := by rw [State.fld, State.fld, reg_syncCtx h]

theorem ctxState_syncCtx (hc : c < 16) (s : State) : (syncCtx c s).fld (fCtxState c) =
    if s.fld (fQState c) = 0 then 0 else if s.fld (fQState c) = 1 then 1 else if waitsOnFault s c then 3 else 2 := by
  rw [syncCtx, State.fld_setFld _ _ _ (by change 2 * c + 1 < 32; omega)]
  have hw : (fCtxState c).hi + 1 - (fCtxState c).lo = 2 := by change 2 * c + 1 + 1 - 2 * c = 2; omega
  rw [hw]
  split
  · rfl
  · split
    · rfl
    · split <;> rfl

/-! ### IN_FLIGHT and STATE -/

/-- Packets of a context in flight, saved ones with them. -/
def inFlight (c : Nat) (s : State) : Nat := (ctxQ s c).flight.length + ((ctxQ s c).saved.map (fun w => w.packets.length)).getD 0

/-- IN_FLIGHT is set, and IDLE or RUNNING follow. -/
def flightShown (c : Nat) (s : State) : State :=
  if (s.setFld (fQFlight c) (inFlight c s)).fld (fQState c) = 1 || (s.setFld (fQFlight c) (inFlight c s)).fld (fQState c) = 2 then
    (s.setFld (fQFlight c) (inFlight c s)).setFld (fQState c) (if (s.setFld (fQFlight c) (inFlight c s)).fld (fRead c)
      = (s.setFld (fQFlight c) (inFlight c s)).fld (fWrite c) && inFlight c s = 0 && (ctxQ s c).fetched.isNone then 1 else 2)
  else s.setFld (fQFlight c) (inFlight c s)

theorem syncQ_eq (c : Nat) (s : State) : syncQ c s = syncCtx c (flightShown c s) := rfl

theorem offRegs_flightShown (c : Nat) (s : State) : offRegs (flightShown c s) = offRegs s := by
  unfold flightShown
  split <;> rfl

theorem offRegs_syncQ (c : Nat) (s : State) : offRegs (syncQ c s) = offRegs s := by rw [syncQ_eq, offRegs_syncCtx, offRegs_flightShown]

theorem mem_syncQ (c : Nat) (s : State) : (syncQ c s).mem = s.mem := (congrArg State.mem (offRegs_syncQ c s) :)

theorem log_syncQ (c : Nat) (s : State) : (syncQ c s).log = s.log := (congrArg State.log (offRegs_syncQ c s) :)

theorem q_syncQ (c : Nat) (s : State) : (syncQ c s).q = s.q := (congrArg State.q (offRegs_syncQ c s) :)

theorem reg_flightShown {r : Nat} (h : r ≠ qreg c 0x20) (s : State) : (flightShown c s).reg r = s.reg r := by
  have hf : (fQFlight c).reg ≠ r := by rw [← reg_fQ] at h; exact Ne.symm h
  have hs : (fQState c).reg ≠ r := by rw [← reg_fQ] at h; exact Ne.symm h
  unfold flightShown
  split
  · rw [State.reg_setFld_of_ne hs, State.reg_setFld_of_ne hf]
  · rw [State.reg_setFld_of_ne hf]

theorem reg_syncQ {r : Nat} (h50 : r ≠ 0x50) (h : r ≠ qreg c 0x20) (s : State) : (syncQ c s).reg r = s.reg r := by
  rw [syncQ_eq, reg_syncCtx h50, reg_flightShown h]

theorem fld_syncQ {f : Fld} (h50 : f.reg ≠ 0x50) (h : f.reg ≠ qreg c 0x20) (s : State) : (syncQ c s).fld f = s.fld f := by
  rw [State.fld, State.fld, reg_syncQ h50 h]

/-- The other fields of QSTAT stay. -/
theorem fld_flightShown {f : Fld} (h : f.hi < 32) (hf : f.Apart (fQFlight c)) (hs : f.Apart (fQState c)) (s : State) : (flightShown c s).fld f = s.fld f := by
  unfold flightShown
  split
  · rw [State.fld_setFld_of_apart h hs, State.fld_setFld_of_apart h hf]
  · rw [State.fld_setFld_of_apart h hf]

theorem qState_apart_flight (c : Nat) : (fQState c).Apart (fQFlight c) := .inr (.inl (show 2 < 12 by decide))

/-- An IDLE or RUNNING context is IDLE where nothing of it waits or is in flight. -/
theorem qState_flightShown (h : s.fld (fQState c) = 1 ∨ s.fld (fQState c) = 2) : (flightShown c s).fld (fQState c) =
    if s.fld (fRead c) = s.fld (fWrite c) ∧ inFlight c s = 0 ∧ (ctxQ s c).fetched = none then 1 else 2 := by
  have hst : (s.setFld (fQFlight c) (inFlight c s)).fld (fQState c) = s.fld (fQState c) :=
    State.fld_setFld_of_apart (show 2 < 32 by decide) (qState_apart_flight c)
  have hring : ∀ f : Fld, f.reg ≠ qreg c 0x20 → (s.setFld (fQFlight c) (inFlight c s)).fld f = s.fld f := fun f hf => by
    rw [State.fld, State.fld, State.reg_setFld_of_ne (f := fQFlight c) (by rw [← reg_fQ] at hf; exact Ne.symm hf)]
  have hr : (fRead c).reg ≠ qreg c 0x20 := by simp only [fRead, rqR, qreg, C_eq]; omega
  have hw : (fWrite c).reg ≠ qreg c 0x20 := by simp only [fWrite, rqR, qreg, C_eq]; omega
  unfold flightShown
  rw [hst, hring _ hr, hring _ hw, if_pos (by rcases h with h | h <;> rw [h] <;> rfl), State.fld_setFld _ _ _ (show 2 < 32 by decide)]
  have hcond : ((s.fld (fRead c) = s.fld (fWrite c) && inFlight c s = 0 && (ctxQ s c).fetched.isNone) = true)
      ↔ (s.fld (fRead c) = s.fld (fWrite c) ∧ inFlight c s = 0 ∧ (ctxQ s c).fetched = none) := by
    simp [and_assoc]
  by_cases hi : s.fld (fRead c) = s.fld (fWrite c) ∧ inFlight c s = 0 ∧ (ctxQ s c).fetched = none
  · rw [if_pos hi, if_pos (hcond.mpr hi)]; rfl
  · rw [if_neg hi, if_neg (fun h => hi (hcond.mp h))]; rfl

theorem qState_syncQ (h : s.fld (fQState c) = 1 ∨ s.fld (fQState c) = 2) : (syncQ c s).fld (fQState c) =
    if s.fld (fRead c) = s.fld (fWrite c) ∧ inFlight c s = 0 ∧ (ctxQ s c).fetched = none then 1 else 2 := by
  rw [syncQ_eq, fld_syncCtx (by change C _ ≠ 0x50; simp only [C_eq]; omega), qState_flightShown h]

/-! ### A doorbell -/

/-- A doorbell command of the host, or of a peer whose link carries packets. -/
def RingsBell (s : State) (cmd : Instr) (src : Nat) (c : Fin 16) (index : BitVec 20) : Prop :=
  (cmd = .hostDoorbell c index ∧ src = 0) ∨ (∃ port : Fin 4, cmd = .peerDoorbell port c index ∧ src = 1 + port.val
    ∧ (s.fld (fLkState port.val) = 2 ∨ s.fld (fLkState port.val) = 3))

theorem exec_hostDoorbell (hi : interior s = true) (c : Fin 16) (index : BitVec 20) :
    exec (.hostDoorbell c index) s = done (doorbell 0 c index.toNat s) := by
  change execHostDoorbell c index s = _
  rw [execHostDoorbell, onlyIf, if_pos hi]

theorem exec_doorbell (hr : running s = true) (hready : ready s = true) {cmd : Instr} {src : Nat} {c : Fin 16} {index : BitVec 20}
    (h : RingsBell s cmd src c index) : exec cmd s = done (doorbellNow src c index.toNat s) := by
  rcases h with ⟨rfl, rfl⟩ | ⟨port, rfl, rfl, hl⟩
  · rw [exec_hostDoorbell (interior_of_running hr), doorbell, if_pos hready]
  · change execPeerDoorbell port c index s = _
    have hlive : linkLive s port = true := by simpa [linkLive] using hl
    rw [execPeerDoorbell, onlyIf, if_pos (by rw [hr, hlive]; rfl), doorbell, if_pos hready]

/-- Before READY it is held. -/
theorem ends_doorbell_held (hr : running s = true) (c : Fin 16) (index : BitVec 20) (hready : ready s = false) :
    Ends (.hostDoorbell c index) s fun u => u.boot = { s.boot with doorbells := s.boot.doorbells ++ [(0, c.val, index.toNat)] } ∧ RegsKept s u [] := by
  have hx := exec_hostDoorbell (interior_of_running hr) c index
  rw [doorbell, if_neg (by rw [hready]; decide)] at hx
  exact ends_of_done hx ⟨rfl, regsKept_refresh fun _ _ => rfl⟩

/-- The doorbell's context is enabled, and a peer may ring it. -/
def MayRing (s : State) (src n : Nat) : Prop := s.flag (fCtxEn n) = true ∧ (src = 0 ∨ s.flag (fPeerDb n) = true)

/-- The index is past RING_READ, within the ring and not behind RING_WRITE. -/
def fitsRing (s : State) (n index : Nat) : Bool :=
  0 < idxSub index (s.fld (fRead n)) && idxSub index (s.fld (fRead n)) ≤ 2 ^ s.fld (fSizeLog n)
    && idxSub index (s.fld (fWrite n)) ≤ 2 ^ s.fld (fSizeLog n) - idxSub (s.fld (fWrite n)) (s.fld (fRead n))

theorem ringTakes_iff (s : State) (n index : Nat) : ringTakes s n index ↔ index ≠ s.fld (fWrite n) ∧ fitsRing s n index = true := by
  rw [fitsRing, Bool.and_eq_true, Bool.and_eq_true, decide_eq_true_iff, decide_eq_true_iff, decide_eq_true_iff, and_assoc]
  exact Iff.rfl

theorem doorbellNow_of_mayRing {src index : Nat} (h : MayRing s src n) : doorbellNow src n index s =
    if index = s.fld (fWrite n) then s
    else if fitsRing s n index then syncQ n (leaveIdle (s.setFld (fWrite n) index))
    else logEvent 4 0x042 n src (doorbellWord n index) (s.setFld (fQReject n) 1) := by
  obtain ⟨hen, hsrc⟩ := h
  have hrej : (!s.flag (fCtxEn n) || (src ≠ 0 && !s.flag (fPeerDb n))) = false := by
    rw [hen, Bool.not_true, Bool.false_or]
    rcases hsrc with h | h
    · rw [h]; rfl
    · rw [h, Bool.not_true, Bool.and_false]
  unfold doorbellNow
  extract_lets reject r w size
  rw [hrej, if_neg (by decide)]
  rfl

theorem ringTakes_ne_read {index : Nat} (hlt : index < 2 ^ 20) (h : ringTakes s n index) : s.fld (fRead n) ≠ index := fun e => by
  obtain ⟨-, h0, -⟩ := h
  rw [ahead, e, Nat.mod_eq_of_lt hlt, Nat.add_sub_cancel_left, Nat.mod_self] at h0
  exact Nat.lt_irrefl 0 h0

/-- The ring takes the index: RING_WRITE moves, and the context runs. -/
theorem ends_doorbell_taken {cmd : Instr} {src index : Nat} (hx : exec cmd s = done (doorbellNow src n index s)) (hm : MayRing s src n) (hlt : index < 2 ^ 20)
    (hidle : s.fld fCurrent ≠ 1) (ht : ringTakes s n index) (hst : s.fld (fQState n) = 1 ∨ s.fld (fQState n) = 2) :
    Ends cmd s fun u => u.fld (fWrite n) = index ∧ u.fld (fQState n) = 2 ∧ RegsKept s u [0x50, qreg n 0x10, qreg n 0x20] ∧ u.q = s.q ∧ u.log = s.log := by
  have hne : ∀ r, r ≠ qreg n 0x10 → (s.setFld (fWrite n) index).reg r = s.reg r := fun r h => State.reg_setFld_of_ne (f := fWrite n) (Ne.symm h)
  have hfld : ∀ f : Fld, f.reg ≠ qreg n 0x10 → (s.setFld (fWrite n) index).fld f = s.fld f := fun f h => by rw [State.fld, State.fld, hne _ h]
  have hwrite : (s.setFld (fWrite n) index).fld (fWrite n) = index :=
    (State.fld_setFld _ _ _ (show 19 < 32 by decide)).trans (Nat.mod_eq_of_lt hlt)
  have hread : (s.setFld (fWrite n) index).fld (fRead n) = s.fld (fRead n) := hfld _ (by simp only [fRead, rqR, qreg, C_eq]; omega)
  have hstate : (s.setFld (fWrite n) index).fld (fQState n) = s.fld (fQState n) := hfld _ (by simp only [fQState, qreg, C_eq]; omega)
  have hcurrent : (s.setFld (fWrite n) index).fld fCurrent = s.fld fCurrent := hfld _ (Ne.symm (qreg_ne n 0x10 (by decide)))
  have hq : (s.setFld (fWrite n) index).q = s.q := rfl
  have hlog : (s.setFld (fWrite n) index).log = s.log := rfl
  rw [doorbellNow_of_mayRing hm, if_neg ht.1, if_pos ((ringTakes_iff s n index).mp ht).2] at hx
  generalize s.setFld (fWrite n) index = x at *
  rw [leaveIdle, hcurrent, if_neg hidle] at hx
  refine ends_of_done hx ⟨?_, ?_, regsKept_refresh fun r hr => ?_, by rw [refresh_q, q_syncQ, hq], by rw [refresh_log, log_syncQ, hlog]⟩
  · rw [fld_refresh _ _ (qreg_ne n 0x10 (by decide)), fld_syncQ (qreg_ne n 0x10 (by decide)) (by simp only [fWrite, rqR, qreg, C_eq]; omega), hwrite]
  · rw [fld_refresh _ _ (by simp only [fQState, C_eq]; omega), qState_syncQ (by rw [hstate]; exact hst), hread, hwrite,
      if_neg fun h => ringTakes_ne_read hlt ht h.1]
  · simp only [List.mem_cons, List.not_mem_nil, or_false, not_or] at hr
    rw [reg_syncQ hr.1 hr.2.2, hne r hr.2.1]

/-- The ring cannot take it: QSTAT.REJECT, and an event. -/
theorem ends_doorbell_rejected {cmd : Instr} {src index : Nat} (hx : exec cmd s = done (doorbellNow src n index s)) (hi : interior s = true)
    (hm : MayRing s src n) (hroom : Room s 0x042) (ht : ¬ ringTakes s n index) (hw : index ≠ s.fld (fWrite n)) :
    Ends cmd s fun u => u.flag (fQReject n) = true ∧ u.fld (fWrite n) = s.fld (fWrite n) ∧ Logs s u 4 0x042 n src (index + n * 2 ^ 28)
      ∧ RegsKept s u [qreg n 0x20] := by
  have hne : ∀ r, r ≠ qreg n 0x20 → (s.setFld (fQReject n) 1).reg r = s.reg r := fun r h => by
    rw [← reg_fQ] at h
    exact State.reg_setFld_of_ne (f := fQReject n) (Ne.symm h)
  have hrej : (s.setFld (fQReject n) 1).flag (fQReject n) = true := State.flag_setFld_one s _ 7 (by decide)
  have hint : interior (s.setFld (fQReject n) 1) = true :=
    (interior_of_core (s := s) (t := s.setFld (fQReject n) 1) rfl (hne fFrozen.reg (Ne.symm (qreg_ne n 0x20 (by decide))))).trans hi
  rw [doorbellNow_of_mayRing hm, if_neg hw, if_neg fun h => ht ((ringTakes_iff s n index).mpr ⟨hw, h⟩), logEvent_of_room hint (by decide) hroom] at hx
  have h18 : ∀ off, (qreg n off) ≠ 0x18 := fun off => qreg_ne n off (by decide)
  refine ends_of_done hx ⟨?_, ?_, fun _ => rfl, regsKept_refresh fun r hr => hne r fun e => hr (List.mem_singleton.mpr e)⟩
  · rw [flag_refresh _ _ (by rw [show (fQReject n).reg = qreg n 0x20 from reg_fQ n]; exact h18 _)]
    exact hrej
  · rw [fld_refresh _ _ (h18 0x10), State.fld, State.fld]
    exact congrArg (bitsOf · 19 0) (hne _ (by simp only [fWrite, rqR, qreg, C_eq]; omega))

/-- A doorbell for a disabled context, or from a peer that may not ring it. -/
theorem ends_doorbell_disabled {cmd : Instr} {src index : Nat} (hx : exec cmd s = done (doorbellNow src n index s)) (hi : interior s = true)
    (hroom : Room s 0x042) (h : s.flag (fCtxEn n) = false ∨ (src ≠ 0 ∧ s.flag (fPeerDb n) = false)) :
    Ends cmd s fun u => Rings s u [20] ∧ Logs s u 4 0x042 n src (index + n * 2 ^ 28) ∧ RegsKept s u [0x18] := by
  have hrej : (!s.flag (fCtxEn n) || (src ≠ 0 && !s.flag (fPeerDb n))) = true := by
    rcases h with h | ⟨h1, h2⟩
    · rw [h]; rfl
    · rw [h2, decide_eq_true h1, Bool.not_false, Bool.and_true, Bool.or_true]
  have hnow : doorbellNow src n index s = raiseInt iDoorbellReject (logEvent 4 0x042 n src (doorbellWord n index) s) := if_pos hrej
  rw [hnow, logEvent_of_room hi (by decide) hroom] at hx
  refine ends_of_done hx ⟨rings_refresh ?_, fun _ => rfl, regsKept_refresh fun r hr => ?_⟩
  · rw [reg_raiseInt _ _ (by decide)]
    rfl
  · exact State.reg_setFld_of_ne (f := ⟨0x18, iDoorbellReject, iDoorbellReject⟩) fun e => hr (List.mem_singleton.mpr e.symm)

theorem idle_doorbell {cmd : Instr} {src index : Nat} (hx : exec cmd s = done (doorbellNow src n index s)) (hm : MayRing s src n)
    (hw : index = s.fld (fWrite n)) : Idle cmd s := by
  rw [doorbellNow_of_mayRing hm, if_pos hw] at hx
  exact idle_of_done hx

end Sys2Proof.Machine
end

section
/-! PROOFS. Contexts are enabled (R155). -/

namespace Sys2Proof.Machine

open Sys2Proof Sys2Proof.Safety Sys2Proof.Claims

variable {s t u : State} {n : Nat}

/-! ### The pinning check -/

/-- All of a list, or none. -/
theorem allSome_isSome {α : Type} (l : List (Option α)) : (allSome l).isSome = true ↔ ∀ a ∈ l, a.isSome = true := by
  induction l with
  | nil => simp [allSome]
  | cons a l ih =>
    cases a with
    | none => simp [allSome]
    | some a => simp [allSome, ih]

/-- An address in a PINNED lea. -/
def PinnedAt (s : State) (va : Nat) : Prop := ∃ off, target s va = .skein off ∧ roleOf s (off / 65536) = 3

/-- Whether an address is in a PINNED lea depends on memory alone. -/
theorem pinnedAt_of_mem {va : Nat} (h : t.mem = s.mem) (hp : PinnedAt s va) : PinnedAt t va := by
  obtain ⟨off, ht, hr⟩ := hp
  obtain ⟨h1, h2, ho, -⟩ := target_skein ht
  have hrole : ∀ k, roleOf t k = roleOf s k := fun k => by rw [roleOf, roleOf, h]
  have hoff : roleOf t ((va - 0x100000000000) / 65536) = 3 := by rw [← ho, hrole, hr]
  exact ⟨_, target_of_skein h1 h2 (.inr hoff), hoff⟩

/-- Without translation a page of the save area passes the check in a PINNED lea only. -/
theorem pinnedPage_isSome (h : s.flag (fXlate n) = false) (va : Nat) : (pinnedPage s n va).isSome = true ↔ PinnedAt s va := by
  unfold pinnedPage
  extract_lets lea
  have hlea : lea va = true ↔ PinnedAt s va := by
    change (match target s va with | .skein off => decide (roleOf s (off / 65536) = 3) | _ => false) = true ↔ _
    rw [PinnedAt]
    cases target s va <;> simp
  rw [h, if_pos (by decide), ← hlea]
  cases lea va <;> simp

/-- Pages of the save area as the check finds them. -/
def savePagesOf (n : Nat) (s : State) : Option (List Nat) :=
  allSome ((numsFrom 0 (savePageCount s n)).map (fun i => pinnedPage s n ((saveBase s n + 4096 * i) % 2 ^ 48)))

theorem savePagesOf_isSome (h : s.flag (fXlate n) = false) : (savePagesOf n s).isSome = true ↔
    ∀ i < savePageCount s n, PinnedAt s ((saveBase s n + 4096 * i) % 2 ^ 48) := by
  rw [savePagesOf, allSome_isSome, List.forall_mem_map]
  constructor
  · exact fun hp i hi => (pinnedPage_isSome h _).mp (hp i ((mem_numsFrom _ _ _).mpr ⟨Nat.zero_le i, (Nat.zero_add _).symm ▸ hi⟩))
  · intro hp i hi
    have := (mem_numsFrom _ _ _).mp hi
    exact (pinnedPage_isSome h _).mpr (hp i (by omega))

/-- The context's CTX_ENABLE bit is set. -/
def ctxEnabled (n : Nat) (s : State) : State := s.setFld (fCtxEn n) 1

theorem reg_ctxEnabled {r : Nat} (h : r ≠ 0x4C) (n : Nat) (s : State) : (ctxEnabled n s).reg r = s.reg r := State.reg_setFld_of_ne (Ne.symm h)

theorem fld_ctxEnabled {f : Fld} (h : f.reg ≠ 0x4C) (n : Nat) (s : State) : (ctxEnabled n s).fld f = s.fld f := by rw [State.fld, State.fld, reg_ctxEnabled h]

/-- The check of an enabled context is that of its save area. -/
theorem savePagesOf_ctxEnabled (h : s.flag (fXlate n) = false) : (savePagesOf n (ctxEnabled n s)).isSome = true ↔ areaPinned s n := by
  have hx : (ctxEnabled n s).flag (fXlate n) = false :=
    (State.flag_of_fld_eq (fld_ctxEnabled (by change C _ ≠ 0x4C; simp only [C_eq]; omega) n s)).trans h
  have hcount : savePageCount (ctxEnabled n s) n = (s.fld ⟨qreg n 0x1C, 6, 0⟩ + 3) * 16 := by
    rw [savePageCount, fld_ctxEnabled (qreg_ne n 0x1C (by decide))]
    rfl
  have hbase : saveBase (ctxEnabled n s) n = s.fld ⟨qreg n 0x14, 31, 16⟩ * 65536 + s.fld ⟨qreg n 0x18, 15, 0⟩ * 2 ^ 32 := by
    have hlo : (ctxEnabled n s).reg (rqR n 0x14) = s.reg (rqR n 0x14) := reg_ctxEnabled (qreg_ne n 0x14 (by decide)) n s
    have hhi : (ctxEnabled n s).reg (rqR n 0x18) = s.reg (rqR n 0x18) := reg_ctxEnabled (qreg_ne n 0x18 (by decide)) n s
    rw [saveBase, addr48, hlo, hhi]
    rfl
  rw [savePagesOf_isSome hx, hcount, hbase]
  have hmem : (ctxEnabled n s).mem = s.mem := State.setFld_mem s _ _
  exact ⟨fun hp i hi => pinnedAt_of_mem hmem.symm (hp i hi), fun hp i hi => pinnedAt_of_mem hmem (hp i hi)⟩

/-! ### The two ways it ends -/

theorem check_of_none (h : savePagesOf n s = none) : ctxEnable.check n s = queueOffError n 3 s := by
  rw [savePagesOf] at h
  unfold ctxEnable.check
  rw [h]

theorem regs_setCtxQ (c : Nat) (q : CtxQ) (s : State) : (setCtxQ c q s).regs = s.regs := rfl

/-- What the check sets where it passes. -/
def checkPassed (n : Nat) (pages : List Nat) (s : State) : State :=
  setCtxQ n { CtxQ.empty with savePages := pages } (s.setFlds [(fQError n, 0), (fQReject n, 0), (fQHeld n, 0), (fQState n, 1)])

theorem parts_checkPassed (n : Nat) (pages : List Nat) (s : State) :
    (checkPassed n pages (ctxEnabled n s)).mem = s.mem ∧ (checkPassed n pages (ctxEnabled n s)).log = s.log := by
  have hmem : ∀ (q : CtxQ) (x : State), (setCtxQ n q x).mem = x.mem := fun _ _ => rfl
  have hlog : ∀ (q : CtxQ) (x : State), (setCtxQ n q x).log = x.log := fun _ _ => rfl
  rw [checkPassed, hmem, hlog, State.setFlds_mem, State.setFlds_log, ctxEnabled, State.setFld_mem, State.setFld_log]
  exact ⟨rfl, rfl⟩

theorem check_of_some {pages : List Nat} (h : savePagesOf n s = some pages) : ctxEnable.check n s = syncQ n (checkPassed n pages s) := by
  rw [savePagesOf] at h
  unfold ctxEnable.check
  rw [h]
  rfl

theorem exec_ctxEnableSet {c : Fin 16} (hr : running s = true) : exec (.ctxEnableSet c) s = done (ctxEnable c.val s) := by
  change execCtxEnableSet c s = _
  rw [execCtxEnableSet, onlyIf, if_pos hr]

theorem ctxEnable_of_off (hn : n ≠ 0) (hen : s.flag (fCtxEn n) = false) (hst : s.fld (fQState n) = 0) :
    ctxEnable n s = ctxEnable.check n (ctxEnabled n s) := by
  have hst' : (ctxEnabled n s).fld (fQState n) = 0 := (fld_ctxEnabled (by simp only [fQState, C_eq]; omega) n s).trans hst
  unfold ctxEnable
  rw [hen, decide_eq_false hn, if_neg (by decide)]
  change (if (ctxEnabled n s).fld (fQState n) ≠ 0 then ctxEnabled n s else ctxEnable.check n (ctxEnabled n s)) = _
  rw [if_neg (fun h => h hst')]

theorem idle_ctxEnableSet {c : Fin 16} (hr : running s = true) (h : c.val = 0 ∨ s.flag (fCtxEn c.val) = true) : Idle (.ctxEnableSet c) s := by
  refine idle_of_done ((exec_ctxEnableSet hr).trans (congrArg done ?_))
  unfold ctxEnable
  rw [if_pos]
  rcases h with h | h
  · rw [decide_eq_true h]; rfl
  · rw [h, Bool.or_true]

theorem flds_checkPassed (n : Nat) (pages : List Nat) (s : State) : (checkPassed n pages s).fld (fQState n) = 1 ∧ (checkPassed n pages s).fld (fQError n) = 0
    ∧ ∀ r, r ≠ qreg n 0x20 → (checkPassed n pages s).reg r = s.reg r := by
  have hl : List.Pairwise (fun a b : Fld × Nat => a.1.Apart b.1) [(fQError n, 0), (fQReject n, 0), (fQHeld n, 0), (fQState n, 1)] := by
    simp [Fld.Apart, fQError, fQReject, fQHeld, fQState]
  have hregs : (checkPassed n pages s).regs = (s.setFlds [(fQError n, 0), (fQReject n, 0), (fQHeld n, 0), (fQState n, 1)]).regs := regs_setCtxQ _ _ _
  refine ⟨?_, ?_, fun r h => ?_⟩
  · rw [State.fld_of_regs_eq hregs, State.fld_setFlds_mem _ s (v := 1) (show 2 < 32 by decide) (by simp) hl]
    rfl
  · rw [State.fld_of_regs_eq hregs, State.fld_setFlds_mem _ s (v := 0) (show 11 < 32 by decide) (by simp) hl]
    rfl
  rw [State.reg_of_regs_eq hregs]
  refine State.reg_setFlds_of_ne _ s fun e he => ?_
  have hreg : e.1.reg = C (0x20020 + n * 0x40) := by
    simp only [List.mem_cons, List.not_mem_nil, or_false] at he
    rcases he with rfl | rfl | rfl | rfl <;> rfl
  rw [hreg, reg_fQ]
  exact Ne.symm h

theorem ends_ctxEnableSet_idle {c : Fin 16} (hr : running s = true) (hn : c.val ≠ 0) (hen : s.flag (fCtxEn c.val) = false) (hst : s.fld (fQState c.val) = 0)
    (hx : s.flag (fXlate c.val) = false) (hp : areaPinned s c.val) (hrw : s.fld (fRead c.val) = s.fld (fWrite c.val)) :
    Ends (.ctxEnableSet c) s fun u => u.flag (fCtxEn c.val) = true ∧ u.fld (fQState c.val) = 1 ∧ u.fld (fCtxState c.val) = 1 ∧ u.fld (fQError c.val) = 0
      ∧ RegsKept s u [0x4C, 0x50, qreg c.val 0x20] ∧ u.mem = s.mem ∧ u.log = s.log := by
  have hlt := c.isLt
  have hex := exec_ctxEnableSet (c := c) hr
  generalize c.val = n at *
  obtain ⟨pages, hpages⟩ := Option.isSome_iff_exists.mp ((savePagesOf_ctxEnabled hx).mpr hp)
  rw [ctxEnable_of_off hn hen hst, check_of_some hpages] at hex
  obtain ⟨hstate, herror, hreg⟩ := flds_checkPassed n pages (ctxEnabled n s)
  have hq : ctxQ (checkPassed n pages (ctxEnabled n s)) n = { CtxQ.empty with savePages := pages } := (ctxQ_setCtxQ n _ _ n).trans (if_pos rfl)
  have hparts : (checkPassed n pages (ctxEnabled n s)).mem = s.mem ∧ (checkPassed n pages (ctxEnabled n s)).log = s.log :=
    parts_checkPassed n pages s
  generalize checkPassed n pages (ctxEnabled n s) = y at *
  obtain ⟨hmem, hlog⟩ := hparts
  have hflight : inFlight n y = 0 := by rw [inFlight, hq]; rfl
  have hring : y.fld (fRead n) = y.fld (fWrite n) := by
    have hf : ∀ f : Fld, f.reg ≠ 0x4C → f.reg ≠ qreg n 0x20 → y.fld f = s.fld f := fun f h h' => by rw [State.fld, State.fld, hreg _ h', reg_ctxEnabled h]
    rw [hf _ (qreg_ne n 0xC (by decide)) (by simp only [fRead, rqR, qreg, C_eq]; omega),
      hf _ (qreg_ne n 0x10 (by decide)) (by simp only [fWrite, rqR, qreg, C_eq]; omega), hrw]
  have hq1 : (syncQ n y).fld (fQState n) = 1 := by rw [qState_syncQ (.inl hstate), if_pos ⟨hring, hflight, by rw [hq]; rfl⟩]
  have hqreg : ∀ f : Fld, f.reg = C (0x20020 + n * 0x40) → f.reg ≠ 0x18 ∧ f.reg ≠ 0x50 := fun f h => by rw [h]; simp only [C_eq]; omega
  refine ends_of_done hex ⟨?_, ?_, ?_, ?_, regsKept_refresh fun r hm => ?_, by rw [refresh_mem, mem_syncQ, hmem], by rw [refresh_log, log_syncQ, hlog]⟩
  · refine (State.flag_of_fld_eq (y := ctxEnabled n s) ?_).trans (State.flag_setFld_one s 0x4C n (by omega))
    rw [fld_refresh _ _ (by change 0x4C ≠ 0x18; decide), fld_syncQ (by change 0x4C ≠ 0x50; decide) (Ne.symm (qreg_ne n 0x20 (r := 0x4C) (by decide))), State.fld, State.fld,
      hreg (fCtxEn n).reg (Ne.symm (qreg_ne n 0x20 (r := 0x4C) (by decide)))]
  · rw [fld_refresh _ _ (hqreg _ rfl).1, hq1]
  · have hshown : (flightShown n y).fld (fQState n) = 1 := by rw [← fld_syncCtx (hqreg (fQState n) rfl).2 n, ← syncQ_eq, hq1]
    rw [fld_refresh _ _ (by change 0x50 ≠ 0x18; decide), syncQ_eq, ctxState_syncCtx hlt, hshown]
    rfl
  · rw [fld_refresh _ _ (hqreg _ rfl).1, syncQ_eq, fld_syncCtx (hqreg _ rfl).2,
      fld_flightShown (f := fQError n) (show 11 < 32 by decide) (.inr (.inl (show 11 < 12 by decide))) (.inr (.inr (show 2 < 8 by decide))), herror]
  · simp only [List.mem_cons, List.not_mem_nil, or_false, not_or] at hm
    rw [reg_syncQ hm.2.1 hm.2.2, hreg _ hm.2.2, reg_ctxEnabled hm.1]

end Sys2Proof.Machine
end

section
/-! PROOFS. Contexts go OFF, and stop (R155, R157). -/

namespace Sys2Proof.Machine

open Sys2Proof Sys2Proof.Safety Sys2Proof.Claims

variable {s t u : State} {n : Nat}

/-! ### ERROR with the context OFF -/

theorem State.regs_setLog (s : State) (l : LogSt) : ({ s with log := l } : State).regs = s.regs := rfl

theorem State.log_setLog (s : State) (l : LogSt) : ({ s with log := l } : State).log = l := rfl

/-- CTX_ENABLE clear, STATE OFF with ERROR, and the ring's error bit. -/
def offWithError (n code : Nat) (s : State) : State :=
  (s.setFld (fCtxEn n) 0).setFlds [(fQError n, code), (fQState n, 0), (⟨C 0x20408, n, n⟩, 1)]

theorem queueOffError_eq (n code : Nat) (s : State) : queueOffError n code s =
    syncCtx n (logEvent 4 0x081 n code ((offWithError n code s).fld (fRead n)) (offWithError n code s)) := rfl

theorem errorFlds_apart (n code : Nat) :
    List.Pairwise (fun a b : Fld × Nat => a.1.Apart b.1) [(fQError n, code), (fQState n, 0), (⟨C 0x20408, n, n⟩, 1)] := by
  have hne : C (0x20020 + n * 0x40) ≠ C 0x20408 := by simp only [C_eq]; omega
  have h1 : (fQError n).Apart (fQState n) := .inr (.inr (show 2 < 8 by decide))
  have h2 : (fQError n).Apart ⟨C 0x20408, n, n⟩ := .inl hne
  have h3 : (fQState n).Apart ⟨C 0x20408, n, n⟩ := .inl hne
  exact .cons (fun e he => by
    simp only [List.mem_cons, List.not_mem_nil, or_false] at he
    rcases he with rfl | rfl
    · exact h1
    · exact h2) (.cons (fun e he => by rw [List.mem_singleton.mp he]; exact h3) (.cons (fun e he => absurd he List.not_mem_nil) .nil))

theorem flds_offWithError (hn : n < 16) (code : Nat) (s : State) : (offWithError n code s).fld (fQError n) = code % 16
    ∧ (offWithError n code s).fld (fQState n) = 0 ∧ (offWithError n code s).flag ⟨C 0x20408, n, n⟩ = true ∧ (offWithError n code s).flag (fCtxEn n) = false := by
  have hl := errorFlds_apart n code
  refine ⟨State.fld_setFlds_mem _ _ (v := code) (show 11 < 32 by decide) List.mem_cons_self hl,
    State.fld_setFlds_mem _ _ (v := 0) (show 2 < 32 by decide) (List.mem_cons_of_mem _ List.mem_cons_self) hl, ?_, ?_⟩
  · have hbit : (offWithError n code s).fld ⟨C 0x20408, n, n⟩ = 1 % 2 ^ (n + 1 - n) :=
      State.fld_setFlds_mem _ _ (v := 1) (show n < 32 by omega) (List.mem_cons_of_mem _ (List.mem_cons_of_mem _ List.mem_cons_self)) hl
    rw [Nat.add_sub_cancel_left] at hbit
    rw [State.flag, hbit]
    decide
  · have hap : ∀ e ∈ [(fQError n, code), (fQState n, 0), (⟨C 0x20408, n, n⟩, 1)], (fCtxEn n).Apart e.1 := fun e he => .inl (by
      simp only [List.mem_cons, List.not_mem_nil, or_false] at he
      rcases he with rfl | rfl | rfl
      · change 0x4C ≠ C _; simp only [C_eq]; omega
      · change 0x4C ≠ C _; simp only [C_eq]; omega
      · change 0x4C ≠ C _; simp only [C_eq]; omega)
    have hk : (offWithError n code s).fld (fCtxEn n) = (s.setFld (fCtxEn n) 0).fld (fCtxEn n) :=
      State.fld_setFlds_of_apart _ _ (by change n < 32; omega) hap
    exact (State.flag_of_fld_eq hk).trans (State.flag_setFlag s 0x4C n false (by omega))

theorem reg_offWithError {r : Nat} (h : r ∉ [0x4C, qreg n 0x20, C 0x20408]) (code : Nat) (s : State) : (offWithError n code s).reg r = s.reg r := by
  simp only [List.mem_cons, List.not_mem_nil, or_false, not_or] at h
  obtain ⟨h1, h2, h3⟩ := h
  rw [← reg_fQ] at h2
  have hl : ∀ e ∈ [(fQError n, code), (fQState n, 0), (⟨C 0x20408, n, n⟩, 1)], e.1.reg ≠ r := fun e he => by
    simp only [List.mem_cons, List.not_mem_nil, or_false] at he
    rcases he with rfl | rfl | rfl
    · exact Ne.symm h2
    · exact Ne.symm h2
    · exact Ne.symm h3
  rw [offWithError, State.reg_setFlds_of_ne _ _ hl, State.reg_setFld_of_ne (f := fCtxEn n) (Ne.symm h1)]

theorem parts_offWithError (n code : Nat) (s : State) : (offWithError n code s).core = s.core ∧ (offWithError n code s).log = s.log := by
  rw [offWithError, State.setFlds_core, State.setFlds_log, State.setFld_core, State.setFld_log]
  exact ⟨rfl, rfl⟩

/-- The event of a context that goes OFF with an error. -/
def offLogged (n code : Nat) (s : State) : LogSt := s.log.queue
  { cls := 4, ctx := n % 16, code := 0x081, src := code % 65536, time := s.core.timebase.toNat % 2 ^ 48, arg := s.fld (fRead n) % 2 ^ 48 }

theorem queueOffError_of_room (hi : interior s = true) (hroom : Room s 0x081) (code : Nat) :
    queueOffError n code s = syncCtx n { offWithError n code s with log := offLogged n code s } := by
  obtain ⟨hcore, hlog⟩ := parts_offWithError n code s
  have hkept : ∀ r, r < 0x1000000 → r ≠ 0x4C → (offWithError n code s).reg r = s.reg r := fun r h h' => by
    refine reg_offWithError ?_ code s
    simp only [List.mem_cons, List.not_mem_nil, or_false, not_or]
    exact ⟨h', Ne.symm (qreg_ne n 0x20 h), by simp only [C_eq]; omega⟩
  have hread : (offWithError n code s).fld (fRead n) = s.fld (fRead n) := by
    rw [State.fld, State.fld, reg_offWithError]
    simp only [List.mem_cons, List.not_mem_nil, or_false, not_or]
    exact ⟨qreg_ne n 0xC (by decide), by simp only [fRead, rqR, qreg, C_eq]; omega, by simp only [fRead, rqR, C_eq]; omega⟩
  have hint : interior (offWithError n code s) = true := (interior_of_core hcore (hkept fFrozen.reg (by decide) (by decide))).trans hi
  have hroom' : Room (offWithError n code s) 0x081 := by rw [Room, hlog]; exact hroom
  have hentry : offLogged n code s = (offWithError n code s).log.queue
      { cls := 4, ctx := n % 16, code := 0x081, src := code % 65536, time := (offWithError n code s).core.timebase.toNat % 2 ^ 48,
        arg := (offWithError n code s).fld (fRead n) % 2 ^ 48 } := by
    rw [hread, hcore, hlog, offLogged]
  rw [queueOffError_eq, logEvent_of_room hint (by decide) hroom', hentry]

/-! ### A save area that is not pinned -/

theorem interior_ctxEnabled (n : Nat) (s : State) : interior (ctxEnabled n s) = interior s :=
  interior_of_core (s := s) (t := ctxEnabled n s) rfl (reg_ctxEnabled (by decide) n s)

theorem ends_ctxEnableSet_off {c : Fin 16} (hr : running s = true) (hn : c.val ≠ 0) (hen : s.flag (fCtxEn c.val) = false) (hst : s.fld (fQState c.val) = 0)
    (hx : s.flag (fXlate c.val) = false) (hp : ¬ areaPinned s c.val) (hroom : Room s 0x081) :
    Ends (.ctxEnableSet c) s fun u => u.flag (fCtxEn c.val) = false ∧ u.fld (fQState c.val) = 0 ∧ u.fld (fCtxState c.val) = 0 ∧ u.fld (fQError c.val) = 3
      ∧ u.flag ⟨C 0x20408, c.val, c.val⟩ = true ∧ IntSet u 21 ∧ Logs s u 4 0x081 c.val 3 (s.fld (fRead c.val))
      ∧ RegsKept s u [0x18, 0x4C, 0x50, qreg c.val 0x20, C 0x20408] := by
  have hlt := c.isLt
  have hex := exec_ctxEnableSet (c := c) hr
  have hi := interior_of_running hr
  generalize c.val = n at *
  have hnone : savePagesOf n (ctxEnabled n s) = none := by
    rw [← Option.not_isSome_iff_eq_none]
    exact fun h => hp ((savePagesOf_ctxEnabled hx).mp h)
  rw [ctxEnable_of_off hn hen hst, check_of_none hnone,
    queueOffError_of_room (by rw [interior_ctxEnabled]; exact hi) (show Room (ctxEnabled n s) 0x081 from hroom)] at hex
  obtain ⟨herror, hstate, hbit, hoff⟩ := flds_offWithError hlt 3 (ctxEnabled n s)
  have hreg : ∀ r, r ∉ [0x4C, qreg n 0x20, C 0x20408] → (offWithError n 3 (ctxEnabled n s)).reg r = s.reg r := fun r h => by
    rw [reg_offWithError h, reg_ctxEnabled (fun e => h (e ▸ List.mem_cons_self))]
  have hcore : (ctxEnabled n s).core = s.core := State.setFld_core s _ _
  have hlog : (ctxEnabled n s).log = s.log := State.setFld_log s _ _
  have hentry : offLogged n 3 (ctxEnabled n s) = offLogged n 3 s := by
    rw [offLogged, offLogged, fld_ctxEnabled (f := fRead n) (qreg_ne n 0xC (r := 0x4C) (by decide)), hcore, hlog]
  rw [hentry] at hex
  obtain ⟨y, hy, hyregs, hylog⟩ : ∃ y, { offWithError n 3 (ctxEnabled n s) with log := offLogged n 3 s } = y
      ∧ y.regs = (offWithError n 3 (ctxEnabled n s)).regs ∧ y.log = offLogged n 3 s := ⟨_, rfl, State.regs_setLog _ _, State.log_setLog _ _⟩
  rw [hy] at hex
  rw [← State.fld_of_regs_eq hyregs] at herror hstate
  rw [← State.flag_of_fld_eq (State.fld_of_regs_eq hyregs _)] at hbit hoff
  have hyreg : ∀ r, r ∉ [0x4C, qreg n 0x20, C 0x20408] → y.reg r = s.reg r := fun r h => (State.reg_of_regs_eq hyregs r).trans (hreg r h)
  have hsync : ∀ f : Fld, f.reg ≠ 0x50 → f.reg ≠ 0x18 → (refresh (syncCtx n y)).fld f = y.fld f := fun f h h' => by
    rw [fld_refresh _ _ h', fld_syncCtx h]
  have hfl : ∀ f : Fld, f.reg ≠ 0x50 → f.reg ≠ 0x18 → (refresh (syncCtx n y)).flag f = y.flag f := fun f h h' => State.flag_of_fld_eq (hsync f h h')
  have hqreg : (fQState n).reg ≠ 0x50 ∧ (fQState n).reg ≠ 0x18 := by simp only [fQState, C_eq]; omega
  have hshown : (refresh (syncCtx n y)).flag ⟨C 0x20408, n, n⟩ = true := (hfl _ (by change C _ ≠ _; decide) (by change C _ ≠ _; decide)).trans hbit
  refine ends_of_done hex ⟨(hfl (fCtxEn n) (by change 0x4C ≠ _; decide) (by change 0x4C ≠ _; decide)).trans hoff, (hsync _ hqreg.1 hqreg.2).trans hstate, ?_,
    (hsync (fQError n) hqreg.1 hqreg.2).trans herror, hshown, ?_, ?_, regsKept_refresh fun r hm => ?_⟩
  · rw [fld_refresh _ _ (by change 0x50 ≠ 0x18; decide), ctxState_syncCtx hlt, if_pos hstate]
  · obtain ⟨-, -, -, -, hqueue⟩ := conditionsShown_refresh (syncCtx n y)
    refine hqueue fun h => ?_
    rw [State.flag_mk, h] at hshown
    exact absurd hshown (by simp [bitsOf])
  · intro _
    rw [refresh_log]
    exact hylog
  · simp only [List.mem_cons, List.not_mem_nil, or_false, not_or] at hm
    rw [reg_syncCtx hm.2.2.1, hyreg]
    simp only [List.mem_cons, List.not_mem_nil, or_false, not_or]
    exact ⟨hm.2.1, hm.2.2.2.1, hm.2.2.2.2⟩

/-! ### CTX_ENABLE is cleared -/

theorem exec_ctxEnableClear {c : Fin 16} (hr : running s = true) (hn : c.val ≠ 0) : exec (.ctxEnableClear c) s = done (ctxStop c.val s) := by
  have hc : c ≠ 0 := fun h => hn (h ▸ rfl)
  change execCtxEnableClear c s = _
  rw [execCtxEnableClear, onlyIf, if_pos (by rw [hr, decide_eq_true hc]; rfl)]

theorem idle_ctxEnableClear {c : Fin 16} (hn : c.val = 0) : Idle (.ctxEnableClear c) s := by
  have hc : c = 0 := Fin.ext hn
  refine idle_of_done ?_
  change execCtxEnableClear c s = _
  rw [execCtxEnableClear, onlyIf, hc, if_neg (by simp)]

/-- The registers of a stop: STATE is STOPPING, and ABORTED counts nothing. -/
def stopFlds (n : Nat) (s : State) : State := ((s.setFld (fCtxEn n) 0).addSat (fAborted n) 0).setFld (fQState n) 7

/-- With no fault record, stopping a context writes its registers only. -/
theorem ctxStop_of_no_records (hst : s.fld (fQState n) ≠ 0) (hst' : s.fld (fQState n) ≠ 7) (hr : s.mmu.recs = []) (hh : s.mmu.held = []) :
    ctxStop n s = syncCtx n (stopFlds n s) := by
  have hkept : (s.setFld (fCtxEn n) 0).fld (fQState n) = s.fld (fQState n) :=
    State.fld_setFld_of_apart (show 2 < 32 by decide) (.inl (by change C _ ≠ 0x4C; simp only [C_eq]; omega))
  have hmmu : ∀ f v, (s.setFld f v).mmu = s.mmu := fun _ _ => rfl
  have hcond : ((s.setFld (fCtxEn n) 0).fld (fQState n) = 0 || (s.setFld (fCtxEn n) 0).fld (fQState n) = 7) = false := by
    rw [hkept, decide_eq_false hst, decide_eq_false hst']
    rfl
  unfold ctxStop
  extract_lets x mine k m y
  have hx : x.mmu.recs = [] ∧ x.mmu.held = [] := by rw [show x.mmu = s.mmu from hmmu _ _]; exact ⟨hr, hh⟩
  have hk : k = 0 := by
    change (x.mmu.recs.filter _).foldl _ 0 + (x.mmu.held.filter _).foldl _ 0 = 0
    rw [hx.1, hx.2]
    rfl
  have hy : y = x := by
    change { x with mmu := { x.mmu with recs := x.mmu.recs.map _, held := x.mmu.held.filter _ } } = x
    rw [hx.1, hx.2, List.map_nil, List.filter_nil, ← hx.1]
    conv_lhs => rw [← hx.2]
  rw [hcond, if_neg (by decide), hy, hk, settleSlots_of_nil]
  · rfl
  · exact hx.1

theorem flds_stopFlds (hn : n < 16) (s : State) : (stopFlds n s).fld (fQState n) = 7 ∧ (stopFlds n s).flag (fCtxEn n) = false
    ∧ ∀ r, r ∉ [0x4C, qreg n 0x20, C (0x1000C + 0x40 * n)] → (stopFlds n s).reg r = s.reg r := by
  have hab : (fAborted n).reg = C (0x1000C + 0x40 * n) := congrArg C (by omega)
  have hen : (s.setFld (fCtxEn n) 0).flag (fCtxEn n) = false := State.flag_setFlag s 0x4C n false (by omega)
  have h32 : (fCtxEn n).hi < 32 := by change n < 32; omega
  have hap : ∀ f : Fld, 0x1000000 ≤ f.reg → (fCtxEn n).Apart f := fun f h => .inl (by change 0x4C ≠ f.reg; omega)
  refine ⟨?_, ?_, fun r h => ?_⟩
  · rw [stopFlds, State.fld_setFld _ _ _ (show 2 < 32 by decide)]
    exact Nat.mod_eq_of_lt (show 7 < 2 ^ 3 by decide)
  · rw [stopFlds, State.flag_setFld_of_apart h32 (hap _ (by simp only [fQState, C_eq]; omega)), State.addSat,
      State.flag_setFld_of_apart h32 (hap _ (by simp only [fAborted, C_eq]; omega)), hen]
  · simp only [List.mem_cons, List.not_mem_nil, or_false, not_or] at h
    obtain ⟨h1, h2, h3⟩ := h
    rw [← reg_fQ] at h2
    rw [← hab] at h3
    rw [stopFlds, State.reg_setFld_of_ne (f := fQState n) (Ne.symm h2), State.addSat, State.reg_setFld_of_ne (Ne.symm h3),
      State.reg_setFld_of_ne (f := fCtxEn n) (Ne.symm h1)]

theorem offRegs_eq_setFld (f : Fld) (v : Nat) (s : State) : offRegs (s.setFld f v) = offRegs s := rfl

theorem mmu_of_offRegs (h : offRegs t = offRegs s) : t.mmu = s.mmu := (congrArg State.mmu h :)

theorem offRegs_stopFlds (n : Nat) (s : State) : offRegs (stopFlds n s) = offRegs s := by
  rw [stopFlds, State.addSat, offRegs_eq_setFld, offRegs_eq_setFld, offRegs_eq_setFld]

theorem ends_ctxEnableClear {c : Fin 16} (hr : running s = true) (hn : c.val ≠ 0) (hst : s.fld (fQState c.val) ≠ 0) (hst' : s.fld (fQState c.val) ≠ 7)
    (hrecs : s.mmu.recs = []) (hheld : s.mmu.held = []) :
    Ends (.ctxEnableClear c) s fun u => u.flag (fCtxEn c.val) = false ∧ u.fld (fQState c.val) = 7 ∧ u.fld (fCtxState c.val) = 2
      ∧ RegsKept s u [0x4C, 0x50, qreg c.val 0x20, C (0x1000C + 0x40 * c.val)] ∧ u.fly = s.fly ∧ u.q = s.q ∧ u.mem = s.mem := by
  have hlt := c.isLt
  have hex := exec_ctxEnableClear (c := c) hr hn
  generalize c.val = n at *
  rw [ctxStop_of_no_records hst hst' hrecs hheld] at hex
  obtain ⟨hstate, hen, hreg⟩ := flds_stopFlds hlt s
  have hview := (offRegs_syncCtx n (stopFlds n s)).trans (offRegs_stopFlds n s)
  have hmmu : (stopFlds n s).mmu = s.mmu := mmu_of_offRegs (offRegs_stopFlds n s)
  generalize stopFlds n s = y at *
  have hwaits : waitsOnFault y n = false := by
    rw [waitsOnFault, hmmu, hrecs, hheld]
    rfl
  have hqreg : (fQState n).reg ≠ 0x50 ∧ (fQState n).reg ≠ 0x18 := by simp only [fQState, C_eq]; omega
  refine ends_of_done hex ⟨(State.flag_of_fld_eq ?_).trans hen, ?_, ?_, regsKept_refresh fun r hm => ?_, (congrArg State.fly hview :),
    (congrArg State.q hview :), (congrArg State.mem hview :)⟩
  · rw [fld_refresh _ _ (by change 0x4C ≠ 0x18; decide), fld_syncCtx (by change 0x4C ≠ 0x50; decide)]
  · rw [fld_refresh _ _ hqreg.2, fld_syncCtx hqreg.1, hstate]
  · rw [fld_refresh _ _ (by change 0x50 ≠ 0x18; decide), ctxState_syncCtx hlt, hstate, hwaits]
    rfl
  · simp only [List.mem_cons, List.not_mem_nil, or_false, not_or] at hm
    rw [reg_syncCtx hm.2.1, hreg]
    simp only [List.mem_cons, List.not_mem_nil, or_false, not_or]
    exact ⟨hm.1, hm.2.2.1, hm.2.2.2⟩

end Sys2Proof.Machine
end

section
/-! PROOFS. O19: a stopped context is OFF with nothing of it left (R157), and the doorbell and enable commands together. -/

namespace Sys2Proof.Machine

open Sys2Proof Sys2Proof.Safety Sys2Proof.Claims

variable {s t u : State} {n : Nat}

/-! ### Chains that are dropped -/

theorem still_syncReel (ch : Nat) (s : State) : Still s (syncReel ch s) :=
  ((keeps_syncReel ch s).coarsen workOf).mono fun g hg => by
    change C 0xA0000 ≤ g.reg at hg
    simp only [C_eq] at hg
    change g.reg ≠ 0x4C
    omega

theorem still_orphan (f : List Nat → Bool) (s : State) : Still s (orphan f s) := .of_regs_eq rfl rfl

theorem still_reelUnwait (ch : Nat) (s : State) : Still s (reelUnwait ch s) := .of_regs_eq rfl rfl

theorem still_setReel (r : ReelSt) (s : State) : Still s { s with reel := r } := .of_regs_eq rfl rfl

theorem still_putChain (ch : Nat) (c : Chain) (s : State) : Still s (putChain ch c s) := (still_setReel _ s).trans (still_syncReel ch _)

theorem still_reelFree (ch : Nat) (s : State) : Still s (reelFree ch s) := by
  have h1 : Still s (orphan (reelOwner ch) (reelUnwait ch s)) := (still_reelUnwait ch s).trans (still_orphan _ _)
  have h2 : ∀ r, Still s (syncReel ch { orphan (reelOwner ch) (reelUnwait ch s) with reel := r }) := fun r =>
    (h1.trans (still_setReel r _)).trans (still_syncReel ch _)
  unfold reelFree
  extract_lets s1 s2 r s3 s4
  have h4 : Still s s4 := h2 _
  split
  · exact h4
  · split
    · exact h4.trans (still_setReel _ _)
    · exact (h4.trans (still_setReel _ _)).trans (still_putChain _ _ _)

theorem still_reelDrop (c : Nat) (s : State) : Still s (reelDrop c s) :=
  (still_setReel _ s).trans (.foldl _ _ fun e _ s => still_reelFree e.1 s)

/-! ### Work that is discarded -/

/-- The weft ops of context n are no longer there. -/
def withoutWeft (n : Nat) (s : State) : State := { s with weft := { s.weft with
  queue := s.weft.queue.filter (fun e => e.2.ctx ≠ n)
  running := s.weft.running.filter (fun e => e.2.ctx ≠ n)
  saved := s.weft.saved.filter (fun e => e.2.ctx ≠ n) } }

theorem sheds_withoutWeft (s : State) : Sheds n s (withoutWeft n s) := ⟨rfl, id, id, id, id, id, fun h e he => h e (List.mem_filter.mp he).1⟩

theorem noWeft_withoutWeft (s : State) : NoWeft n (withoutWeft n s) := fun _ he => of_decide_eq_true (List.mem_filter.mp he).2

/-- Traces, passes and plies of the context, in this order. -/
def withoutWork (n : Nat) (s : State) : State :=
  dropPlies (fun y => y.owner.ctx = n) (dropPasses (fun p => p.ctx = n) 2 (dropTraces (fun t => t.ctx = n) 2 s))

theorem discardWork_eq (n : Nat) (s : State) : ∃ l : List Nat, discardWork n s = orphan (fun o => o.take 2 = [3, n])
    (reelDrop n (l.foldl (fun s sp => syncWeft sp s) (withoutWeft n (withoutWork n s)))) := by
  rw [discardWork, withoutWork]
  generalize dropPlies _ _ = x
  exact ⟨_, rfl⟩

/-- Nothing of the context is left. -/
theorem discardWork_shed (s : State) : Sheds n s (discardWork n s) ∧ NoPly n (discardWork n s) ∧ NoTrace n (discardWork n s)
    ∧ NoPass n (discardWork n s) ∧ NoWeft n (discardWork n s) := by
  obtain ⟨l, hl⟩ := discardWork_eq n s
  have htraces := (dropTraces_shed (n := n) (fun t => t.ctx = n) 2 s).1
  have hnotrace := noTrace_dropTraces (n := n) 2 s
  generalize hx : dropTraces (fun t => t.ctx = n) 2 s = x at htraces hnotrace
  have hpasses := (dropPasses_shed (n := n) (fun p => p.ctx = n) (status := 2) (by decide) x).1
  have hnopass := noPass_dropPasses (n := n) (status := 2) (by decide) x
  generalize hy : dropPasses (fun p => p.ctx = n) 2 x = y at hpasses hnopass
  have hplies := sheds_dropPlies (n := n) (fun p => p.owner.ctx = n) y
  have hnoply := noPly_dropPlies (n := n) y
  have hz : withoutWork n s = dropPlies (fun p => p.owner.ctx = n) y := by rw [withoutWork, hx, hy]
  rw [← hz] at hplies hnoply
  generalize withoutWork n s = z at *
  have hweft := sheds_withoutWeft (n := n) z
  have hrest : Sheds n (withoutWeft n z) (discardWork n s) := by
    rw [hl]
    have hsync : Still (withoutWeft n z) (l.foldl (fun s sp => syncWeft sp s) (withoutWeft n z)) := Still.of_regs (.foldl _ _ fun sp _ s => keeps_syncWeft sp s)
    exact .of_still (hsync.trans ((still_reelDrop n _).trans (still_orphan _ _)))
  exact ⟨htraces.trans (hpasses.trans (hplies.trans (hweft.trans hrest))), hrest.plies (hweft.plies hnoply),
    hrest.traces (hweft.traces (hplies.traces (hpasses.traces hnotrace))), hrest.passes (hweft.passes (hplies.passes hnopass)),
    hrest.weft (noWeft_withoutWeft z)⟩

/-! ### The state of a stopped context -/

/-- Context n is OFF, not enabled, and nothing of it is left. -/
structure StoppedCtx (n : Nat) (s : State) : Prop where
  state : s.fld (fQState n) = 0
  flight : s.fld (fQFlight n) = 0
  held : s.flag (fQHeld n) = false
  ring : s.fld (fRead n) = s.fld (fWrite n)
  queue : ctxQ s n = CtxQ.empty
  enable : s.flag (fCtxEn n) = false
  plies : NoPly n s
  traces : NoTrace n s
  passes : NoPass n s
  weft : NoWeft n s

/-- The registers that show it. -/
def stopRegsOf (n : Nat) : List Nat := [0x4C, qreg n 0xC, qreg n 0x10, qreg n 0x20]

theorem StoppedCtx.of_eq (h : StoppedCtx n s) (hr : ∀ r ∈ stopRegsOf n, t.reg r = s.reg r) (hq : t.q.ctxs = s.q.ctxs) (hf : t.fly = s.fly)
    (ht : t.ray = s.ray) (hp : t.ras = s.ras) (hw : t.weft = s.weft) : StoppedCtx n t := by
  obtain ⟨h1, h2, h3, h4, h5, h6, h7, h8, h9, h10⟩ := h
  have hfld : ∀ f : Fld, f.reg ∈ stopRegsOf n → t.fld f = s.fld f := fun f hm => by rw [State.fld, State.fld, hr _ hm]
  have hqstat : C (0x20020 + n * 0x40) ∈ stopRegsOf n := by rw [reg_fQ]; simp [stopRegsOf]
  have hread : (fRead n).reg ∈ stopRegsOf n := List.mem_cons_of_mem _ List.mem_cons_self
  have hwrite : (fWrite n).reg ∈ stopRegsOf n := List.mem_cons_of_mem _ (List.mem_cons_of_mem _ List.mem_cons_self)
  refine ⟨(hfld _ hqstat).trans h1, (hfld _ hqstat).trans h2, (State.flag_of_fld_eq (hfld _ hqstat)).trans h3, ?_, ?_,
    (State.flag_of_fld_eq (hfld _ List.mem_cons_self)).trans h6, ?_, ?_, ?_, ?_⟩
  · rw [hfld _ hread, hfld _ hwrite, h4]
  · rw [ctxQ, hq]; exact h5
  · rw [NoPly, hf]; exact h7
  · rw [NoTrace, ht]; exact h8
  · rw [NoPass, hp]; exact h9
  · rw [NoWeft, hw]; exact h10

/-- An operation that writes none of these registers and no part of the state. -/
theorem StoppedCtx.of_view (h : StoppedCtx n s) (hv : offRegs t = offRegs s) (hr : ∀ r ∈ stopRegsOf n, t.reg r = s.reg r) : StoppedCtx n t :=
  h.of_eq hr (congrArg (fun x : State => x.q.ctxs) hv :) (congrArg State.fly hv :) (congrArg State.ray hv :) (congrArg State.ras hv :)
    (congrArg State.weft hv :)

theorem stopRegsOf_ne (hn : n < 16) {r : Nat} (hr : r ∈ stopRegsOf n) : r ≠ 0x50 ∧ r ≠ 0x18 ∧ r < C 0x20400 ∧ ∀ c, r ≠ C (0x20028 + c * 0x40) := by
  simp only [stopRegsOf, List.mem_cons, List.not_mem_nil, or_false] at hr
  have h : r ≠ 0x50 ∧ r ≠ 0x18 ∧ r < C 0x20400 ∧ (r = 0x4C ∨ C 0x20000 ≤ r ∧ (r - C 0x20000) % 64 ≠ 0x28) := by
    rcases hr with rfl | rfl | rfl | rfl
    · exact ⟨by decide, by decide, by decide, .inl rfl⟩
    · simp only [qreg, C_eq]; omega
    · simp only [qreg, C_eq]; omega
    · simp only [qreg, C_eq]; omega
  obtain ⟨h50, h18, hlt, hc⟩ := h
  refine ⟨h50, h18, hlt, fun c e => ?_⟩
  rcases hc with rfl | ⟨-, hm⟩
  · simp only [C_eq] at e; omega
  · simp only [e, C_eq] at hm; omega

theorem StoppedCtx.syncCtx (hn : n < 16) (h : StoppedCtx n s) (c : Nat) : StoppedCtx n (Machine.syncCtx c s) :=
  h.of_view (offRegs_syncCtx c s) fun _ hr => reg_syncCtx (stopRegsOf_ne hn hr).1 c s

theorem StoppedCtx.syncResident (hn : n < 16) (h : StoppedCtx n s) (c : Nat) : StoppedCtx n (Machine.syncResident c s) :=
  h.of_view rfl fun _ hr => State.reg_setFld_of_ne (f := ⟨C (0x20028 + c * 0x40), 15, 0⟩) (Ne.symm ((stopRegsOf_ne hn hr).2.2.2 c))

/-- Views of other blocks. -/
theorem StoppedCtx.of_keeps {W : Fld → Prop} (hn : n < 16) (h : StoppedCtx n s) (hk : Keeps W offRegs s t) (hw : ∀ g, W g → C 0x20400 ≤ g.reg) : StoppedCtx n t :=
  h.of_view hk.view fun r hr => hk.reg r fun g hg e => by
    have := hw g hg
    have := (stopRegsOf_ne hn hr).2.2.1
    omega

/-- Fields of DBG_STAT and DBG_HALTED. -/
def dbgFld (f : Fld) : Prop := C 0xD0000 ≤ f.reg

theorem keeps_syncDbg_dbg (s : State) : Keeps dbgFld offRegs s (syncDbg s) := by
  have hhalted : Keeps dbgFld offRegs s (syncHalted s) :=
    .foldl _ s fun w _ _ => keeps_setReg _ (by change C 0xD0000 ≤ C (0xD0020 + 4 * w); simp only [C_eq]; omega) rfl
  have hsel : ∀ x, Keeps dbgFld offRegs x (syncSel x) := fun x => by
    have hfld : ∀ l : List (Fld × Nat), (∀ e ∈ l, e.1.reg = C 0xD0008) → Keeps dbgFld offRegs x (x.setFlds l) := fun l h =>
      keeps_setFlds l x (fun e he => by rw [dbgFld, h e he]; decide) fun _ _ _ => rfl
    unfold syncSel
    extract_lets sel k
    split
    · exact hfld _ (by simp)
    · exact hfld _ (by simp)
  exact hhalted.trans (hsel _)

theorem StoppedCtx.syncDbg (hn : n < 16) (h : StoppedCtx n s) : StoppedCtx n (Machine.syncDbg s) :=
  h.of_keeps hn (keeps_syncDbg_dbg s) fun g hg => by
    change C 0xD0000 ≤ g.reg at hg
    simp only [C_eq] at hg ⊢
    omega

/-! ### The next preemption -/

theorem StoppedCtx.putChain (hn : n < 16) (h : StoppedCtx n s) (ch : Nat) (c : Chain) : StoppedCtx n (Machine.putChain ch c s) := by
  have hreel : StoppedCtx n { s with reel := { s.reel with chains := Sparse.insert s.reel.chains ch c } } := h.of_eq (fun _ _ => rfl) rfl rfl rfl rfl rfl
  exact hreel.of_keeps hn (keeps_syncReel ch _) fun g hg => by
    change C 0xA0000 ≤ g.reg at hg
    simp only [C_eq] at hg ⊢
    omega

theorem StoppedCtx.foldl {α : Type} {f : State → α → State} (l : List α) (h : StoppedCtx n s) (hf : ∀ a x, StoppedCtx n x → StoppedCtx n (f x a)) :
    StoppedCtx n (l.foldl f s) := by
  induction l generalizing s with
  | nil => exact h
  | cons a l ih => exact ih (hf a s h)

theorem StoppedCtx.reelPreempt (hn : n < 16) (h : StoppedCtx n s) (c : Nat) : StoppedCtx n (Machine.reelPreempt c s) := by
  refine h.foldl _ fun e x hx => ?_
  split
  · exact hx.putChain hn _ _
  · exact hx

/-- Another context than the stopped one may be preempted next. -/
theorem StoppedCtx.preemptNext (hn : n < 16) (h : StoppedCtx n s) : StoppedCtx n (Machine.preemptNext s) := by
  unfold Machine.preemptNext
  split
  · exact h
  · split
    · exact h.of_eq (fun _ _ => rfl) rfl rfl rfl rfl rfl
    · next c hc =>
      have hruns : ctxRuns s c = true := List.find?_some hc
      have hne : c ≠ n := by
        rintro rfl
        rw [ctxRuns, h.state] at hruns
        exact absurd hruns (by decide)
      have hreg : (fQState c).reg ∉ stopRegsOf n := by
        simp only [stopRegsOf, fQState, qreg, C_eq, List.mem_cons, List.not_mem_nil, or_false]
        omega
      unfold preemptBegin
      extract_lets q1 q s1
      have h1 : StoppedCtx n s1 := h.of_eq (fun _ _ => rfl) rfl rfl rfl rfl rfl
      have h2 : StoppedCtx n (s1.setFld (fQState c) 3) := h1.of_view rfl fun r hr => State.reg_setFld_of_ne fun e => hreg (e ▸ hr)
      exact (h2.reelPreempt hn c).syncCtx hn c

/-! ### CONTEXT_STOP_DONE -/

/-- The packets of a context that has none are dropped at once. -/
def ringDropped (n : Nat) (s : State) : State :=
  setCtxQ n CtxQ.empty ((if (ctxQ s n).hold then s.setFld fPreBusy 0 else s).setFld (fRead n)
    ((if (ctxQ s n).hold then s.setFld fPreBusy 0 else s).fld (fWrite n)))

theorem stopPackets_of_nil (hf : (ctxQ s n).flight = []) (hs : (ctxQ s n).saved = none) : stopPackets n s = ringDropped n s := by
  unfold stopPackets
  extract_lets q packets s1 s2
  have hnone : packets = [] := by
    change (ctxQ s n).flight ++ ((ctxQ s n).saved.map (fun w => w.packets)).getD [] = []
    rw [hf, hs]
    rfl
  have hs1 : s1 = s := by rw [show s1 = packets.foldl (fun s p => forgetSource n p.index (stopPacket n p s)) s from rfl, hnone, List.foldl_nil]
  have hs2 : s2 = if (ctxQ s n).hold then s.setFld fPreBusy 0 else s := by
    change (if (ctxQ s n).hold then s1.setFld fPreBusy 0 else s1) = _
    rw [hs1]
  rw [ringDropped, ← hs2]

/-- STATE, HELD and IN_FLIGHT of a context that is OFF. -/
def offShown (n : Nat) (s : State) : State := ((s.setFld (fQState n) 0).setFld (fQHeld n) 0).setFld (fQFlight n) 0

theorem flds_offShown (n : Nat) (s : State) : (offShown n s).fld (fQState n) = 0 ∧ (offShown n s).fld (fQFlight n) = 0 ∧ (offShown n s).flag (fQHeld n) = false := by
  have a1 : (fQState n).Apart (fQFlight n) := .inr (.inl (show 2 < 12 by decide))
  have a2 : (fQState n).Apart (fQHeld n) := .inr (.inl (show 2 < 6 by decide))
  have a3 : (fQHeld n).Apart (fQFlight n) := .inr (.inl (show 6 < 12 by decide))
  refine ⟨?_, ?_, ?_⟩
  · rw [offShown, State.fld_setFld_of_apart (show 2 < 32 by decide) a1, State.fld_setFld_of_apart (show 2 < 32 by decide) a2,
      State.fld_setFld _ _ _ (show 2 < 32 by decide), Nat.zero_mod]
  · rw [offShown, State.fld_setFld _ _ _ (show 15 < 32 by decide), Nat.zero_mod]
  · rw [offShown, State.flag_setFld_of_apart (show 6 < 32 by decide) a3]
    exact State.flag_setFlag _ _ 6 false (by decide)

theorem offRegs_offShown (n : Nat) (s : State) : offRegs (offShown n s) = offRegs s := by
  rw [offShown, offRegs_eq_setFld, offRegs_eq_setFld, offRegs_eq_setFld]

/-- The parts of a stopped context that are not registers. -/
theorem parts_of_offRegs (h : offRegs t = offRegs s) : t.q = s.q ∧ t.fly = s.fly ∧ t.ray = s.ray ∧ t.ras = s.ras ∧ t.weft = s.weft :=
  ⟨(congrArg State.q h :), (congrArg State.fly h :), (congrArg State.ray h :), (congrArg State.ras h :), (congrArg State.weft h :)⟩

theorem parts_setCtxQ (n : Nat) (q : CtxQ) (s : State) : (setCtxQ n q s).fly = s.fly ∧ (setCtxQ n q s).ray = s.ray ∧ (setCtxQ n q s).ras = s.ras
    ∧ (setCtxQ n q s).weft = s.weft := ⟨rfl, rfl, rfl, rfl⟩

theorem reg_offShown {r : Nat} (h : r ≠ qreg n 0x20) (s : State) : (offShown n s).reg r = s.reg r := by
  rw [← reg_fQ] at h
  rw [offShown, State.reg_setFld_of_ne (f := fQFlight n) (Ne.symm h), State.reg_setFld_of_ne (f := fQHeld n) (Ne.symm h),
    State.reg_setFld_of_ne (f := fQState n) (Ne.symm h)]

/-- RING_READ has moved to RING_WRITE, and PREEMPT_CTRL.BUSY may have cleared. -/
theorem ringDropped_spec (s : State) : (ringDropped n s).fld (fRead n) = (ringDropped n s).fld (fWrite n) ∧ ctxQ (ringDropped n s) n = CtxQ.empty
    ∧ (ringDropped n s).reg 0x4C = s.reg 0x4C ∧ (ringDropped n s).fly = s.fly ∧ (ringDropped n s).ray = s.ray ∧ (ringDropped n s).ras = s.ras
    ∧ (ringDropped n s).weft = s.weft := by
  obtain ⟨x, hx, hen, hview⟩ : ∃ x, (if (ctxQ s n).hold then s.setFld fPreBusy 0 else s) = x ∧ x.reg 0x4C = s.reg 0x4C ∧ offRegs x = offRegs s := by
    refine ⟨_, rfl, ?_, ?_⟩
    · split
      · exact State.reg_setFld_of_ne (f := fPreBusy) (by decide)
      · rfl
    · split
      · rfl
      · rfl
  obtain ⟨y, hy⟩ : ∃ y, x.setFld (fRead n) (x.fld (fWrite n)) = y := ⟨_, rfl⟩
  have heq : ringDropped n s = setCtxQ n CtxQ.empty y := by rw [ringDropped, hx, hy]
  obtain ⟨-, hfly, hray, hras, hweft⟩ := parts_of_offRegs (t := y) (s := s) (by rw [← hy, offRegs_eq_setFld, hview])
  obtain ⟨kfly, kray, kras, kweft⟩ := parts_setCtxQ n CtxQ.empty y
  have hregs : (setCtxQ n CtxQ.empty y).regs = (x.setFld (fRead n) (x.fld (fWrite n))).regs := by rw [regs_setCtxQ, hy]
  have hw : (x.setFld (fRead n) (x.fld (fWrite n))).fld (fWrite n) = x.fld (fWrite n) :=
    State.fld_setFld_of_apart (show 19 < 32 by decide) (.inl (by simp only [fRead, fWrite, rqR, C_eq]; omega))
  have hlt : x.fld (fWrite n) < 2 ^ 20 := bitsOf_lt _ _ _
  rw [heq]
  refine ⟨?_, (ctxQ_setCtxQ n _ y n).trans (if_pos rfl), ?_, kfly.trans hfly, kray.trans hray, kras.trans hras, kweft.trans hweft⟩
  · rw [State.fld_of_regs_eq hregs, State.fld_of_regs_eq hregs, hw, State.fld_setFld _ _ _ (show 19 < 32 by decide)]
    exact Nat.mod_eq_of_lt hlt
  · rw [State.reg_of_regs_eq hregs, State.reg_setFld_of_ne (f := fRead n) (qreg_ne n 0xC (by decide)), hen]

/-- The context once its work is discarded and its ring is empty. -/
theorem stoppedCtx_offShown (hen : s.flag (fCtxEn n) = false) (hp : NoPly n s) (ht : NoTrace n s) (hr : NoPass n s) (hw : NoWeft n s) :
    StoppedCtx n (offShown n (ringDropped n s)) := by
  obtain ⟨hring, hq, henable, hfly, hray, hras, hweft⟩ := ringDropped_spec (n := n) s
  have henabled : (ringDropped n s).flag (fCtxEn n) = false :=
    (State.flag_of_fld_eq (y := s) (by rw [State.fld, State.fld]; exact congrArg (bitsOf · n n) henable)).trans hen
  rw [NoPly, ← hfly] at hp
  rw [NoTrace, ← hray] at ht
  rw [NoPass, ← hras] at hr
  rw [NoWeft, ← hweft] at hw
  generalize ringDropped n s = x at *
  obtain ⟨kq, kfly, kray, kras, kweft⟩ := parts_of_offRegs (offRegs_offShown n x)
  obtain ⟨hstate, hflight, hheld⟩ := flds_offShown n x
  have hfld : ∀ f : Fld, f.reg ≠ qreg n 0x20 → (offShown n x).fld f = x.fld f := fun f h => by rw [State.fld, State.fld, reg_offShown h]
  generalize hy : offShown n x = y at *
  refine ⟨hstate, hflight, hheld, ?_, (ctxQ_of_q kq n).trans hq, ?_, ?_, ?_, ?_, ?_⟩
  · rw [hfld _ (by simp only [fRead, rqR, qreg, C_eq]; omega), hfld _ (by simp only [fWrite, rqR, qreg, C_eq]; omega), hring]
  · exact (State.flag_of_fld_eq (hfld _ (Ne.symm (qreg_ne n 0x20 (r := 0x4C) (by decide))))).trans henabled
  · rw [NoPly, kfly]; exact hp
  · rw [NoTrace, kray]; exact ht
  · rw [NoPass, kras]; exact hr
  · rw [NoWeft, kweft]; exact hw

theorem StoppedCtx.abandonSave (h : StoppedCtx n s) : StoppedCtx n (Machine.abandonSave n s) := h.of_eq (fun _ _ => rfl) rfl rfl rfl rfl rfl

theorem stopDone_eq (n : Nat) (s : State) : stopDone n s =
    let t := preemptNext (syncDbg (Machine.syncResident n (Machine.syncCtx n (Machine.abandonSave n (offShown n (stopPackets n (discardWork n s)))))))
    if t.flag (fCtxEn n) then ctxEnable.check n t else t := rfl

/-- A stop that is done leaves the context OFF, with nothing of it left. -/
theorem stoppedCtx_stopDone (hn : n < 16) (hen : s.flag (fCtxEn n) = false) (hf : (ctxQ s n).flight = []) (hs : (ctxQ s n).saved = none) :
    StoppedCtx n (stopDone n s) := by
  obtain ⟨hshed, hp, ht, hr, hw⟩ := discardWork_shed (n := n) s
  have hen' : (discardWork n s).flag (fCtxEn n) = false :=
    (State.flag_of_fld_eq (y := s) (by rw [State.fld, State.fld]; exact congrArg (bitsOf · n n) hshed.enable)).trans hen
  have hoff := stoppedCtx_offShown hen' hp ht hr hw
  rw [← stopPackets_of_nil (hshed.flight hf) (hshed.saved hs)] at hoff
  have hlast := (((hoff.abandonSave.syncCtx hn n).syncResident hn n).syncDbg hn).preemptNext hn
  rw [stopDone_eq]
  extract_lets t
  change StoppedCtx n t at hlast
  rw [hlast.enable, if_neg (by decide)]
  exact hlast

theorem exec_contextStopDone {c : Fin 16} (hr : running s = true) : exec (.contextStopDone c) s =
    done (onlyIf (s.fld (fQState c) = 7 && atPoints s c) (stopDone c) s) := by
  change execContextStopDone c s = _
  rw [execContextStopDone, hr, Bool.true_and]

theorem idle_contextStopDone {c : Fin 16} (hr : running s = true) (h : s.fld (fQState c.val) ≠ 7) : Idle (.contextStopDone c) s :=
  idle_of_done ((exec_contextStopDone hr).trans (by rw [onlyIf, decide_eq_false h, Bool.false_and, if_neg (by decide)]))

theorem ends_contextStopDone {c : Fin 16} (hr : running s = true) (hst : s.fld (fQState c.val) = 7) (hen : s.flag (fCtxEn c.val) = false)
    (hmem : ∀ e ∈ s.fly.plies, e.2.owner.ctx = c.val → e.2.mem = []) (hchain : ∀ e ∈ s.reel.chains, e.2.ctx = c.val → e.2.flight = [])
    (hf : (ctxQ s c.val).flight = []) (hs : (ctxQ s c.val).saved = none) : Ends (.contextStopDone c) s fun u =>
      u.fld (fQState c.val) = 0 ∧ u.fld (fQFlight c.val) = 0 ∧ u.flag (fQHeld c.val) = false ∧ u.fld (fRead c.val) = u.fld (fWrite c.val)
        ∧ ctxQ u c.val = CtxQ.empty ∧ (∀ e ∈ u.fly.plies, e.2.owner.ctx ≠ c.val) ∧ (∀ t ∈ u.ray.traces, t.ctx ≠ c.val)
        ∧ (∀ p ∈ u.ras.passes, p.ctx ≠ c.val) ∧ (∀ e ∈ u.weft.queue, e.2.ctx ≠ c.val) := by
  have hn := c.isLt
  have hpoints : atPoints s c.val = true := by
    rw [atPoints, Bool.and_eq_true, reelStill, List.all_eq_true, List.all_eq_true]
    refine ⟨fun e he => ?_, fun e he => ?_⟩
    · by_cases h : e.2.owner.ctx = c.val
      · rw [hmem e he h, List.all_nil, Bool.or_true]
      · rw [decide_eq_true h, Bool.true_or]
    · by_cases h : e.2.ctx = c.val
      · rw [hchain e he h, List.isEmpty_nil, Bool.or_true]
      · rw [decide_eq_true h, Bool.true_or, Bool.true_or]
  have hex := exec_contextStopDone (c := c) hr
  rw [onlyIf, decide_eq_true hst, hpoints, if_pos (by decide)] at hex
  have hdone := stoppedCtx_stopDone hn hen hf hs
  generalize stopDone c.val s = x at *
  obtain ⟨h1, h2, h3, h4, h5, h6, h7, h8, h9, h10⟩ :=
    hdone.of_eq (t := refresh x) (fun r hr => reg_refresh_of_ne x (stopRegsOf_ne hn hr).2.1) rfl rfl rfl rfl rfl
  exact ends_of_done hex ⟨h1, h2, h3, h4, h5, h7, h8, h9, h10⟩

/-- Settles O19: a doorbell is one of the rings it moves, rejects or discards, an enable is the pinning check, and a stop is a discard of all the work. -/
theorem doorbellsAndContextEnables : Obligations.Doorbells_and_context_enables := by
  unfold Obligations.Doorbells_and_context_enables
  intro s c hr n
  have hi := interior_of_running hr
  have hxl : fXlate n = ⟨C (0x10008 + 0x40 * n), 2, 2⟩ := congrArg (fun r => Fld.mk (C r) 2 2) (by omega)
  refine ⟨ends_doorbell_held hr c, ?_, ?_, idle_ctxEnableSet hr, ends_ctxEnableClear hr, idle_ctxEnableClear, ends_contextStopDone hr, idle_contextStopDone hr⟩
  · intro index cmd src hready hidle hroom hcmd
    have hx := exec_doorbell hr hready hcmd
    exact ⟨fun hen hsrc => ⟨fun ht hst => ends_doorbell_taken hx ⟨hen, hsrc⟩ index.isLt hidle ht hst,
      fun ht hw => ends_doorbell_rejected hx hi ⟨hen, hsrc⟩ hroom ht hw, fun hw => idle_doorbell hx ⟨hen, hsrc⟩ hw⟩,
      ends_doorbell_disabled hx hi hroom⟩
  · intro hn hen hst hx
    rw [← hxl] at hx
    exact ⟨ends_ctxEnableSet_idle hr hn hen hst hx, ends_ctxEnableSet_off hr hn hen hst hx⟩

end Sys2Proof.Machine
end
